-- ==== Sys2Proof/Word.lean ====
section
/-! DEFINITION. The word types of the Y90 (00_scope.md R3, R11): what the manual adds, shifts, masks or shows as a
word is a bit vector; counts, indices and physical addresses of memory cells are naturals. -/

namespace Sys2Proof

/-- A 32-bit word: a register lane, a uniform register, an instruction word. -/
abbrev W := BitVec 32

/-- A 64-bit word: a program counter, a register pair, a count of a timeline. -/
abbrev D := BitVec 64

/-- One byte of memory. -/
abbrev Byte := BitVec 8

/-- A mask of 32 lanes; bit i is lane i (02 R39). -/
abbrev Mask := BitVec 32

/-- A stamp (00 R11): the GTS tick (64 bits in the manual; a natural number here, log 103) and the 16-bit source number of the
agent that took it. -/
structure Stamp where
  tick : Nat
  src  : Nat
deriving DecidableEq, Repr

/-- The stamp below every stamp an agent takes. -/
def Stamp.zero : Stamp := ⟨0, 0⟩

/-- `a` is earlier than or equal to `b`: ticks first, then source numbers (00 R11). -/
def Stamp.le (a b : Stamp) : Bool := decide (a.tick < b.tick) || (a.tick == b.tick && decide (a.src ≤ b.src))

/-- `a` is strictly earlier than `b` (00 R11). -/
def Stamp.lt (a b : Stamp) : Bool := decide (a.tick < b.tick) || (a.tick == b.tick && decide (a.src < b.src))

/-- The later of two stamps. -/
def Stamp.max (a b : Stamp) : Stamp := if a.le b then b else a

/-- The earlier of two stamps. -/
def Stamp.min (a b : Stamp) : Stamp := if a.le b then a else b

end Sys2Proof
end

