-- ==== Sys2Proof/Machine/Bits.lean ====
section
/-! DEFINITION. Helpers over words, bytes and lists: bit fields, sign extension, little-endian bytes (00 R3), association
lists in canonical form (keys strictly rising, no entry equal to the default), lane masks. -/

namespace Sys2Proof.Machine

/-- Bits [h:l] of v as a number (00 R3). -/
def bits (v h l : Nat) : Nat := (v >>> l) % 2 ^ (h - l + 1)

/-- Bit i of v. -/
def bit (v i : Nat) : Bool := v.testBit i

/-- A Boolean as a number. -/
def b2n (b : Bool) : Nat := if b then 1 else 0

/-- The two's complement value of the low n bits of v. -/
def sext (v n : Nat) : Int :=
  let u := v % 2 ^ n
  if n ≠ 0 ∧ u.testBit (n - 1) then (u : Int) - (2 ^ n : Nat) else (u : Int)

/-- Wrap(x, n) of 00 Table 0.5, as the bit pattern. -/
def wrapI (x : Int) (n : Nat) : Nat := (x % ((2 ^ n : Nat) : Int)).toNat

/-- Clamp of an exact integer to a closed range. -/
def clampI (x lo hi : Int) : Int := if x < lo then lo else if hi < x then hi else x

/-- Concat(hi, lo) of two words (00 Table 0.5). -/
def pair (hi lo : W) : D := hi ++ lo

/-- The low word of a double word. -/
def loW (d : D) : W := d.extractLsb' 0 32

/-- The high word of a double word. -/
def hiW (d : D) : W := d.extractLsb' 32 32

/-- A number as a word. -/
def w32 (n : Nat) : W := BitVec.ofNat 32 n

/-- A Boolean as a word. -/
def bw (b : Bool) : W := if b then 1 else 0

/-- A Boolean as a condition's 32-bit mask bit at lane l. -/
def bitAt (l : Nat) (b : Bool) : Mask := if b then BitVec.ofNat 32 (2 ^ l) else 0

/-- The mask whose bit l is f l. -/
def maskOf (f : Nat → Bool) : Mask :=
  (List.range 32).foldl (fun m l => m ||| bitAt l (f l)) 0

/-- The lanes of a mask in ascending order. -/
def lanesOf (m : Mask) : List Nat := (List.range 32).filter (fun l => m.getLsbD l)

/-- The number of set bits of a number below 2^n. -/
def popc (v n : Nat) : Nat := ((List.range n).filter (fun i => v.testBit i)).length

/-- The index of the lowest set bit of a number below 2^n, or n. -/
def lowBit (v n : Nat) : Nat := ((List.range n).find? (fun i => v.testBit i)).getD n

/-- The number of leading zeros of a number of n bits. -/
def clz (v n : Nat) : Nat := n - (if v % 2 ^ n = 0 then 0 else Nat.log2 (v % 2 ^ n) + 1)

/-- The number of n bits with bit i moved to bit n - 1 - i. -/
def brev (v n : Nat) : Nat := (List.range n).foldl (fun a i => if v.testBit i then a + 2 ^ (n - 1 - i) else a) 0

/-- The little-endian bytes of a number (00 R3). -/
def bytesLE : Nat → Nat → List Byte
  | 0, _ => []
  | n + 1, v => BitVec.ofNat 8 v :: bytesLE n (v / 256)

/-- The number that little-endian bytes hold (00 R3). -/
def natLE : List Byte → Nat
  | [] => 0
  | b :: bs => b.toNat + 256 * natLE bs

/-- Zero bytes. -/
def zbytes (n : Nat) : List Byte := List.replicate n 0

/-- A list cut or filled with zero bytes to n bytes. -/
def fitBytes (n : Nat) (l : List Byte) : List Byte := (l ++ zbytes (n - l.length)).take n

/-- A stamp in 16 bytes: source number, tick, as an 80-bit little-endian value, then zeros (00 R11). -/
def stampBytes (s : Stamp) : List Byte := bytesLE 2 s.src ++ bytesLE 8 s.tick ++ zbytes 6

/-- The stamp held in 16 bytes. -/
def bytesStamp (l : List Byte) : Stamp := ⟨natLE ((l.drop 2).take 8), natLE (l.take 2)⟩

/-! ### Association lists in canonical form -/

/-- What a key holds; an absent key holds d. -/
def look {α : Type} (d : α) : List (Nat × α) → Nat → α
  | [], _ => d
  | (k, v) :: r, a => if a = k then v else if a < k then d else look d r a

/-- Remove a key. -/
def drop1 {α : Type} : List (Nat × α) → Nat → List (Nat × α)
  | [], _ => []
  | (k, v) :: r, a => if a = k then r else if a < k then (k, v) :: r else (k, v) :: drop1 r a

/-- Set a key to a value that is not the default. -/
def put1 {α : Type} : List (Nat × α) → Nat → α → List (Nat × α)
  | [], a, x => [(a, x)]
  | (k, v) :: r, a, x =>
    if a = k then (k, x) :: r else if a < k then (a, x) :: (k, v) :: r else (k, v) :: put1 r a x

/-- Write a key: writing the default removes the entry, so that equal maps are equal lists. -/
def put {α : Type} [DecidableEq α] (d : α) (l : List (Nat × α)) (a : Nat) (x : α) : List (Nat × α) :=
  if x = d then drop1 l a else put1 l a x

/-- The canonical form: keys strictly rising, no entry equal to the default. -/
def canon {α : Type} [DecidableEq α] (d : α) : List (Nat × α) → Bool
  | [] => true
  | [(_, v)] => decide (v ≠ d)
  | (k, v) :: (k', v') :: r => decide (v ≠ d) && decide (k < k') && canon d ((k', v') :: r)

/-- Write consecutive keys. -/
def putAll {α : Type} [DecidableEq α] (d : α) : List (Nat × α) → Nat → List α → List (Nat × α)
  | l, _, [] => l
  | l, a, x :: xs => putAll d (put d l a x) (a + 1) xs

/-- Read consecutive keys. -/
def lookAll {α : Type} (d : α) (l : List (Nat × α)) (a n : Nat) : List α :=
  (List.range n).map (fun i => look d l (a + i))

/-- Insert or replace in a rising association list without a default. -/
def ins {α : Type} (l : List (Nat × α)) (a : Nat) (x : α) : List (Nat × α) := put1 l a x

/-- The value of a key of a rising association list. -/
def get? {α : Type} : List (Nat × α) → Nat → Option α
  | [], _ => none
  | (k, v) :: r, a => if a = k then some v else get? r a

/-- Replace the first element that satisfies p; add x at the end when none does. -/
def upsert {α : Type} (p : α → Bool) (x : α) : List α → List α
  | [] => [x]
  | y :: r => if p y then x :: r else y :: upsert p x r

/-- Change every element that satisfies p. -/
def modAll {α : Type} (p : α → Bool) (f : α → α) (l : List α) : List α :=
  l.map (fun y => if p y then f y else y)

/-- Change the element at an index. -/
def modAt {α : Type} (i : Nat) (f : α → α) (l : List α) : List α := l.take i ++ ((l.drop i).take 1).map f ++ l.drop (i + 1)

/-- The element of a list at an index, or a default. -/
def nth {α : Type} (d : α) (l : List α) (i : Nat) : α := l.getD i d

/-- The element with the least key, the first among equals. -/
def argMin {α : Type} (key : α → Nat) : List α → Option α
  | [] => none
  | x :: r =>
    match argMin key r with
    | none => some x
    | some y => if key x ≤ key y then some x else some y

/-- The least of a list of stamps. -/
def minStamp : List Stamp → Option Stamp
  | [] => none
  | x :: r =>
    match minStamp r with
    | none => some x
    | some y => some (x.min y)

/-- The greatest of a list of stamps, zero when empty. -/
def maxStamp (l : List Stamp) : Stamp := l.foldl Stamp.max Stamp.zero

/-- Ascending order with duplicates removed. -/
def sortNat (l : List Nat) : List Nat := (l.foldl (fun a n => ins a n ()) ([] : List (Nat × Unit))).map (·.1)

end Sys2Proof.Machine
end

