-- ==== Sys2Proof/Machine/Crypto.lean ====
section
/-! DEFINITION. The published standards that firmware verification names (00 Terms; 24 R370, R372): SHAKE256 and SHA3-384 (FIPS 202), and
Ed448 (RFC 8032, section 5.2). -/

namespace Sys2Proof.Machine

/-! ### Keccak (FIPS 202) -/

/-- The round constants of Keccak-f[1600]. -/
def keccakRc : List D :=
  [0x1, 0x8082, 0x800000000000808A, 0x8000000080008000, 0x808B, 0x80000001, 0x8000000080008081, 0x8000000000008009, 0x8A, 0x88,
   0x80008009, 0x8000000A] ++
  [0x8000808B, 0x800000000000008B, 0x8000000000008089, 0x8000000000008003, 0x8000000000008002, 0x8000000000000080, 0x800A,
   0x800000008000000A, 0x8000000080008081, 0x8000000000008080, 0x80000001, 0x8000000080008008]

/-- The rotation of lane (x, y), at x + 5 y. -/
def keccakRot : List Nat := [0, 1, 62, 28, 27, 36, 44, 6, 55, 20, 3, 10, 43, 25, 39, 41, 45, 15, 21, 8, 18, 2, 61, 56, 14]

/-- One round on the 25 lanes, lane (x, y) at x + 5 y. -/
def keccakRound (a : List D) (rc : D) : List D :=
  let at_ (l : List D) (x y : Nat) : D := nth 0 l (x % 5 + 5 * (y % 5))
  let c := (List.range 5).map (fun x => at_ a x 0 ^^^ at_ a x 1 ^^^ at_ a x 2 ^^^ at_ a x 3 ^^^ at_ a x 4)
  let d := (List.range 5).map (fun x => nth 0 c ((x + 4) % 5) ^^^ (nth 0 c ((x + 1) % 5)).rotateLeft 1)
  let b := (List.range 25).map (fun i =>
    let x := (i % 5 + 3 * (i / 5)) % 5
    let y := i % 5
    (at_ a x y ^^^ nth 0 d x).rotateLeft (nth 0 keccakRot (x + 5 * y)))
  (List.range 25).map (fun i =>
    let v := at_ b (i % 5) (i / 5) ^^^ (~~~ at_ b (i % 5 + 1) (i / 5) &&& at_ b (i % 5 + 2) (i / 5))
    if i = 0 then v ^^^ rc else v)

/-- The permutation. -/
def keccakF (a : List D) : List D := keccakRc.foldl keccakRound a

/-- The lanes with a block of bytes XORed into them. -/
def keccakMix (a : List D) (block : List Byte) : List D :=
  (List.range 25).map (fun i => nth 0 a i ^^^ BitVec.ofNat 64 (natLE ((block.drop (8 * i)).take 8)))

/-- A message padded to whole blocks of `rate` bytes, with the suffix of its function. -/
def keccakPad (rate suffix : Nat) (m : List Byte) : List Byte :=
  let n := rate - m.length % rate
  m ++ (if n = 1 then [BitVec.ofNat 8 (suffix + 128)] else BitVec.ofNat 8 suffix :: (zbytes (n - 2) ++ [128]))

/-- Bytes squeezed from a state, block by block. -/
def keccakOut (rate : Nat) : Nat → List D → List Byte
  | 0, _ => []
  | n + 1, a => (a.flatMap (fun v => bytesLE 8 v.toNat)).take rate ++ keccakOut rate n (keccakF a)

/-- The sponge: `n` bytes of the output for a message. -/
def keccak (rate suffix n : Nat) (m : List Byte) : List Byte :=
  let p := keccakPad rate suffix m
  let a := (List.range (p.length / rate)).foldl (fun a i => keccakF (keccakMix a ((p.drop (rate * i)).take rate))) (List.replicate 25 0)
  (keccakOut rate ((n + rate - 1) / rate) a).take n

/-- SHAKE256 with `n` bytes of output, and the 512-bit value of 64. -/
def shake256 (n : Nat) (m : List Byte) : List Byte := keccak 136 0x1F n m
def shake512 (m : List Byte) : BitVec 512 := BitVec.ofNat 512 (natLE (shake256 64 m))

/-- SHA3-384. -/
def sha384 (m : List Byte) : BitVec 384 := BitVec.ofNat 384 (natLE (keccak 104 0x06 48 m))

/-! ### Ed448 (RFC 8032) -/

/-- The field prime, the order of the base point, and -d of the curve x² + y² = 1 + d x² y². -/
def edP : Nat := 2 ^ 448 - 2 ^ 224 - 1
def edL : Nat := 2 ^ 446 - 13818066809895115352007386748515426880336692474882178609894547503885
def edD : Nat := edP - 39081

/-- A point in projective coordinates. -/
structure EdPt where
  x : Nat
  y : Nat
  z : Nat
deriving DecidableEq, Repr

/-- The base point and the neutral one. -/
def edBase : EdPt :=
  ⟨224580040295924300187604334099896036246789641632564134246125461686950415467406032909029192869357953282578032075146446173674602635247710,
   298819210078481492676017930443930673437544040154080242095928241372331506189835876003536878655418784733982303233503462500531545062832660, 1⟩
def edZero : EdPt := ⟨0, 1, 1⟩

/-- The sum of two points. -/
def EdPt.add (p q : EdPt) : EdPt :=
  let m (a b : Nat) : Nat := a * b % edP
  let a := m p.z q.z
  let b := m a a
  let c := m p.x q.x
  let d := m p.y q.y
  let e := m edD (m c d)
  let f := (b + edP - e) % edP
  let g := (b + e) % edP
  ⟨m (m a f) (m (p.x + p.y) (q.x + q.y) + 2 * edP - c - d), m (m a g) (d + edP - c), m f g⟩

/-- A multiple of a point, over the bits of k below n. -/
def EdPt.mul (p : EdPt) (k : Nat) : Nat → EdPt
  | 0 => edZero
  | n + 1 =>
    let q := p.mul (k / 2) n
    if k % 2 = 1 then (q.add q).add p else q.add q

/-- Are two points the same? -/
def EdPt.same (p q : EdPt) : Bool := p.x * q.z % edP == q.x * p.z % edP && p.y * q.z % edP == q.y * p.z % edP

/-- A power in the field, over the bits of the exponent below n. -/
def edPow (x e : Nat) : Nat → Nat
  | 0 => 1
  | n + 1 =>
    let y := edPow x (e / 2) n
    if e % 2 = 1 then y * y % edP * x % edP else y * y % edP

/-- The point that 57 bytes encode, if they encode one. -/
def EdPt.decode (b : List Byte) : Option EdPt :=
  let v := natLE b
  let y := v % 2 ^ 455
  let sign := v / 2 ^ 455
  let u := (y * y + edP - 1) % edP
  let w := (edD * (y * y % edP) + edP - 1) % edP
  let x := u * u % edP * u % edP * w % edP * edPow (u * u % edP * u % edP * (u * u % edP) % edP * (w * w % edP * w % edP) % edP) ((edP - 3) / 4) 448 % edP
  if b.length ≠ 57 ∨ edP ≤ y ∨ w * (x * x % edP) % edP ≠ u ∨ (x = 0 ∧ sign = 1) then none
  else some ⟨if x % 2 = sign then x else edP - x, y, 1⟩

/-- The 57 bytes that encode a point. -/
def EdPt.encode (p : EdPt) : List Byte :=
  let i := edPow p.z (edP - 2) 448
  bytesLE 57 (p.y * i % edP + 2 ^ 455 * (p.x * i % edP % 2))

/-- The hash inside Ed448: SHAKE256 with 114 bytes, with the prefix of an empty context. -/
def edHash (m : List Byte) : List Byte :=
  shake256 114 ([0x53, 0x69, 0x67, 0x45, 0x64, 0x34, 0x34, 0x38, 0, 0] ++ m)

/-- Ed448 verification of a signature (third) by a public key (first) over bytes (second). -/
def ed448Verify (key body sig : List Byte) : Bool :=
  let s := natLE (sig.drop 57)
  match EdPt.decode key, EdPt.decode (sig.take 57) with
  | some a, some r =>
    sig.length == 114 && decide (s < edL) &&
      (let k := natLE (edHash (sig.take 57 ++ key ++ body)) % edL
       ((edBase.mul s 448).mul 4 3).same ((r.add (a.mul k 448)).mul 4 3))
  | _, _ => false

/-- The secret scalar and the prefix of a key of 57 bytes. -/
def edSecret (seed : List Byte) : Nat × List Byte :=
  let h := shake256 114 seed
  (natLE (h.take 56) / 4 * 4 % 2 ^ 447 + 2 ^ 447, h.drop 57)

/-- The public key of a secret key. -/
def ed448Public (seed : List Byte) : List Byte := (edBase.mul (edSecret seed).1 448).encode

/-- The signature of bytes under a secret key. -/
def ed448Sign (seed body : List Byte) : List Byte :=
  let k := edSecret seed
  let r := natLE (edHash (k.2 ++ body)) % edL
  let rp := (edBase.mul r 448).encode
  rp ++ bytesLE 57 ((r + natLE (edHash (rp ++ ed448Public seed ++ body)) % edL * k.1) % edL)

end Sys2Proof.Machine
end

