-- ==== Sys2Proof/Config.lean ====
section
/-! DEFINITION. The free values: what the manual leaves open and the machine goes on with. Every constant here is
opaque: no proof can see what it is, so a claim holds whatever it is. -/

namespace Sys2Proof.Config

/-- 05 R114: a special function returns one of the two FP32 values that enclose the exact value (error bound 1 ulp);
which one is a fixed mapping of the function and the operand that the manual does not give (log 12). -/
opaque sfuUp (fn : Nat) (x : W) : Bool

/-- 01 R30: a tie in a format of precision 1, where both neighbours have an odd significand (log 13). -/
opaque tieUp (fcode : Nat) (exponent : Nat) : Bool

/-- 23 R361: the sequence of the sampler's 32-bit register, whose polynomial the manual does not give (log 10). -/
opaque lfsr (x : W) : W

/-- A fresh free word for each value of the model's own counter (log 5). -/
opaque freeWord (n : Nat) : W

/-- 24 R370: the fused digest of the root public key (log 11). -/
opaque rootDigest : BitVec 512

/-- 24 R372: the fused unique secret, and the boot ROM that is measured (log 11). -/
opaque deviceSecret : List Byte

opaque bootRom : List Byte

/-- 24 R372: the secret of the alias key that the identity secret and the digest of the manifest yield, and the certificate's content for an
alias key; the manual gives neither form (log 11). -/
opaque aliasSeed (identity : List Byte) (manifest : BitVec 512) : List Byte

opaque aliasBody (key : List Byte) : List Byte

/-- 22 R358: does a member pass requests on to another member (log 51)? -/
opaque relays (peer dst : Nat) : Bool

/-- 20 R327, R341: the key of a pair of members in a key generation, from the bridge member's generator (log 11). -/
opaque pairKey (a b gen : Nat) : BitVec 256

/-- 18, 19 R309, 11 R223: which contexts hold supervisor mode, and which belong to the trust domain; the manual gives system
software no register that sets either (log 9). -/
opaque supTag (tag : Nat) : Bool

opaque domTag (tag : Nat) : Bool

/-- 24 R371: VSCAP for a version store of so many GiB on each die, which the manual does not give (log 27). -/
opaque vsCap (gib : Nat) : W

/-- 22 Table 22.4: the channel of a stack that holds a row, which the manual does not give (log 31). -/
opaque rowChannel (row : Nat) : Nat

/-- 12 R255: the set of a slice's snoop filter (512 sets of 16 ways) that holds a line, which the manual does not give (log 94). -/
opaque filterSet (line : Nat) : Nat

/-- 22 Table 22.2: how the record of a failed command holds both its cause and its number (09 R184) in `detail` (log 17). -/
opaque failDetail (cause number : Nat) : BitVec 64

end Sys2Proof.Config
end

