-- ==== Sys2Proof/Machine/Numbers.lean ====
section
/-! DEFINITION. The number formats of 01_number_formats.md: exact values, rounding, the IEEE formats, the binary8 family,
the MX elements, the integer formats, block scales and the conversions between them. Values are exact dyadics; a result
carries its flag conditions as a number with the bits of 02 Table 2.6. -/

namespace Sys2Proof.Machine

/-- The flag bits of 02 Table 2.6. -/
def fNV : Nat := 1
def fDZ : Nat := 2
def fOF : Nat := 4
def fUF : Nat := 8
def fNX : Nat := 16
def fNVX : Nat := 32

/-- A value that a format can hold: a NaN (signalling or not), an infinity, or (-1)^neg × m × 2^e exactly. -/
inductive FV where
  | nan (sig : Bool)
  | inf (neg : Bool)
  | fin (neg : Bool) (m : Nat) (e : Int)
deriving DecidableEq, Repr

/-- Rounding modes (01 Table 1.8), the codes of 03 Table 3.6 below 0b100. -/
inductive Rnd where
  | rne | rz | ru | rd
deriving DecidableEq, Repr

/-- The rounding mode of a two-bit code. -/
def Rnd.ofCode (c : Nat) : Rnd :=
  match c % 4 with
  | 0 => .rne
  | 1 => .rz
  | 2 => .ru
  | _ => .rd

/-- The number of bits of n. -/
def blen (n : Nat) : Nat := if n = 0 then 0 else Nat.log2 n + 1

/-- Does rounding the magnitude hi + rem / 2^sh away from zero apply? `one` says that the precision is 1; `tie` settles a
tie whose two neighbours are both odd (log 13). -/
def roundsUp (mode : Rnd) (neg : Bool) (hi rem sh : Nat) (one tie : Bool) : Bool :=
  match mode with
  | .rne =>
    let half := 2 ^ (sh - 1)
    if rem < half then false else if half < rem then true
    else if one && hi % 2 == 1 then tie else hi % 2 == 1
  | .rz => false
  | .ru => !neg && rem != 0
  | .rd => neg && rem != 0

/-- The magnitude m × 2^e rounded to precision p, no quantum below 2^(emin - p + 1) when `lim`, no bound above: the
multiple, the quantum's exponent, and whether it differs. -/
def roundMag (mode : Rnd) (neg : Bool) (m : Nat) (e : Int) (p : Nat) (emin : Int) (lim tie : Bool) : Nat × Int × Bool :=
  let lead := e + (blen m : Int) - 1
  let q0 := lead - ((p : Int) - 1)
  let qm := emin - ((p : Int) - 1)
  let q := if lim && decide (q0 < qm) then qm else q0
  if m = 0 then (0, q, false)
  else if q ≤ e then (m * 2 ^ (e - q).toNat, q, false)
  else
    let sh := (q - e).toNat
    let hi := m / 2 ^ sh
    let rem := m % 2 ^ sh
    (if roundsUp mode neg hi rem sh (p == 1) tie then hi + 1 else hi, q, rem != 0)

/-- Is the magnitude tiny: below 2^emin after rounding to precision p with an unbounded exponent (01 R27)? -/
def isTiny (mode : Rnd) (neg : Bool) (m : Nat) (e : Int) (p : Nat) (emin : Int) (tie : Bool) : Bool :=
  let r := roundMag mode neg m e p emin false tie
  decide (r.1 ≠ 0) && decide (r.2.1 + (blen r.1 : Int) - 1 < emin)

/-- m × 2^e compared with m' × 2^e'. -/
def magLt (m : Nat) (e : Int) (m' : Nat) (e' : Int) : Bool :=
  let lo := min e e'
  decide (m * 2 ^ (e - lo).toNat < m' * 2 ^ (e' - lo).toNat)

/-- An IEEE 754 format (01 Table 1.1): exponent bits and trailing bits. -/
structure IFmt where
  eb : Nat
  tb : Nat
deriving DecidableEq, Repr

def fp32 : IFmt := ⟨8, 23⟩
def fp16 : IFmt := ⟨5, 10⟩
def bf16 : IFmt := ⟨8, 7⟩

/-- The exponent bias, which is also the greatest exponent. -/
def IFmt.bias (f : IFmt) : Nat := 2 ^ (f.eb - 1) - 1

/-- The number of bits. -/
def IFmt.width (f : IFmt) : Nat := f.eb + f.tb + 1

/-- The exponent of the smallest normal value. -/
def IFmt.emin (f : IFmt) : Int := 1 - (f.bias : Int)

/-- The +inf pattern. -/
def IFmt.infPat (f : IFmt) : Nat := (2 ^ f.eb - 1) * 2 ^ f.tb

/-- The canonical NaN (01 R15). -/
def IFmt.nanPat (f : IFmt) : Nat := f.infPat + 2 ^ (f.tb - 1)

/-- The pattern of the largest finite value. -/
def IFmt.maxPat (f : IFmt) : Nat := f.infPat - 1

/-- The sign bit. -/
def IFmt.signPat (f : IFmt) (neg : Bool) : Nat := if neg then 2 ^ (f.eb + f.tb) else 0

/-- What a pattern means (01 R14, R15). -/
def IFmt.decode (f : IFmt) (v : Nat) : FV :=
  let s := bit v (f.eb + f.tb)
  let e := bits v (f.eb + f.tb - 1) f.tb
  let t := v % 2 ^ f.tb
  if e = 2 ^ f.eb - 1 then
    if t = 0 then .inf s else .nan (!bit v (f.tb - 1))
  else if e = 0 then .fin s t (f.emin - f.tb)
  else .fin s (2 ^ f.tb + t) ((e : Int) - f.bias - f.tb)

/-- A finite value as a pattern of the format (it must be representable). -/
def IFmt.encodeFin (f : IFmt) (neg : Bool) (m : Nat) (q : Int) : Nat :=
  if m = 0 then f.signPat neg
  else
    let lead := q + (blen m : Int) - 1
    let quant := (if lead < f.emin then f.emin else lead) - f.tb
    let mm := if quant ≤ q then m * 2 ^ (q - quant).toNat else m / 2 ^ (quant - q).toNat
    f.signPat neg + (if lead < f.emin then mm else ((lead + f.bias).toNat) * 2 ^ f.tb + (mm - 2 ^ f.tb))

/-- Rounding of an exact value to an IEEE format (01 R29): the pattern and the flags. `sat` is the saturate modifier. -/
def IFmt.round (f : IFmt) (mode : Rnd) (sat : Bool) (x : FV) : Nat × Nat :=
  match x with
  | .nan sig => (f.nanPat, if sig then fNV else 0)
  | .inf neg => (f.signPat neg + (if sat then f.maxPat else f.infPat), 0)
  | .fin neg m e =>
    let p := f.tb + 1
    let r := roundMag mode neg m e p f.emin true false
    let inex := r.2.2
    let ovf := decide (r.1 ≠ 0) && decide ((f.bias : Int) < r.2.1 + (blen r.1 : Int) - 1)
    if ovf then
      let toInf := !sat && (match mode with
        | .rne => true
        | .rz => false
        | .ru => !neg
        | .rd => neg)
      (f.signPat neg + (if toInf then f.infPat else f.maxPat), fOF ||| fNX)
    else
      (f.encodeFin neg r.1 r.2.1,
        if inex then fNX ||| (if isTiny mode neg m e p f.emin false then fUF else 0) else 0)

/-! ### Exact operations -/

/-- Is the value a NaN? -/
def FV.isNaN : FV → Bool
  | .nan _ => true
  | _ => false

/-- Is it a signalling NaN? -/
def FV.isSig : FV → Bool
  | .nan s => s
  | _ => false

/-- The sign (of a NaN: positive). -/
def FV.neg : FV → Bool
  | .nan _ => false
  | .inf n => n
  | .fin n _ _ => n

/-- Is it a zero? -/
def FV.isZero : FV → Bool
  | .fin _ m _ => m == 0
  | _ => false

/-- nv for a signalling NaN among operands. -/
def sigFlag (xs : List FV) : Nat := if xs.any FV.isSig then fNV else 0

/-- The absolute value, then the negation (03 R59). -/
def FV.mods (ab ng : Bool) (x : FV) : FV :=
  let y : FV := match x with
    | .nan s => .nan s
    | .inf n => .inf (n && !ab)
    | .fin n m e => .fin (n && !ab) m e
  match y with
  | .nan s => .nan s
  | .inf n => .inf (n != ng)
  | .fin n m e => .fin (n != ng) m e

/-- An exact integer as a value. -/
def FV.ofInt (x : Int) : FV := .fin (decide (x < 0)) x.natAbs 0

/-- The signed mantissa at exponent lo. -/
def sgnAt (n : Bool) (m : Nat) (e lo : Int) : Int :=
  let a : Int := ((m * 2 ^ (e - lo).toNat : Nat) : Int)
  if n then -a else a

/-- x + y exactly, with the zero rule of 05 R106 and nv for inf - inf; a signalling operand is counted apart. -/
def FV.add (mode : Rnd) (x y : FV) : FV × Nat :=
  match x, y with
  | .nan _, _ => (.nan false, 0)
  | _, .nan _ => (.nan false, 0)
  | .inf a, .inf b => if a = b then (.inf a, 0) else (.nan false, fNV)
  | .inf a, _ => (.inf a, 0)
  | _, .inf b => (.inf b, 0)
  | .fin a m e, .fin b k f =>
    let lo := min e f
    let s := sgnAt a m e lo + sgnAt b k f lo
    if s = 0 then
      (.fin (if m = 0 ∧ k = 0 ∧ a = b then a else decide (mode = .rd)) 0 0, 0)
    else (.fin (decide (s < 0)) s.natAbs lo, 0)

/-- x × y exactly, with nv for 0 × inf. -/
def FV.mul (x y : FV) : FV × Nat :=
  match x, y with
  | .nan _, _ => (.nan false, 0)
  | _, .nan _ => (.nan false, 0)
  | .inf a, .inf b => (.inf (a != b), 0)
  | .inf a, .fin b m _ => if m = 0 then (.nan false, fNV) else (.inf (a != b), 0)
  | .fin a m _, .inf b => if m = 0 then (.nan false, fNV) else (.inf (a != b), 0)
  | .fin a m e, .fin b k f => (.fin (a != b) (m * k) (e + f), 0)

/-- x is less than y, for values that are not NaN; -0 equals +0. -/
def FV.lt (x y : FV) : Bool :=
  match x, y with
  | .inf a, .inf b => a && !b
  | .inf a, _ => a
  | _, .inf b => !b
  | .fin a m e, .fin b k f =>
    let lo := min e f
    decide (sgnAt a m e lo < sgnAt b k f lo)
  | _, _ => false

/-- x equals y, for values that are not NaN. -/
def FV.eqv (x y : FV) : Bool := !FV.lt x y && !FV.lt y x

/-- x ranks below y where -0 ranks below +0. -/
def FV.below (x y : FV) : Bool := FV.lt x y || (FV.eqv x y && x.neg && !y.neg)

/-- IEEE 754-2019 minimum and maximum (`num` false) or minimumNumber and maximumNumber (05 R108), on values. -/
def FV.minmax (isMax num : Bool) (x y : FV) : FV × Nat :=
  let fl := sigFlag [x, y]
  if x.isNaN && y.isNaN then (.nan false, fl)
  else if x.isNaN then (if num then y else .nan false, fl)
  else if y.isNaN then (if num then x else .nan false, fl)
  else if isMax then (if FV.below x y then y else x, 0)
  else (if FV.below y x then y else x, 0)

/-- Rounding of a finite value to an integer in a mode: the integer and whether it differs. -/
def roundInt (mode : Rnd) (neg : Bool) (m : Nat) (e : Int) : Int × Bool :=
  if 0 ≤ e then
    let a : Int := ((m * 2 ^ e.toNat : Nat) : Int)
    (if neg then -a else a, false)
  else
    let sh := (-e).toNat
    let hi := m / 2 ^ sh
    let rem := m % 2 ^ sh
    let k : Int := ((if roundsUp mode neg hi rem sh false false then hi + 1 else hi : Nat) : Int)
    (if neg then -k else k, rem != 0)

/-- The conversion to an integer of range lo to hi (01 R31): the integer and the flags. -/
def toIntR (mode : Rnd) (lo hi : Int) (x : FV) : Int × Nat :=
  match x with
  | .nan _ => (0, fNV)
  | .inf n => (if n then lo else hi, fNV)
  | .fin n m e =>
    let r := roundInt mode n m e
    if r.1 < lo then (lo, fNV)
    else if hi < r.1 then (hi, fNV)
    else (r.1, if r.2 then fNX else 0)

/-! ### IEEE arithmetic on patterns -/

/-- a × b + c rounded once (Fma32 of 00 Table 0.5 when f is FP32 and mode is RNE). -/
def IFmt.fma (f : IFmt) (mode : Rnd) (a b c : FV) : Nat × Nat :=
  let p := FV.mul a b
  let s := if p.1.isNaN then (.nan false, 0) else FV.add mode p.1 c
  let r := f.round mode false s.1
  (r.1, sigFlag [a, b, c] ||| p.2 ||| s.2 ||| r.2)

/-- a + b rounded. -/
def IFmt.addR (f : IFmt) (mode : Rnd) (a b : FV) : Nat × Nat :=
  let s := FV.add mode a b
  let r := f.round mode false s.1
  (r.1, sigFlag [a, b] ||| s.2 ||| r.2)

/-- a × b rounded. -/
def IFmt.mulR (f : IFmt) (mode : Rnd) (a b : FV) : Nat × Nat :=
  let s := FV.mul a b
  let r := f.round mode false s.1
  (r.1, sigFlag [a, b] ||| s.2 ||| r.2)

/-- Minimum or maximum as a pattern. -/
def IFmt.minmaxR (f : IFmt) (isMax num : Bool) (a b : FV) : Nat × Nat :=
  let s := FV.minmax isMax num a b
  ((f.round .rne false s.1).1, s.2)

/-- roundToIntegral without nx (05 R108). -/
def IFmt.rint (f : IFmt) (mode : Rnd) (x : FV) : Nat × Nat :=
  match x with
  | .fin n m e =>
    let r := roundInt mode n m e
    ((f.round .rne false (.fin n r.1.natAbs 0)).1, 0)
  | y => ((f.round .rne false y).1, sigFlag [y])

/-- The class word of fclass (05 R108). -/
def IFmt.classOf (f : IFmt) (x : FV) : Nat :=
  match x with
  | .nan s => if s then 1 else 2
  | .inf n => if n then 4 else 512
  | .fin n m e =>
    if m = 0 then (if n then 32 else 64)
    else if e + (blen m : Int) - 1 < f.emin then (if n then 16 else 128)
    else (if n then 8 else 256)

/-! ### Narrow formats -/

/-- A narrow float format: width, precision, bias, whether it has a sign, whether it is binary8 (01 R16, R18, R20). -/
structure NFmt where
  width : Nat
  p     : Nat
  bias  : Nat
  sgn   : Bool
  b8    : Bool
deriving DecidableEq, Repr

/-- The narrow float format of a code of 01 Table 1.7 from 0x02 to 0x12. -/
def NFmt.ofCode (c : Nat) : NFmt :=
  if c ≤ 8 then ⟨8, c - 1, 2 ^ (7 - (c - 1)), true, true⟩
  else if c ≤ 15 then ⟨8, c - 8, 2 ^ (8 - (c - 8)), false, true⟩
  else if c = 16 then ⟨6, 4, 1, true, false⟩
  else if c = 17 then ⟨6, 3, 3, true, false⟩
  else ⟨4, 2, 1, true, false⟩

/-- The exponent of the smallest normal value. -/
def NFmt.emin (t : NFmt) : Int := 1 - (t.bias : Int)

/-- The value of a code without special meaning. -/
def NFmt.plain (t : NFmt) (c : Nat) : FV :=
  let tb := t.p - 1
  let s := t.sgn && bit c (t.width - 1)
  let body := if t.sgn then c % 2 ^ (t.width - 1) else c % 2 ^ t.width
  let e := body / 2 ^ tb
  let f := body % 2 ^ tb
  if e = 0 then .fin s f (1 - (t.bias : Int) - tb)
  else .fin s (2 ^ tb + f) ((e : Int) - t.bias - tb)

/-- What a code means under the infinities bit (01 R16, R18, R20). -/
def NFmt.decode (t : NFmt) (inf : Bool) (c : Nat) : FV :=
  if !t.b8 then t.plain c
  else if c % 256 = 0 then .fin false 0 0
  else if t.sgn then
    if c % 256 = 0x80 then .nan false
    else if inf && c % 256 == 0x7F then .inf false
    else if inf && c % 256 == 0xFF then .inf true
    else t.plain c
  else
    if c % 256 = 0xFF then .nan false
    else if inf && c % 256 == 0xFE then .inf false
    else t.plain c

/-- The code of the largest finite value. -/
def NFmt.maxCode (t : NFmt) (inf : Bool) : Nat :=
  if t.b8 then (if t.sgn then (if inf then 0x7E else 0x7F) else (if inf then 0xFD else 0xFE))
  else 2 ^ (t.width - 1) - 1

/-- The code of a representable finite magnitude with a sign. -/
def NFmt.code (t : NFmt) (neg : Bool) (m : Nat) (q : Int) : Nat :=
  let tb := t.p - 1
  let sg := if neg && t.sgn then 2 ^ (t.width - 1) else 0
  if m = 0 then (if t.b8 then 0 else sg)
  else
    let lead := q + (blen m : Int) - 1
    let quant := (if lead < t.emin then t.emin else lead) - tb
    let mm := if quant ≤ q then m * 2 ^ (q - quant).toNat else m / 2 ^ (quant - q).toNat
    sg + (if lead < t.emin then mm else (lead + t.bias).toNat * 2 ^ tb + (mm - 2 ^ tb))

/-- ToFormat of 01 R30: the code and the flags. `c` is the format's code, for the free choice of a tie at precision 1. -/
def NFmt.toFormat (t : NFmt) (c : Nat) (inf sat : Bool) (mode : Rnd) (x : FV) : Nat × Nat :=
  let nanCode := if t.sgn then 0x80 else 0xFF
  let signed (n : Bool) (k : Nat) : Nat := if n then k + 2 ^ (t.width - 1) else k
  match x with
  | .nan sig =>
    if t.b8 then (nanCode, if sig then fNV else 0) else (0, fNV)
  | .inf n =>
    if n && !t.sgn then (if sat then 0x00 else 0xFF, fNV)
    else if sat then (signed n (t.maxCode inf), 0)
    else if t.b8 && inf then (if t.sgn then (if n then 0xFF else 0x7F) else 0xFE, 0)
    else if t.b8 then (nanCode, fNV)
    else (signed n (t.maxCode inf), fNV)
  | .fin n m e =>
    let tie := Config.tieUp c (e + (blen m : Int) - 1 + 1024).toNat
    let r := roundMag mode n m e t.p t.emin true tie
    let fl := if r.2.2 then fNX ||| (if isTiny mode n m e t.p t.emin tie then fUF else 0) else 0
    if !t.sgn && n && m != 0 then
      (if r.1 = 0 then (0x00, fl) else (if sat then 0x00 else 0xFF, fl ||| fNV))
    else
      match t.plain (t.maxCode inf) with
      | .fin _ mx ex =>
        if magLt mx ex r.1 r.2.1 then
          let fl := fl ||| fOF ||| fNX
          if sat || !t.b8 then (signed n (t.maxCode inf), fl)
          else if inf then (if t.sgn then (if n then 0xFF else 0x7F) else 0xFE, fl)
          else (nanCode, fl)
        else (t.code n r.1 r.2.1, fl)
      | _ => (0, fl)

/-! ### Elements by format code -/

/-- The width in bits of an element format (01 Table 1.7; 08 Table 8.3 for 0x18 to 0x1A). -/
def fcWidth (c : Nat) : Nat :=
  if c ≤ 1 then 16 else if c ≤ 15 then 8 else if c ≤ 17 then 6 else if c = 18 then 4
  else if c = 19 then 8 else if c = 20 then 4 else if c = 26 then 2 else 32

/-- Is it one of the integer formats INT8 and INT4? -/
def fcInt (c : Nat) : Bool := c == 0x13 || c == 0x14

/-- The integer that an element's code means under INT8 or INT4, and nvx for the stray INT4 code (01 R23). -/
def fcWhole (c : Nat) (v : Nat) : Int × Nat :=
  if c = 0x13 then (sext v 8, 0) else if v % 16 = 8 then (0, fNVX) else (sext v 4, 0)

/-- What an element's code means, and nvx for the stray INT4 code (01 R16 to R23). -/
def fcDecode (c : Nat) (inf : Bool) (v : Nat) : FV × Nat :=
  if c = 0 then (bf16.decode (v % 65536), 0)
  else if c = 1 then (fp16.decode (v % 65536), 0)
  else if c = 0x13 then (FV.ofInt (sext v 8), 0)
  else if c = 0x14 then (if v % 16 = 8 then (FV.ofInt 0, fNVX) else (FV.ofInt (sext v 4), 0))
  else ((NFmt.ofCode c).decode inf v, 0)

/-- The conversion of an exact value to an element format (05 Table 5.3, 01 R29 to R31): the code and the flags. -/
def fcEncode (c : Nat) (inf sat : Bool) (mode : Rnd) (x : FV) : Nat × Nat :=
  if c = 0 then bf16.round mode sat x
  else if c = 1 then fp16.round mode sat x
  else if c = 0x13 then
    let r := toIntR mode (-128) 127 x
    (wrapI r.1 8, r.2)
  else if c = 0x14 then
    let r := toIntR mode (-7) 7 x
    (wrapI r.1 4, r.2)
  else (NFmt.ofCode c).toFormat c inf sat mode x

/-- The exponent of the largest finite value of a narrow float format (05 R113). -/
def fcEmax (c : Nat) (inf : Bool) : Int :=
  match (NFmt.ofCode c).plain ((NFmt.ofCode c).maxCode inf) with
  | .fin _ m e => e + (blen m : Int) - 1
  | _ => 0

/-- The scale of an E8M0 byte (01 R21), and nvx for 0xFF. -/
def e8m0 (g : Nat) : FV × Nat :=
  if g = 255 then (.nan false, fNVX) else (.fin false 1 ((g : Int) - 127), 0)

/-- Element i of width w in a packed register or byte string held as a number (01 R22). -/
def element (v w i : Nat) : Nat := bits v (w * i + w - 1) (w * i)

/-- Fields of a fmt value (02 Table 2.4). -/
def fmtA (f : W) : Nat := bits f.toNat 4 0
def fmtB (f : W) : Nat := bits f.toNat 9 5
def fmtScale (f : W) : Bool := bit f.toNat 10
def fmtRnd (f : W) : Rnd := Rnd.ofCode (bits f.toNat 12 11)
def fmtSat (f : W) : Bool := bit f.toNat 13
def fmtInf (f : W) : Bool := bit f.toNat 14
def fmtAcc (f : W) : Bool := bit f.toNat 15

/-- May a value be written to fmt (02 R42, 01 R24)? -/
def fmtOk (v : Nat) : Bool := decide (bits v 4 0 ≤ 0x14) && decide (bits v 9 5 ≤ 0x14)

/-- FP32 shorthands. -/
def f32 (w : W) : FV := fp32.decode w.toNat

/-- Fma32 of 00 Table 0.5 on patterns. -/
def fma32 (a b c : W) : W × Nat :=
  let r := fp32.fma .rne (f32 a) (f32 b) (f32 c)
  (w32 r.1, r.2)

end Sys2Proof.Machine
end

