-- ==== Sys2Proof/Syntax.lean ====
section
/-! DEFINITION. The syntax of the machine: one constructor of `Instr` per row of spec/opcode_table.json. The first 200
rows are the instructions of the opcode maps (03 R67, R68); each carries its operand fields as the word holds them,
because the checks of Table 3.7 are made on the fields at issue, in order. The further 110 rows are the machine's
events; they have no encoding and carry what the event brings. -/

namespace Sys2Proof

/-- Fields of a short form, LS or US (03 Table 3.1). -/
structure Short where
  d : BitVec 7
  a : BitVec 7
  b : BitVec 7
deriving DecidableEq, Repr

/-- Fields of a long form, LL or UL (03 Table 3.1). -/
structure Long where
  d : BitVec 8
  a : BitVec 8
  m : BitVec 5
  b : BitVec 8
  c : BitVec 8
  x : BitVec 16
deriving DecidableEq, Repr

/-- Fields of a literal form, LLI or ULI (03 Table 3.1). -/
structure Lit where
  d : BitVec 8
  a : BitVec 8
  m : BitVec 5
  lit : W
deriving DecidableEq, Repr

/-- What seals a message of another member (20 R327, R328): source, virtual channel, the key generation it names, its sequence number, and
whether its tag holds. -/
structure Seal where
  src   : Nat
  vc    : Nat
  gen   : Nat
  seq   : Nat
  tagOk : Bool
deriving DecidableEq, Repr

/-- What a fabric message carries (12 R256 to R261, 20 R325, R329 to R342). To a home go: `write`, a publication event, with the stamp of
the collapse that its issuer forces first and the line's release stamp; `merge`, a manual write-back; `add`, the addition of an rsig;
`read` of a line at a stamp, or of its current value; `bytes` of a manual line; `upd`, a request for a line in state A; `grant`, a page-grant
request; `part`, a die partial of a collapse, without words when the die holds no copy. A home sends `recall` of a page, `inval` for a new
version, `collapse` of a line, and its answers `granted`, `data`, `updGrant`, `sum`; holders answer `recalled`, `taken`, `invalDone`. `ack`
answers any other request. `bar` and `barDone` serve level barriers, `revoke` snapshots, `begin_`, `ready`, `switch` and `vendor` membership,
`window` and `aperture` the host. An answer bears the identifier of its request. -/
inductive FabBody where
  | write (line : Nat) (st : Stamp) (pre : Option Stamp) (rel : Stamp) (bytes : List (Nat × Byte))
  | merge (line : Nat) (bytes : List (Nat × Byte))
  | add (addr : Nat) (v : W) (st : Stamp)
  | read (line : Nat) (t : Option Stamp)
  | bytes (line : Nat)
  | upd (line op ty : Nat) (firstA : Stamp)
  | grant (page kind op ty : Nat)
  | part (line die op ty : Nat) (words : List (BitVec 64))
  | recall (page : Nat)
  | inval (line : Nat) (st : Stamp)
  | collapse (line : Nat)
  | granted (page kind op ty : Nat)
  | data (line : Nat) (st : Stamp) (stale : Option Stamp) (rel : Stamp) (bytes : List Byte)
  | updGrant (line op ty : Nat) (firstA : Stamp)
  | sum (st : Stamp)
  | recalled (page : Nat)
  | taken (line : Nat)
  | invalDone (line : Nat)
  | ack
  | bar (launch level inst phase count : Nat) (st : Stamp)
  | barDone (launch level inst phase : Nat) (st : Stamp)
  | revoke (st : Stamp)
  | beacon (slack phase full : Stamp) (rev : Option Stamp) (gen : Nat)
  | begin_ (gen : Nat) (members lost : List Nat) (keys : List (Nat × BitVec 256))
  | ready (gen : Nat)
  | switch
  | vendor (idx offset : Nat) (keys : List (Nat × BitVec 256))
  | window (off : Nat) (v : Option W) (st : Stamp)
  | windowData (v : W)
  | aperture (manual : Bool) (pa len : Nat)
  | apertureData (bytes : List Byte)
deriving DecidableEq, Repr

/-- The class and virtual channel of a message (20 R325): 0 requests, 1 snoops and recalls, 2 data and responses, 3 acknowledgements. R325
names no class for beacons, barriers, membership and the host's accesses; the model sends them with the requests (log 102). -/
def FabBody.vc : FabBody → Nat
  | .recall _ => 1
  | .inval _ _ => 1
  | .collapse _ => 1
  | .part _ _ _ _ _ => 2
  | .granted _ _ _ _ => 2
  | .data _ _ _ _ _ => 2
  | .updGrant _ _ _ _ => 2
  | .sum _ => 2
  | .windowData _ => 2
  | .apertureData _ => 2
  | .recalled _ => 3
  | .taken _ => 3
  | .invalDone _ => 3
  | .ack => 3
  | _ => 0

/-- Is a message a request, which its receiver performs once and answers (20 R326)? A beacon asks for no answer. -/
def FabBody.asks : FabBody → Bool
  | .part _ _ _ _ _ => true
  | .beacon _ _ _ _ _ => false
  | b => b.vc ≤ 1

/-- Does a message serve a membership change, which holds every other new request at its source (20 R342)? -/
def FabBody.ofChange : FabBody → Bool
  | .begin_ _ _ _ _ => true
  | .ready _ => true
  | .switch => true
  | _ => false

/-- An access of the host to a window (20 R336). -/
def FabBody.isWindow : FabBody → Bool
  | .window _ _ _ => true
  | _ => false

/-- The line of an acknowledgement of data that was taken. -/
def FabBody.line : FabBody → Nat
  | .taken line => line
  | _ => 0

/-- A settle beacon (20 R329), sealed. -/
structure Beacon where
  sealing : Seal
  slack : Stamp
  phase : Stamp
  full  : Stamp
  rev   : Option Stamp
  gen   : Nat
deriving DecidableEq, Repr

/-- What BEGIN carries (20 R342), sealed: the new member set, the members evicted, the receiver's keys of the new generation, one for each
other member of the set. -/
structure NewSet where
  sealing : Seal
  members : List Nat
  lost    : List Nat
  keys    : List (Nat × BitVec 256)
deriving DecidableEq, Repr

/-- The instructions and events of spec/opcode_table.json, in the table's order. -/
inductive Instr where
  | vadd (w : Long)   -- VADD (R102)
  | vaddLit (w : Lit)   -- VADD_LIT (R105)
  | vsub (w : Long)   -- VSUB (R102)
  | vsubLit (w : Lit)   -- VSUB_LIT (R105)
  | vaddc (w : Long)   -- VADDC (R103)
  | vmul (w : Long)   -- VMUL (R102)
  | vmulLit (w : Lit)   -- VMUL_LIT (R105)
  | vmulh (w : Long)   -- VMULH (R102)
  | vmad (w : Long)   -- VMAD (R103)
  | vabs (w : Long)   -- VABS (R102)
  | vperm (w : Long)   -- VPERM (R103)
  | vshl (w : Long)   -- VSHL (R103)
  | vshlLit (w : Lit)   -- VSHL_LIT (R105)
  | vshr (w : Long)   -- VSHR (R103)
  | vshrLit (w : Lit)   -- VSHR_LIT (R105)
  | vsra (w : Long)   -- VSRA (R103)
  | vsraLit (w : Lit)   -- VSRA_LIT (R105)
  | vmin (w : Long)   -- VMIN (R102)
  | vminLit (w : Lit)   -- VMIN_LIT (R105)
  | vmax (w : Long)   -- VMAX (R102)
  | vmaxLit (w : Lit)   -- VMAX_LIT (R105)
  | vsel (w : Long)   -- VSEL (R102)
  | vcmp (w : Long)   -- VCMP (R102)
  | vbfx (w : Long)   -- VBFX (R102)
  | vbfi (w : Long)   -- VBFI (R102)
  | vand (w : Short)   -- VAND (R104)
  | vandLit (w : Lit)   -- VAND_LIT (R105)
  | vor (w : Short)   -- VOR (R104)
  | vorLit (w : Lit)   -- VOR_LIT (R105)
  | vxor (w : Short)   -- VXOR (R104)
  | vxorLit (w : Lit)   -- VXOR_LIT (R105)
  | vnot (w : Short)   -- VNOT (R104)
  | vpopc (w : Short)   -- VPOPC (R104)
  | vclz (w : Short)   -- VCLZ (R104)
  | vbrev (w : Short)   -- VBREV (R104)
  | fadd (w : Long)   -- FADD (R107)
  | faddLit (w : Lit)   -- FADD_LIT (R109)
  | fsub (w : Long)   -- FSUB (R107)
  | fsubLit (w : Lit)   -- FSUB_LIT (R109)
  | fmul (w : Long)   -- FMUL (R107)
  | fmulLit (w : Lit)   -- FMUL_LIT (R109)
  | ffma (w : Long)   -- FFMA (R107)
  | fmin (w : Long)   -- FMIN (R108)
  | fminLit (w : Lit)   -- FMIN_LIT (R109)
  | fmax (w : Long)   -- FMAX (R108)
  | fmaxLit (w : Lit)   -- FMAX_LIT (R109)
  | fcmp (w : Long)   -- FCMP (R108)
  | fclass (w : Long)   -- FCLASS (R108)
  | frnd (w : Long)   -- FRND (R108)
  | cvt (w : Long)   -- CVT (R110)
  | npack (w : Long)   -- NPACK (R111)
  | nunpack (w : Long)   -- NUNPACK (R111)
  | ipack4 (w : Long)   -- IPACK4 (R112)
  | iunpack4 (w : Long)   -- IUNPACK4 (R112)
  | sclcalc (w : Long)   -- SCLCALC (R113)
  | frcp (w : Long)   -- FRCP (R114)
  | frsq (w : Long)   -- FRSQ (R114)
  | fsqrt (w : Long)   -- FSQRT (R114)
  | fexp2 (w : Long)   -- FEXP2 (R114)
  | flog2 (w : Long)   -- FLOG2 (R114)
  | fsin (w : Long)   -- FSIN (R114)
  | fcos (w : Long)   -- FCOS (R114)
  | lutld (w : Long)   -- LUTLD (R118)
  | lutsel (w : Long)   -- LUTSEL (R119)
  | luteval (w : Long)   -- LUTEVAL (R120)
  | xlane (w : Long)   -- XLANE (R124)
  | xlaneLo (w : Long)   -- XLANE_LO (R124)
  | xlaneHi (w : Long)   -- XLANE_HI (R124)
  | xlaneFlip (w : Long)   -- XLANE_FLIP (R124)
  | pollAny (w : Long)   -- POLL_ANY (R125)
  | pollAll (w : Long)   -- POLL_ALL (R125)
  | pollMask (w : Long)   -- POLL_MASK (R126)
  | same (w : Long)   -- SAME (R126)
  | sameAll (w : Long)   -- SAME_ALL (R126)
  | redx (w : Long)   -- REDX (R127)
  | redf (w : Long)   -- REDF (R128)
  | scanx (w : Long)   -- SCANX (R127)
  | rank (w : Long)   -- RANK (R126)
  | selk (w : Long)   -- SELK (R129)
  | ld (w : Long)   -- LD (R137)
  | st (w : Long)   -- ST (R138)
  | lds (w : Long)   -- LDS (R139)
  | sts (w : Long)   -- STS (R139)
  | ldsm (w : Long)   -- LDSM (R142)
  | ldsmT (w : Long)   -- LDSM_T (R142)
  | ldblk (w : Long)   -- LDBLK (R143)
  | ldAcq (w : Long)   -- LD_ACQ (R144)
  | stRel (w : Long)   -- ST_REL (R144)
  | atom (w : Long)   -- ATOM (R145)
  | upd (w : Long)   -- UPD (R146)
  | pfch (w : Long)   -- PFCH (R147)
  | sadd (w : Short)   -- SADD (R79)
  | saddLit (w : Lit)   -- SADD_LIT (R80)
  | ssub (w : Short)   -- SSUB (R79)
  | smul (w : Short)   -- SMUL (R79)
  | smulLit (w : Lit)   -- SMUL_LIT (R80)
  | smulh (w : Short)   -- SMULH (R79)
  | sand (w : Short)   -- SAND (R79)
  | sandLit (w : Lit)   -- SAND_LIT (R80)
  | sor (w : Short)   -- SOR (R79)
  | sorLit (w : Lit)   -- SOR_LIT (R80)
  | sxor (w : Short)   -- SXOR (R79)
  | sxorLit (w : Lit)   -- SXOR_LIT (R80)
  | snot (w : Short)   -- SNOT (R79)
  | sshl (w : Short)   -- SSHL (R79)
  | sshlLit (w : Lit)   -- SSHL_LIT (R80)
  | sshr (w : Short)   -- SSHR (R79)
  | sshrLit (w : Lit)   -- SSHR_LIT (R80)
  | ssra (w : Short)   -- SSRA (R79)
  | ssraLit (w : Lit)   -- SSRA_LIT (R80)
  | smin (w : Long)   -- SMIN (R81)
  | smax (w : Long)   -- SMAX (R81)
  | ssel (w : Long)   -- SSEL (R82)
  | smov (w : Short)   -- SMOV (R79)
  | smovi (w : Lit)   -- SMOVI (R80)
  | scmp (w : Long)   -- SCMP (R81)
  | sbfx (w : Long)   -- SBFX (R83)
  | sbfi (w : Long)   -- SBFI (R83)
  | spopc (w : Short)   -- SPOPC (R79)
  | sclz (w : Short)   -- SCLZ (R79)
  | slea (w : Long)   -- SLEA (R84)
  | kand (w : Short)   -- KAND (R85)
  | kor (w : Short)   -- KOR (R85)
  | kxor (w : Short)   -- KXOR (R85)
  | knot (w : Short)   -- KNOT (R85)
  | kmovKFromK (w : Short)   -- KMOV_K_FROM_K (R86)
  | kmovKFromS (w : Short)   -- KMOV_K_FROM_S (R86)
  | kmovSFromK (w : Short)   -- KMOV_S_FROM_K (R86)
  | kset (w : Lit)   -- KSET (R85)
  | kpopc (w : Short)   -- KPOPC (R85)
  | kfirst (w : Short)   -- KFIRST (R85)
  | bra (w : Lit)   -- BRA (R87)
  | brz (w : Lit)   -- BRZ (R87)
  | brnz (w : Lit)   -- BRNZ (R87)
  | jmp (w : Short)   -- JMP (R88)
  | call (w : Lit)   -- CALL (R87)
  | ret (w : Short)   -- RET (R88)
  | bany (w : Lit)   -- BANY (R87)
  | ball (w : Lit)   -- BALL (R87)
  | bnone (w : Lit)   -- BNONE (R87)
  | bdiv (w : Lit)   -- BDIV (R89)
  | converge (w : Short)   -- CONVERGE (R92)
  | pblk (w : Long)   -- PBLK (R64)
  | setfmt (w : Long)   -- SETFMT (R94)
  | setfmtFlags (w : Long)   -- SETFMT_FLAGS (R94)
  | setfmtImm (w : Long)   -- SETFMT_IMM (R94)
  | setpart (w : Short)   -- SETPART (R95)
  | rdspec (w : Long)   -- RDSPEC (R96)
  | role (w : Short)   -- ROLE (R97)
  | exit (w : Short)   -- EXIT (R93)
  | trap (w : Short)   -- TRAP (R98)
  | brkpt (w : Short)   -- BRKPT (R98)
  | nop (w : Short)   -- NOP (R99)
  | pub (w : Short)   -- PUB (R151)
  | snap (w : Short)   -- SNAP (R151)
  | phase (w : Short)   -- PHASE (R151)
  | txbeg (w : Short)   -- TXBEG (R152)
  | txend (w : Short)   -- TXEND (R154)
  | txabort (w : Short)   -- TXABORT (R155)
  | enq (w : Long)   -- ENQ (R157)
  | deq (w : Long)   -- DEQ (R157)
  | cwb (w : Long)   -- CWB (R149)
  | cinv (w : Long)   -- CINV (R149)
  | cwbinv (w : Long)   -- CWBINV (R149)
  | cpy (w : Long)   -- CPY (R182)
  | cpy2d (w : Long)   -- CPY_2D (R182)
  | gath (w : Long)   -- GATH (R182)
  | rcpy (w : Long)   -- RCPY (R182)
  | rsig (w : Long)   -- RSIG (R189)
  | tlget (w : Long)   -- TLGET (R187)
  | tlwait (w : Long)   -- TLWAIT (R187)
  | tlsig (w : Long)   -- TLSIG (R187)
  | waitc (w : Long)   -- WAITC (R187)
  | waitcG (w : Long)   -- WAITC_G (R187)
  | barInit (w : Long)   -- BAR_INIT (R191)
  | barInitFree (w : Long)   -- BAR_INIT_FREE (R191)
  | barArr (w : Long)   -- BAR_ARR (R191)
  | barWait (w : Long)   -- BAR_WAIT (R191)
  | barArrw (w : Long)   -- BAR_ARRW (R191)
  | barSync (w : Long)   -- BAR_SYNC (R192)
  | lbar (w : Long)   -- LBAR (R193)
  | spawn (w : Long)   -- SPAWN (R195)
  | post (w : Long)   -- POST (R196)
  | join (w : Long)   -- JOIN (R197)
  | leave (w : Long)   -- LEAVE (R197)
  | msend (w : Long)   -- MSEND (R198)
  | mrecv (w : Long)   -- MRECV (R198)
  | mrec (w : Long)   -- MREC (R167)
  | wld (w : Long)   -- WLD (R168)
  | mmaz (w : Long)   -- MMAZ (R169)
  | mma (w : Long)   -- MMA (R169)
  | mepi (w : Long)   -- MEPI (R172)
  | mclrZ (w : Long)   -- MCLR_Z (R171)
  | mclrLd (w : Long)   -- MCLR_LD (R171)
  | mrestart (w : Long)   -- MRESTART (R175)
  | mfence (w : Long)   -- MFENCE (R174)
  | rfe (w : Short)   -- RFE (R298)
  | csrrd (w : Long)   -- CSRRD (R199)
  | csrwr (w : Long)   -- CSRWR (R199)
  | rdenergy (w : Short)   -- RDENERGY (R365)
  | sfuRetire (cu sub : Nat)   -- SFU_RETIRE (R115)
  | matrixPassRetire (cl : Nat)   -- MATRIX_PASS_RETIRE (R158)
  | asyncEventTake (id : Nat)   -- ASYNC_EVENT_TAKE (R293)
  | squadWake (id : Nat)   -- SQUAD_WAKE (R215)
  | squadRetire (id : Nat)   -- SQUAD_RETIRE (R93)
  | teamExit (team : Nat)   -- TEAM_EXIT (R217)
  | mccProgramEnd (cl : Nat)   -- MCC_PROGRAM_END (R174)
  | engineCommandRun (cmd : Nat)   -- ENGINE_COMMAND_RUN (R182)
  | huddleTimerExpire (cl h : Nat)   -- HUDDLE_TIMER_EXPIRE (R207)
  | huddlePlace (cl h : Nat)   -- HUDDLE_PLACE (R208)
  | arbiterTakeEntry   -- ARBITER_TAKE_ENTRY (R283)
  | entryClassAge (q : Nat)   -- ENTRY_CLASS_AGE (R283)
  | placeTeam (launch : Nat)   -- PLACE_TEAM (R287)
  | placerOldestWaitExpire   -- PLACER_OLDEST_WAIT_EXPIRE (R285)
  | launchComplete (launch : Nat)   -- LAUNCH_COMPLETE (R289)
  | qtailWrite (q : Nat) (v : D)   -- QTAIL_WRITE (R278)
  | qfaultClear (q : Nat)   -- QFAULT_CLEAR (R282)
  | qtbaseWrite (hi : Bool) (v : W)   -- QTBASE_WRITE (R276)
  | ringBaseWrite (ctx num : Nat) (v : W)   -- RING_BASE_WRITE (R355)
  | ringHeadWrite (ctx num : Nat) (v : W)   -- RING_HEAD_WRITE (R355)
  | registerWrite (ctx num : Nat) (v : W)   -- REGISTER_WRITE (R5)
  | homeSharedRequest (line cache : Nat)   -- HOME_SHARED_REQUEST (R253)
  | homeExclusiveRequest (line cache : Nat)   -- HOME_EXCLUSIVE_REQUEST (R253)
  | homeUpdateOnlyRequest (line cache op ty : Nat) (firstA : Stamp)   -- HOME_UPDATE_ONLY_REQUEST (R253)
  | homePublicationEvent (msg : Nat)   -- HOME_PUBLICATION_EVENT (R222)
  | homePlainRead (line cache : Nat) (t : Stamp)   -- HOME_PLAIN_READ (R253)
  | homeCollapseRequest (line agent : Nat)   -- HOME_COLLAPSE_REQUEST (R258)
  | homeInvalidationAck (line die : Nat)   -- HOME_INVALIDATION_ACK (R256)
  | homeOwnerBytes (line : Nat)   -- HOME_OWNER_BYTES (R233)
  | homeDiePartial (line pkg die : Nat)   -- HOME_DIE_PARTIAL (R235)
  | l1Grant (cache line : Nat)   -- L1_GRANT (R252)
  | l1Invalidate (cache line : Nat)   -- L1_INVALIDATE (R251)
  | l1Recall (cache line : Nat)   -- L1_RECALL (R252)
  | l1CollapseRecall (cache line : Nat)   -- L1_COLLAPSE_RECALL (R252)
  | l1PutAck (cache line : Nat)   -- L1_PUT_ACK (R252)
  | snoopFilterMessage (die line : Nat)   -- SNOOP_FILTER_MESSAGE (R255)
  | mergePortCollapse (die line : Nat)   -- MERGE_PORT_COLLAPSE (R258)
  | pageGrantRequest (pkg page kind op ty : Nat)   -- PAGE_GRANT_REQUEST (R259)
  | pageGrantRecall (pkg page : Nat)   -- PAGE_GRANT_RECALL (R260)
  | pageGrantRecallAck (pkg page : Nat)   -- PAGE_GRANT_RECALL_ACK (R260)
  | translationWalkEnd (walk : Nat)   -- TRANSLATION_WALK_END (R312)
  | tlbinvScopeAddress (ctx va : Nat)   -- TLBINV_SCOPE_ADDRESS (R313)
  | tlbinvScopeContext (ctx : Nat)   -- TLBINV_SCOPE_CONTEXT (R313)
  | tlbinvScopeAll   -- TLBINV_SCOPE_ALL (R313)
  | tlbinvDrain (ctx va : Nat)   -- TLBINV_DRAIN (R313)
  | tlbinvComplete   -- TLBINV_COMPLETE (R313)
  | tkcmdMapped (ticket : Nat)   -- TKCMD_MAPPED (R316)
  | tkcmdDenied (ticket : Nat)   -- TKCMD_DENIED (R316)
  | ebbCollectorPass (line : Nat)   -- EBB_COLLECTOR_PASS (R320)
  | versionStoreFullTimeout   -- VERSION_STORE_FULL_TIMEOUT (R321)
  | snapshotAgeLimit   -- SNAPSHOT_AGE_LIMIT (R321)
  | snapshotRevocation (st : Stamp)   -- SNAPSHOT_REVOCATION (R321)
  | ctxcmdSave (ctx : Nat)   -- CTXCMD_SAVE (R301)
  | ctxcmdRestore (ctx : Nat)   -- CTXCMD_RESTORE (R306)
  | ctxcmdKill (ctx : Nat)   -- CTXCMD_KILL (R304)
  | graceWindowClose (ctx : Nat)   -- GRACE_WINDOW_CLOSE (R302)
  | teamSaveRecord (team : Nat)   -- TEAM_SAVE_RECORD (R303)
  | contextRestorePlace (ctx : Nat)   -- CONTEXT_RESTORE_PLACE (R306)
  | stopcmdStop (ctx team : Nat)   -- STOPCMD_STOP (R362)
  | stopcmdResume (ctx team : Nat)   -- STOPCMD_RESUME (R363)
  | stopcmdResumeAll (ctx : Nat)   -- STOPCMD_RESUME_ALL (R363)
  | stopComplete (team : Nat)   -- STOP_COMPLETE (R362)
  | samplerCountZero (cu sub : Nat)   -- SAMPLER_COUNT_ZERO (R361)
  | fabricMessageReceive (src vc gen seq req : Nat) (tagOk : Bool) (body : FabBody)   -- FABRIC_MESSAGE_RECEIVE (R328)
  | fabricRetransmitTimeout (req : Nat)   -- FABRIC_RETRANSMIT_TIMEOUT (R326)
  | flitCrcReplay (port : Nat)   -- FLIT_CRC_REPLAY (R324)
  | settleBeaconSend   -- SETTLE_BEACON_SEND (R329)
  | settleBeaconReceive (b : Beacon)   -- SETTLE_BEACON_RECEIVE (R329)
  | beaconSilenceEvict (idx : Nat)   -- BEACON_SILENCE_EVICT (R330)
  | bridgeSilenceTakeover   -- BRIDGE_SILENCE_TAKEOVER (R331)
  | membershipBegin (gen : Nat) (set : NewSet)   -- MEMBERSHIP_BEGIN (R342)
  | membershipReady (m : Seal)   -- MEMBERSHIP_READY (R342)
  | membershipSwitch   -- MEMBERSHIP_SWITCH (R342)
  | lbarMemberReport (launch level inst : Nat)   -- LBAR_MEMBER_REPORT (R334)
  | lbarMemberComplete (launch level inst : Nat) (g : Stamp)   -- LBAR_MEMBER_COMPLETE (R334)
  | domcmdAdmit (member port : Nat)   -- DOMCMD_ADMIT (R341)
  | domcmdRemove (idx : Nat)   -- DOMCMD_REMOVE (R343)
  | domcmdEvict (idx : Nat)   -- DOMCMD_EVICT (R343)
  | getVersion   -- GET_VERSION (R340)
  | getCapabilities   -- GET_CAPABILITIES (R340)
  | negotiateAlgorithms (offered : List Nat)   -- NEGOTIATE_ALGORITHMS (R340)
  | getDigests   -- GET_DIGESTS (R340)
  | getCertificate (chainOk : Bool)   -- GET_CERTIFICATE (R340)
  | getMeasurements (digests : List (BitVec 384)) (sigOk : Bool)   -- GET_MEASUREMENTS (R340)
  | keyExchange (mutAuth : Bool) (sigOk : Bool)   -- KEY_EXCHANGE (R340)
  | finish (macOk : Bool)   -- FINISH (R340)
  | vendorDefinedRequest (idx offset : Nat)   -- VENDOR_DEFINED_REQUEST (R341)
  | endSession   -- END_SESSION (R340)
  | hostWindowAccess (member off : Nat) (wr : Option W)   -- HOST_WINDOW_ACCESS (R336)
  | hostApertureWrite (ap off : Nat) (bytes : List Byte)   -- HOST_APERTURE_WRITE (R338)
  | hostApertureRead (ap off len : Nat)   -- HOST_APERTURE_READ (R338)
  | hostUnsupportedRequest   -- HOST_UNSUPPORTED_REQUEST (R335)
  | errorWindowExpire (unit : Nat)   -- ERROR_WINDOW_EXPIRE (R353)
  | clusterRetire (die cl : Nat)   -- CLUSTER_RETIRE (R356)
  | sliceRetire (die bucket : Nat)   -- SLICE_RETIRE (R262)
  | hbmRowRepair (die stack row : Nat)   -- HBM_ROW_REPAIR (R357)
  | hbmChannelRepair (die stack channel : Nat)   -- HBM_CHANNEL_REPAIR (R357)
  | linkLaneSpare (d2d : Bool) (port lane : Nat)   -- LINK_LANE_SPARE (R357)
  | thermalTrip (die temp : Nat)   -- THERMAL_TRIP (R367)
  | thermalRelease (temps : List Nat)   -- THERMAL_RELEASE (R367)
  | powerOn (trained fused : Bool)   -- POWER_ON (R368)
  | pcieFundamentalReset (trained fused : Bool)   -- PCIE_FUNDAMENTAL_RESET (R368)
  | fwcmdLoad   -- FWCMD_LOAD (R370)
  | fwcmdColdReset (trained fused : Bool)   -- FWCMD_COLD_RESET (R368)
  | fwcmdWarmReset   -- FWCMD_WARM_RESET (R368)
  | slackWaterEstimateUpdate   -- SLACK_WATER_ESTIMATE_UPDATE (R224)
  | scrubbing (addr : Nat) (again : Bool)   -- SCRUBBING (R352)
  | spdmUnsupportedRequest (code : Nat)   -- SPDM_UNSUPPORTED_REQUEST (R340)
  | portLinkTrained (port peer lanes : Nat)   -- PORT_LINK_TRAINED (R324)
  | portLinkDown (port : Nat)   -- PORT_LINK_DOWN (R324)
deriving DecidableEq, Repr

end Sys2Proof
end

