-- ==== Sys2Proof/Machine/Fields.lean ====
section
/-! DEFINITION. The operand fields: the classes of 03 Table 3.2, and for every op9 of Tables 3.8 and 3.9 the class of each
field, the accepted modifiers and codes, and the operand values that the entry checks (03 Table 3.7, checks 5 to 10). -/

namespace Sys2Proof.Machine

/-- Field classes (03 Table 3.2). `v` and `s` name `cnt` registers from a number that is a multiple of `al`; `kd` is a
mask destination of `cnt` masks, k0 refused (02 R40); `ko` is optional, 0 for none (06 R123). -/
inductive FC where
  | z | n
  | v (cnt al : Nat)
  | s (cnt al : Nat)
  | k
  | kd (cnt : Nat)
  | ko
  | a
  | w
deriving DecidableEq, Repr

/-- What an entry says of its fields. `x` answers check 8 for x, `vals` check 10. -/
structure FSpec where
  d    : FC := .z
  a    : FC := .z
  b    : FC := .z
  c    : FC := .z
  m    : Nat := 0
  x    : Bool := true
  vals : Bool := true
deriving DecidableEq, Repr

/-- What the checks need to know of the issuer. -/
structure FEnv where
  mcc    : Bool
  vallot : Nat
  sallot : Nat
  fmt    : W
  tsize  : Nat
  lanes  : Mask
  nroles : Nat
  levels : List Nat
deriving DecidableEq, Repr

/-- Who may issue an op9 (check 5). `cluster` is a launch that holds its whole cluster. -/
inductive Who where
  | both | squad | mcc | cluster
deriving DecidableEq, Repr

/-! ### The typed layout of x (03 Table 3.4) -/

def xType (x : BitVec 16) : Nat := bits x.toNat 4 0
def xRnd (x : BitVec 16) : Nat := bits x.toNat 7 5
def xSub (x : BitVec 16) : Nat := bits x.toNat 14 8
def xBsel (x : BitVec 16) : Bool := bit x.toNat 15

/-- Type codes (03 Table 3.5). -/
def tB32 : Nat := 0x00
def tB64 : Nat := 0x01
def tS8 : Nat := 0x04
def tS16 : Nat := 0x05
def tS32 : Nat := 0x06
def tS64 : Nat := 0x07
def tN8 : Nat := 0x08
def tN16 : Nat := 0x09
def tN32 : Nat := 0x0A
def tN64 : Nat := 0x0B
def tF32 : Nat := 0x0C
def tF16 : Nat := 0x0D
def tBF16 : Nat := 0x0E
def tF16x2 : Nat := 0x10
def tBF16x2 : Nat := 0x11
def tFM : Nat := 0x12

/-- Is it a 64-bit type? -/
def is64 (t : Nat) : Bool := t == tB64 || t == tS64 || t == tN64

/-- Is it a signed integer type? -/
def isSigned (t : Nat) : Bool := t == tS8 || t == tS16 || t == tS32 || t == tS64

/-- The width in bits of an integer or bit type. -/
def tyWidth (t : Nat) : Nat :=
  if is64 t then 64 else if t == tS8 || t == tN8 then 8 else if t == tS16 || t == tN16 then 16 else 32

/-- The registers of an operand of a type. -/
def tyRegs (t : Nat) : Nat := if is64 t then 2 else 1

def i4 : List Nat := [tS32, tN32, tS64, tN64]
def fl5 : List Nat := [tF32, tF16, tBF16, tF16x2, tBF16x2]
def fl3 : List Nat := [tF32, tF16, tBF16]
def cvtTys : List Nat := [tS8, tS16, tS32, tS64, tN8, tN16, tN32, tN64, tF32, tF16, tBF16, tFM]

/-- Check 8 on a typed x: the type, the greatest sub and rnd codes, whether bsel may be set. -/
def xok (x : BitVec 16) (tys : List Nat) (subMax rndMax : Nat) (bselOk : Bool) : Bool :=
  tys.contains (xType x) && decide (xSub x ≤ subMax) && decide (xRnd x ≤ rndMax) && (bselOk || !xBsel x)

/-- A vector operand of a type. -/
def vt (t : Nat) : FC := .v (tyRegs t) (tyRegs t)

/-- A uniform operand of a type. -/
def st (t : Nat) : FC := .s (tyRegs t) (tyRegs t)

/-- The b operand under bsel (05 R100). -/
def bt (x : BitVec 16) (t : Nat) : FC := if xBsel x then st t else vt t

/-! ### Addresses (07 Table 7.1) -/

def acScale (c : BitVec 8) : Nat := bits c.toNat 7 6
def acIdx (c : BitVec 8) : Nat := bits c.toNat 5 4
def acBase (c : BitVec 8) : Bool := bit c.toNat 3
def acW (c : BitVec 8) : Nat := bits c.toNat 2 0

/-- Registers of an access of a wcode. -/
def wRegs (w : Nat) : Nat := if w = 5 then 2 else if w = 6 then 4 else 1

/-- Bytes of an access of a wcode. -/
def wBytes (w : Nat) : Nat := if w ≤ 1 then 1 else if w ≤ 3 then 2 else if w = 4 then 4 else if w = 5 then 8 else 16

/-- The fields of a memory instruction: destination class, accepted wcodes, scratch form, other conditions on x. -/
def memSpec (w : Long) (d : FC) (ws : List Nat) (scr : Bool) (x : Bool) : FSpec :=
  { d := d
    a := match acIdx w.c with
      | 0 => .z
      | 1 => .v 1 1
      | 2 => .s 1 1
      | _ => .v 2 2
    b := if scr then .s 1 1 else .s 2 2
    c := .n
    x := x && acBase w.c && ws.contains (acW w.c) && (acIdx w.c != 0 || acScale w.c == 0) &&
      (!scr || acIdx w.c != 3) }

/-- Registers of a block of 32 elements of afmt (07 R143). -/
def blkRegs (f : W) : Nat := fcWidth (fmtA f)

/-- Elements per register of afmt (05 R111). -/
def perReg (f : W) : Nat :=
  match fcWidth (fmtA f) with
  | 16 => 2
  | 4 => 8
  | _ => 4

/-- Pairings of atom (07 Table 7.5). -/
def atomTy (op t : Nat) : Bool :=
  if op ≤ 2 then (i4 ++ [tF32]).contains t else if op ≤ 7 then t == tB32 || t == tB64 else false

/-- Pairings of upd (07 Table 7.6). -/
def updTy (op t : Nat) : Bool :=
  match op with
  | 0 => t == tS32 || t == tS64 || t == tF32
  | 1 => t == tS32 || t == tN32 || t == tF32
  | 2 => t == tS32 || t == tN32 || t == tF32
  | 3 => t == tB32 || t == tB64
  | 4 => t == tBF16
  | _ => false

/-- Pairings of redx and scanx (06 Table 6.2). -/
def redTy (op t : Nat) : Bool :=
  if op ≤ 2 then i4.contains t else if op ≤ 5 then t == tB32 || t == tB64 else false

/-- cvt's accepted codes (05 R110, Table 5.3): x and the modifiers. -/
def cvtFl (t : Nat) : Bool := t == tF32 || t == tF16 || t == tBF16
def cvtX (x : BitVec 16) : Bool :=
  let s := xSub x % 32
  let t := xType x
  cvtTys.contains s && cvtTys.contains t && !(s == tFM && t == tFM) && decide (xSub x < 32) && !xBsel x &&
    (if t == tFM then xRnd x == 4
     else if cvtFl t || cvtFl s || s == tFM then decide (xRnd x ≤ 4) else xRnd x == 0)
def cvtM (fmt : W) (x : BitVec 16) : Nat :=
  let s := xSub x % 32
  let t := xType x
  (if cvtFl s || s == tFM then 5 else 0) +
    (if cvtFl t || (t != tFM && !cvtFl s && (s != tFM || fcInt (fmtA fmt))) then 16 else 0)

/-- The position and length of vbfx, vbfi, sbfx, sbfi (04 R83). -/
def bfPos (x : BitVec 16) : Nat := bits x.toNat 4 0
def bfLen (x : BitVec 16) : Nat := bits x.toNat 12 8 + 1
def bfX (x : BitVec 16) (sx : Bool) : Bool :=
  bits x.toNat 15 14 == 0 && bits x.toNat 7 5 == 0 && (sx || !bit x.toNat 13)

/-- The numbers of 02 Table 2.8 that deliver a lane value, a squad value, and those the MCC reads (02 R53). -/
def spLane (n : Nat) : Bool := decide (n ≤ 1)
def spSquad (n : Nat) : Bool :=
  decide (2 ≤ n ∧ n ≤ 0x1F) || decide (0x20 ≤ n ∧ n ≤ 0x24) || decide (0x28 ≤ n ∧ n ≤ 0x2C)
def spMcc (n : Nat) : Bool := [0x10, 0x12, 0x14, 0x08, 0x09, 0x1C, 0x1D].contains n

/-- The CSR numbers that exist: 09 Table 9.7 and the maps of 17, 18, 19, 20, 22, 23 and 24 (09 R199). Reserved rows of a
map (18 Table 18.3, 0x8013 to 0x801F) exist and read zero. -/
def csrKnown (n : Nat) : Bool :=
  decide (1 ≤ n ∧ n ≤ 4) || decide (0x8000 ≤ n ∧ n ≤ 0x801F) || decide (0x8040 ≤ n ∧ n ≤ 0x8049) ||
  decide (0x8080 ≤ n ∧ n ≤ 0x8082) || decide (0x8088 ≤ n ∧ n ≤ 0x808B) || decide (0x8090 ≤ n ∧ n ≤ 0x809D) ||
  decide (0x8100 ≤ n ∧ n ≤ 0x8101) || decide (0x8200 ≤ n ∧ n ≤ 0x8211) || decide (0x8220 ≤ n ∧ n ≤ 0x8231) ||
  decide (0x8240 ≤ n ∧ n ≤ 0x824C) || decide (0x8280 ≤ n ∧ n ≤ 0x82BF) || decide (0x8300 ≤ n ∧ n ≤ 0x830B) ||
  decide (0x8400 ≤ n ∧ n ≤ 0x8408) || decide (0x8410 ≤ n ∧ n ≤ 0x841C) || decide (0x8420 ≤ n ∧ n ≤ 0x842B) ||
  decide (0x8500 ≤ n ∧ n ≤ 0x8507)

/-! ### Entries -/

/-- Typed lane entries whose only difference is the type list and the modifiers. -/
def lane3 (w : Long) (tys : List Nat) (m : Nat) : FSpec :=
  { d := vt (xType w.x), a := vt (xType w.x), b := bt w.x (xType w.x), m := m, x := xok w.x tys 0 0 true }

def lane2 (w : Long) (tys : List Nat) (m rndMax : Nat) : FSpec :=
  { d := vt (xType w.x), a := vt (xType w.x), m := m, x := xok w.x tys 0 rndMax false }

def satM (w : Long) : Nat := if is64 (xType w.x) then 0 else 16

/-- The long entries of the lane set, 03 Table 3.8. -/
def laneSpec (e : FEnv) (op9 : Nat) (w : Long) : FSpec :=
  let x := w.x
  let t := xType x
  match op9 with
  | 0x001 => lane3 w i4 (satM w)
  | 0x002 => lane3 w i4 (satM w)
  | 0x003 => { d := .v 1 1, a := .v 1 1, b := bt x tN32, c := .k, x := xok x [tN32] 7 0 true }
  | 0x004 => lane3 w i4 0
  | 0x005 => lane3 w [tS32, tN32] 0
  | 0x006 =>
    let r := if xSub x = 1 then FC.v 2 2 else .v 1 1
    { d := r, a := .v 1 1, b := bt x tS32, c := r, x := xok x [tS32, tN32] 1 0 true }
  | 0x007 => lane2 w [tS32, tS64] 16 0
  | 0x00F => { d := .v 1 1, a := .v 1 1, b := bt x tB32, c := .v 1 1, x := xok x [tB32] 0 0 true }
  | 0x010 => { d := vt t, a := vt t, b := bt x tB32, x := xok x [tB32, tB64] 0 0 true }
  | 0x011 => { d := vt t, a := vt t, b := bt x tB32, x := xok x [tB32, tB64] 0 0 true }
  | 0x012 => { d := vt t, a := vt t, b := bt x tB32, x := xok x [tB32, tB64] 0 0 true }
  | 0x013 => lane3 w i4 0
  | 0x014 => lane3 w i4 0
  | 0x015 => { d := .v 1 1, a := .v 1 1, b := bt x tB32, c := .k, x := xok x [tB32] 0 0 true }
  | 0x016 => { d := .kd 1, a := vt t, b := bt x t, x := xok x i4 5 0 true }
  | 0x017 => { d := .v 1 1, a := .v 1 1, x := bfX x true, vals := decide (bfPos x + bfLen x ≤ 32) }
  | 0x018 => { d := .v 1 1, a := .v 1 1, b := .v 1 1, x := bfX x false, vals := decide (bfPos x + bfLen x ≤ 32) }
  | 0x040 => { d := .v 1 1, a := .v 1 1, b := bt x tB32, m := 15, x := xok x fl5 0 4 true }
  | 0x041 => { d := .v 1 1, a := .v 1 1, b := bt x tB32, m := 15, x := xok x fl5 0 4 true }
  | 0x042 => { d := .v 1 1, a := .v 1 1, b := bt x tB32, m := 15, x := xok x fl5 0 4 true }
  | 0x043 => { d := .v 1 1, a := .v 1 1, b := bt x tB32, c := .v 1 1, m := 15, x := xok x fl5 0 4 true }
  | 0x044 => { d := .v 1 1, a := .v 1 1, b := bt x tB32, m := 15, x := xok x fl5 1 0 true }
  | 0x045 => { d := .v 1 1, a := .v 1 1, b := bt x tB32, m := 15, x := xok x fl5 1 0 true }
  | 0x046 => { d := .kd 1, a := .v 1 1, b := bt x tB32, m := 15, x := xok x fl3 7 0 true }
  | 0x047 => lane2 w fl3 5 0
  | 0x048 => lane2 w fl5 5 4
  | 0x080 => { d := vt t, a := vt (xSub x % 32), m := cvtM e.fmt x, x := cvtX x }
  | 0x081 => { d := .v 1 1, a := .v 1 1, b := bt x tB32, m := 15, x := xok x [tFM] 3 4 true && xRnd x == 4
               vals := decide (xSub x < perReg e.fmt / 2) }
  | 0x082 => { d := .v 1 1, a := .v 1 1, x := xok x [tFM] 7 0 false, vals := decide (xSub x < perReg e.fmt) }
  | 0x083 => { d := .v 1 1, a := .v 1 1, b := bt x tB32, x := xok x [tS32] 3 0 true }
  | 0x084 => { d := .v 1 1, a := .v 1 1, x := xok x [tS32] 7 0 false }
  | 0x085 => { d := .v 1 1, a := .v 1 1, x := xok x [tFM] 0 0 false
               vals := decide (2 ≤ fmtA e.fmt ∧ fmtA e.fmt ≤ 0x12) }
  | 0x0C0 => lane2 w [tF32] 5 0
  | 0x0C1 => lane2 w [tF32] 5 0
  | 0x0C2 => lane2 w [tF32] 5 0
  | 0x0C3 => lane2 w [tF32] 5 0
  | 0x0C4 => lane2 w [tF32] 5 0
  | 0x0C5 => lane2 w [tF32] 5 0
  | 0x0C6 => lane2 w [tF32] 5 0
  | 0x0C8 => { a := .v 1 1, b := .v 1 1, x := decide (x.toNat < 256)
               vals := (lanesOf e.lanes).all (fun l => decide (x.toNat + l ≤ 128)) }
  | 0x0C9 => { x := x == 0 }
  | 0x0CA => lane2 w [tF32] 5 0
  | 0x0E0 => { d := vt t, a := vt t, b := bt x tB32, c := .ko, x := xok x [tB32, tB64] 0 0 true }
  | 0x0E1 => { d := vt t, a := vt t, c := .ko, x := xok x [tB32, tB64] 31 0 false }
  | 0x0E2 => { d := vt t, a := vt t, c := .ko, x := xok x [tB32, tB64] 31 0 false }
  | 0x0E3 => { d := vt t, a := vt t, c := .ko, x := xok x [tB32, tB64] 31 0 false }
  | 0x0E4 => { d := .kd 1, a := .k, x := x == 0 }
  | 0x0E5 => { d := .kd 1, a := .k, x := x == 0 }
  | 0x0E6 => { d := .v 1 1, a := .k, x := x == 0 }
  | 0x0E7 => { d := vt t, a := vt t, x := xok x [tB32, tB64] 0 0 false }
  | 0x0E8 => { d := vt t, a := vt t, c := .ko, x := xok x [tB32, tB64] 0 0 false }
  | 0x0E9 => { d := vt t, a := vt t, m := if xSub x = 0 ∧ (t = tS32 ∨ t = tN32) then 16 else 0
               x := xok x [t] 5 0 false && redTy (xSub x) t }
  | 0x0EA => { d := .v 1 1, a := .v 1 1, m := 5
               x := xok x [tF32] 4 (if xSub x = 0 then 4 else 0) false }
  | 0x0EB => { d := vt t, a := vt t, x := xok x [t] 15 0 false && redTy (xSub x % 8) t }
  | 0x0EC => { d := .v 1 1, a := .k, x := x == 0 || x == 0x0100 }
  | 0x0ED => { d := .kd (max 1 w.b.toNat), a := .v (max 1 w.b.toNat) 1, b := .n, c := .n, m := if t = tF32 then 5 else 0
               x := xok x [tF32, tS32, tN32] 1 0 false
               vals := decide (1 ≤ w.b.toNat ∧ w.b.toNat ≤ 4 ∧ w.c.toNat ≤ w.b.toNat * 2 ^ e.tsize) }
  | 0x120 => memSpec w (.v (wRegs (acW w.c)) (wRegs (acW w.c))) [0, 1, 2, 3, 4, 5, 6] false true
  | 0x121 => memSpec w (.v (wRegs (acW w.c)) (wRegs (acW w.c))) [0, 2, 4, 5, 6] false true
  | 0x122 => memSpec w (.v (wRegs (acW w.c)) (wRegs (acW w.c))) [0, 1, 2, 3, 4, 5, 6] true true
  | 0x123 => memSpec w (.v (wRegs (acW w.c)) (wRegs (acW w.c))) [0, 2, 4, 5, 6] true true
  | 0x124 => memSpec w (.v (2 ^ (w.c.toNat % 4)) (2 ^ (w.c.toNat % 4))) [0, 1, 2] true (acIdx w.c == 1)
  | 0x125 => memSpec w (.v (2 ^ (w.c.toNat % 4)) (2 ^ (w.c.toNat % 4))) [0, 1, 2, 4, 5, 6] true (acIdx w.c == 1)
  | 0x126 => memSpec w (.v (blkRegs e.fmt) 1) [0] false true
  | 0x127 => memSpec w (.v (wRegs (acW w.c)) (wRegs (acW w.c))) [4, 5] false true
  | 0x128 => memSpec w (.v (wRegs (acW w.c)) (wRegs (acW w.c))) [4, 5] false true
  | 0x129 =>
    let r := if xSub x % 16 = 7 then 2 * tyRegs t else tyRegs t
    memSpec w (.v r r) [0] false (decide (xSub x < 64) && xRnd x == 0 && !xBsel x && atomTy (xSub x % 16) t)
  | 0x12A => memSpec w (vt t) [0] false (xRnd x == 0 && !xBsel x && updTy (xSub x) t)
  | 0x12B => memSpec w .z [0, 1] false true
  | _ => {}

/-- The short entries of the lane set (05 R104). -/
def laneShort (op9 : Nat) : FSpec :=
  if op9 ≤ 0x00A then { d := .v 1 1, a := .v 1 1, b := .v 1 1 } else { d := .v 1 1, a := .v 1 1 }

/-- The literal entries of the lane set (05 R105, R109). -/
def laneLit (op9 : Nat) : FSpec :=
  { d := .v 1 1, a := .v 1 1
    m := if op9 = 0x020 ∨ op9 = 0x021 then 16 else if 0x050 ≤ op9 then 5 else 0 }

/-- The short entries of the uniform set, 03 Table 3.9. -/
def uniShort (e : FEnv) (op9 : Nat) (w : Short) : FSpec :=
  match op9 with
  | 0x007 => { d := .s 1 1, a := .s 1 1 }
  | 0x00E => { d := .s 1 1, a := .s 1 1 }
  | 0x013 => { d := .s 1 1, a := .s 1 1 }
  | 0x014 => { d := .s 1 1, a := .s 1 1 }
  | 0x040 => { d := .kd 1, a := .k, b := .k }
  | 0x041 => { d := .kd 1, a := .k, b := .k }
  | 0x042 => { d := .kd 1, a := .k, b := .k }
  | 0x043 => { d := .kd 1, a := .k }
  | 0x044 =>
    match w.b.toNat with
    | 0 => { d := .kd 1, a := .k, b := .n }
    | 1 => { d := .kd 1, a := .s 1 1, b := .n }
    | 2 => { d := .s 1 1, a := .k, b := .n }
    | _ => { d := .n, a := .n, b := .z }
  | 0x046 => { d := .s 1 1, a := .k }
  | 0x047 => { d := .s 1 1, a := .k }
  | 0x063 => { a := .s 2 2 }
  | 0x065 => { a := .s 2 2 }
  | 0x06A => {}
  | 0x071 => { b := .n, vals := decide (1 ≤ w.b.toNat ∧ w.b.toNat ≤ 5) }
  | 0x073 => { b := .n, vals := decide (w.b.toNat < e.nroles) }
  | 0x074 => {}
  | 0x075 => { b := .n }
  | 0x076 => {}
  | 0x077 => {}
  | 0x0A0 => {}
  | 0x0A1 => {}
  | 0x0A2 => {}
  | 0x0A3 => {}
  | 0x0A4 => {}
  | 0x0A5 => { b := .n }
  | 0x180 => {}
  | 0x183 => { d := .s 2 2 }
  | _ => { d := .s 1 1, a := .s 1 1, b := .s 1 1 }

/-- The literal entries of the uniform set. -/
def uniLit (op9 : Nat) (w : Lit) : FSpec :=
  let off := decide (w.lit.toNat % 4 = 0)
  match op9 with
  | 0x00F => { d := .s 1 1 }
  | 0x045 => { d := .kd 1 }
  | 0x060 => { vals := off }
  | 0x061 => { vals := off }
  | 0x062 => { vals := off }
  | 0x064 => { d := .s 2 2, vals := off }
  | 0x066 => { a := .k, vals := off }
  | 0x067 => { a := .k, vals := off }
  | 0x068 => { a := .k, vals := off }
  | 0x069 => { a := .k, vals := off }
  | _ => { d := .s 1 1, a := .s 1 1 }

/-- The selectors of 09 Table 9.2 that an instruction accepts, up to `hi`. -/
def selOk (e : FEnv) (c : BitVec 8) (hi : Nat) : Bool :=
  decide (c.toNat ≤ hi) && !(e.mcc && (c.toNat == 0x10 || c.toNat == 0x11))

/-- May wld, mmaz and mma issue under a fmt (01 R26)? -/
def matFmt (f : W) : Bool :=
  let a := decide (0x13 ≤ fmtA f)
  let b := decide (0x13 ≤ fmtB f)
  if fmtAcc f then a && b && !fmtScale f else !a && !b

/-- The long entries of the uniform set, 03 Table 3.9. -/
def uniSpec (e : FEnv) (op9 : Nat) (w : Long) : FSpec :=
  let x := w.x
  let t := xType x
  let xn := x.toNat
  match op9 with
  | 0x00B => { d := st t, a := st t, b := st t, x := xok x i4 0 0 false }
  | 0x00C => { d := st t, a := st t, b := st t, x := xok x i4 0 0 false }
  | 0x00D => { d := .s 1 1, a := .s 1 1, b := .s 1 1, x := x == 0 }
  | 0x010 => { a := st t, b := st t, x := xok x i4 5 0 false }
  | 0x011 => { d := .s 1 1, a := .s 1 1, x := bfX x true, vals := decide (bfPos x + bfLen x ≤ 32) }
  | 0x012 => { d := .s 1 1, a := .s 1 1, b := .s 1 1, x := bfX x false, vals := decide (bfPos x + bfLen x ≤ 32) }
  | 0x015 => { d := .s 2 2, a := .s 2 2, b := st t, x := xok x [tS32, tN32, tS64] 3 0 false }
  | 0x06B => { a := .k, x := decide (xn < 2048) && decide (xn % 256 < 2 ^ (bits xn 10 8 + 1)) }
  | 0x070 =>
    if xn = 0x0000 then { a := .s 1 1 }
    else if xn = 0x0100 then { a := .s 1 1 }
    else if xn = 0x0200 then { b := .n, c := .n, vals := fmtOk (256 * w.b.toNat + w.c.toNat) }
    else { x := false }
  | 0x072 =>
    { d := if bit xn 8 then .v 1 1 else .s 1 1, x := decide (xn < 512)
      vals := (if bit xn 8 then spLane (xn % 256) else spSquad (xn % 256)) && (!e.mcc || spMcc (xn % 256)) }
  | 0x0A6 => { d := .v 2 2, b := .s 2 2, x := x == 0 }
  | 0x0A7 => { d := .v 2 2, b := .s 2 2, c := .ko, x := x == 0 }
  | 0x0A8 => { a := .s 2 2, b := .s 1 1, x := x == 0 }
  | 0x0A9 => { a := .s 2 2, b := .s 1 1, x := x == 0 }
  | 0x0AA => { a := .s 2 2, b := .s 1 1, x := x == 0 }
  | 0x0E0 => { d := .s 2 2, a := .s 7 4, c := .n, x := decide (xn < 16) && bits xn 3 2 != 3, vals := decide (w.c.toNat ≤ 15) }
  | 0x0E1 => { d := .s 2 2, a := .s 10 4, c := .n, x := decide (xn < 16) && bits xn 3 2 != 3, vals := decide (w.c.toNat ≤ 15) }
  | 0x0E2 => { d := .s 2 2, a := .s 7 4, x := decide (xn < 128) && bits xn 4 3 != 3 && bits xn 6 5 != 3 }
  | 0x0E3 => { d := .s 2 2, a := .s 7 4, x := decide (xn < 8) && bits xn 2 1 != 3 }
  | 0x0E4 => { d := .s 2 2, a := .s 2 2, b := .s 1 1, x := x == 0 }
  | 0x0E8 => { d := .s 2 2, c := .n, x := decide (xn ≤ 1), vals := selOk e w.c 0x12 }
  | 0x0E9 => { a := .s 2 2, c := .n, x := x == 0, vals := selOk e w.c 0x12 }
  | 0x0EA => { d := .s 2 2, a := .s 1 1, b := .s 1 1, c := .n, x := decide (xn < 3), vals := selOk e w.c 0x11 }
  | 0x0EB => { a := if xn = 1 then .s 2 2 else .s 1 1, b := .s 2 2, x := decide (xn ≤ 1) }
  | 0x0F0 => { a := .s 1 1, b := if xn = 1 then .z else .s 1 1, x := decide (xn ≤ 1) }
  | 0x0F1 => { d := .s 1 1, a := .s 1 1, x := x == 0 }
  | 0x0F2 => { a := .s 1 1, b := .s 1 1, x := x == 0 }
  | 0x0F3 => { a := .s 1 1, x := x == 0 }
  | 0x0F4 => { b := .n, c := .n, x := x == 0, vals := decide (w.b.toNat ≤ 15 ∧ w.c.toNat ≤ 32) }
  | 0x0F5 => { b := .n, x := x == 0, vals := e.levels.contains w.b.toNat }
  | 0x0F8 => { a := .s 2 2, b := .v 14 1, x := x == 0 }
  | 0x0F9 => { a := .s 1 1, b := .s 1 1, x := x == 0 }
  | 0x0FA => { b := .n, x := x == 0, vals := decide (w.b.toNat ≤ 15) }
  | 0x0FB => { x := x == 0 }
  | 0x0FC => { a := .s 2 2, b := .n, x := decide (xn ≤ 1), vals := decide (w.b.toNat ≤ 7) }
  | 0x0FD => { d := .s 2 2, b := .n, x := decide (xn ≤ 1), vals := decide (w.b.toNat ≤ 7) }
  | 0x140 => { a := .s 1 1, b := .s 16 1, x := x == 0 }
  | 0x141 => { d := .w, a := .s 1 1, b := .s 1 1, c := .s 1 1, x := x == 0, vals := matFmt e.fmt }
  | 0x142 => { d := .a, a := .s 1 1, b := .w, c := .s 1 1, x := x == 0, vals := matFmt e.fmt }
  | 0x143 => { d := .a, a := .s 1 1, b := .w, c := .s 1 1, x := x == 0, vals := matFmt e.fmt }
  | 0x144 => { d := .s 1 1, a := .a, b := if bit (xSub x) 1 then .s 1 1 else .z, x := xok x [0] 3 4 false }
  | 0x145 => { d := .a, a := if xSub x = 1 then .s 1 1 else .z, x := xn == 0 || xn == 0x0100 }
  | 0x146 => {}
  | 0x147 => { a := if xSub x = 1 then .s 1 1 else .z, b := if xSub x = 1 then .s 1 1 else .z
               x := xn == 0 || xn == 0x0100 }
  | 0x181 => { d := .s 1 1, vals := csrKnown xn }
  | 0x182 => { a := .s 1 1, vals := csrKnown xn }
  | _ => {}

/-- Who may issue a uniform op9 (02 R53, 04 Table 4.1, 07 R135, 08, 09 Table 9.1). Lane op9s belong to squads. -/
def uniWho (op9 : Nat) : Who :=
  if op9 ≤ 0x01F then .both
  else if op9 ≤ 0x047 then .squad
  else if op9 ≤ 0x065 then .both
  else if op9 ≤ 0x06B then .squad
  else if op9 = 0x071 ∨ op9 = 0x073 then .squad
  else if op9 ≤ 0x077 then .both
  else if op9 = 0x0A0 then .both
  else if op9 ≤ 0x0A7 then .squad
  else if op9 ≤ 0x0AA then .both
  else if op9 ≤ 0x0E1 then .both
  else if op9 ≤ 0x0E4 then .squad
  else if op9 ≤ 0x0F3 then .both
  else if op9 ≤ 0x0FB then .squad
  else if op9 ≤ 0x0FD then .cluster
  else if op9 ≤ 0x147 then .mcc
  else if op9 = 0x181 ∨ op9 = 0x182 then .both
  else .squad

/-! ### The checks -/

/-- Check 8 for one field: a class-Z field holds zero (03 R58). -/
def FC.zeroOk (f : FC) (v : Nat) : Bool :=
  match f with
  | .z => v == 0
  | _ => true

/-- Check 9 for one field: the registers it names exist, lie below the allotment and k0 is no destination. -/
def FC.regOk (e : FEnv) (f : FC) (v : Nat) : Bool :=
  match f with
  | .z => true
  | .n => true
  | .v cnt al => v % al == 0 && decide (v + cnt ≤ e.vallot)
  | .s cnt al => v % al == 0 && decide (v + cnt ≤ e.sallot)
  | .k => decide (v < 8)
  | .kd cnt => decide (1 ≤ v ∧ v + cnt ≤ 8)
  | .ko => decide (v < 8)
  | .a => decide (v < 8)
  | .w => decide (v < 64)

/-- Checks 8 to 10 on a long word: the first reason that fails. -/
def FSpec.checkLong (e : FEnv) (f : FSpec) (w : Long) : Option Nat :=
  if !(f.d.zeroOk w.d.toNat && f.a.zeroOk w.a.toNat && f.b.zeroOk w.b.toNat && f.c.zeroOk w.c.toNat &&
      (w.m.toNat &&& f.m) == w.m.toNat && f.x) then some 6
  else if !(f.d.regOk e w.d.toNat && f.a.regOk e w.a.toNat && f.b.regOk e w.b.toNat && f.c.regOk e w.c.toNat) then some 7
  else if !f.vals then some 8 else none

/-- Checks 8 to 10 on a short word. -/
def FSpec.checkShort (e : FEnv) (f : FSpec) (w : Short) : Option Nat :=
  if !(f.d.zeroOk w.d.toNat && f.a.zeroOk w.a.toNat && f.b.zeroOk w.b.toNat) then some 6
  else if !(f.d.regOk e w.d.toNat && f.a.regOk e w.a.toNat && f.b.regOk e w.b.toNat) then some 7
  else if !f.vals then some 8 else none

/-- Checks 8 to 10 on a literal word. -/
def FSpec.checkLit (e : FEnv) (f : FSpec) (w : Lit) : Option Nat :=
  if !(f.d.zeroOk w.d.toNat && f.a.zeroOk w.a.toNat && (w.m.toNat &&& f.m) == w.m.toNat) then some 6
  else if !(f.d.regOk e w.d.toNat && f.a.regOk e w.a.toNat) then some 7
  else if !f.vals then some 8 else none

/-- The vector registers a field names. -/
def FC.vregs (f : FC) (v : Nat) : List Nat :=
  match f with
  | .v cnt _ => (List.range cnt).map (v + ·)
  | _ => []

/-- The registers that a field names for the scoreboard: vector registers, and mask register n as 256 + n. -/
def FC.regs (f : FC) (v : Nat) : List Nat :=
  match f with
  | .k => if v = 0 then [] else [256 + v]
  | .ko => if v = 0 then [] else [256 + v]
  | .kd cnt => (List.range cnt).map (256 + v + ·)
  | _ => f.vregs v

end Sys2Proof.Machine
end

