-- ==== Sys2Proof/Machine/Special.lean ====
section
/-! DEFINITION. The special functions of 05 R114, Table 5.5. frcp and fsqrt are correctly rounded; the others have an error
bound of 1 ulp: outside their exact cases the result is one of the two FP32 values that enclose the exact value, and which
one is the free choice Config.sfuUp (log 12). The enclosing pair is computed by integer arithmetic on 2^-200 fixed point
(for frsq exactly). -/

namespace Sys2Proof.Machine

/-- Integer square root by bits, structural on fuel. -/
def isqrtGo : Nat → Nat → Nat → Nat
  | 0, _, r => r
  | k + 1, n, r =>
    let c := r + 2 ^ k
    if c * c ≤ n then isqrtGo k n c else isqrtGo k n r

/-- The greatest r with r × r ≤ n. -/
def isqrt (n : Nat) : Nat := isqrtGo (blen n / 2 + 1) n 0

/-- The fixed point of the series: values are numerators over 2^200. -/
def fpW : Nat := 200

/-- Product of two fixed-point numbers. -/
def fmulI (a b : Int) : Int := (a * b) / ((2 ^ fpW : Nat) : Int)

/-- Sum of x^k / k! from the k-th term on: `t` is the term, structural on fuel. -/
def expGo : Nat → Nat → Int → Int → Int → Int
  | 0, _, _, _, acc => acc
  | n + 1, k, x, t, acc => expGo n (k + 1) x (fmulI t x / ((k + 1 : Nat) : Int)) (acc + t)

/-- Sum of z^(2k+1) / (2k+1). -/
def atanhGo : Nat → Nat → Int → Int → Int → Int
  | 0, _, _, _, acc => acc
  | n + 1, k, z2, t, acc => atanhGo n (k + 1) z2 (fmulI t z2) (acc + t / ((2 * k + 1 : Nat) : Int))

/-- ln of a fixed-point number between 1 and 2: 2 atanh((m - 1) / (m + 1)). -/
def lnFix (m : Int) : Int :=
  let one : Int := ((2 ^ fpW : Nat) : Int)
  let z := ((m - one) * one) / (m + one)
  2 * atanhGo 64 0 (fmulI z z) z 0

/-- ln 2 in fixed point. -/
def ln2Fix : Int := lnFix (((2 ^ (fpW + 1) : Nat) : Int))

/-- pi in fixed point by Machin's formula, from sums of (-1)^k / ((2k+1) n^(2k+1)). -/
def atanGo : Nat → Nat → Int → Int → Int → Int
  | 0, _, _, _, acc => acc
  | f + 1, k, n2, t, acc =>
    atanGo f (k + 1) n2 (t / n2) (if k % 2 = 0 then acc + t / ((2 * k + 1 : Nat) : Int) else acc - t / ((2 * k + 1 : Nat) : Int))

def piFix : Int :=
  let one : Int := ((2 ^ fpW : Nat) : Int)
  4 * (4 * atanGo 48 0 25 (one / 5) 0 - atanGo 16 0 57121 (one / 239) 0)

/-- Alternating series of sine from its term t = x^(2k+1) / (2k+1)!. -/
def sinGo : Nat → Nat → Int → Int → Int → Int
  | 0, _, _, _, acc => acc
  | n + 1, k, x2, t, acc =>
    sinGo n (k + 1) x2 (-(fmulI t x2) / (((2 * k + 2) * (2 * k + 3) : Nat) : Int)) (acc + t)

/-- Alternating series of cosine from its term. -/
def cosGo : Nat → Nat → Int → Int → Int → Int
  | 0, _, _, _, acc => acc
  | n + 1, k, x2, t, acc =>
    cosGo n (k + 1) x2 (-(fmulI t x2) / (((2 * k + 1) * (2 * k + 2) : Nat) : Int)) (acc + t)

/-- The result of a value known to lie strictly between two FP32 neighbours (sign, magnitude m × 2^e, not exactly
representable): one of the two, nx, and uf when the result is subnormal or zero (log 12). -/
def oneUlp (fn : Nat) (x : W) (neg : Bool) (m : Nat) (e : Int) : W × Nat :=
  let mode := if Config.sfuUp fn x then Rnd.ru else Rnd.rd
  -- a low bit below the fixed point makes the value inexact in every case
  let r := fp32.round mode false (.fin neg (2 * m + 1) (e - 1))
  let small := decide (bits r.1 30 23 = 0)
  (w32 r.1, (r.2 &&& fOF) ||| fNX ||| (if small then fUF else 0))

/-- A result that is exact. -/
def exactF (v : FV) : W × Nat := (w32 (fp32.round .rne false v).1, 0)

/-- The canonical NaN with flags. -/
def nanF (fl : Nat) : W × Nat := (w32 fp32.nanPat, fl)

/-- nx and the uf rule of 05 R114 for a correctly rounded result. -/
def sfuFlags (r : Nat × Nat) : W × Nat :=
  let inex := r.2 &&& fNX != 0
  (w32 r.1, (r.2 &&& fOF) ||| (if inex then fNX ||| (if bits r.1 30 23 = 0 then fUF else 0) else 0))

/-- 1 ÷ x: 2^160 times the reciprocal with a sticky bit, rounded once. -/
def sfuRcp (x : FV) : W × Nat :=
  match x with
  | .nan s => nanF (if s then fNV else 0)
  | .inf n => exactF (.fin n 0 0)
  | .fin n m e =>
    if m = 0 then (w32 (fp32.signPat n + fp32.infPat), fDZ)
    else
      let q := 2 ^ 160 / m
      let st := if 2 ^ 160 % m = 0 then 0 else 1
      sfuFlags (fp32.round .rne false (.fin n (2 * q + st) (-161 - e)))

/-- √x with a sticky bit, rounded once. -/
def sfuSqrt (x : FV) : W × Nat :=
  match x with
  | .nan s => nanF (if s then fNV else 0)
  | .inf n => if n then nanF fNV else exactF (.inf false)
  | .fin n m e =>
    if m = 0 then exactF (.fin n 0 0)
    else if n then nanF fNV
    else
      let odd := e % 2 ≠ 0
      let mm := (if odd then 2 * m else m) * 2 ^ 120
      let ee := (if odd then e - 1 else e) / 2 - 60
      let r := isqrt mm
      let st := if r * r = mm then 0 else 1
      sfuFlags (fp32.round .rne false (.fin false (2 * r + st) (ee - 1)))

/-- 1 ÷ √x. -/
def sfuRsq (w : W) : W × Nat :=
  match f32 w with
  | .nan s => nanF (if s then fNV else 0)
  | .inf n => if n then nanF fNV else exactF (.fin false 0 0)
  | .fin n m e =>
    if m = 0 then (w32 (fp32.signPat n + fp32.infPat), fDZ)
    else if n then nanF fNV
    else
      -- 1 / sqrt(m 2^e) = sqrt(2^400 / m') 2^(-200 - e'/2) with m 2^e = m' 2^e', e' even
      let odd := e % 2 ≠ 0
      let mm := if odd then 2 * m else m
      let ee := (if odd then e - 1 else e) / 2
      let q := 2 ^ 400 / mm
      let r := isqrt q
      if r * r * mm = 2 ^ 400 then exactF (.fin false r (-200 - ee))
      else oneUlp 1 w false r (-200 - ee)

/-- 2^x. -/
def sfuExp2 (w : W) : W × Nat :=
  match f32 w with
  | .nan s => nanF (if s then fNV else 0)
  | .inf n => if n then exactF (.fin false 0 0) else exactF (.inf false)
  | .fin n m e =>
    if m = 0 then exactF (.fin false 1 0)
    else if !n && !(FV.lt (.fin n m e) (FV.ofInt 128)) then (w32 fp32.infPat, fOF ||| fNX)
    else if n && FV.lt (.fin n m e) (FV.ofInt (-1000)) then oneUlp 3 w false 1 (-1000)
    else
      let r := roundInt .rd n m e
      if !r.2 then
        (if r.1 < -149 then oneUlp 3 w false 1 r.1 else exactF (.fin false 1 r.1))
      else
        -- fraction f = x - floor x in fixed point, then exp(f ln 2)
        let xf : Int := if 0 ≤ e then 0 else
          (sgnAt n m e e * ((2 ^ fpW : Nat) : Int)) / ((2 ^ (-e).toNat : Nat) : Int)
        let f := xf - r.1 * ((2 ^ fpW : Nat) : Int)
        let y := expGo 64 0 (fmulI f ln2Fix) ((2 ^ fpW : Nat) : Int) 0
        oneUlp 3 w false y.toNat (r.1 - fpW)

/-- log2 x. -/
def sfuLog2 (w : W) : W × Nat :=
  match f32 w with
  | .nan s => nanF (if s then fNV else 0)
  | .inf n => if n then nanF fNV else exactF (.inf false)
  | .fin n m e =>
    if m = 0 then (w32 (0x80000000 + fp32.infPat), fDZ)
    else if n then nanF fNV
    else
      let l := blen m
      let k : Int := e + (l : Int) - 1
      if m = 2 ^ (l - 1) then exactF (FV.ofInt k)
      else
        let mf : Int := ((m * 2 ^ (fpW - (l - 1)) : Nat) : Int)
        let lg := (lnFix mf * ((2 ^ fpW : Nat) : Int)) / ln2Fix
        let v := k * ((2 ^ fpW : Nat) : Int) + lg
        oneUlp 4 w (decide (v < 0)) v.natAbs (-(fpW : Int))

/-- sin(π x) or cos(π x) of x: x is reduced to r in [0, 2), an octant at a time by symmetry. -/
def sfuTrig (isCos : Bool) (w : W) : W × Nat :=
  match f32 w with
  | .nan s => nanF (if s then fNV else 0)
  | .inf _ => nanF fNV
  | .fin n m e =>
    if m = 0 then (if isCos then exactF (FV.ofInt 1) else exactF (.fin n 0 0))
    else
      -- |x| as a multiple of 2^-149, reduced modulo 2
      let a := m * 2 ^ (e + 149).toNat
      let u := 2 ^ 149
      let r := a % (2 * u)
      let half := u / 2
      let isInt := r % u = 0
      let isHalf := !decide isInt && r % half == 0
      if isCos then
        if isInt then exactF (FV.ofInt (if r = 0 then 1 else -1))
        else if isHalf then exactF (.fin false 0 0)
        else
          -- cos is even: r in (0, 2); reflect to (0, 1), then sign at a half
          let r1 := if u < r then 2 * u - r else r
          let ng := decide (half < r1)
          let q := if ng then u - r1 else r1
          let x := fmulI piFix ((q * 2 ^ (fpW - 149) : Nat) : Int)
          let y := if 4 * q < u then cosGo 48 0 (fmulI x x) ((2 ^ fpW : Nat) : Int) 0
            else
              let z := fmulI piFix (((half - q) * 2 ^ (fpW - 149) : Nat) : Int)
              sinGo 48 0 (fmulI z z) z 0
          -- below 1 however small the argument
          let y := min y ((2 ^ fpW - 1 : Nat) : Int)
          oneUlp 6 w ng y.toNat (-(fpW : Int))
      else
        if isInt then exactF (.fin n 0 0)
        else
          let ng := (decide (u < r)) != n
          let r1 := if u < r then r - u else r
          let q := if half < r1 then u - r1 else r1
          if isHalf then exactF (.fin ng 1 0)
          else if q * 2 ^ 40 < u then
            -- a small argument: the product with pi keeps enough bits of its own
            let p := (piFix.toNat * q)
            oneUlp 5 w ng p (-(fpW : Int) - 149)
          else
            let x := fmulI piFix ((q * 2 ^ (fpW - 149) : Nat) : Int)
            let y := if 4 * q < u then sinGo 48 0 (fmulI x x) x 0
              else
                let z := fmulI piFix (((half - q) * 2 ^ (fpW - 149) : Nat) : Int)
                cosGo 48 0 (fmulI z z) ((2 ^ fpW : Nat) : Int) 0
            oneUlp 5 w ng y.toNat (-(fpW : Int))

/-- The special function of an op9 of 05 Table 5.5, counted from 0x0C0, on an operand pattern. -/
def sfuFn (fn : Nat) (x : W) : W × Nat :=
  match fn with
  | 0 => sfuRcp (f32 x)
  | 1 => sfuRsq x
  | 2 => sfuSqrt (f32 x)
  | 3 => sfuExp2 x
  | 4 => sfuLog2 x
  | 5 => sfuTrig false x
  | _ => sfuTrig true x

end Sys2Proof.Machine
end

