-- ==== Sys2Proof/Machine/State.lean ====
section
/-! DEFINITION. The state of one Y90 package as plain data (02_programmer_state.md and every chapter that names state;
INVENTORY.md lists each piece with its rule and its reset value), the two reasons a step can stop, and the machine after
a cold reset (00 R6, 24 R368). -/

namespace Sys2Proof.Machine

/-- Why a step stops with a fault. -/
inductive Fault where
  /-- Raised by the meaning of an instruction row when neither a squad nor an MCC is in focus: nobody issues it. `step`
  never does that. Safe: the machine has no such event. -/
  | noIssuer
deriving DecidableEq, Repr

/-- Why a step is refused. -/
inductive Refusal where
  /-- Raised by the dispatcher for a row without a meaning. Safe: the model stops. -/
  | notModelled (mnemonic : String)
deriving DecidableEq, Repr

/-- The trap causes of 18 Table 18.1. -/
inductive Cause where
  | illegalInstruction | splitOverflow | softwareTrap | breakpoint | memMisaligned | addrRange | scratchRange
  | shoalWindow | memProtect | memClass | rangeArmed | barrierClobber | vsnapRevoked | poisonedData | fetchFault
  | pageFault | ringfmt | recfmt | matFormat | matShape | slotEmpty | spmeta | barKind | barBusy | barArg
  | copyOverlap | spawnArg | queueDenied | shoalState | roleStall | engineFault
deriving DecidableEq, Repr

/-- What a trap reports besides its cause: the reason of illegal_instruction or the code of software_trap, the fault
address and the lane that gave it (18 R294). -/
structure TrapInfo where
  cause : Cause
  sub   : Nat := 0
  addr  : Nat := 0
  lane  : Nat := 0
deriving DecidableEq, Repr

/-- The kind of a reconvergence stack entry (04 R90). -/
inductive EntryKind where
  | deferred | parked
deriving DecidableEq, Repr

/-- A reconvergence stack entry (02 Table 2.2, 04 R90). -/
structure StackEntry where
  pc   : D
  kind : EntryKind
  mask : Mask
  fmt  : W
deriving DecidableEq, Repr

/-- A split (02 Table 2.1) with the data of its open pblk block (03 R66). The stack's head is its top. -/
structure Split where
  num     : Nat
  pc      : D
  mask    : Mask
  fmt     : W
  blkPos  : BitVec 4
  blkPat  : BitVec 8
  blkN    : Nat
  blkK    : Mask
  blkA    : Mask
  stack   : List StackEntry
  waiting : Bool
deriving DecidableEq, Repr

/-- The frame CSRs of a squad (18 Table 18.3); `tpc0` is the TPC that delivery wrote (18 R298). -/
structure Frame where
  tcause : W
  tpc    : D
  tpc0   : D
  tword0 : W
  tword1 : W
  taddr  : D
  tsplit : W
  tblkk  : W
  tblka  : W
  ts     : List W
  tscc   : Bool
  ttx    : Bool
  tdoom  : Bool
  tfmt   : W
  ttick  : D
  tlane  : W
deriving DecidableEq, Repr

/-- The states of a squad (10 Table 10.3). -/
inductive RunSt where
  | ready | blocked | halted | exiting
deriving DecidableEq, Repr

/-- A wake condition: its kind and operands (10 Table 10.4). -/
structure Wake where
  kind : Nat
  op0  : Nat := 0
  op1  : Nat := 0
deriving DecidableEq, Repr

/-- The instruction an agent is running: its address and words. -/
structure Cur where
  pc : D
  w0 : W
  w1 : W
deriving DecidableEq, Repr

/-- The attributes of a leaf (19 Table 19.2). -/
structure Leaf where
  frame : Nat
  home  : Nat
  sealed : Bool
  upd   : Bool
  cls   : Nat
  sup   : Bool
  x     : Bool
  w     : Bool
  rd    : Bool
  level : Nat
deriving DecidableEq, Repr

/-- A cached translation (19 R311): in the L1 TLB of a CU (`place` is its cache number), in a cluster's TLB (1000 + cluster), or held
by the access that waited for its walk. -/
structure Tlb where
  ctx   : Nat
  base  : Nat
  leaf  : Leaf
  place : Nat
deriving DecidableEq, Repr

/-- A write of the lanes of one vector register: register, lanes, the 32 values; register 256 + n is mask register n, bit by bit. -/
structure VWrite where
  reg   : Nat
  lanes : Mask
  vals  : List W
deriving DecidableEq, Repr

/-- An entry of a replay queue (18 R296): results of an instruction that issued before a trap. -/
structure Replay where
  cur     : Cur
  handler : Bool
  lanes   : Mask
  writes  : List VWrite
  flags   : W
  energy  : Nat
deriving DecidableEq, Repr

/-- An instruction whose results may not have retired yet (18 R296): a load, a lane exchange or a ring operation, its lanes, what its
destination registers held before it, and its flags, which the squad's flags take when it retires (01 R27). Until a later instruction
names one of those registers nobody can tell whether it has retired. -/
structure Late where
  cur     : Cur
  handler : Bool
  lanes   : Mask
  old     : List VWrite
  flags   : W := 0
deriving DecidableEq, Repr

/-- A line with some of its bytes: a pending line of a squad (07 R138) or a line of the epilogue buffer (08 R173).
`line` is the line's key (physical address of home package and byte, divided by 128); `cls` the class of its page
(19 Table 19.2); `upd` its update-only attribute; `tx` marks a transactional line; scratchpad lines of the epilogue
buffer have `scr`. -/
structure PLine where
  line  : Nat
  cls   : Nat
  upd   : Bool
  tx    : Bool
  scr   : Bool
  ctx   : Nat
  bytes : List (Nat × Byte)
deriving DecidableEq, Repr

/-- What an engine command does (09 Table 9.3, R187, R189). -/
inductive CmdKind where
  | cpy | gath | rcpy | rsig | sig
deriving DecidableEq, Repr

/-- What is left of an instruction after a wait (10 R215). The operands were captured at issue; `ea` is a scratch address
of the issuer, `va` a virtual address, which is translated when the part runs, `key` the key of a scratchpad byte. -/
inductive MOp where
  | publish                              -- Publish without its wait (07 R151)
  | waitAck                              -- the acknowledgement wait (kind 0x0B)
  | observe (st : Stamp)                 -- raise the observed stamp
  | snap                                 -- the slack-water wait and the renewal (kind 0x10)
  | txEnter                              -- enter transaction state (07 R152)
  | relWrite (acc : List (Nat × Nat × Nat × Nat)) -- st.rel: lane, va, width in bytes, value
  | collapseDo (lines : List Nat)        -- the collapses that a plain load forces (11 R236)
  | acqRead (d w : Nat) (acc : List (Nat × Nat))  -- ld.acq: lane and va of each access
  | atomDo (op ty d : Nat) (acq rel : Bool) (acc : List (Nat × Nat))
  | txLock (c : Stamp) (lines : List Nat) -- the lock phase of txend (07 R154), a line at a time
  | txCommit (c : Stamp)                 -- the commit, once every lock is held
  | reissue                              -- the instruction issues again, its PC unchanged
  | arriveObj (ea : Nat) (dst : Option Nat) (wait : Bool)
  | waitObj (ea key : Nat) (phase : W)
  | arriveSync (bid count : Nat)
  | waitSync (bid phase : Nat)
  | arriveLvl (level : Nat)
  | waitLvl (level phase : Nat)
  | waitTl (sel n : Nat)
  | waitWord (ea target : Nat)
  | waitWordG (va target : Nat)
  | ldsDo (d w : Nat) (acc : List (Nat × Nat × Nat))          -- lds: lane, address and key of each access
  | ldsmDo (op9 c d : Nat) (rows : List (Nat × Nat)) (lanes : Mask) -- ldsm, ldsm.t: address and key of each row
  | stsDo (acc : List (Nat × Nat × Nat × Nat))                -- sts: address, key, width in bytes, value
  | emit (entry : Nat) (words : List W)  -- one continuation record (09 R195)
  | postDo (ea q ring lsize : Nat)
  | sendDo (ch : Nat) (v : D) (reserved : Bool)
  | recvDo (ch d : Nat)
  | roleDo (n : Nat)
  | mrecDo (ea : Nat) (words : List W)
  | rcpyDo (d x : Nat) (group : List W)
  | lutDo (flip : Bool) (base : Nat) (lanes : Mask) (vals slopes : List W)
  | leaveDo
  | walkLines (op lo len : Nat)          -- the walk of cwb, cinv, cwbinv (07 R148)
  | walkAck                              -- and its wait for the acknowledgements of what it wrote back
  | mfenceEnd (sig : Option (Nat × Nat)) -- scratch address and addend
  | mccEnd
  | exitDo
deriving DecidableEq, Repr

/-- A resident squad (02 Tables 2.1, 2.3, 2.8; 07; 10; 18). `sp` is the split that issues, `rest` the others; `due` is the
energy that the instruction in progress adds when it retires (23 R365), `turn` the split that issued last (10 R218), `curPos` the
block position at which `cur` issued; `inLine` is the line in whose wait list the squad stands (12 R254), `got` the translations that
the instruction in progress has waited for (19 R312), `late` what has perhaps not retired (18 R296), `heldRfe` says that an rfe was
found held (18 R298). -/
structure Squad where
  id        : Nat
  ctx       : Nat
  launch    : Nat
  team      : Nat
  idx       : Nat
  cache     : Nat
  sub       : Nat
  slot      : Nat
  sp        : Split
  rest      : List Split
  vregs     : List (List W)
  sregs     : List W
  kregs     : List Mask
  scc       : Bool
  part      : W
  flags     : W
  txcode    : W
  tide      : Stamp
  obs       : Stamp
  launchTide : Stamp
  ack       : Nat
  role      : Nat
  vallot    : Nat
  sallot    : Nat
  prio      : Nat
  gtsHi     : W
  filled    : Mask
  huddle    : Bool
  st        : RunSt
  prior     : RunSt
  wake      : Option Wake
  todo      : List MOp
  cur       : Cur
  walk      : Option Nat
  denied    : Bool
  missVa    : Nat
  tx        : Bool
  doomed    : Option Nat
  pending   : List PLine
  own       : List Host.Cell
  handler   : Bool
  frame     : Frame
  replay    : List Replay
  engFault  : Bool
  stopReq   : Bool
  preempt   : Bool
  energy    : Nat
  age       : Nat
  lastIssue : Nat
  waitSince : Nat
  badRegs   : List (Bool × Nat × Nat)
  ctxsel    : Nat
  due       : Nat
  faultLane : Nat
  turn      : Nat
  curPos    : BitVec 4
  inLine    : Option Nat
  got       : List Tlb
  late      : List Late
  heldRfe   : Bool
deriving DecidableEq, Repr

/-- A weight slot (02 Table 2.11, 08 R168): raw codes at key 256 k + n, scales at key 256 block + n. -/
structure Slot where
  filled : Bool
  fcode  : Nat
  sparse : Nat
  bscale : Bool
  krows  : Nat
  elems  : List (Nat × W)
  scales : List (Nat × Byte)
deriving DecidableEq, Repr

/-- What a pass in the array queue multiplies (08 R170): its A record, column, formats, slot and accumulator, and its A bytes: address, key,
and what the byte has held since the issue, oldest first. -/
structure PassIn where
  recd : List Byte
  kst  : Nat
  fmt  : W
  zero : Bool
  acc  : Nat
  slot : Slot
  old  : List (Nat × Nat × List Byte)
deriving DecidableEq, Repr

/-- A matrix instruction in the array queue (08 R159): its result, written when it retires. -/
structure MPass where
  acc   : Option (Nat × List (Nat × W))
  slot  : Option (Nat × Slot)
  lines : List PLine
  reads : List Nat
  rslot : Option Nat
  flags : W
  energy : Nat
  late  : Option PassIn
deriving DecidableEq, Repr

/-- The matrix control core of one cluster (02 Table 2.11, 08). `cl` is 32 die + logical cluster; `matErr` are the granules of matrix
storage that failed since its last mfence (22 R351), `forced` as in a command. -/
structure Mcc where
  id       : Nat
  cl       : Nat
  ctx      : Nat
  launch   : Nat
  running  : Bool
  halted   : Bool
  exiting  : Bool
  pc       : D
  entry    : D
  args     : D
  fmt0     : W
  sregs    : List W
  scc      : Bool
  fmt      : W
  flags    : W
  tide     : Stamp
  obs      : Stamp
  launchTide : Stamp
  ack      : Nat
  gtsHi    : W
  acc      : List (List (Nat × W))
  slots    : List Slot
  restart  : D
  hasRestart : Bool
  ckptS    : List W
  ckptScc  : Bool
  ckptFmt  : W
  epi      : List PLine
  queue    : List MPass
  st       : RunSt
  wake     : Option Wake
  todo     : List MOp
  cur      : Cur
  walk     : Option Nat
  denied   : Bool
  missVa   : Nat
  stopped  : Option TrapInfo
  lastPub  : Option Stamp
  matErr   : List Nat
  engFault : Bool
  energy   : Nat
  ctxsel   : Nat
  due      : Nat
  inLine   : Option Nat
  got      : List Tlb
  badRegs  : List Nat
  forced   : List (Nat × Option Stamp × Option Stamp)
deriving DecidableEq, Repr

/-- A role record of a kernel header (03 Table 3.12). -/
structure RoleRec where
  entry : D
  vcode : Nat
  scode : Nat
  prio  : Nat
  relay : Bool
deriving DecidableEq, Repr

/-- A kernel header as the launch hardware holds it (03 Table 3.11). `va` is its address; levels are domain and teams
of levels 3 to 7. -/
structure Hdr where
  va      : Nat
  mcc     : Bool
  mccEntry : D
  scratch : Nat
  squads  : Nat
  tsize   : Nat
  huddle  : Nat
  fmt     : W
  roles   : List RoleRec
  levels  : List (Nat × Nat)
deriving DecidableEq, Repr

/-- A launch from its taking to its completion (17 R281 to R289). `snapOn` asks for a kernel snapshot; `k` is it.
A huddle launch is one too: `parents` are the launches whose squads spawned its records (17 R289). `since` is when its next team began to
wait, or to wait again after a wait for a resident slot, `waited` what it had waited before that (17 R288); `away` are teams with the other
members that hold them (10 R204). -/
structure Launch where
  id      : Nat
  ctx     : Nat
  queue   : Nat
  entry   : Nat
  card    : Nat
  hdr     : Hdr
  args    : D
  teams   : Nat
  snapOn  : Bool
  intr    : Bool
  dmask   : Nat
  dep     : Stamp
  k       : Option Stamp
  revoked : Bool
  next    : Nat
  doneSt  : Stamp
  since   : Nat
  waited  : Nat
  aged    : Bool
  away    : List (Nat × Nat)
  killed  : Bool
  huddle  : Bool
  parents : List Nat
deriving DecidableEq, Repr

/-- A hardware barrier of a team (09 R192) or a level barrier. -/
structure HwBar where
  phase   : Nat
  arrived : Nat
  count   : Nat
  gather  : Stamp
  last    : Stamp
deriving DecidableEq, Repr

/-- An armed range (09 R185): virtual addresses of its bytes from lo below hi,
armed until the done value of the CU's remote-copy context reaches target. -/
structure Range where
  lo     : Nat
  hi     : Nat
  target : Nat
deriving DecidableEq, Repr

/-- A resident team (10 R200 to R203, R217). `base` is the offset of its scratchpad on its CU; `held` are the sub-partition,
the slot and the two allotments that each retired squad keeps until the team exits. -/
structure Team where
  id      : Nat
  ctx     : Nat
  launch  : Nat
  num     : Nat
  cache   : Nat
  base    : Nat
  size    : Nat
  nsq     : Nat
  alive   : List Nat
  held    : List (Nat × Nat × Nat × Nat)
  huddle  : Bool
  tide    : Stamp
  bars    : List HwBar
  lvArr   : List Nat
  range   : List (Option Range)
  shoal   : Option Nat
  shSlot  : Nat
  engFault : W
  lut     : Option Nat
  stopping : Bool
  halted  : Bool
  trap    : Option (Nat × TrapInfo × Frame)
  exited  : Bool
deriving DecidableEq, Repr

/-- An activation table pair of a CU (05 R117): words at key 2 e for values and 2 e + 1 for slopes. -/
structure LutPair where
  cache : Nat
  num   : Nat
  sel   : Bool
  bank0 : List (Nat × W)
  bank1 : List (Nat × W)
deriving DecidableEq, Repr

/-- A typed barrier object (09 R190); `key` is its scratch key. -/
structure BarObj where
  key      : Nat
  expected : Nat
  arrived  : Nat
  phase    : W
  waiters  : Nat
  gather   : Stamp
  last     : Stamp
  team     : Nat
deriving DecidableEq, Repr

/-- A level barrier of one level region of a launch (09 R193); `far` are members and how many of their teams they have reported (20 R334). -/
structure LvlBar where
  launch  : Nat
  level   : Nat
  part    : Nat
  bar     : HwBar
  teams   : List Nat
  far     : List (Nat × Nat)
deriving DecidableEq, Repr

/-- One engine timeline (09 R179): `fin` lists commands completed above `done` with their stamps. -/
structure Timeline where
  issued : Nat
  done   : Nat
  stamp  : Stamp
  fin    : List (Nat × Stamp)
deriving DecidableEq, Repr

/-- The timeline set of one address space on one cluster (09 R179): 16 copy contexts, 4 gather, 4 remote-copy, MCC. -/
structure TlSet where
  ctx : Nat
  cl  : Nat
  tls : List Timeline
deriving DecidableEq, Repr

/-- An engine command outstanding (09 R182). `sel` is the place of its timeline in the set. `group` is its operand group,
`mode` its x field, `comp` the completion kind and `compEa` the scratch address of its word or object. `forced` are lines of other members
that its reads ask for: with the stamp asked for, none for the newest version, and that of the collapse that the read forced there (11 R236). -/
structure Cmd where
  id     : Nat
  kind   : CmdKind
  ctx    : Nat
  cl     : Nat
  sel    : Nat
  n      : Nat
  cache  : Nat
  team   : Option Nat
  squad  : Option Nat
  launch : Nat
  tide   : Stamp
  group  : List W
  mode   : Nat
  two    : Bool
  comp   : Nat
  compEa : Nat
  addend : W
  key    : Nat
  lines  : List Nat
  ticket : Option Nat
  walk   : Option Nat
  failed : Option Cause
  fin    : Option Stamp
  wait   : Nat
  got    : List Tlb
  forced : List (Nat × Option Stamp × Option Stamp)
deriving DecidableEq, Repr

/-- A message channel of a cluster (09 R198). -/
structure Chan where
  cl       : Nat
  num      : Nat
  msgs     : List (D × Stamp)
  reserved : Nat
deriving DecidableEq, Repr

/-- A continuation record (09 R195). -/
structure Rec where
  words : List W
  obs   : Stamp
  launch : Nat
deriving DecidableEq, Repr

/-- A bound huddle (10 R207). -/
structure Huddle where
  cl     : Nat
  num    : Nat
  closed : Bool
  closedAt : Nat
  ctx    : Nat
  entry  : D
  launch : Nat
  recs   : List Rec
  opened : Nat
  timer  : Nat
deriving DecidableEq, Repr

/-- A publication event that has landed on one line (11 R222), with the tag of the context whose write it was, 0x8000 for
none (22 R352). -/
structure Pub where
  line  : Nat
  st    : Stamp
  bytes : List (Nat × Byte)
  ctx   : Nat
deriving DecidableEq, Repr

/-- A write on its way to its home (11 R221), with what it charges: the squad whose counter it lowers, or the MCC, or an
engine command. `waiting` serves a full version store (19 R318); `dep` marks the bytes of a line that departs from its owner (11 R233),
`owned` bytes that ordered accesses wrote in an owned line, which are its current value before they land (11 R231). `far` is the member
and request that a write of another member answers (20 R326); `add` makes it the addition of a word at an offset (09 R189); `pre` is the
stamp of the collapse that its issuer forces before it (11 R236). -/
structure Msg where
  id       : Nat
  line     : Nat
  st       : Stamp
  bytes    : List (Nat × Byte)
  manual   : Bool
  squad    : Option Nat
  mcc      : Option Nat
  cmd      : Option Nat
  ctx      : Nat
  waiting  : Bool := false
  landed   : Bool := false
  dep      : Bool := false
  owned    : Bool := false
  far      : Option (Nat × Nat) := none
  add      : Option (Nat × W) := none
  pre      : Option Stamp := none
deriving DecidableEq, Repr

/-- Where a poisoned granule of a line lies (22 R349): in versions at its home; in the manual copy of a place, an L1's owned line, an
update-only copy or a squad's pending line; in a write on its way home. -/
inductive PoisonAt where
  | home
  | man (place : Nat)
  | own (cache : Nat)
  | upd (cache : Nat)
  | pend (squad : Nat)
  | msg (id : Nat)
deriving DecidableEq, Repr

/-- A poisoned granule of 32 bytes (22 R349): at its home in the versions from `frm` on, until that of stamp `upto`, which wrote it whole or
was there before the damage; elsewhere in the data that `place` holds. -/
structure Poison where
  gran   : Nat
  upto   : Option Stamp
  frm    : Stamp := Stamp.zero
  place  : PoisonAt := .home
deriving DecidableEq, Repr

/-- States of an L1 ownership entry (12 Table 12.2); I is the absence of an entry. -/
inductive L1St where
  | is | im | sm | ia | s | e | m | a | mi
deriving DecidableEq, Repr

/-- An ownership entry of an L1 (12 R250). `written` are the bytes written since it took M, `writers` the squads that did. -/
structure L1 where
  cache   : Nat
  line    : Nat
  st      : L1St
  ctx     : Nat
  written : List (Nat × Byte)
  writers : List Nat
  op      : Nat
  ty      : Nat
deriving DecidableEq, Repr

/-- A version copy in an L1 (12 R251), or in the L2 of a die (600 + die) of a line homed elsewhere (12 R245). -/
structure VCopy where
  cache : Nat
  line  : Nat
  vs    : Stamp
  stale : Option Stamp
deriving DecidableEq, Repr

/-- A manual copy (12 R261): in an L1 (cache number) or in the L2 of a die (600 + die). -/
structure Manual where
  place : Nat
  line  : Nat
  ctx   : Nat
  data  : List Byte
  dirty : BitVec 128
deriving DecidableEq, Repr

/-- An update-only copy (11 R234): words at their index in the line; an absent word is the identity. `port` says that it
lies in the die port's storage; `ctx` is the tag of the context that wrote it (22 R352). -/
structure ACopy where
  line  : Nat
  cache : Nat
  port  : Bool
  words : List (Nat × D)
  ctx   : Nat
deriving DecidableEq, Repr

/-- Home states (12 Table 12.3); HI is the absence of an entry. -/
inductive HomeSt where
  | hs | ho | ha | hv | hsx | hor | hac
deriving DecidableEq, Repr

/-- What waits at a home (12 R254). `inval` and `recallA` come from the true home of a line to the proxy that holds it: an event's
invalidation and a collapse recall, with the request that they answer (12 R258, R259). -/
inductive HomeReq where
  | shared (cache : Nat)
  | excl (cache : Nat)
  | upd (cache op ty : Nat) (firstA : Stamp)
  | event (msg : Nat)
  | read (cache : Nat) (t : Stamp)
  | collapse (agent : Nat)
  | access (agent : Nat)      -- a squad or MCC whose instruction needs the line
  | inval (pkg req : Nat) (st : Stamp)
  | recallA (pkg req : Nat)
deriving DecidableEq, Repr

/-- A directory entry of a home (12 R253). `acks` are dies still to answer, `parts` the partials that have arrived. -/
structure Home where
  line   : Nat
  st     : HomeSt
  owner  : Nat
  sharers : List Nat
  op     : Nat
  ty     : Nat
  firstA : Stamp
  pkgs   : List Nat
  acks   : List (Nat × Nat)
  parts  : List (Nat × Nat × List (Nat × D))
  cstamp : Stamp
  serving : Option HomeReq
  waits  : List HomeReq
deriving DecidableEq, Repr

/-- A publication event that has landed and that holders in other packages have still to answer (12 R256). -/
structure Note where
  line : Nat
  st   : Stamp
  pkgs : List Nat
deriving DecidableEq, Repr

/-- A line lock held by a committing transaction (07 R154). -/
structure Lock where
  line  : Nat
  squad : Nat
  st    : Stamp
  committing : Bool
deriving DecidableEq, Repr

/-- A page grant (12 R259): kind 0 shared, 1 exclusive, 2 update-only. `age` orders requests; `req` is the request that asked for it. -/
structure Grant where
  page : Nat
  pkg  : Nat
  kind : Nat
  op   : Nat
  ty   : Nat
  age  : Nat
  recalled : Bool
  req  : Nat
deriving DecidableEq, Repr

/-- An entry of a die's walk cache (19 R311): the table that the walk of addresses with an index path of a level leads to.
`path` is the address above the bits that the level's table resolves. -/
structure WalkEnt where
  die   : Nat
  ctx   : Nat
  level : Nat
  path  : Nat
  table : Nat
deriving DecidableEq, Repr

/-- A walk in flight (19 R312): agents waiting (squad or MCC ids) and engine commands waiting. -/
structure Walk where
  id     : Nat
  ctx    : Nat
  va     : Nat
  kind   : Nat
  src    : Nat
  agents : List Nat
  cmds   : List Nat
deriving DecidableEq, Repr

/-- An open fault ticket (19 R315). -/
structure Ticket where
  num    : Nat
  ctx    : Nat
  page   : Nat
  agents : List Nat
  cmds   : List Nat
deriving DecidableEq, Repr

/-- A fault that waits for a free ticket (19 R315): the ticket to be, and its record after the number. -/
structure Parked where
  ticket : Ticket
  rest   : List Byte
deriving DecidableEq, Repr

/-- A work queue (17 Table 17.2, R280, R283, R284). -/
structure Queue where
  num    : Nat
  tail   : Nat
  done   : Nat
  head   : Nat
  qfault : Bool
  qovf   : Bool
  fcode  : Nat
  doneSt : Stamp
  subs   : List (Nat × Stamp)
  fin    : List (Nat × Stamp)
  held   : List (Nat × Stamp)
  since  : Option Nat
  raised : Nat
  begun  : Nat
  refDep : Stamp
deriving DecidableEq, Repr

/-- An SFU instruction in a pipe (05 R115); `lut` is the bank a luteval captured, with its team. -/
structure SfuEnt where
  cache : Nat
  sub   : Nat
  squad : Nat
  rep   : Replay
  lut   : Option (Nat × Bool)
deriving DecidableEq, Repr

/-- A tagged instruction (23 R361): what its sample record will hold. -/
structure SampleTag where
  cur   : Cur
  tick  : Nat
  squad : Nat
  ctx   : Nat
  slotSplit : Nat
  sflags : Nat
  level : Nat
  lanes : Mask
deriving DecidableEq, Repr

/-- A sampler of a sub-partition (23 R361). -/
structure Sampler where
  cache : Nat
  sub   : Nat
  lfsr  : W
  count : Nat
  armed : Bool
  tag   : Option SampleTag
deriving DecidableEq, Repr

/-- What is kept of a saved context (18 R305). -/
structure Saved where
  teams   : List Team
  squads  : List Squad
  mccs    : List Mcc
  huddles : List Huddle
  tlsets  : List TlSet
  cmds    : List Cmd
  objs    : List BarObj
  luts    : List LutPair
  chans   : List Chan
  scratch : List (Nat × List Host.Cell)
  absent  : List (Nat × List Nat)
deriving DecidableEq, Repr

/-- A context (18 R300 to R306): state 0 none, 1 resident, 2 saving, 3 saved, 4 restoring. -/
structure Ctx where
  tag    : Nat
  st     : Nat
  result : Nat
  sup    : Bool
  dom    : Bool
  slot   : Bool
  graceEnd : Nat
  saved  : Saved
  toPlace : List Nat
  badstate : Bool
deriving DecidableEq, Repr

/-- A unit's error counts (22 R353). -/
structure UnitRec where
  cls    : Nat
  place  : Nat
  corrected : Nat
  transient : Nat
  since  : Nat
  worn   : Bool
  failed : Bool
deriving DecidableEq, Repr

/-- An error record waiting in the management controller (22 Table 22.2). -/
structure ErrRec where
  st   : Stamp
  ctx  : Nat
  kind : Nat
  unit_ : Nat
  place : Nat
  addr : Nat
  detail : Nat
deriving DecidableEq, Repr

/-- A stop record waiting to be written (23 R364): context, team, slot bytes. -/
structure RingRec where
  ctx   : Nat
  team  : Nat
  bytes : List Byte
deriving DecidableEq, Repr

/-- Another member of the trust domain (20 R329). -/
structure Peer where
  idx   : Nat
  seen  : Nat
  slack : Stamp
  phase : Stamp
  full  : Stamp
  rev   : Option Stamp
  gen   : Nat
deriving DecidableEq, Repr

/-- A sequence window (20 R328). -/
structure Window where
  src  : Nat
  vc   : Nat
  gen  : Nat
  hi   : Nat
  seen : List Nat
deriving DecidableEq, Repr

/-- A message given to the ports: sealed under a generation with its channel's number; `via` is the port that a fifth attempt takes (20
R327, 22 R358). -/
structure FabOut where
  dst  : Nat
  vc   : Nat
  gen  : Nat
  seq  : Nat
  req  : Nat
  body : FabBody
  via  : Option Nat
deriving DecidableEq, Repr

/-- A request of this package that has no answer yet (20 R326): `die` asked for data; a `held` one has not been sent, since a membership change
or, for the host, an earlier access to the window holds it (20 R336, R342). `cuts` are stamps of invalidations of its line that came
meanwhile, `ctx` the context whose manual copy it fills. -/
structure FabReq where
  id   : Nat
  dst  : Nat
  body : FabBody
  die  : Nat
  attempts : Nat
  sent : Nat
  held : Bool
  via  : Option Nat
  cuts : List Stamp
  ctx  : Nat
deriving DecidableEq, Repr

/-- A request of another member that has been accepted and whose event is still to come; this package's own index marks an access of the host
that waits here. -/
structure FabIn where
  src  : Nat
  req  : Nat
  body : FabBody
deriving DecidableEq, Repr

/-- A membership change in progress (20 R342): `lost` are the members evicted, `called` says that the coordinator's SWITCH has come. -/
structure Change where
  gen   : Nat
  members : List Nat
  ready : List Nat
  localReady : Bool
  lost  : List Nat
  since : Nat
  called : Bool
deriving DecidableEq, Repr

/-- The SPDM session of an admission (20 R340): `via` and `port`, the member and its port that reach the package, the last step done, the
verdict so far (0 none, 1 AUTHFAIL, 2 MEASFAIL), the index given and the answer to the last request. -/
structure Spdm where
  active : Bool
  port   : Nat
  step   : Nat
  verdict : Nat
  idx    : Nat
  answer : List Byte
  via    : Nat
deriving DecidableEq, Repr

/-- A repair kept in the persistent store (22 R357): unit class, die, place, spare. -/
structure Repair where
  cls   : Nat
  die   : Nat
  place : Nat
  spare : Nat
deriving DecidableEq, Repr

/-- What a check of an array finds, which comes from outside the machine (22 R348 to R353): damage that the second read confirms
(`lasting`) or not, in a register of a squad or MCC, a granule of scratchpad, or of memory in the version of a stamp or in dirty data that
`at_` names, a clean copy of a line in a cache, or a granule of matrix storage; a corrected or transient error of a unit, the bond groups
among them, whose beats are resent; a unit that fails for good, as a channel does or a slice whose directory entry fails twice; an entry of
a TLB or walk cache with wrong parity; what the dies' sensors read. -/
inductive Upset where
  | reg (agent : Nat) (isV : Bool) (reg lane : Nat)
  | gran (g : Nat) (at_ : PoisonAt) (st : Stamp) (lasting : Bool)
  | matrix (cl gran : Nat)
  | copy (cache line : Nat) (lasting : Bool)
  | corrected (cls place : Nat)
  | transient (cls place : Nat)
  | unit (cls place : Nat)
  | tlbParity (i place : Nat)
  | walkParity (i place : Nat)
  | therm (temps : List Nat)
deriving DecidableEq, Repr

/-- One turn of the agenda: which agent issues, which event happens, which upset strikes, a pause in ticks, or how many bytes of an image
the management controller copies next. -/
inductive Turn where
  | issue (agent : Nat)
  | event (i : Instr)
  | upset (u : Upset)
  | idle (ticks : Nat)
  | mgc (bytes : Nat)
deriving DecidableEq, Repr

/-- Who is in focus: the squad `sq` or the MCC `mcc` of the state issues, or nobody. -/
inductive Focus where
  | idle | squad | mcc
deriving DecidableEq, Repr

/-- The state of the package. -/
structure State where
  focus     : Focus
  sq        : Squad
  mcc       : Mcc
  squads    : List Squad
  mccs      : List Mcc
  now       : Nat
  lastTick  : List (Nat × Nat)
  slack     : Stamp
  pkgIdx    : Nat
  bridge    : Bool
  mem       : List Host.Cell
  pubs      : List Pub
  msgs      : List Msg
  nextId    : Nat
  poison    : List Poison
  l1        : List L1
  copies    : List VCopy
  manual    : List Manual
  acopies   : List ACopy
  home      : List Home
  locks     : List Lock
  relstamps : List (Nat × Stamp)
  filters   : List (Nat × Nat × List Nat)
  grants    : List Grant
  grantWaits : List Grant
  notes     : List Note
  ringStamps : List (Nat × Stamp)
  sliceMap  : List (List Nat)
  migrating : List (Nat × Nat × Nat × Nat)
  scratch   : List Host.Cell
  absent    : List Nat
  objs      : List BarObj
  arrival   : List (Nat × Stamp)
  luts      : List LutPair
  sfu       : List SfuEnt
  tlsets    : List TlSet
  cmds      : List Cmd
  chans     : List Chan
  lvls      : List LvlBar
  teams     : List Team
  launches  : List Launch
  huddles   : List Huddle
  queues    : List Queue
  arbLast   : List Nat
  csrs      : List ((Nat × Nat) × W)
  hostCtxsel : Nat
  hirq      : W
  hirqMask  : W
  hostErr   : Bool
  msix      : List Nat
  hostReads : List (List Byte)
  /-- Unsupported Request completions given to the host (20 R335). -/
  hostUr    : Nat
  ctxs      : List Ctx
  tickets   : List Ticket
  nextTicket : Nat
  fqWait    : List (Nat × List Byte)
  parkWait  : List Parked
  tlb       : List Tlb
  walkCache : List WalkEnt
  leaves    : List Leaf
  draining  : List Leaf
  walks     : List Walk
  erWait    : List ErrRec
  stopWait  : List RingRec
  units     : List UnitRec
  repair    : List Repair
  thermal   : List ErrRec
  heldReset : Bool
  clusterMap : List (Nat × Nat)
  withdrawn : List Nat
  spareLeft : List W
  samplers  : List Sampler
  peers     : List Peer
  windows   : List Window
  sendSeq   : List (Nat × Nat × Nat)
  performed : List (Nat × Nat)
  links     : List (Nat × Nat × Nat)
  lastBeacon : Nat
  change    : Option Change
  gens      : List Nat
  /-- The pair keys: generation, other member, key (20 R327, R342). -/
  keys      : List (Nat × Nat × BitVec 256)
  outbox    : List FabOut
  reqs      : List FabReq
  inbox     : List FabIn
  spdm      : Spdm
  vcWays    : Nat
  vsGiB     : Nat
  vsFullSince : Option Nat
  /-- Answers of dies on their way to homes, in the order they were sent: with a partial, line, die (12 R247). -/
  answers  : List (Bool × Nat × Nat)
  image     : List Byte
  /-- The copy of an image in progress: where it stands, its length, the bytes copied so far (24 R370). -/
  fwCopy    : Option (Nat × Nat × List Byte)
  /-- The alias key and its certificate (24 R372). -/
  aliasKey  : List Byte
  aliasCert : List Byte
  free      : Nat
  agenda    : List Turn
deriving DecidableEq, Repr

/-- A split that holds no lane. -/
def Split.blank : Split :=
  ⟨0, 0, 0, 0, 0xF, 0, 0, 0, 0, [], false⟩

/-- The frame CSRs at launch (18 Table 18.3). -/
def Frame.blank : Frame :=
  ⟨0, 0, 0, 0, 0, 0, 0xF0, 0, 0, [0, 0, 0, 0], false, false, false, 0, 0, 0⟩

/-- The squad record while no squad is in focus (log 1); a launch fills it by 02 Table 2.10. -/
def Squad.blank : Squad where
  id := 0
  ctx := 0
  launch := 0
  team := 0
  idx := 0
  cache := 0
  sub := 0
  slot := 0
  sp := Split.blank
  rest := []
  vregs := List.replicate 256 (List.replicate 32 0)
  sregs := List.replicate 128 0
  kregs := List.replicate 7 0
  scc := false
  part := 5
  flags := 0
  txcode := 0
  tide := Stamp.zero
  obs := Stamp.zero
  launchTide := Stamp.zero
  ack := 0
  role := 0
  vallot := 8
  sallot := 8
  prio := 0
  gtsHi := 0
  filled := 0
  huddle := false
  st := .ready
  prior := .ready
  wake := none
  todo := []
  cur := ⟨0, 0, 0⟩
  walk := none
  denied := false
  missVa := 0
  tx := false
  doomed := none
  pending := []
  own := []
  handler := false
  frame := Frame.blank
  replay := []
  engFault := false
  stopReq := false
  preempt := false
  energy := 0
  age := 0
  lastIssue := 0
  waitSince := 0
  badRegs := []
  ctxsel := 0
  due := 0
  faultLane := 0
  turn := 0
  curPos := 0xF
  inLine := none
  got := []
  late := []
  heldRfe := false

/-- An empty weight slot. -/
def Slot.empty : Slot := ⟨false, 0, 0, false, 0, [], []⟩

/-- The MCC record while no MCC is in focus (log 1); a start fills it by 02 Table 2.11. -/
def Mcc.blank : Mcc where
  id := 0
  cl := 0
  ctx := 0
  launch := 0
  running := false
  halted := false
  exiting := false
  pc := 0
  entry := 0
  args := 0
  fmt0 := 0
  sregs := List.replicate 128 0
  scc := false
  fmt := 0
  flags := 0
  tide := Stamp.zero
  obs := Stamp.zero
  launchTide := Stamp.zero
  ack := 0
  gtsHi := 0
  acc := List.replicate 8 []
  slots := List.replicate 64 Slot.empty
  restart := 0
  hasRestart := false
  ckptS := List.replicate 128 0
  ckptScc := false
  ckptFmt := 0
  epi := []
  queue := []
  st := .ready
  wake := none
  todo := []
  cur := ⟨0, 0, 0⟩
  walk := none
  denied := false
  missVa := 0
  stopped := none
  lastPub := none
  matErr := []
  engFault := false
  energy := 0
  ctxsel := 0
  due := 0
  inLine := none
  got := []
  badRegs := []
  forced := []

/-- The package right after a cold reset (00 R6, 24 R368, R369): no squad and no MCC runs, HBM is zero, every map holds its
Reset value (a CSR absent from `csrs` reads as the Reset column of its table), the boot ROM has not yet begun. -/
def State.reset : State where
  focus := .idle
  sq := Squad.blank
  mcc := Mcc.blank
  squads := []
  mccs := []
  now := 0
  lastTick := []
  slack := Stamp.zero
  pkgIdx := 0
  bridge := true
  mem := []
  pubs := []
  msgs := []
  nextId := 1
  poison := []
  l1 := []
  copies := []
  manual := []
  acopies := []
  home := []
  locks := []
  relstamps := []
  filters := []
  grants := []
  grantWaits := []
  notes := []
  ringStamps := []
  sliceMap := List.replicate 4 (List.range 64)
  migrating := []
  scratch := []
  absent := []
  objs := []
  arrival := []
  luts := []
  sfu := []
  tlsets := []
  cmds := []
  chans := []
  lvls := []
  teams := []
  launches := []
  huddles := []
  queues := []
  arbLast := List.replicate 8 4095
  csrs := []
  hostCtxsel := 0
  hirq := 0
  hirqMask := 0xF
  hostErr := false
  msix := []
  hostReads := []
  hostUr := 0
  ctxs := []
  tickets := []
  nextTicket := 1
  fqWait := []
  parkWait := []
  tlb := []
  walkCache := []
  leaves := []
  draining := []
  walks := []
  erWait := []
  stopWait := []
  units := []
  repair := []
  thermal := []
  heldReset := false
  clusterMap := []
  withdrawn := []
  spareLeft := List.replicate 4 0x00084042
  samplers := []
  peers := []
  windows := []
  sendSeq := []
  performed := []
  links := []
  lastBeacon := 0
  change := none
  gens := [0]
  keys := []
  outbox := []
  reqs := []
  inbox := []
  spdm := ⟨false, 0, 0, 0, 0, [], 0⟩
  vcWays := 0
  vsGiB := 0
  vsFullSince := none
  answers := []
  image := []
  fwCopy := none
  aliasKey := []
  aliasCert := []
  free := 0
  agenda := []

end Sys2Proof.Machine
end

