-- ==== Sys2Proof/Machine/Record.lean ====
section
/-! DEFINITION. Address records of the matrix instructions and their elements (08 R161 to R164), and one pass of the array over them
(08 R169; 01 R32 to R34). -/

namespace Sys2Proof.Machine

/-! ### Address records (08 R161, R164) -/

/-- An address record. -/
structure ARec where
  base    : Nat
  sbase   : Nat
  stride  : Nat
  sstride : Nat
  rows    : Nat
  cols    : Nat
  fcode   : Nat
  lflags  : Nat
  res     : Nat
  mrec    : Nat
deriving DecidableEq, Repr

/-- The record in 64 bytes; `res` gathers its reserved fields. -/
def ARec.ofBytes (b : List Byte) : ARec :=
  let n (o k : Nat) : Nat := natLE ((b.drop o).take k)
  ⟨n 0 8, n 8 8, n 16 4, n 20 4, n 24 2, n 26 2, n 28 1, n 29 1, n 30 2 + n 36 28 + n 29 1 / 16, n 32 4⟩

def ARec.scr (r : ARec) : Bool := bit r.lflags 0
def ARec.colMajor (r : ARec) : Bool := bit r.lflags 1
def ARec.sparse (r : ARec) : Nat := bits r.lflags 3 2
def ARec.w (r : ARec) : Nat := fcWidth r.fcode

/-- The group size and the kept count (08 R164). -/
def sparseG (sp : Nat) : Nat := if sp = 1 then 4 else if sp = 2 then 8 else 1
def sparseH (sp : Nat) : Nat := if sp = 1 then 2 else if sp = 2 then 4 else 1

/-- The rows that the record's storage holds. -/
def ARec.held (r : ARec) : Nat := r.rows * sparseH r.sparse / sparseG r.sparse

/-! ### Elements (08 R162) -/

/-- Bytes that an instruction touches: address and number. -/
abbrev Span := Nat × Nat

/-- The bytes of elements i0 to i0 + ni - 1 by j0 to j0 + nj - 1. -/
def ARec.spans (r : ARec) (i0 ni j0 nj : Nat) : List Span :=
  if ni = 0 ∨ nj = 0 then []
  else if r.colMajor then (List.range nj).map (fun j => (r.base + (j0 + j) * r.stride + i0 * r.w / 8, ni * r.w / 8))
  else
    let lo := j0 * r.w / 8
    let hi := ((j0 + nj) * r.w + 7) / 8
    (List.range ni).map (fun i => (r.base + (i0 + i) * r.stride + lo, hi - lo))

/-- The scale bytes of rows i0 on, columns j0 on, of the scale array. -/
def ARec.scaleSpans (r : ARec) (i0 ni j0 nj : Nat) : List Span :=
  if nj = 0 then [] else (List.range ni).map (fun i => (r.sbase + (i0 + i) * r.sstride + j0, nj))

/-- Element (i, j) through a reader of bytes. -/
def ARec.elem (r : ARec) (rd : Nat → Byte) (i j : Nat) : Nat :=
  if r.colMajor then natLE ((List.range (r.w / 8)).map (fun k => rd (r.base + j * r.stride + i * r.w / 8 + k)))
  else
    let b := j * r.w
    let n := (b % 8 + r.w + 7) / 8
    natLE ((List.range n).map (fun k => rd (r.base + i * r.stride + b / 8 + k))) / 2 ^ (b % 8) % 2 ^ r.w

/-! ### Passes (08 R169; 01 R32 to R34) -/

/-- An element times its scale, exactly; scale 0xFF makes a NaN (01 R21, R32) and sets nvx, for a signalling NaN too: the model's choice
(log 108). -/
def scaled (x : FV × Nat) (g : Nat) : FV × Nat :=
  if g = 255 then (.nan false, x.2 ||| fNVX)
  else
    match x.1 with
    | .fin n m e => (.fin n m (e + (g : Int) - 127), x.2)
    | y => (y, x.2)

/-- The integer that an integer element means. -/
def FV.toInt : FV → Int
  | .fin n m _ => if n then -(m : Int) else m
  | _ => 0

/-- One step of a sum: the new word and the flags. -/
def macStep (s32 : Bool) (t : Nat) (a b : FV × Nat) : Nat × Nat :=
  if s32 then
    let x := sext t 32 + a.1.toInt * b.1.toInt
    (wrapI x 32, (if x < -(2 ^ 31) ∨ 2 ^ 31 ≤ x then fOF else 0) ||| a.2 ||| b.2)
  else
    let r := fp32.fma .rne a.1 b.1 (fp32.decode t)
    (r.1, r.2 ||| a.2 ||| b.2)

/-- The chain of steps over k ascending. -/
def macChain (s32 : Bool) : List ((FV × Nat) × (FV × Nat)) → Nat → Nat → Nat × Nat
  | [], t, f => (t, f)
  | p :: r, t, f =>
    let m := macStep s32 t p.1 p.2
    macChain s32 r m.1 (f ||| m.2)

/-- The rows per cycle of two formats (08 Table 8.1). -/
def rowsPerCycle (a b : Nat) : Nat :=
  match max (fcWidth a) (fcWidth b) with
  | 16 => 1
  | 8 => 2
  | 6 => 4
  | _ => 8

/-- One pass: the accumulator's words and the flags. -/
def passOf (fm : W) (zero : Bool) (m k : Nat) (ea eb : Nat → Nat → FV × Nat) (acc : List (Nat × W)) : List (Nat × W) × Nat :=
  let s32 := fmtAcc fm
  let start := if s32 then 0 else 0x80000000
  let row (i : Nat) : List (FV × Nat) := (List.range k).map (ea i)
  let col (j : Nat) : List (FV × Nat) := (List.range k).map (fun q => eb q j)
  let cols := (List.range 256).map col
  (List.range m).foldl (fun p i =>
    let r := row i
    (List.range 256).foldl (fun p j =>
      let t0 := if zero then start else (look 0 acc (256 * i + j)).toNat
      let c := macChain s32 (r.zip (nth [] cols j)) t0 0
      (put 0 p.1 (256 * i + j) (w32 c.1), p.2 ||| c.2)) p) (acc, 0)

/-- The pass of an A record from column kst and a filled slot, through a reader of scratch bytes: the accumulator's words and the flags. -/
def ARec.pass (r : ARec) (fm : W) (zero : Bool) (kst : Nat) (t : Slot) (rd : Nat → Byte) (acc : List (Nat × W)) : List (Nat × W) × Nat :=
  let sc (x : FV × Nat) (g : Byte) : FV × Nat := if fmtScale fm then scaled x g.toNat else x
  let ea (i q : Nat) : FV × Nat :=
    sc (fcDecode r.fcode (fmtInf fm) (r.elem rd i (kst + q))) (rd (r.sbase + i * r.sstride + (kst + q) / 32))
  let eb (q j : Nat) : FV × Nat :=
    sc (fcDecode t.fcode (fmtInf fm) (look 0 t.elems (256 * q + j)).toNat) (look 0x7F t.scales (256 * (q / 32) + j))
  passOf fm zero r.rows t.krows ea eb acc

end Sys2Proof.Machine
end

