-- ==== Sys2Proof/WellFormed.lean ====
section
/-! DEFINITION. Well-formedness of instructions: the checks 8 to 10 of 03 Table 3.7 as far as the fields alone decide them
(the greatest allotments; what depends on the format register, the lane set, the header or the MCC is left to the issue),
and, for a row that is one variant of an op9, the code that selects it. Events carry nothing to check. -/

namespace Sys2Proof

open Sys2Proof.Machine

/-- The most permissive issuer: every register, every role and level, a 16-bit element format, one active lane. -/
def wfEnv : FEnv :=
  { mcc := false, vallot := 256, sallot := 128, fmt := 0x14, tsize := 5, lanes := 1, nroles := 4
    levels := [3, 4, 5, 6, 7] }

/-- Checks 8 and 9, without check 10. -/
def wfLong (f : FSpec) (w : Long) : Bool := FSpec.checkLong wfEnv { f with vals := true } w == none
def wfShort (f : FSpec) (w : Short) : Bool := FSpec.checkShort wfEnv { f with vals := true } w == none
def wfLit (f : FSpec) (w : Lit) : Bool := FSpec.checkLit wfEnv { f with vals := true } w == none

/-- Is the instruction well formed? -/
def wellFormed (i : Instr) : Bool :=
  match i with
  | .vadd w => wfLong (laneSpec wfEnv 0x001 w) w
  | .vaddLit w => wfLit (laneLit 0x020) w
  | .vsub w => wfLong (laneSpec wfEnv 0x002 w) w
  | .vsubLit w => wfLit (laneLit 0x021) w
  | .vaddc w => wfLong (laneSpec wfEnv 0x003 w) w
  | .vmul w => wfLong (laneSpec wfEnv 0x004 w) w
  | .vmulLit w => wfLit (laneLit 0x022) w
  | .vmulh w => wfLong (laneSpec wfEnv 0x005 w) w
  | .vmad w => wfLong (laneSpec wfEnv 0x006 w) w
  | .vabs w => wfLong (laneSpec wfEnv 0x007 w) w
  | .vperm w => wfLong (laneSpec wfEnv 0x00F w) w
  | .vshl w => wfLong (laneSpec wfEnv 0x010 w) w
  | .vshlLit w => wfLit (laneLit 0x026) w
  | .vshr w => wfLong (laneSpec wfEnv 0x011 w) w
  | .vshrLit w => wfLit (laneLit 0x027) w
  | .vsra w => wfLong (laneSpec wfEnv 0x012 w) w
  | .vsraLit w => wfLit (laneLit 0x028) w
  | .vmin w => wfLong (laneSpec wfEnv 0x013 w) w
  | .vminLit w => wfLit (laneLit 0x029) w
  | .vmax w => wfLong (laneSpec wfEnv 0x014 w) w
  | .vmaxLit w => wfLit (laneLit 0x02A) w
  | .vsel w => wfLong (laneSpec wfEnv 0x015 w) w
  | .vcmp w => wfLong (laneSpec wfEnv 0x016 w) w
  | .vbfx w => wfLong (laneSpec wfEnv 0x017 w) w
  | .vbfi w => wfLong (laneSpec wfEnv 0x018 w) w
  | .vand w => wfShort (laneShort 0x008) w
  | .vandLit w => wfLit (laneLit 0x023) w
  | .vor w => wfShort (laneShort 0x009) w
  | .vorLit w => wfLit (laneLit 0x024) w
  | .vxor w => wfShort (laneShort 0x00A) w
  | .vxorLit w => wfLit (laneLit 0x025) w
  | .vnot w => wfShort (laneShort 0x00B) w
  | .vpopc w => wfShort (laneShort 0x00C) w
  | .vclz w => wfShort (laneShort 0x00D) w
  | .vbrev w => wfShort (laneShort 0x00E) w
  | .fadd w => wfLong (laneSpec wfEnv 0x040 w) w
  | .faddLit w => wfLit (laneLit 0x050) w
  | .fsub w => wfLong (laneSpec wfEnv 0x041 w) w
  | .fsubLit w => wfLit (laneLit 0x051) w
  | .fmul w => wfLong (laneSpec wfEnv 0x042 w) w
  | .fmulLit w => wfLit (laneLit 0x052) w
  | .ffma w => wfLong (laneSpec wfEnv 0x043 w) w
  | .fmin w => wfLong (laneSpec wfEnv 0x044 w) w
  | .fminLit w => wfLit (laneLit 0x053) w
  | .fmax w => wfLong (laneSpec wfEnv 0x045 w) w
  | .fmaxLit w => wfLit (laneLit 0x054) w
  | .fcmp w => wfLong (laneSpec wfEnv 0x046 w) w
  | .fclass w => wfLong (laneSpec wfEnv 0x047 w) w
  | .frnd w => wfLong (laneSpec wfEnv 0x048 w) w
  | .cvt w => wfLong (laneSpec wfEnv 0x080 w) w
  | .npack w => wfLong (laneSpec wfEnv 0x081 w) w
  | .nunpack w => wfLong (laneSpec wfEnv 0x082 w) w
  | .ipack4 w => wfLong (laneSpec wfEnv 0x083 w) w
  | .iunpack4 w => wfLong (laneSpec wfEnv 0x084 w) w
  | .sclcalc w => wfLong (laneSpec wfEnv 0x085 w) w
  | .frcp w => wfLong (laneSpec wfEnv 0x0C0 w) w
  | .frsq w => wfLong (laneSpec wfEnv 0x0C1 w) w
  | .fsqrt w => wfLong (laneSpec wfEnv 0x0C2 w) w
  | .fexp2 w => wfLong (laneSpec wfEnv 0x0C3 w) w
  | .flog2 w => wfLong (laneSpec wfEnv 0x0C4 w) w
  | .fsin w => wfLong (laneSpec wfEnv 0x0C5 w) w
  | .fcos w => wfLong (laneSpec wfEnv 0x0C6 w) w
  | .lutld w => wfLong (laneSpec wfEnv 0x0C8 w) w
  | .lutsel w => wfLong (laneSpec wfEnv 0x0C9 w) w
  | .luteval w => wfLong (laneSpec wfEnv 0x0CA w) w
  | .xlane w => wfLong (laneSpec wfEnv 0x0E0 w) w
  | .xlaneLo w => wfLong (laneSpec wfEnv 0x0E1 w) w
  | .xlaneHi w => wfLong (laneSpec wfEnv 0x0E2 w) w
  | .xlaneFlip w => wfLong (laneSpec wfEnv 0x0E3 w) w
  | .pollAny w => wfLong (laneSpec wfEnv 0x0E4 w) w
  | .pollAll w => wfLong (laneSpec wfEnv 0x0E5 w) w
  | .pollMask w => wfLong (laneSpec wfEnv 0x0E6 w) w
  | .same w => wfLong (laneSpec wfEnv 0x0E7 w) w
  | .sameAll w => wfLong (laneSpec wfEnv 0x0E8 w) w
  | .redx w => wfLong (laneSpec wfEnv 0x0E9 w) w
  | .redf w => wfLong (laneSpec wfEnv 0x0EA w) w
  | .scanx w => wfLong (laneSpec wfEnv 0x0EB w) w
  | .rank w => wfLong (laneSpec wfEnv 0x0EC w) w
  | .selk w => wfLong (laneSpec wfEnv 0x0ED w) w
  | .ld w => wfLong (laneSpec wfEnv 0x120 w) w
  | .st w => wfLong (laneSpec wfEnv 0x121 w) w
  | .lds w => wfLong (laneSpec wfEnv 0x122 w) w
  | .sts w => wfLong (laneSpec wfEnv 0x123 w) w
  | .ldsm w => wfLong (laneSpec wfEnv 0x124 w) w
  | .ldsmT w => wfLong (laneSpec wfEnv 0x125 w) w
  | .ldblk w => wfLong (laneSpec wfEnv 0x126 w) w
  | .ldAcq w => wfLong (laneSpec wfEnv 0x127 w) w
  | .stRel w => wfLong (laneSpec wfEnv 0x128 w) w
  | .atom w => wfLong (laneSpec wfEnv 0x129 w) w
  | .upd w => wfLong (laneSpec wfEnv 0x12A w) w
  | .pfch w => wfLong (laneSpec wfEnv 0x12B w) w
  | .sadd w => wfShort (uniShort wfEnv 0x000 w) w
  | .saddLit w => wfLit (uniLit 0x018 w) w
  | .ssub w => wfShort (uniShort wfEnv 0x001 w) w
  | .smul w => wfShort (uniShort wfEnv 0x002 w) w
  | .smulLit w => wfLit (uniLit 0x019 w) w
  | .smulh w => wfShort (uniShort wfEnv 0x003 w) w
  | .sand w => wfShort (uniShort wfEnv 0x004 w) w
  | .sandLit w => wfLit (uniLit 0x01A w) w
  | .sor w => wfShort (uniShort wfEnv 0x005 w) w
  | .sorLit w => wfLit (uniLit 0x01B w) w
  | .sxor w => wfShort (uniShort wfEnv 0x006 w) w
  | .sxorLit w => wfLit (uniLit 0x01C w) w
  | .snot w => wfShort (uniShort wfEnv 0x007 w) w
  | .sshl w => wfShort (uniShort wfEnv 0x008 w) w
  | .sshlLit w => wfLit (uniLit 0x01D w) w
  | .sshr w => wfShort (uniShort wfEnv 0x009 w) w
  | .sshrLit w => wfLit (uniLit 0x01E w) w
  | .ssra w => wfShort (uniShort wfEnv 0x00A w) w
  | .ssraLit w => wfLit (uniLit 0x01F w) w
  | .smin w => wfLong (uniSpec wfEnv 0x00B w) w
  | .smax w => wfLong (uniSpec wfEnv 0x00C w) w
  | .ssel w => wfLong (uniSpec wfEnv 0x00D w) w
  | .smov w => wfShort (uniShort wfEnv 0x00E w) w
  | .smovi w => wfLit (uniLit 0x00F w) w
  | .scmp w => wfLong (uniSpec wfEnv 0x010 w) w
  | .sbfx w => wfLong (uniSpec wfEnv 0x011 w) w
  | .sbfi w => wfLong (uniSpec wfEnv 0x012 w) w
  | .spopc w => wfShort (uniShort wfEnv 0x013 w) w
  | .sclz w => wfShort (uniShort wfEnv 0x014 w) w
  | .slea w => wfLong (uniSpec wfEnv 0x015 w) w
  | .kand w => wfShort (uniShort wfEnv 0x040 w) w
  | .kor w => wfShort (uniShort wfEnv 0x041 w) w
  | .kxor w => wfShort (uniShort wfEnv 0x042 w) w
  | .knot w => wfShort (uniShort wfEnv 0x043 w) w
  | .kmovKFromK w => wfShort (uniShort wfEnv 0x044 w) w && w.b == 0
  | .kmovKFromS w => wfShort (uniShort wfEnv 0x044 w) w && w.b == 1
  | .kmovSFromK w => wfShort (uniShort wfEnv 0x044 w) w && w.b == 2
  | .kset w => wfLit (uniLit 0x045 w) w
  | .kpopc w => wfShort (uniShort wfEnv 0x046 w) w
  | .kfirst w => wfShort (uniShort wfEnv 0x047 w) w
  | .bra w => wfLit (uniLit 0x060 w) w
  | .brz w => wfLit (uniLit 0x061 w) w
  | .brnz w => wfLit (uniLit 0x062 w) w
  | .jmp w => wfShort (uniShort wfEnv 0x063 w) w
  | .call w => wfLit (uniLit 0x064 w) w
  | .ret w => wfShort (uniShort wfEnv 0x065 w) w
  | .bany w => wfLit (uniLit 0x066 w) w
  | .ball w => wfLit (uniLit 0x067 w) w
  | .bnone w => wfLit (uniLit 0x068 w) w
  | .bdiv w => wfLit (uniLit 0x069 w) w
  | .converge w => wfShort (uniShort wfEnv 0x06A w) w
  | .pblk w => wfLong (uniSpec wfEnv 0x06B w) w
  | .setfmt w => wfLong (uniSpec wfEnv 0x070 w) w && xSub w.x == 0
  | .setfmtFlags w => wfLong (uniSpec wfEnv 0x070 w) w && xSub w.x == 1
  | .setfmtImm w => wfLong (uniSpec wfEnv 0x070 w) w && xSub w.x == 2
  | .setpart w => wfShort (uniShort wfEnv 0x071 w) w
  | .rdspec w => wfLong (uniSpec wfEnv 0x072 w) w
  | .role w => wfShort (uniShort wfEnv 0x073 w) w
  | .exit w => wfShort (uniShort wfEnv 0x074 w) w
  | .trap w => wfShort (uniShort wfEnv 0x075 w) w
  | .brkpt w => wfShort (uniShort wfEnv 0x076 w) w
  | .nop w => wfShort (uniShort wfEnv 0x077 w) w
  | .pub w => wfShort (uniShort wfEnv 0x0A0 w) w
  | .snap w => wfShort (uniShort wfEnv 0x0A1 w) w
  | .phase w => wfShort (uniShort wfEnv 0x0A2 w) w
  | .txbeg w => wfShort (uniShort wfEnv 0x0A3 w) w
  | .txend w => wfShort (uniShort wfEnv 0x0A4 w) w
  | .txabort w => wfShort (uniShort wfEnv 0x0A5 w) w
  | .enq w => wfLong (uniSpec wfEnv 0x0A6 w) w
  | .deq w => wfLong (uniSpec wfEnv 0x0A7 w) w
  | .cwb w => wfLong (uniSpec wfEnv 0x0A8 w) w
  | .cinv w => wfLong (uniSpec wfEnv 0x0A9 w) w
  | .cwbinv w => wfLong (uniSpec wfEnv 0x0AA w) w
  | .cpy w => wfLong (uniSpec wfEnv 0x0E0 w) w
  | .cpy2d w => wfLong (uniSpec wfEnv 0x0E1 w) w
  | .gath w => wfLong (uniSpec wfEnv 0x0E2 w) w
  | .rcpy w => wfLong (uniSpec wfEnv 0x0E3 w) w
  | .rsig w => wfLong (uniSpec wfEnv 0x0E4 w) w
  | .tlget w => wfLong (uniSpec wfEnv 0x0E8 w) w
  | .tlwait w => wfLong (uniSpec wfEnv 0x0E9 w) w
  | .tlsig w => wfLong (uniSpec wfEnv 0x0EA w) w
  | .waitc w => wfLong (uniSpec wfEnv 0x0EB w) w && w.x == 0
  | .waitcG w => wfLong (uniSpec wfEnv 0x0EB w) w && w.x == 1
  | .barInit w => wfLong (uniSpec wfEnv 0x0F0 w) w && w.x == 0
  | .barInitFree w => wfLong (uniSpec wfEnv 0x0F0 w) w && w.x == 1
  | .barArr w => wfLong (uniSpec wfEnv 0x0F1 w) w
  | .barWait w => wfLong (uniSpec wfEnv 0x0F2 w) w
  | .barArrw w => wfLong (uniSpec wfEnv 0x0F3 w) w
  | .barSync w => wfLong (uniSpec wfEnv 0x0F4 w) w
  | .lbar w => wfLong (uniSpec wfEnv 0x0F5 w) w
  | .spawn w => wfLong (uniSpec wfEnv 0x0F8 w) w
  | .post w => wfLong (uniSpec wfEnv 0x0F9 w) w
  | .join w => wfLong (uniSpec wfEnv 0x0FA w) w
  | .leave w => wfLong (uniSpec wfEnv 0x0FB w) w
  | .msend w => wfLong (uniSpec wfEnv 0x0FC w) w
  | .mrecv w => wfLong (uniSpec wfEnv 0x0FD w) w
  | .mrec w => wfLong (uniSpec wfEnv 0x140 w) w
  | .wld w => wfLong (uniSpec wfEnv 0x141 w) w
  | .mmaz w => wfLong (uniSpec wfEnv 0x142 w) w
  | .mma w => wfLong (uniSpec wfEnv 0x143 w) w
  | .mepi w => wfLong (uniSpec wfEnv 0x144 w) w
  | .mclrZ w => wfLong (uniSpec wfEnv 0x145 w) w && xSub w.x == 0
  | .mclrLd w => wfLong (uniSpec wfEnv 0x145 w) w && xSub w.x == 1
  | .mrestart w => wfLong (uniSpec wfEnv 0x146 w) w
  | .mfence w => wfLong (uniSpec wfEnv 0x147 w) w
  | .rfe w => wfShort (uniShort wfEnv 0x180 w) w
  | .csrrd w => wfLong (uniSpec wfEnv 0x181 w) w
  | .csrwr w => wfLong (uniSpec wfEnv 0x182 w) w
  | .rdenergy w => wfShort (uniShort wfEnv 0x183 w) w
  | .sfuRetire _ _ => true
  | .matrixPassRetire _ => true
  | .asyncEventTake _ => true
  | .squadWake _ => true
  | .squadRetire _ => true
  | .teamExit _ => true
  | .mccProgramEnd _ => true
  | .engineCommandRun _ => true
  | .huddleTimerExpire _ _ => true
  | .huddlePlace _ _ => true
  | .arbiterTakeEntry => true
  | .entryClassAge _ => true
  | .placeTeam _ => true
  | .placerOldestWaitExpire => true
  | .launchComplete _ => true
  | .qtailWrite _ _ => true
  | .qfaultClear _ => true
  | .qtbaseWrite _ _ => true
  | .ringBaseWrite _ _ _ => true
  | .ringHeadWrite _ _ _ => true
  | .registerWrite _ _ _ => true
  | .homeSharedRequest _ _ => true
  | .homeExclusiveRequest _ _ => true
  | .homeUpdateOnlyRequest _ _ _ _ _ => true
  | .homePublicationEvent _ => true
  | .homePlainRead _ _ _ => true
  | .homeCollapseRequest _ _ => true
  | .homeInvalidationAck _ _ => true
  | .homeOwnerBytes _ => true
  | .homeDiePartial _ _ _ => true
  | .l1Grant _ _ => true
  | .l1Invalidate _ _ => true
  | .l1Recall _ _ => true
  | .l1CollapseRecall _ _ => true
  | .l1PutAck _ _ => true
  | .snoopFilterMessage _ _ => true
  | .mergePortCollapse _ _ => true
  | .pageGrantRequest _ _ _ _ _ => true
  | .pageGrantRecall _ _ => true
  | .pageGrantRecallAck _ _ => true
  | .translationWalkEnd _ => true
  | .tlbinvScopeAddress _ _ => true
  | .tlbinvScopeContext _ => true
  | .tlbinvScopeAll => true
  | .tlbinvDrain _ _ => true
  | .tlbinvComplete => true
  | .tkcmdMapped _ => true
  | .tkcmdDenied _ => true
  | .ebbCollectorPass _ => true
  | .versionStoreFullTimeout => true
  | .snapshotAgeLimit => true
  | .snapshotRevocation _ => true
  | .ctxcmdSave _ => true
  | .ctxcmdRestore _ => true
  | .ctxcmdKill _ => true
  | .graceWindowClose _ => true
  | .teamSaveRecord _ => true
  | .contextRestorePlace _ => true
  | .stopcmdStop _ _ => true
  | .stopcmdResume _ _ => true
  | .stopcmdResumeAll _ => true
  | .stopComplete _ => true
  | .samplerCountZero _ _ => true
  | .fabricMessageReceive _ _ _ _ _ _ _ => true
  | .fabricRetransmitTimeout _ => true
  | .flitCrcReplay _ => true
  | .settleBeaconSend => true
  | .settleBeaconReceive _ => true
  | .beaconSilenceEvict _ => true
  | .bridgeSilenceTakeover => true
  | .membershipBegin _ _ => true
  | .membershipReady _ => true
  | .membershipSwitch => true
  | .lbarMemberReport _ _ _ => true
  | .lbarMemberComplete _ _ _ _ => true
  | .domcmdAdmit _ _ => true
  | .domcmdRemove _ => true
  | .domcmdEvict _ => true
  | .getVersion => true
  | .getCapabilities => true
  | .negotiateAlgorithms _ => true
  | .getDigests => true
  | .getCertificate _ => true
  | .getMeasurements _ _ => true
  | .keyExchange _ _ => true
  | .finish _ => true
  | .vendorDefinedRequest _ _ => true
  | .endSession => true
  | .hostWindowAccess _ _ _ => true
  | .hostApertureWrite _ _ _ => true
  | .hostApertureRead _ _ _ => true
  | .hostUnsupportedRequest => true
  | .errorWindowExpire _ => true
  | .clusterRetire _ _ => true
  | .sliceRetire _ _ => true
  | .hbmRowRepair _ _ _ => true
  | .hbmChannelRepair _ _ _ => true
  | .linkLaneSpare _ _ _ => true
  | .thermalTrip _ _ => true
  | .thermalRelease _ => true
  | .powerOn _ _ => true
  | .pcieFundamentalReset _ _ => true
  | .fwcmdLoad => true
  | .fwcmdColdReset _ _ => true
  | .fwcmdWarmReset => true
  | .slackWaterEstimateUpdate => true
  | .scrubbing _ _ => true
  | .spdmUnsupportedRequest _ => true
  | .portLinkTrained _ _ _ => true
  | .portLinkDown _ => true

/-- The well-formed instructions. -/
abbrev WellFormed (i : Instr) : Prop := wellFormed i = true

end Sys2Proof
end

