-- ==== Sys2Proof/Decode.lean ====
section
/-! DEFINITION. Decoding (03 R55 to R61, Tables 3.1, 3.8, 3.9) and, after it, encoding. `decodeWords` is total: it gives
the instruction of two code words, or the reason of 03 Table 3.7 for which the words are none. Memory is little-endian
(00 R3), so the words of an instruction are its bytes in groups of four. -/

namespace Sys2Proof

open Sys2Proof.Machine

/-- The fields of a short word 0 (03 Table 3.1). -/
def shortOf (w0 : W) : Short := ⟨w0.extractLsb' 14 7, w0.extractLsb' 7 7, w0.extractLsb' 0 7⟩

/-- The fields of the two words of a long form. -/
def longOf (w0 w1 : W) : Long :=
  ⟨w0.extractLsb' 13 8, w0.extractLsb' 5 8, w0.extractLsb' 0 5,
    w1.extractLsb' 24 8, w1.extractLsb' 16 8, w1.extractLsb' 0 16⟩

/-- The fields of the two words of a literal form. -/
def litOf (w0 w1 : W) : Lit := ⟨w0.extractLsb' 13 8, w0.extractLsb' 5 8, w0.extractLsb' 0 5, w1⟩

/-- The LL instructions of 03 Table 3.8. -/
def laneLongI (op9 : Nat) (w : Long) : Option Instr :=
  match op9 with
  | 0x001 => some (.vadd w)
  | 0x002 => some (.vsub w)
  | 0x003 => some (.vaddc w)
  | 0x004 => some (.vmul w)
  | 0x005 => some (.vmulh w)
  | 0x006 => some (.vmad w)
  | 0x007 => some (.vabs w)
  | 0x00F => some (.vperm w)
  | 0x010 => some (.vshl w)
  | 0x011 => some (.vshr w)
  | 0x012 => some (.vsra w)
  | 0x013 => some (.vmin w)
  | 0x014 => some (.vmax w)
  | 0x015 => some (.vsel w)
  | 0x016 => some (.vcmp w)
  | 0x017 => some (.vbfx w)
  | 0x018 => some (.vbfi w)
  | 0x040 => some (.fadd w)
  | 0x041 => some (.fsub w)
  | 0x042 => some (.fmul w)
  | 0x043 => some (.ffma w)
  | 0x044 => some (.fmin w)
  | 0x045 => some (.fmax w)
  | 0x046 => some (.fcmp w)
  | 0x047 => some (.fclass w)
  | 0x048 => some (.frnd w)
  | 0x080 => some (.cvt w)
  | 0x081 => some (.npack w)
  | 0x082 => some (.nunpack w)
  | 0x083 => some (.ipack4 w)
  | 0x084 => some (.iunpack4 w)
  | 0x085 => some (.sclcalc w)
  | 0x0C0 => some (.frcp w)
  | 0x0C1 => some (.frsq w)
  | 0x0C2 => some (.fsqrt w)
  | 0x0C3 => some (.fexp2 w)
  | 0x0C4 => some (.flog2 w)
  | 0x0C5 => some (.fsin w)
  | 0x0C6 => some (.fcos w)
  | 0x0C8 => some (.lutld w)
  | 0x0C9 => some (.lutsel w)
  | 0x0CA => some (.luteval w)
  | 0x0E0 => some (.xlane w)
  | 0x0E1 => some (.xlaneLo w)
  | 0x0E2 => some (.xlaneHi w)
  | 0x0E3 => some (.xlaneFlip w)
  | 0x0E4 => some (.pollAny w)
  | 0x0E5 => some (.pollAll w)
  | 0x0E6 => some (.pollMask w)
  | 0x0E7 => some (.same w)
  | 0x0E8 => some (.sameAll w)
  | 0x0E9 => some (.redx w)
  | 0x0EA => some (.redf w)
  | 0x0EB => some (.scanx w)
  | 0x0EC => some (.rank w)
  | 0x0ED => some (.selk w)
  | 0x120 => some (.ld w)
  | 0x121 => some (.st w)
  | 0x122 => some (.lds w)
  | 0x123 => some (.sts w)
  | 0x124 => some (.ldsm w)
  | 0x125 => some (.ldsmT w)
  | 0x126 => some (.ldblk w)
  | 0x127 => some (.ldAcq w)
  | 0x128 => some (.stRel w)
  | 0x129 => some (.atom w)
  | 0x12A => some (.upd w)
  | 0x12B => some (.pfch w)
  | _ => none

/-- The LS instructions of 03 Table 3.8. -/
def laneShortI (op9 : Nat) (w : Short) : Option Instr :=
  match op9 with
  | 0x008 => some (.vand w)
  | 0x009 => some (.vor w)
  | 0x00A => some (.vxor w)
  | 0x00B => some (.vnot w)
  | 0x00C => some (.vpopc w)
  | 0x00D => some (.vclz w)
  | 0x00E => some (.vbrev w)
  | _ => none

/-- The LLI instructions of 03 Table 3.8. -/
def laneLitI (op9 : Nat) (w : Lit) : Option Instr :=
  match op9 with
  | 0x020 => some (.vaddLit w)
  | 0x021 => some (.vsubLit w)
  | 0x022 => some (.vmulLit w)
  | 0x023 => some (.vandLit w)
  | 0x024 => some (.vorLit w)
  | 0x025 => some (.vxorLit w)
  | 0x026 => some (.vshlLit w)
  | 0x027 => some (.vshrLit w)
  | 0x028 => some (.vsraLit w)
  | 0x029 => some (.vminLit w)
  | 0x02A => some (.vmaxLit w)
  | 0x050 => some (.faddLit w)
  | 0x051 => some (.fsubLit w)
  | 0x052 => some (.fmulLit w)
  | 0x053 => some (.fminLit w)
  | 0x054 => some (.fmaxLit w)
  | _ => none

/-- The UL instructions of 03 Table 3.9; none for a sub-operation code that names no variant. -/
def uniLongI (op9 : Nat) (w : Long) : Option Instr :=
  match op9 with
  | 0x00B => some (.smin w)
  | 0x00C => some (.smax w)
  | 0x00D => some (.ssel w)
  | 0x010 => some (.scmp w)
  | 0x011 => some (.sbfx w)
  | 0x012 => some (.sbfi w)
  | 0x015 => some (.slea w)
  | 0x06B => some (.pblk w)
  | 0x070 => match xSub w.x with
    | 0 => some (.setfmt w)
    | 1 => some (.setfmtFlags w)
    | 2 => some (.setfmtImm w)
    | _ => none
  | 0x072 => some (.rdspec w)
  | 0x0A6 => some (.enq w)
  | 0x0A7 => some (.deq w)
  | 0x0A8 => some (.cwb w)
  | 0x0A9 => some (.cinv w)
  | 0x0AA => some (.cwbinv w)
  | 0x0E0 => some (.cpy w)
  | 0x0E1 => some (.cpy2d w)
  | 0x0E2 => some (.gath w)
  | 0x0E3 => some (.rcpy w)
  | 0x0E4 => some (.rsig w)
  | 0x0E8 => some (.tlget w)
  | 0x0E9 => some (.tlwait w)
  | 0x0EA => some (.tlsig w)
  | 0x0EB => some (if w.x.toNat % 2 = 0 then .waitc w else .waitcG w)
  | 0x0F0 => some (if w.x.toNat % 2 = 0 then .barInit w else .barInitFree w)
  | 0x0F1 => some (.barArr w)
  | 0x0F2 => some (.barWait w)
  | 0x0F3 => some (.barArrw w)
  | 0x0F4 => some (.barSync w)
  | 0x0F5 => some (.lbar w)
  | 0x0F8 => some (.spawn w)
  | 0x0F9 => some (.post w)
  | 0x0FA => some (.join w)
  | 0x0FB => some (.leave w)
  | 0x0FC => some (.msend w)
  | 0x0FD => some (.mrecv w)
  | 0x140 => some (.mrec w)
  | 0x141 => some (.wld w)
  | 0x142 => some (.mmaz w)
  | 0x143 => some (.mma w)
  | 0x144 => some (.mepi w)
  | 0x145 => match xSub w.x with
    | 0 => some (.mclrZ w)
    | 1 => some (.mclrLd w)
    | _ => none
  | 0x146 => some (.mrestart w)
  | 0x147 => some (.mfence w)
  | 0x181 => some (.csrrd w)
  | 0x182 => some (.csrwr w)
  | _ => none

/-- The US instructions of 03 Table 3.9; none for a kmov direction that names no variant. -/
def uniShortI (op9 : Nat) (w : Short) : Option Instr :=
  match op9 with
  | 0x000 => some (.sadd w)
  | 0x001 => some (.ssub w)
  | 0x002 => some (.smul w)
  | 0x003 => some (.smulh w)
  | 0x004 => some (.sand w)
  | 0x005 => some (.sor w)
  | 0x006 => some (.sxor w)
  | 0x007 => some (.snot w)
  | 0x008 => some (.sshl w)
  | 0x009 => some (.sshr w)
  | 0x00A => some (.ssra w)
  | 0x00E => some (.smov w)
  | 0x013 => some (.spopc w)
  | 0x014 => some (.sclz w)
  | 0x040 => some (.kand w)
  | 0x041 => some (.kor w)
  | 0x042 => some (.kxor w)
  | 0x043 => some (.knot w)
  | 0x044 => match w.b.toNat with
    | 0 => some (.kmovKFromK w)
    | 1 => some (.kmovKFromS w)
    | 2 => some (.kmovSFromK w)
    | _ => none
  | 0x046 => some (.kpopc w)
  | 0x047 => some (.kfirst w)
  | 0x063 => some (.jmp w)
  | 0x065 => some (.ret w)
  | 0x06A => some (.converge w)
  | 0x071 => some (.setpart w)
  | 0x073 => some (.role w)
  | 0x074 => some (.exit w)
  | 0x075 => some (.trap w)
  | 0x076 => some (.brkpt w)
  | 0x077 => some (.nop w)
  | 0x0A0 => some (.pub w)
  | 0x0A1 => some (.snap w)
  | 0x0A2 => some (.phase w)
  | 0x0A3 => some (.txbeg w)
  | 0x0A4 => some (.txend w)
  | 0x0A5 => some (.txabort w)
  | 0x180 => some (.rfe w)
  | 0x183 => some (.rdenergy w)
  | _ => none

/-- The ULI instructions of 03 Table 3.9. -/
def uniLitI (op9 : Nat) (w : Lit) : Option Instr :=
  match op9 with
  | 0x00F => some (.smovi w)
  | 0x018 => some (.saddLit w)
  | 0x019 => some (.smulLit w)
  | 0x01A => some (.sandLit w)
  | 0x01B => some (.sorLit w)
  | 0x01C => some (.sxorLit w)
  | 0x01D => some (.sshlLit w)
  | 0x01E => some (.sshrLit w)
  | 0x01F => some (.ssraLit w)
  | 0x045 => some (.kset w)
  | 0x060 => some (.bra w)
  | 0x061 => some (.brz w)
  | 0x062 => some (.brnz w)
  | 0x064 => some (.call w)
  | 0x066 => some (.bany w)
  | 0x067 => some (.ball w)
  | 0x068 => some (.bnone w)
  | 0x069 => some (.bdiv w)
  | _ => none

/-- The op9 values of form LL. -/
def laneLongs : List Nat :=
  [0x001, 0x002, 0x003, 0x004, 0x005, 0x006, 0x007, 0x00F, 0x010, 0x011, 0x012, 0x013, 0x014, 0x015, 0x016, 0x017, 0x018, 0x040, 0x041, 0x042, 0x043, 0x044, 0x045, 0x046, 0x047, 0x048, 0x080, 0x081, 0x082, 0x083, 0x084, 0x085, 0x0C0, 0x0C1, 0x0C2, 0x0C3, 0x0C4, 0x0C5, 0x0C6, 0x0C8, 0x0C9, 0x0CA, 0x0E0, 0x0E1, 0x0E2, 0x0E3, 0x0E4, 0x0E5, 0x0E6, 0x0E7, 0x0E8, 0x0E9, 0x0EA, 0x0EB, 0x0EC, 0x0ED, 0x120, 0x121, 0x122, 0x123, 0x124, 0x125, 0x126, 0x127, 0x128, 0x129, 0x12A, 0x12B]

/-- The op9 values of form LS. -/
def laneShorts : List Nat :=
  [0x008, 0x009, 0x00A, 0x00B, 0x00C, 0x00D, 0x00E]

/-- The op9 values of form LLI. -/
def laneLits : List Nat :=
  [0x020, 0x021, 0x022, 0x023, 0x024, 0x025, 0x026, 0x027, 0x028, 0x029, 0x02A, 0x050, 0x051, 0x052, 0x053, 0x054]

/-- The op9 values of form UL. -/
def uniLongs : List Nat :=
  [0x00B, 0x00C, 0x00D, 0x010, 0x011, 0x012, 0x015, 0x06B, 0x070, 0x072, 0x0A6, 0x0A7, 0x0A8, 0x0A9, 0x0AA, 0x0E0, 0x0E1, 0x0E2, 0x0E3, 0x0E4, 0x0E8, 0x0E9, 0x0EA, 0x0EB, 0x0F0, 0x0F1, 0x0F2, 0x0F3, 0x0F4, 0x0F5, 0x0F8, 0x0F9, 0x0FA, 0x0FB, 0x0FC, 0x0FD, 0x140, 0x141, 0x142, 0x143, 0x144, 0x145, 0x146, 0x147, 0x181, 0x182]

/-- The op9 values of form US. -/
def uniShorts : List Nat :=
  [0x000, 0x001, 0x002, 0x003, 0x004, 0x005, 0x006, 0x007, 0x008, 0x009, 0x00A, 0x00E, 0x013, 0x014, 0x040, 0x041, 0x042, 0x043, 0x044, 0x046, 0x047, 0x063, 0x065, 0x06A, 0x071, 0x073, 0x074, 0x075, 0x076, 0x077, 0x0A0, 0x0A1, 0x0A2, 0x0A3, 0x0A4, 0x0A5, 0x180, 0x183]

/-- The op9 values of form ULI. -/
def uniLits : List Nat :=
  [0x00F, 0x018, 0x019, 0x01A, 0x01B, 0x01C, 0x01D, 0x01E, 0x01F, 0x045, 0x060, 0x061, 0x062, 0x064, 0x066, 0x067, 0x068, 0x069]

/-- The outcome of decoding: an instruction with its length in bytes, or words that are none: the set bit, the op9, the
reason of 03 Table 3.7 and the length of the form. -/
inductive Decoded where
  | ok (i : Instr) (len : Nat)
  | bad (uni : Bool) (op9 : Nat) (reason : Nat) (len : Nat)
deriving DecidableEq, Repr

/-- The op9 of a word 0. -/
def op9Of (w0 : W) : Nat := (w0.extractLsb' 21 9).toNat

/-- Is the op9 of a word 0 of a long or literal form? Only then is word 1 fetched (03 Table 3.7, check 4). -/
def isLong (w0 : W) : Bool :=
  w0.getLsbD 30 &&
    (if w0.getLsbD 31 then uniLongs.contains (op9Of w0) || uniLits.contains (op9Of w0)
     else laneLongs.contains (op9Of w0) || laneLits.contains (op9Of w0))

/-- Decoding of word 0 and word 1, in the order of 03 Table 3.7: a reserved op9 (reason 1), a form bit that disagrees
(reason 2), a code that names no variant of its op9 (reason 6). -/
def decodeWords (w0 w1 : W) : Decoded :=
  let op := op9Of w0
  let long := w0.getLsbD 30
  if w0.getLsbD 31 then
    if uniShorts.contains op then
      if long then .bad true op 2 4
      else match uniShortI op (shortOf w0) with
        | some i => .ok i 4
        | none => .bad true op 6 4
    else if uniLongs.contains op then
      if !long then .bad true op 2 4
      else match uniLongI op (longOf w0 w1) with
        | some i => .ok i 8
        | none => .bad true op 6 8
    else if uniLits.contains op then
      if !long then .bad true op 2 4
      else match uniLitI op (litOf w0 w1) with
        | some i => .ok i 8
        | none => .bad true op 6 8
    else .bad true op 1 4
  else
    if laneShorts.contains op then
      if long then .bad false op 2 4
      else match laneShortI op (shortOf w0) with
        | some i => .ok i 4
        | none => .bad false op 6 4
    else if laneLongs.contains op then
      if !long then .bad false op 2 4
      else match laneLongI op (longOf w0 w1) with
        | some i => .ok i 8
        | none => .bad false op 6 8
    else if laneLits.contains op then
      if !long then .bad false op 2 4
      else match laneLitI op (litOf w0 w1) with
        | some i => .ok i 8
        | none => .bad false op 6 8
    else .bad false op 1 4

/-- The word that four bytes hold (00 R3). -/
def wordOf (l : List Byte) : W := BitVec.ofNat 32 (natLE l)

/-- Decoding of bytes: any bytes give an outcome; missing bytes count as zero. -/
def decodeBytes (l : List Byte) : Decoded := decodeWords (wordOf (l.take 4)) (wordOf ((l.drop 4).take 4))

/-- The instruction of a word of spec/opcode_table.json: bits 31 to 0 are word 0, bits 63 to 32 word 1, zero above
`nbits`. -/
def decodeTableWord (nbits w : Nat) : Option Instr :=
  match decodeBytes (bytesLE 8 (w % 2 ^ nbits)) with
  | .ok i _ => some i
  | .bad _ _ _ _ => none

/-! ### Encoding -/

/-- The word of a short form. -/
def encShort (uni : Bool) (op9 : Nat) (w : Short) : W :=
  (if uni then 1#1 else 0#1) ++ 0#1 ++ BitVec.ofNat 9 op9 ++ w.d ++ w.a ++ w.b

/-- Word 0 of a long or literal form. -/
def encHead (uni : Bool) (op9 : Nat) (d a : BitVec 8) (m : BitVec 5) : W :=
  (if uni then 1#1 else 0#1) ++ 1#1 ++ BitVec.ofNat 9 op9 ++ d ++ a ++ m

/-- The words of a long form. -/
def encLong (uni : Bool) (op9 : Nat) (w : Long) : List W :=
  [encHead uni op9 w.d w.a w.m, w.b ++ w.c ++ w.x]

/-- The words of a literal form. -/
def encLit (uni : Bool) (op9 : Nat) (w : Lit) : List W :=
  [encHead uni op9 w.d w.a w.m, w.lit]

/-- The words of an instruction (03 Tables 3.1, 3.8, 3.9). An event has none. -/
def encode (i : Instr) : List W :=
  match i with
  | .vadd w => encLong false 0x001 w
  | .vaddLit w => encLit false 0x020 w
  | .vsub w => encLong false 0x002 w
  | .vsubLit w => encLit false 0x021 w
  | .vaddc w => encLong false 0x003 w
  | .vmul w => encLong false 0x004 w
  | .vmulLit w => encLit false 0x022 w
  | .vmulh w => encLong false 0x005 w
  | .vmad w => encLong false 0x006 w
  | .vabs w => encLong false 0x007 w
  | .vperm w => encLong false 0x00F w
  | .vshl w => encLong false 0x010 w
  | .vshlLit w => encLit false 0x026 w
  | .vshr w => encLong false 0x011 w
  | .vshrLit w => encLit false 0x027 w
  | .vsra w => encLong false 0x012 w
  | .vsraLit w => encLit false 0x028 w
  | .vmin w => encLong false 0x013 w
  | .vminLit w => encLit false 0x029 w
  | .vmax w => encLong false 0x014 w
  | .vmaxLit w => encLit false 0x02A w
  | .vsel w => encLong false 0x015 w
  | .vcmp w => encLong false 0x016 w
  | .vbfx w => encLong false 0x017 w
  | .vbfi w => encLong false 0x018 w
  | .vand w => [encShort false 0x008 w]
  | .vandLit w => encLit false 0x023 w
  | .vor w => [encShort false 0x009 w]
  | .vorLit w => encLit false 0x024 w
  | .vxor w => [encShort false 0x00A w]
  | .vxorLit w => encLit false 0x025 w
  | .vnot w => [encShort false 0x00B w]
  | .vpopc w => [encShort false 0x00C w]
  | .vclz w => [encShort false 0x00D w]
  | .vbrev w => [encShort false 0x00E w]
  | .fadd w => encLong false 0x040 w
  | .faddLit w => encLit false 0x050 w
  | .fsub w => encLong false 0x041 w
  | .fsubLit w => encLit false 0x051 w
  | .fmul w => encLong false 0x042 w
  | .fmulLit w => encLit false 0x052 w
  | .ffma w => encLong false 0x043 w
  | .fmin w => encLong false 0x044 w
  | .fminLit w => encLit false 0x053 w
  | .fmax w => encLong false 0x045 w
  | .fmaxLit w => encLit false 0x054 w
  | .fcmp w => encLong false 0x046 w
  | .fclass w => encLong false 0x047 w
  | .frnd w => encLong false 0x048 w
  | .cvt w => encLong false 0x080 w
  | .npack w => encLong false 0x081 w
  | .nunpack w => encLong false 0x082 w
  | .ipack4 w => encLong false 0x083 w
  | .iunpack4 w => encLong false 0x084 w
  | .sclcalc w => encLong false 0x085 w
  | .frcp w => encLong false 0x0C0 w
  | .frsq w => encLong false 0x0C1 w
  | .fsqrt w => encLong false 0x0C2 w
  | .fexp2 w => encLong false 0x0C3 w
  | .flog2 w => encLong false 0x0C4 w
  | .fsin w => encLong false 0x0C5 w
  | .fcos w => encLong false 0x0C6 w
  | .lutld w => encLong false 0x0C8 w
  | .lutsel w => encLong false 0x0C9 w
  | .luteval w => encLong false 0x0CA w
  | .xlane w => encLong false 0x0E0 w
  | .xlaneLo w => encLong false 0x0E1 w
  | .xlaneHi w => encLong false 0x0E2 w
  | .xlaneFlip w => encLong false 0x0E3 w
  | .pollAny w => encLong false 0x0E4 w
  | .pollAll w => encLong false 0x0E5 w
  | .pollMask w => encLong false 0x0E6 w
  | .same w => encLong false 0x0E7 w
  | .sameAll w => encLong false 0x0E8 w
  | .redx w => encLong false 0x0E9 w
  | .redf w => encLong false 0x0EA w
  | .scanx w => encLong false 0x0EB w
  | .rank w => encLong false 0x0EC w
  | .selk w => encLong false 0x0ED w
  | .ld w => encLong false 0x120 w
  | .st w => encLong false 0x121 w
  | .lds w => encLong false 0x122 w
  | .sts w => encLong false 0x123 w
  | .ldsm w => encLong false 0x124 w
  | .ldsmT w => encLong false 0x125 w
  | .ldblk w => encLong false 0x126 w
  | .ldAcq w => encLong false 0x127 w
  | .stRel w => encLong false 0x128 w
  | .atom w => encLong false 0x129 w
  | .upd w => encLong false 0x12A w
  | .pfch w => encLong false 0x12B w
  | .sadd w => [encShort true 0x000 w]
  | .saddLit w => encLit true 0x018 w
  | .ssub w => [encShort true 0x001 w]
  | .smul w => [encShort true 0x002 w]
  | .smulLit w => encLit true 0x019 w
  | .smulh w => [encShort true 0x003 w]
  | .sand w => [encShort true 0x004 w]
  | .sandLit w => encLit true 0x01A w
  | .sor w => [encShort true 0x005 w]
  | .sorLit w => encLit true 0x01B w
  | .sxor w => [encShort true 0x006 w]
  | .sxorLit w => encLit true 0x01C w
  | .snot w => [encShort true 0x007 w]
  | .sshl w => [encShort true 0x008 w]
  | .sshlLit w => encLit true 0x01D w
  | .sshr w => [encShort true 0x009 w]
  | .sshrLit w => encLit true 0x01E w
  | .ssra w => [encShort true 0x00A w]
  | .ssraLit w => encLit true 0x01F w
  | .smin w => encLong true 0x00B w
  | .smax w => encLong true 0x00C w
  | .ssel w => encLong true 0x00D w
  | .smov w => [encShort true 0x00E w]
  | .smovi w => encLit true 0x00F w
  | .scmp w => encLong true 0x010 w
  | .sbfx w => encLong true 0x011 w
  | .sbfi w => encLong true 0x012 w
  | .spopc w => [encShort true 0x013 w]
  | .sclz w => [encShort true 0x014 w]
  | .slea w => encLong true 0x015 w
  | .kand w => [encShort true 0x040 w]
  | .kor w => [encShort true 0x041 w]
  | .kxor w => [encShort true 0x042 w]
  | .knot w => [encShort true 0x043 w]
  | .kmovKFromK w => [encShort true 0x044 w]
  | .kmovKFromS w => [encShort true 0x044 w]
  | .kmovSFromK w => [encShort true 0x044 w]
  | .kset w => encLit true 0x045 w
  | .kpopc w => [encShort true 0x046 w]
  | .kfirst w => [encShort true 0x047 w]
  | .bra w => encLit true 0x060 w
  | .brz w => encLit true 0x061 w
  | .brnz w => encLit true 0x062 w
  | .jmp w => [encShort true 0x063 w]
  | .call w => encLit true 0x064 w
  | .ret w => [encShort true 0x065 w]
  | .bany w => encLit true 0x066 w
  | .ball w => encLit true 0x067 w
  | .bnone w => encLit true 0x068 w
  | .bdiv w => encLit true 0x069 w
  | .converge w => [encShort true 0x06A w]
  | .pblk w => encLong true 0x06B w
  | .setfmt w => encLong true 0x070 w
  | .setfmtFlags w => encLong true 0x070 w
  | .setfmtImm w => encLong true 0x070 w
  | .setpart w => [encShort true 0x071 w]
  | .rdspec w => encLong true 0x072 w
  | .role w => [encShort true 0x073 w]
  | .exit w => [encShort true 0x074 w]
  | .trap w => [encShort true 0x075 w]
  | .brkpt w => [encShort true 0x076 w]
  | .nop w => [encShort true 0x077 w]
  | .pub w => [encShort true 0x0A0 w]
  | .snap w => [encShort true 0x0A1 w]
  | .phase w => [encShort true 0x0A2 w]
  | .txbeg w => [encShort true 0x0A3 w]
  | .txend w => [encShort true 0x0A4 w]
  | .txabort w => [encShort true 0x0A5 w]
  | .enq w => encLong true 0x0A6 w
  | .deq w => encLong true 0x0A7 w
  | .cwb w => encLong true 0x0A8 w
  | .cinv w => encLong true 0x0A9 w
  | .cwbinv w => encLong true 0x0AA w
  | .cpy w => encLong true 0x0E0 w
  | .cpy2d w => encLong true 0x0E1 w
  | .gath w => encLong true 0x0E2 w
  | .rcpy w => encLong true 0x0E3 w
  | .rsig w => encLong true 0x0E4 w
  | .tlget w => encLong true 0x0E8 w
  | .tlwait w => encLong true 0x0E9 w
  | .tlsig w => encLong true 0x0EA w
  | .waitc w => encLong true 0x0EB w
  | .waitcG w => encLong true 0x0EB w
  | .barInit w => encLong true 0x0F0 w
  | .barInitFree w => encLong true 0x0F0 w
  | .barArr w => encLong true 0x0F1 w
  | .barWait w => encLong true 0x0F2 w
  | .barArrw w => encLong true 0x0F3 w
  | .barSync w => encLong true 0x0F4 w
  | .lbar w => encLong true 0x0F5 w
  | .spawn w => encLong true 0x0F8 w
  | .post w => encLong true 0x0F9 w
  | .join w => encLong true 0x0FA w
  | .leave w => encLong true 0x0FB w
  | .msend w => encLong true 0x0FC w
  | .mrecv w => encLong true 0x0FD w
  | .mrec w => encLong true 0x140 w
  | .wld w => encLong true 0x141 w
  | .mmaz w => encLong true 0x142 w
  | .mma w => encLong true 0x143 w
  | .mepi w => encLong true 0x144 w
  | .mclrZ w => encLong true 0x145 w
  | .mclrLd w => encLong true 0x145 w
  | .mrestart w => encLong true 0x146 w
  | .mfence w => encLong true 0x147 w
  | .rfe w => [encShort true 0x180 w]
  | .csrrd w => encLong true 0x181 w
  | .csrwr w => encLong true 0x182 w
  | .rdenergy w => [encShort true 0x183 w]
  | .sfuRetire _ _ => []
  | .matrixPassRetire _ => []
  | .asyncEventTake _ => []
  | .squadWake _ => []
  | .squadRetire _ => []
  | .teamExit _ => []
  | .mccProgramEnd _ => []
  | .engineCommandRun _ => []
  | .huddleTimerExpire _ _ => []
  | .huddlePlace _ _ => []
  | .arbiterTakeEntry => []
  | .entryClassAge _ => []
  | .placeTeam _ => []
  | .placerOldestWaitExpire => []
  | .launchComplete _ => []
  | .qtailWrite _ _ => []
  | .qfaultClear _ => []
  | .qtbaseWrite _ _ => []
  | .ringBaseWrite _ _ _ => []
  | .ringHeadWrite _ _ _ => []
  | .registerWrite _ _ _ => []
  | .homeSharedRequest _ _ => []
  | .homeExclusiveRequest _ _ => []
  | .homeUpdateOnlyRequest _ _ _ _ _ => []
  | .homePublicationEvent _ => []
  | .homePlainRead _ _ _ => []
  | .homeCollapseRequest _ _ => []
  | .homeInvalidationAck _ _ => []
  | .homeOwnerBytes _ => []
  | .homeDiePartial _ _ _ => []
  | .l1Grant _ _ => []
  | .l1Invalidate _ _ => []
  | .l1Recall _ _ => []
  | .l1CollapseRecall _ _ => []
  | .l1PutAck _ _ => []
  | .snoopFilterMessage _ _ => []
  | .mergePortCollapse _ _ => []
  | .pageGrantRequest _ _ _ _ _ => []
  | .pageGrantRecall _ _ => []
  | .pageGrantRecallAck _ _ => []
  | .translationWalkEnd _ => []
  | .tlbinvScopeAddress _ _ => []
  | .tlbinvScopeContext _ => []
  | .tlbinvScopeAll => []
  | .tlbinvDrain _ _ => []
  | .tlbinvComplete => []
  | .tkcmdMapped _ => []
  | .tkcmdDenied _ => []
  | .ebbCollectorPass _ => []
  | .versionStoreFullTimeout => []
  | .snapshotAgeLimit => []
  | .snapshotRevocation _ => []
  | .ctxcmdSave _ => []
  | .ctxcmdRestore _ => []
  | .ctxcmdKill _ => []
  | .graceWindowClose _ => []
  | .teamSaveRecord _ => []
  | .contextRestorePlace _ => []
  | .stopcmdStop _ _ => []
  | .stopcmdResume _ _ => []
  | .stopcmdResumeAll _ => []
  | .stopComplete _ => []
  | .samplerCountZero _ _ => []
  | .fabricMessageReceive _ _ _ _ _ _ _ => []
  | .fabricRetransmitTimeout _ => []
  | .flitCrcReplay _ => []
  | .settleBeaconSend => []
  | .settleBeaconReceive _ => []
  | .beaconSilenceEvict _ => []
  | .bridgeSilenceTakeover => []
  | .membershipBegin _ _ => []
  | .membershipReady _ => []
  | .membershipSwitch => []
  | .lbarMemberReport _ _ _ => []
  | .lbarMemberComplete _ _ _ _ => []
  | .domcmdAdmit _ _ => []
  | .domcmdRemove _ => []
  | .domcmdEvict _ => []
  | .getVersion => []
  | .getCapabilities => []
  | .negotiateAlgorithms _ => []
  | .getDigests => []
  | .getCertificate _ => []
  | .getMeasurements _ _ => []
  | .keyExchange _ _ => []
  | .finish _ => []
  | .vendorDefinedRequest _ _ => []
  | .endSession => []
  | .hostWindowAccess _ _ _ => []
  | .hostApertureWrite _ _ _ => []
  | .hostApertureRead _ _ _ => []
  | .hostUnsupportedRequest => []
  | .errorWindowExpire _ => []
  | .clusterRetire _ _ => []
  | .sliceRetire _ _ => []
  | .hbmRowRepair _ _ _ => []
  | .hbmChannelRepair _ _ _ => []
  | .linkLaneSpare _ _ _ => []
  | .thermalTrip _ _ => []
  | .thermalRelease _ => []
  | .powerOn _ _ => []
  | .pcieFundamentalReset _ _ => []
  | .fwcmdLoad => []
  | .fwcmdColdReset _ _ => []
  | .fwcmdWarmReset => []
  | .slackWaterEstimateUpdate => []
  | .scrubbing _ _ => []
  | .spdmUnsupportedRequest _ => []
  | .portLinkTrained _ _ _ => []
  | .portLinkDown _ => []

/-- The bytes of an instruction as they lie in memory. -/
def encodeBytes (i : Instr) : List Byte := (encode i).flatMap (fun w => bytesLE 4 w.toNat)

end Sys2Proof
end

