-- ==== Sys2Proof/Machine/Base.lean ====
section
/-! DEFINITION. The plainest operations over the state: focus, time and stamps, registers, CSR values, device rings, error
records, memory by version, the split and its block. -/

namespace Sys2Proof.Machine

/-- The outcome type of every meaning. -/
abbrev Out := Host.Outcome State Fault Refusal

/-! ### Focus -/

/-- Nobody is in focus; the squad or MCC that was goes back to its list. -/
def State.unfocus (s : State) : State :=
  match s.focus with
  | .idle => s
  | .squad => { s with focus := .idle, squads := s.squads ++ [s.sq], sq := Squad.blank }
  | .mcc => { s with focus := .idle, mccs := s.mccs ++ [s.mcc], mcc := Mcc.blank }

/-- Bring the squad or MCC of an identity into focus. -/
def State.focusOn (s : State) (id : Nat) : State :=
  let s := s.unfocus
  match s.squads.find? (·.id == id) with
  | some q => { s with focus := .squad, sq := q, squads := s.squads.filter (·.id != id) }
  | none =>
    match s.mccs.find? (·.id == id) with
    | some m => { s with focus := .mcc, mcc := m, mccs := s.mccs.filter (·.id != id) }
    | none => s

/-- Every resident squad, the one in focus included. -/
def State.allSquads (s : State) : List Squad :=
  if s.focus = .squad then s.sq :: s.squads else s.squads

/-- Every MCC, the one in focus included. -/
def State.allMccs (s : State) : List Mcc :=
  if s.focus = .mcc then s.mcc :: s.mccs else s.mccs

/-- Change every squad that satisfies p. -/
def State.modSquads (s : State) (p : Squad → Bool) (f : Squad → Squad) : State :=
  { s with squads := modAll p f s.squads, sq := if s.focus = .squad ∧ p s.sq then f s.sq else s.sq }

/-- Change every MCC that satisfies p. -/
def State.modMccs (s : State) (p : Mcc → Bool) (f : Mcc → Mcc) : State :=
  { s with mccs := modAll p f s.mccs, mcc := if s.focus = .mcc ∧ p s.mcc then f s.mcc else s.mcc }

/-- Change the squad in focus. -/
def State.modSq (s : State) (f : Squad → Squad) : State := { s with sq := f s.sq }

/-- Change the MCC in focus. -/
def State.modMcc (s : State) (f : Mcc → Mcc) : State := { s with mcc := f s.mcc }

/-- Does an MCC issue? -/
def State.isM (s : State) : Bool := s.focus == .mcc

/-- The context of the issuer. -/
def State.ctxNow (s : State) : Nat := if s.isM then s.mcc.ctx else s.sq.ctx

/-- The launch of the issuer. -/
def State.launchNow (s : State) : Nat := if s.isM then s.mcc.launch else s.sq.launch

/-- The team of the issuing squad. -/
def State.teamNow (s : State) : Option Team := s.teams.find? (·.id == s.sq.team)

/-- A launch by its number. -/
def State.launchOf (s : State) (id : Nat) : Option Launch := s.launches.find? (·.id == id)

/-- A context by its tag. -/
def State.ctxOf (s : State) (tag : Nat) : Option Ctx := s.ctxs.find? (·.tag == tag)

/-- Change the team in focus. -/
def State.modTeam (s : State) (id : Nat) (f : Team → Team) : State :=
  { s with teams := modAll (·.id == id) f s.teams }

/-- Change a launch. -/
def State.modLaunch (s : State) (id : Nat) (f : Launch → Launch) : State :=
  { s with launches := modAll (·.id == id) f s.launches }

/-- Change a context. -/
def State.modCtx (s : State) (tag : Nat) (f : Ctx → Ctx) : State :=
  { s with ctxs := modAll (·.tag == tag) f s.ctxs }

/-- Does a context hold supervisor mode (19 R309), and does it belong to the trust domain (11 R223) (log 9)? -/
def State.supOf (s : State) (tag : Nat) : Bool :=
  match s.ctxOf tag with
  | some c => c.sup
  | none => Config.supTag tag

def State.domOf (s : State) (tag : Nat) : Bool :=
  match s.ctxOf tag with
  | some c => c.dom
  | none => Config.domTag tag

/-- A fresh number for the model's own records. -/
def State.fresh (s : State) : Nat × State := (s.nextId, { s with nextId := s.nextId + 1 })

/-- The identity of the issuer. -/
def State.agentNow (s : State) : Nat := if s.isM then s.mcc.id else s.sq.id

/-- The cluster of the issuer, 32 die + logical cluster. -/
def State.clNow (s : State) : Nat := if s.isM then s.mcc.cl else s.sq.cache / 4

/-- The tidemark of the issuer (for the MCC, the engine tidemark, 02 R53). -/
def State.tideNow (s : State) : Stamp := if s.isM then s.mcc.tide else s.sq.tide

/-- The observed stamp of the issuer. -/
def State.obsNow (s : State) : Stamp := if s.isM then s.mcc.obs else s.sq.obs

/-- Raise the issuer's observed stamp (02 R46: it never decreases). -/
def State.observe (s : State) (st : Stamp) : State :=
  if s.isM then s.modMcc (fun m => { m with obs := m.obs.max st })
  else s.modSq (fun q => { q with obs := q.obs.max st })

/-- Raise the issuer's tidemark (02 R46). -/
def State.raiseTide (s : State) (st : Stamp) : State :=
  if s.isM then s.modMcc (fun m => { m with tide := m.tide.max st })
  else s.modSq (fun q => { q with tide := q.tide.max st })

/-- The issuer's acknowledgement counter. -/
def State.ackNow (s : State) : Nat := if s.isM then s.mcc.ack else s.sq.ack

/-! ### Time and stamps (00 R11, 11 R220) -/

/-- Ticks pass. The tick is a natural number: the manual's 64 bits last 584 years, and it does not say what follows (log 103). -/
def State.tick (s : State) (n : Nat) : State := { s with now := s.now + n }

/-- A source number: package, die, agent (00 R11). -/
def State.srcOf (s : State) (die agent : Nat) : Nat := s.pkgIdx * 1024 + die * 256 + agent

/-- The next stamp of an agent: at most one in a tick; a request in a tick already used waits for the next (11 R220). -/
def State.takeStamp (s : State) (die agent : Nat) : Stamp × State :=
  let src := s.srcOf die agent
  let t := match get? s.lastTick src with
    | some l => max s.now (l + 1)
    | none => s.now
  (⟨t, src⟩, { s with now := t, lastTick := ins s.lastTick src t })

/-- Die and agent number of the CU of a cache number (11 Table 11.1). -/
def State.cuStamp (s : State) (cache : Nat) : Stamp × State := s.takeStamp (cache / 128) (cache % 128)

/-- The next stamp of the issuer's agent: the CU of a squad, the MCC's own agent (11 Table 11.1). -/
def State.ownStamp (s : State) : Stamp × State :=
  if s.isM then s.takeStamp (s.mcc.cl / 32) (128 + s.mcc.cl % 32) else s.cuStamp s.sq.cache

/-- The stamp just below a stamp. -/
def predStamp (st : Stamp) : Stamp :=
  if st.src = 0 then (if st.tick = 0 then Stamp.zero else ⟨st.tick - 1, 65535⟩) else ⟨st.tick, st.src - 1⟩

/-- The commit stamp that a squad has taken and not yet written (07 R154). -/
def Squad.commitStamp (q : Squad) : Option Stamp :=
  q.todo.findSome? (fun m => match m with | .txLock c _ => some c | .txCommit c => some c | _ => none)

/-- The package's own slack-water share (20 R329, 11 R223): below the stamp of every event of its own agents that its home has not yet
acknowledged, those on manual pages among them, that holders in other packages have still to answer, or that a commit has still to write, and
every stamp an agent can still take. -/
def State.share (s : State) : Stamp :=
  let own (st : Stamp) : Bool := st.src / 1024 == s.pkgIdx
  let open_ := ((s.msgs.filter (fun m => !(m.dep && m.bytes.isEmpty))).map (·.st) ++ s.notes.map (·.st)).filter own ++
    s.allSquads.filterMap Squad.commitStamp
  predStamp ((minStamp (⟨s.now, 0⟩ :: open_)).getD ⟨s.now, 0⟩)

/-! ### CSRs -/

/-- The Reset value of a CSR (tables of 17, 18, 19, 20, 22, 23, 24); every other field resets to zero. -/
def csrReset (n : Nat) : W :=
  if n = 0x8047 then 100 else if n = 0x8092 then 6 else if n = 0x8247 then 4
  else if n = 0x8302 then 6 else if n = 0x8306 then 64 else if n = 0x8307 then 24
  else if n = 0x8402 then 2 else if n = 0x8413 then 6 else if n = 0x8417 then 1 else if n = 0x841A then 6
  else if n = 0x8502 then 0x01000000
  else if 0x8420 ≤ n ∧ n ≤ 0x842B then
    nth 0 [300, 400, 700, 900, 500, 1800, 600, 900, 1500, 2400, 3000, 12000000] (n - 0x8420)
  else 0

/-- Is a CSR one for each context: it acts on the context in CTXSEL (18 R300, 19 R317, 23 Table 23.3)? -/
def csrScoped (n : Nat) : Bool :=
  decide (0x8041 ≤ n ∧ n ≤ 0x8049) || decide (0x8080 ≤ n ∧ n ≤ 0x8082) || decide (0x8400 ≤ n ∧ n ≤ 0x8408) ||
  decide (0x8418 ≤ n ∧ n ≤ 0x841C)

/-- The value held for a CSR in a scope: 0 the package, 1 + tag a context. -/
def State.csr (s : State) (scope n : Nat) : W :=
  match s.csrs.find? (fun e => e.1 == (scope, n)) with
  | some e => e.2
  | none => csrReset n

/-- Set the value held for a CSR. -/
def State.setCsr (s : State) (scope n : Nat) (v : W) : State :=
  { s with csrs := upsert (fun e => e.1 == (scope, n)) ((scope, n), v) s.csrs }

/-- The 64-bit value of a pair of CSRs. -/
def State.csr2 (s : State) (scope n : Nat) : Nat := (s.csr scope n).toNat + 2 ^ 32 * (s.csr scope (n + 1)).toNat

/-! ### Memory by version (11 R222) -/

/-- The canonical form of a list of memory cells: addresses strictly rising, and no entry equal to zero, which an unlisted
address reads as (00 R6: the memory is zero after a cold reset). -/
def Memory.wf (m : List Host.Cell) : Bool := canon 0 m

/-- The key of a byte of a member's memory. -/
def memKey (home pa : Nat) : Nat := home * 2 ^ 40 + pa

/-- The line of a byte. -/
def lineOf (key : Nat) : Nat := key / 128

/-- Is a stamp at or below a bound, none being no bound? -/
def upTo (t : Option Stamp) (st : Stamp) : Bool :=
  match t with
  | some u => st.le u
  | none => true

/-- The byte that the publication events of a list supply at offset `off` at stamp t or below (none: at any stamp), the
one of greatest stamp. -/
def pubByte (t : Option Stamp) (line off : Nat) : List Pub → Option (Stamp × Byte)
  | [] => none
  | p :: r =>
    let rest := pubByte t line off r
    if p.line = line ∧ upTo t p.st then
      match get? p.bytes off with
      | none => rest
      | some b =>
        match rest with
        | none => some (p.st, b)
        | some (st, c) => if st.le p.st then some (p.st, b) else some (st, c)
    else rest

/-- The byte of a key at a stamp, or the newest landed one (11 R222, R225). -/
def State.byteAt (s : State) (t : Option Stamp) (key : Nat) : Byte :=
  match pubByte t (lineOf key) (key % 128) s.pubs with
  | some (_, b) => b
  | none => look 0 s.mem key

/-- Bytes of consecutive keys. -/
def State.bytesAt (s : State) (t : Option Stamp) (key n : Nat) : List Byte :=
  (List.range n).map (fun i => s.byteAt t (key + i))

/-- The stamp of the newest version of a line, zero when only the base bytes exist. -/
def State.newest (s : State) (line : Nat) : Stamp :=
  maxStamp ((s.pubs.filter (·.line == line)).map (·.st))

/-- Write bytes of a manual page, or bytes that the device itself places (rings), at their home: every reader sees them
(12 R261, log 16). -/
def State.homeWrite (s : State) (key : Nat) : List Byte → State
  | [] => s
  | b :: bs =>
    let s := { s with
      mem := put 0 s.mem key b
      pubs := modAll (·.line == lineOf key) (fun p => { p with bytes := drop1 p.bytes (key % 128) }) s.pubs }
    s.homeWrite (key + 1) bs

/-- A physical read in the local package at the newest landed version (19 R310). -/
def State.phys (s : State) (pa n : Nat) : List Byte := s.bytesAt none (memKey s.pkgIdx pa) n

/-- A physical write in the local package by the device. R248 gives a physical address 40 bits and Table 0.1 installs 768 GiB; the
manual says nothing of the addresses between, and the model keeps bytes at every address below 2^40 (log 104). -/
def State.physWrite (s : State) (pa : Nat) (b : List Byte) : State := s.homeWrite (memKey s.pkgIdx pa) b

/-- An event that writes all 32 bytes of a poisoned granule clears it for readers at or above its stamp; one that
merges with the prior bytes leaves the poison (22 R349). -/
def clearPoison (line : Nat) (st : Stamp) (bytes : List (Nat × Byte)) (p : Poison) : Poison :=
  if p.gran / 4 = line ∧ p.upto = none ∧ p.place = .home ∧ p.frm.le st ∧
      (List.range 32).all (fun i => (get? bytes (p.gran % 4 * 32 + i)).isSome) then { p with upto := some st } else p

/-- Is a byte poisoned at its home for a reader at a stamp, or, with none, of the newest version (22 R349)? -/
def State.poisoned (s : State) (t : Option Stamp) (key : Nat) : Bool :=
  s.poison.any (fun p => p.gran == key / 32 && p.place == .home &&
    (match p.upto, t with
     | none, none => true
     | some _, none => false
     | none, some v => p.frm.le v
     | some u, some v => p.frm.le v && v.lt u))

/-- Is a byte poisoned in the data that a place other than the home holds? -/
def State.poisonIn_ (s : State) (a : PoisonAt) (key : Nat) : Bool := s.poison.any (fun p => p.gran == key / 32 && p.place == a)

/-- Is the current value of a byte poisoned: at its home, in the line of its owner, or in bytes that its owners have sent (11 R231)? -/
def State.poisonedNow (s : State) (key : Nat) : Bool :=
  s.poisoned none key || s.poison.any (fun p => p.gran == key / 32 && (match p.place with
    | .own _ => true
    | .msg id => s.msgs.any (fun m => m.id == id && (m.owned || m.dep))
    | _ => false))

/-- Poison of a line goes with its data from one place to another, at its home into the version of a stamp. -/
def State.carryPoison (s : State) (line : Nat) (a b : PoisonAt) (st : Stamp) : State :=
  { s with poison := s.poison.map (fun p => if p.place == a && p.gran / 4 == line then { p with place := b, frm := st, upto := none } else p) }

/-- It ends with the data. -/
def State.endPoison (s : State) (line : Nat) (a : PoisonAt) : State :=
  { s with poison := s.poison.filter (fun p => !(p.place == a && p.gran / 4 == line)) }

/-- A publication event takes its place among the versions of its line: copies get its stamp as stale stamp, shared
copies leave (11 R222, 12 R251). -/
def State.land (s : State) (line : Nat) (st : Stamp) (bytes : List (Nat × Byte)) (ctx : Nat) : State :=
  { s with
    pubs := s.pubs ++ [⟨line, st, bytes, ctx⟩]
    poison := s.poison.map (clearPoison line st bytes)
    copies := modAll (fun c => c.line == line && c.stale == none) (fun c => { c with stale := some st }) s.copies }

/-! ### Device rings (19 R315, 22 R354, R355, 23 R361, R364, R366) -/

/-- The state of a ring from its CSRs: base, capacity, head, tail. -/
structure Ring where
  scope : Nat
  base  : Nat
  cap   : Nat
  head  : Nat
  tail  : Nat
  tailN : Nat
deriving DecidableEq, Repr

/-- A ring by the CSR numbers of its base, size, head and tail. -/
def State.ring (s : State) (scope baseN sizeN headN tailN : Nat) : Ring :=
  ⟨scope, s.csr2 scope baseN, 2 ^ (s.csr scope sizeN).toNat, (s.csr scope headN).toNat, (s.csr scope tailN).toNat, tailN⟩

def State.fqRing (s : State) : Ring := s.ring 0 0x8090 0x8092 0x8093 0x8094
def State.erRing (s : State) : Ring := s.ring 0 0x8300 0x8302 0x8303 0x8304
def State.smpRing (s : State) : Ring := s.ring 0 0x8411 0x8413 0x8414 0x8415
def State.stopRing (s : State) (tag : Nat) : Ring := s.ring (1 + tag) 0x8400 0x8402 0x8403 0x8404
def State.enRing (s : State) (tag : Nat) : Ring := s.ring (1 + tag) 0x8418 0x841A 0x841C 0x841B

/-- Records not yet consumed, modulo 2^32. -/
def Ring.used (r : Ring) : Nat := (r.tail + 2 ^ 32 - r.head) % 2 ^ 32

/-- May a record be written now: the base is nonzero and the ring is not full (22 R355)? -/
def Ring.open_ (r : Ring) : Bool := r.base != 0 && decide (r.used < r.cap)

/-- Write one record of `size` bytes at the tail and advance it. -/
def State.ringPut (s : State) (r : Ring) (size : Nat) (b : List Byte) : State :=
  (s.physWrite (r.base + r.tail % r.cap * size) (fitBytes size b)).setCsr r.scope r.tailN (w32 (r.tail + 1))

/-- Has the domain a bridge member, index 0, and through it a host (20 R331; log 28)? -/
def State.hosted (s : State) : Bool := s.pkgIdx == 0 || s.peers.any (·.idx == 0)

/-- Set a bit of HIRQ; a bit set anew with its mask clear sends its MSI-X vector, while there is a host to send it to (20 R331, R337). -/
def State.raiseHirq (s : State) (k : Nat) : State :=
  if s.hirq.getLsbD k then s
  else
    { s with
      hirq := s.hirq ||| w32 (2 ^ k)
      msix := if s.hirqMask.getLsbD k || !s.hosted then s.msix else s.msix ++ [4 * s.pkgIdx + k] }

/-- The bytes of an error record (22 Table 22.2). -/
def ErrRec.bytes (e : ErrRec) : List Byte :=
  stampBytes e.st ++ bytesLE 2 e.ctx ++ bytesLE 1 e.kind ++ bytesLE 1 e.unit_ ++ bytesLE 4 e.place ++
    bytesLE 8 e.addr ++ bytesLE 8 e.detail ++ zbytes 24

/-- Write the waiting error records that the ring takes, in order: at most `n` (22 R354); those of a thermal trip in the persistent
store go ahead of all others (24 R367). -/
def State.flushErr : Nat → State → State
  | 0, s => s
  | n + 1, s =>
    if !s.erRing.open_ then s
    else
      match s.thermal, s.erWait with
      | e :: r, _ => State.flushErr n (({ s with thermal := r }.ringPut s.erRing 64 e.bytes).raiseHirq 2)
      | [], e :: r => State.flushErr n (({ s with erWait := r }.ringPut s.erRing 64 e.bytes).raiseHirq 2)
      | [], [] => s

/-- An error record arises: it is written, waits in the management controller, or is dropped and counted (22 R354). -/
def State.error (s : State) (e : ErrRec) : State :=
  let s := if s.erWait.length < 256 ∨ s.erRing.open_ then { s with erWait := s.erWait ++ [e] }
    else s.setCsr 0 0x8305 (s.csr 0 0x8305 + 1)
  State.flushErr (s.thermal.length + s.erWait.length) s

/-- An error record of a kind whose unit class and place the manual leaves open: they are free values, the class one of those
that exist (22 Table 22.2, log 17). -/
def State.report (s : State) (st : Stamp) (ctx kind addr detail : Nat) : State :=
  ({ s with free := s.free + 2 } : State).error
    ⟨st, ctx, kind, 1 + (Config.freeWord s.free).toNat % 10, (Config.freeWord (s.free + 1)).toNat, addr, detail⟩

/-- The stamp of detection by the unit of a die (22 Table 22.2). It is no event that writes memory and takes none of an
agent's stamps (log 17). -/
def State.seenStamp (s : State) (die agent : Nat) : Stamp := ⟨s.now, s.srcOf die agent⟩

/-- `where` of an error record (22 Table 22.2). -/
def wherePack (die unit_ low : Nat) : Nat := die % 4 * 2 ^ 30 + unit_ % 128 * 2 ^ 23 + low % 2 ^ 23

/-- The bytes of a fault record's ring: write the waiting ones (19 R315). -/
def State.flushFq : Nat → State → State
  | 0, s => s
  | n + 1, s =>
    match s.fqWait with
    | [] => s
    | e :: r =>
      if s.fqRing.open_ then
        State.flushFq n (({ s with fqWait := r }.ringPut s.fqRing 64 e.2).raiseHirq 1)
      else s

/-- Write the stop records that wait for their context's ring (23 R364). -/
def State.flushStop (s : State) (tag : Nat) : Nat → State
  | 0 => s
  | n + 1 =>
    match s.stopWait.find? (·.ctx == tag) with
    | none => s
    | some e =>
      if (s.stopRing tag).open_ then
        State.flushStop ({ s with stopWait := s.stopWait.erase e }.ringPut (s.stopRing tag) 16384 e.bytes) tag n
      else s

/-! ### Registers -/

/-- s-register n of the issuer. -/
def State.sreg (s : State) (n : Nat) : W := nth 0 (if s.isM then s.mcc.sregs else s.sq.sregs) n

/-- The pair of s-registers n and n + 1 (02 R36). -/
def State.spair (s : State) (n : Nat) : D := pair (s.sreg (n + 1)) (s.sreg n)

/-- Write s-register n of the issuer; a write clears the register's poison mark (22 R350). -/
def State.setS (s : State) (n : Nat) (v : W) : State :=
  if s.isM then s.modMcc (fun m => { m with sregs := m.sregs.set n v, badRegs := m.badRegs.filter (· != n) })
  else s.modSq (fun q => { q with
    sregs := q.sregs.set n v
    badRegs := q.badRegs.filter (fun b => !(b.1 == false && b.2.1 == n)) })

/-- Write a pair of s-registers. -/
def State.setS2 (s : State) (n : Nat) (v : D) : State := (s.setS n (loW v)).setS (n + 1) (hiW v)

/-- The scalar condition bit of the issuer. -/
def State.scc (s : State) : Bool := if s.isM then s.mcc.scc else s.sq.scc

/-- Write scc. -/
def State.setScc (s : State) (b : Bool) : State :=
  if s.isM then s.modMcc (fun m => { m with scc := b }) else s.modSq (fun q => { q with scc := b })

/-- The fmt that the issuer's instruction sees (02 R37, R53). -/
def State.fmtNow (s : State) : W := if s.isM then s.mcc.fmt else s.sq.sp.fmt

/-- Write the issuing split's fmt copy, or the MCC's fmt: bits [31:16] are discarded (02 R42). -/
def State.setFmt (s : State) (v : Nat) : State :=
  if s.isM then s.modMcc (fun m => { m with fmt := w32 (v % 65536) })
  else s.modSq (fun q => { q with sp := { q.sp with fmt := w32 (v % 65536) } })

/-- The sticky flags of the issuer. -/
def State.flagsNow (s : State) : W := if s.isM then s.mcc.flags else s.sq.flags

/-- Conditions of the squad's instruction: one that delivers its result with a latency keeps them with that result (18 R296). -/
def Squad.orFlags (f : W) (q : Squad) : Squad :=
  match q.late.getLast? with
  | some e =>
    if e.cur = q.cur then { q with late := q.late.dropLast ++ [{ e with flags := e.flags ||| f }] } else { q with flags := q.flags ||| f }
  | none => { q with flags := q.flags ||| f }

/-- OR conditions into the issuer's flags, which take them when the instruction retires (01 R27). -/
def State.orFlags (s : State) (f : Nat) : State :=
  if s.isM then s.modMcc (fun m => { m with flags := m.flags ||| w32 f }) else s.modSq (Squad.orFlags (w32 f))

/-- Write all six flags (02 R44). -/
def State.setFlags (s : State) (v : Nat) : State :=
  if s.isM then s.modMcc (fun m => { m with flags := w32 (v % 64) })
  else s.modSq (fun q => { q with flags := w32 (v % 64) })

/-- v-register r of lane l of a squad. -/
def Squad.v (q : Squad) (r l : Nat) : W := nth 0 (nth [] q.vregs r) l

/-- The 64-bit value of registers r and r + 1 of a lane (02 R36). -/
def Squad.v2 (q : Squad) (r l : Nat) : D := pair (q.v (r + 1) l) (q.v r l)

/-- k-register n: k0 reads as the issuing split's active mask (02 R39). -/
def Squad.k (q : Squad) (n : Nat) : Mask := if n = 0 then q.sp.mask else nth 0 q.kregs (n - 1)

/-- Replace the lanes of a mask in a row of 32 values. -/
def blend (lanes : Mask) (new old : Nat → W) : List W :=
  (List.range 32).map (fun l => if lanes.getLsbD l then new l else old l)

/-- Write a vector register in the lanes of a mask; other lanes keep their values (02 R36). -/
def Squad.setV (q : Squad) (lanes : Mask) (r : Nat) (f : Nat → W) : Squad :=
  { q with
    vregs := q.vregs.set r (blend lanes f (fun l => q.v r l))
    badRegs := q.badRegs.filter (fun b => !(b.1 && b.2.1 == r && lanes.getLsbD b.2.2)) }

/-- Write a pair of vector registers. -/
def Squad.setV2 (q : Squad) (lanes : Mask) (r : Nat) (f : Nat → D) : Squad :=
  (q.setV lanes r (fun l => loW (f l))).setV lanes (r + 1) (fun l => hiW (f l))

/-- Write the bits of a mask register in the lanes of a mask (05 R103). -/
def Squad.setKBits (q : Squad) (lanes : Mask) (n : Nat) (f : Nat → Bool) : Squad :=
  { q with kregs := q.kregs.set (n - 1) ((q.k n &&& ~~~lanes) ||| (maskOf f &&& lanes)) }

/-- Write a whole mask register k1 to k7. -/
def Squad.setK (q : Squad) (n : Nat) (v : Mask) : Squad := { q with kregs := q.kregs.set (n - 1) v }

/-- Is a pblk block open for the issuing split (02 Table 2.1)? -/
def Split.inBlock (p : Split) : Bool := p.blkPos != 0xF

/-- The lane set of the issuing split's next instruction (03 R64). -/
def Split.laneSet (p : Split) : Mask :=
  if p.inBlock then
    (if p.blkPat.getLsbD p.blkPos.toNat then p.blkK &&& p.blkA else p.blkA &&& ~~~p.blkK)
  else p.mask

/-- The lane set of the issuer. -/
def State.lanes (s : State) : Mask := s.sq.sp.laneSet

/-- The tile size of part (02 Table 2.5). -/
def Squad.tsize (q : Squad) : Nat := q.part.toNat % 8

/-- What a mode gives the checks of 03 Table 3.7. -/
def State.fenv (s : State) : FEnv :=
  if s.isM then
    { mcc := true, vallot := 0, sallot := 128, fmt := s.mcc.fmt, tsize := 5, lanes := 0, nroles := 0, levels := [] }
  else
    { mcc := false, vallot := s.sq.vallot, sallot := s.sq.sallot, fmt := s.sq.sp.fmt, tsize := s.sq.tsize
      lanes := s.lanes
      nroles := match s.launchOf s.sq.launch with | some l => l.hdr.roles.length | none => 0
      levels := match s.launchOf s.sq.launch with
        | some l => (List.range l.hdr.levels.length).map (· + 3)
        | none => [] }

/-! ### Program counters -/

/-- The program counter of the issuer. -/
def State.pcNow (s : State) : D := if s.isM then s.mcc.pc else s.sq.sp.pc

/-- Set the program counter of the issuer. -/
def State.setPc (s : State) (pc : D) : State :=
  if s.isM then s.modMcc (fun m => { m with pc := pc })
  else s.modSq (fun q => { q with sp := { q.sp with pc := pc } })

/-- The block position after an instruction of the block issued (03 R66). -/
def Split.stepBlock (p : Split) : Split :=
  if p.inBlock then
    { p with blkPos := if p.blkPos.toNat + 1 = p.blkN then 0xF else p.blkPos + 1 }
  else p

/-- Move past an instruction of `len` bytes: the PC advances and so does an open block (03 R55, R66). -/
def State.advance (s : State) (len : Nat) : State :=
  if s.isM then s.modMcc (fun m => { m with pc := m.pc + BitVec.ofNat 64 len })
  else s.modSq (fun q => { q with
    sp := { q.sp.stepBlock with pc := q.sp.pc + BitVec.ofNat 64 len } })

end Sys2Proof.Machine
end

