-- ==== Sys2Proof/Machine/Observe.lean ====
section
/-! DEFINITION. Sampling and energy (23 R361, R365): the sampler of a sub-partition, its records, the class of an
instruction and its weight. -/

namespace Sys2Proof.Machine

/-- The energy sum saturates (23 R365). -/
def satAdd (a b : Nat) : Nat := min (a + b) (2 ^ 64 - 1)

/-- The energy class of an instruction (23 Table 23.4). The type code and sub of x tell the 64-bit types and vmad.wide of
class 3 (log 19). -/
def energyClass (uni : Bool) (op9 : Nat) (long : Bool) (x : BitVec 16) : Nat :=
  if uni then
    (if op9 ≤ 0x09F then 0 else if op9 ≤ 0x13F then 10
     else if 0x142 ≤ op9 ∧ op9 ≤ 0x145 then 11 else if op9 ≤ 0x147 then 10 else 0)
  else if op9 ≤ 0x02A then
    (if long && op9 ≤ 0x01F &&
        ((op9 == 0x006 && bits x.toNat 14 8 == 1) ||
         (op9 != 0x017 && op9 != 0x018 && [1, 7, 11].contains (bits x.toNat 4 0))) then 3 else 1)
  else if op9 ≤ 0x054 then 2
  else if op9 ≤ 0x085 then 4
  else if op9 ≤ 0x0CA then 5
  else if op9 ≤ 0x0ED then 6
  else if 0x122 ≤ op9 ∧ op9 ≤ 0x125 then 7
  else if 0x127 ≤ op9 ∧ op9 ≤ 0x12A then 9
  else 8

/-- The weight of a class in femtojoules per lane. -/
def State.weight (s : State) (cls : Nat) : Nat := (s.csr 0 (0x8420 + cls)).toNat

/-! ### Sampling (23 R361) -/

/-- Is sampling enabled, and its period P. -/
def State.smpOn (s : State) : Bool := (s.csr 0 0x8410).getLsbD 0
def State.smpP (s : State) : Nat := 2 ^ bits (s.csr 0 0x8410).toNat 12 8

/-- The sampler of a sub-partition; a sampler not used yet holds the seed (log 10). -/
def State.sampler (s : State) (cache sub : Nat) : Sampler :=
  match s.samplers.find? (fun p => p.cache == cache && p.sub == sub) with
  | some p => p
  | none =>
    let l := Config.lfsr (s.csr 0 0x8417)
    ⟨cache, sub, l, s.smpP + l.toNat % s.smpP, false, none⟩

/-- Set a sampler. -/
def State.setSampler (s : State) (p : Sampler) : State :=
  { s with samplers := upsert (fun r => r.cache == p.cache && r.sub == p.sub) p s.samplers }

/-- At zero the sampler tags the instruction that issues next. -/
def Sampler.atZero (p : Sampler) : Sampler :=
  if p.count = 0 ∧ p.tag = none then { p with armed := true } else p

/-- An instruction of the squad in focus issues: an armed sampler tags it, another counts down. -/
def State.sampleIssue (s : State) (cur : Cur) (isRet : Bool) (level : Nat) (lanes : Mask) : State :=
  if !s.smpOn || s.isM then s
  else
    let q := s.sq
    let p := s.sampler q.cache q.sub
    if p.tag ≠ none then s
    else if p.armed then
      let t : SampleTag :=
        { cur := cur, tick := s.now, squad := q.id, ctx := q.ctx, slotSplit := q.slot % 32 + 32 * (q.sp.num % 4)
          sflags := b2n isRet + 2 * b2n q.handler + 4 * b2n q.sp.inBlock, level := level, lanes := lanes }
      { s.setSampler { p with armed := false, tag := some t } with free := s.free + 8192 }
    else s.setSampler ({ p with count := p.count - 1 } : Sampler).atZero

/-- A sample record (23 Table 23.1). Its cycle counts are free values: timing is left out (log 4); the memory
stage of an instruction without a memory access is zero. -/
def SampleTag.bytes (t : SampleTag) (cache : Nat) (replay : Bool) (free : Nat) : List Byte :=
  bytesLE 8 t.cur.pc.toNat ++ bytesLE 8 t.tick ++ bytesLE 4 t.cur.w0.toNat ++ bytesLE 2 (t.ctx % 4096) ++ bytesLE 2 cache ++
    bytesLE 1 t.slotSplit ++ bytesLE 1 (t.sflags + 8 * b2n replay) ++
    bytesLE 1 t.level ++ zbytes 1 ++ bytesLE 4 t.lanes.toNat ++
    (List.range 6).flatMap (fun i => bytesLE 2 (if i = 4 ∧ t.level = 0 then 0 else (Config.freeWord (free + i)).toNat)) ++
    bytesLE 4 (Config.freeWord (free + 6)).toNat ++ zbytes 16

/-- A sample record is written, or dropped and counted (23 R361, 22 R355). -/
def State.putSample (s : State) (b : List Byte) : State :=
  if s.smpRing.open_ then s.ringPut s.smpRing 64 b else s.setCsr 0 0x8416 (s.csr 0 0x8416 + 1)

/-- The sampler that has tagged an instruction of a squad. -/
def State.taggedBy (s : State) (id : Nat) (cur : Cur) : Option (Sampler × SampleTag) :=
  s.samplers.findSome? (fun p => match p.tag with
    | some t => if t.squad = id ∧ t.cur = cur then some (p, t) else none
    | none => none)

/-- The tag ends and a new interval is drawn. -/
def State.endTag (s : State) (p : Sampler) : State :=
  let l := Config.lfsr p.lfsr
  s.setSampler { p with tag := none, lfsr := l, count := s.smpP + l.toNat % s.smpP }

/-- An instruction of a squad retires, or completes into a replay entry: the tagged one writes its record. -/
def State.sampleEnd (s : State) (id : Nat) (cur : Cur) (replay : Bool) : State :=
  match s.taggedBy id cur with
  | none => s
  | some (p, t) =>
    let s := s.endTag p
    { s.putSample (t.bytes p.cache replay s.free) with free := s.free + 7 }

/-- The instruction of the squad in focus goes back unissued: its tag, or its count, goes back to the sampler. -/
def State.sampleBack (s : State) : State :=
  if !s.smpOn || s.isM then s
  else
    let p := s.sampler s.sq.cache s.sq.sub
    match p.tag with
    | some t => if t.squad = s.sq.id ∧ t.cur = s.sq.cur then s.setSampler { p with tag := none, armed := true } else s
    | none => s.setSampler { p with armed := false, count := p.count + 1 }

/-- A squad leaves: the tag of an instruction of its own ends without a record (log 10). -/
def State.sampleQuit (s : State) (id : Nat) : State :=
  (s.samplers.filter (fun p => p.tag.any (·.squad == id))).foldl State.endTag s

/-- A tagged instruction that traps, or whose squad is killed, writes no record (log 10). -/
def State.sampleDrop (s : State) (id : Nat) (cur : Cur) : State :=
  match s.taggedBy id cur with
  | none => s
  | some (p, _) => s.endTag p

end Sys2Proof.Machine
end

