-- ==== Sys2Proof/Machine/Ops.lean ====
section
/-! DEFINITION. Taking a trap and returning from one (18 R293 to R299): the operations that every instruction shares. -/

namespace Sys2Proof.Machine

/-! ### Cached translations (19 R311) -/

/-- The bits of an address inside a page of a leaf's level (19 Table 19.1). -/
def pageBits (level : Nat) : Nat := if level = 1 then 30 else if level = 2 then 21 else 16

/-- The physical address of a virtual one under a leaf. -/
def Leaf.pa (l : Leaf) (va : Nat) : Nat := l.frame + va % 2 ^ pageBits l.level

/-- The key of a virtual address under a leaf. -/
def Leaf.key (l : Leaf) (va : Nat) : Nat := memKey l.home (l.pa va)

/-- Does a cached translation cover an address of a context? -/
def Tlb.covers (t : Tlb) (ctx va : Nat) : Bool :=
  t.ctx == ctx && va / 2 ^ pageBits t.leaf.level == t.base / 2 ^ pageBits t.leaf.level

/-- The set of a cluster's TLB in which the translation of an address stands, of 256 (19 R311). -/
def tlbSet (va : Nat) : Nat := bits va 23 16 ^^^ bits va 31 24

/-- The cluster of a place of translations: a cache number, or 1000 + cluster. -/
def clOfPlace (place : Nat) : Nat := if place < 1000 then place / 4 else place - 1000

/-- The translation of an address for an agent at a place (19 R311): one that the access itself has waited for, the L1 TLB, the
cluster's TLB. -/
def State.leafOn (s : State) (place : Nat) (got : List Tlb) (ctx va : Nat) : Option Leaf :=
  ((got.find? (fun t => t.covers ctx va)).or ((s.tlb.find? (fun t => t.place == place && t.covers ctx va)).or
    (s.tlb.find? (fun t => t.place == 1000 + clOfPlace place && t.covers ctx va && tlbSet t.base == tlbSet va)))).map (·.leaf)

/-- Where the issuer's translations are cached: its CU, or the cluster of an MCC. -/
def State.seat (s : State) : Nat := if s.isM then 1000 + s.mcc.cl else s.sq.cache

/-- The translations that the issuer's instruction has waited for. -/
def State.gotNow (s : State) : List Tlb := if s.isM then s.mcc.got else s.sq.got

/-- The translation of an address that the issuer has. -/
def State.leafAt (s : State) (ctx va : Nat) : Option Leaf := s.leafOn s.seat s.gotNow ctx va

/-! ### Traps (18 R293 to R299) -/

/-- The code of a cause (18 Table 18.1). -/
def Cause.code : Cause → Nat
  | .illegalInstruction => 0x01
  | .splitOverflow => 0x02
  | .softwareTrap => 0x03
  | .breakpoint => 0x04
  | .memMisaligned => 0x05
  | .addrRange => 0x06
  | .scratchRange => 0x07
  | .shoalWindow => 0x08
  | .memProtect => 0x09
  | .memClass => 0x0A
  | .rangeArmed => 0x0B
  | .barrierClobber => 0x0C
  | .vsnapRevoked => 0x0D
  | .poisonedData => 0x0E
  | .fetchFault => 0x0F
  | .pageFault => 0x10
  | .ringfmt => 0x11
  | .recfmt => 0x12
  | .matFormat => 0x13
  | .matShape => 0x14
  | .slotEmpty => 0x15
  | .spmeta => 0x16
  | .barKind => 0x17
  | .barBusy => 0x18
  | .barArg => 0x19
  | .copyOverlap => 0x1A
  | .spawnArg => 0x1B
  | .queueDenied => 0x1C
  | .shoalState => 0x1D
  | .roleStall => 0x1E
  | .engineFault => 0x1F

/-- The saved PC of a trap taken at an instruction (18 Table 18.1): software_trap saves the address + 4. -/
def savedPc (c : Cause) (pc : D) : D := if c = .softwareTrap then pc + 4 else pc

/-- TSPLIT of a split (18 Table 18.3). -/
def Split.tsplit (p : Split) : W :=
  w32 ((p.blkN + 7) % 8 * 2 ^ 16 * b2n p.inBlock + p.blkPat.toNat * 2 ^ 8 * b2n p.inBlock + p.blkPos.toNat * 16 + p.num % 4)

/-- The frame that delivery writes (18 R294). -/
def Squad.frameOf (q : Squad) (t : TrapInfo) (cur : Cur) (now : Nat) : Frame :=
  let asy := t.cause == .engineFault
  { tcause := w32 (t.cause.code + t.sub * 256 + (if asy then 65536 else 0))
    tpc := savedPc t.cause cur.pc
    tpc0 := savedPc t.cause cur.pc
    tword0 := if asy then 0 else cur.w0
    tword1 := if asy then 0 else cur.w1
    taddr := BitVec.ofNat 64 t.addr
    tsplit := q.sp.tsplit
    tblkk := q.sp.blkK
    tblka := q.sp.blkA
    ts := q.sregs.take 4
    tscc := q.scc
    ttx := q.tx
    tdoom := q.doomed.isSome
    tfmt := q.sp.fmt
    ttick := BitVec.ofNat 64 now
    tlane := w32 t.lane }

/-- The 32 values of a register of a squad: of a mask register its bits. -/
def Squad.row (q : Squad) (reg : Nat) : List W :=
  if reg < 256 then nth [] q.vregs reg else (List.range 32).map (fun l => w32 (b2n ((q.k (reg - 256)).getLsbD l)))

/-- Write a register of a squad, vector or mask, in the lanes of a write. -/
def Squad.put (q : Squad) (w : VWrite) : Squad :=
  if w.reg < 256 then q.setV w.lanes w.reg (fun l => nth 0 w.vals l)
  else q.setKBits w.lanes (w.reg - 256) (fun l => nth 0 w.vals l != 0)

/-- The flags of a squad after instructions have retired (01 R27). -/
def lateFlags (f : W) (l : List Late) : W := l.foldl (fun f e => f ||| e.flags) f

/-- Those of the squad's instructions in flight that satisfy p have retired (18 R296). -/
def Squad.settle (p : Late → Bool) (q : Squad) : Squad :=
  { q with flags := lateFlags q.flags (q.late.filter p), late := q.late.filter (fun e => !p e) }

/-- The squad's instructions that perhaps have not retired (18 R296): those that a free choice says have not, `late`, leave their
registers as they were and complete into replay entries; the others have retired (log 96). -/
def Squad.toEntries (late : W) (q : Squad) : Squad :=
  let those (b : Bool) : List Late :=
    ((List.range q.late.length).filter (fun i => late.getLsbD (i % 32) == b)).filterMap (fun i => q.late[i]?)
  let entry (e : Late) : Replay :=
    ⟨e.cur, e.handler, e.lanes, e.old.map (fun w => ⟨w.reg, w.lanes, q.row w.reg⟩), e.flags, 0⟩
  (those true).foldl (fun q e => e.old.foldl Squad.put q)
    { q with replay := q.replay ++ (those true).map entry, flags := lateFlags q.flags (those false), late := [] }

/-- Instructions of the squad that have issued and not retired complete into its replay queue (05 R116, 18 R297): loads, exchanges and
ring operations, and those in an SFU pipe. -/
def State.toReplay (s : State) (id : Nat) : State :=
  let ents := s.sfu.filter (·.squad == id)
  let mine := ents.map (·.rep)
  let f : Squad → Squad := fun q =>
    let q := q.toEntries (Config.freeWord s.free)
    { q with replay := q.replay ++ mine, energy := mine.foldl (fun e r => satAdd e r.energy) q.energy, inLine := none, got := [], heldRfe := false }
  let s : State := { s.modSquads (fun q => q.id == id) f with sfu := s.sfu.filter (·.squad != id), free := s.free + 1 }
  ents.foldl (fun s e => s.sampleEnd id e.rep.cur true) s

/-- The trap vector of a context (18 Table 18.2). -/
def State.tvec (s : State) (tag : Nat) : D := BitVec.ofNat 64 (s.csr2 (1 + tag) 0x8048)

/-- A fatal trap of the issuing squad: its team stops, unless a stop of it is under way or over (23 R362), the squad halts at once, an error
record is written (18 R299). -/
def State.fatalSquad (s : State) (t : TrapInfo) (cur : Cur) : State :=
  let f := s.sq.frameOf t cur s.now
  let on := s.teams.any (fun u => u.id == s.sq.team && (u.stopping || u.halted))
  let s := if on then s
    else (s.modTeam s.sq.team (fun u => { u with stopping := true, trap := some (s.sq.idx, t, f) })).modSquads
      (fun q => q.team == s.sq.team && q.st != .exiting) (fun q => { q with stopReq := true })
  let s := (s.toReplay s.sq.id).modSq (fun q => { q with prior := .ready, st := .halted, stopReq := false, todo := [], wake := none, due := 0 })
  s.report (s.seenStamp (s.sq.cache / 128) (s.sq.cache % 128)) s.sq.ctx 6 0 t.cause.code

/-- A trap of the MCC is fatal: it halts at the trapping instruction (18 R299). -/
def State.fatalMcc (s : State) (t : TrapInfo) (cur : Cur) : State :=
  let s := s.modMcc (fun m => { m with halted := true, stopped := some t, pc := cur.pc, todo := [], wake := none, due := 0, st := .halted, inLine := none, got := [] })
  s.report (s.seenStamp (s.mcc.cl / 32) (128 + s.mcc.cl % 32)) s.mcc.ctx 6 0 t.cause.code

/-- The physical address of the granule that a poisoned_data names: the failing byte of a global access, found by its translation (22 R354). -/
def State.poisonPa (s : State) (t : TrapInfo) : Nat :=
  match s.leafAt s.ctxNow t.addr with
  | some l => if s.poison.any (·.gran == l.key t.addr / 32) then l.key t.addr / 32 * 32 % 2 ^ 40 else 0
  | none => 0

/-- Taking a trap (18 R294, R299): delivered to the context's handler, or fatal. A poisoned_data delivered writes its own
error record (22 R354). -/
def State.takeTrap (s : State) (t : TrapInfo) (cur : Cur) : State :=
  let s := if t.cause = .poisonedData then s.report (s.seenStamp (s.clNow / 32) (if s.isM then 128 + s.clNow % 32 else s.sq.cache % 128))
      s.ctxNow 3 (s.poisonPa t) t.cause.code else s
  let s := if s.isM then s else s.sampleDrop s.sq.id cur
  if s.isM then s.fatalMcc t cur
  else if s.tvec s.sq.ctx = 0 ∨ s.sq.handler then s.fatalSquad t cur
  else
    let s := s.toReplay s.sq.id
    s.modSq (fun q => { q with
      frame := q.frameOf t cur s.now
      handler := true
      todo := []
      wake := none
      due := 0
      st := .ready
      sp := { q.sp with pc := s.tvec q.ctx, blkPos := 0xF } })

/-- A team stop takes the squad in focus (23 R362): its instructions in flight complete into replay entries, and it keeps its
state and wake condition for the resume. -/
def State.haltSquad (s : State) : State :=
  (s.toReplay s.sq.id).modSq (fun q => { q with prior := q.st, st := .halted, stopReq := false })

/-- Write the results of replay entries, in order of issue, into the squad's registers and flags (18 R297). -/
def Squad.inject (q : Squad) : List Replay → Squad
  | [] => q
  | e :: r =>
    let q := e.writes.foldl Squad.put q
    Squad.inject { q with flags := q.flags ||| e.flags } r

/-- The return from a handler (18 R298): the entries of the interrupted program are re-injected, s0 to s3, scc and fmt
come back, and the block too unless the handler wrote TPC. -/
def Squad.leaveHandler (q : Squad) : Squad :=
  let f := q.frame
  let q := q.inject (q.replay.filter (fun e => !e.handler))
  let same := f.tpc == f.tpc0
  { q with
    replay := q.replay.filter (·.handler)
    sregs := f.ts ++ q.sregs.drop 4
    scc := f.tscc
    handler := false
    sp := { q.sp with
      fmt := f.tfmt
      pc := f.tpc
      blkPos := if same then BitVec.ofNat 4 (bits f.tsplit.toNat 7 4) else 0xF
      blkPat := if same then BitVec.ofNat 8 (bits f.tsplit.toNat 15 8) else q.sp.blkPat
      blkN := if same then bits f.tsplit.toNat 18 16 + 1 else q.sp.blkN
      blkK := if same then f.tblkk else q.sp.blkK
      blkA := if same then f.tblka else q.sp.blkA } }

end Sys2Proof.Machine
end

