-- ==== Sys2Proof/Machine/Memory.lean ====
section
/-! DEFINITION. Memory as the instructions reach it: translation (19 R307 to R312), the faults of 07 Table 7.2 in their
order, scratchpad and typed objects (07 R139 to R141, 12 R243), loads and pending stores (07 R137, R138), departures and
collapses (11 R233 to R236), Publish and Snap (07 R151), ownership and update-only copies (12 Tables 12.2, 12.3). -/

namespace Sys2Proof.Machine

/-! ### Walks -/

/-- A table entry read by physical address at its newest landed version (19 R310). -/
def State.entry (s : State) (pa : Nat) : Nat := natLE (s.phys pa 8)

/-- How a walk ends: a leaf, or the cause and level of the failing entry (19 Table 19.3). -/
inductive WalkEnd where
  | leaf (l : Leaf)
  | bad (cause level : Nat)
deriving DecidableEq, Repr

/-- Index of a virtual address at a level (19 Table 19.1). -/
def vaIndex (va level : Nat) : Nat :=
  if level = 0 then bits va 56 44 else if level = 1 then bits va 43 30 else if level = 2 then bits va 29 21
  else bits va 20 16

/-- The size in bytes of a table of a level. -/
def tableSize (level : Nat) : Nat :=
  if level = 0 then 65536 else if level = 1 then 131072 else if level = 2 then 4096 else 256

/-- The leaf that an entry of a level describes (19 Table 19.2). -/
def leafOf (e level : Nat) : Leaf :=
  { frame := bits e 39 16 * 65536
    home := bits e 15 10
    sealed := bit e 9
    upd := bit e 8
    cls := bits e 7 6
    sup := bit e 5
    x := bit e 4
    w := bit e 3
    rd := bit e 2
    level := level }

/-- Is a valid leaf entry of a level malformed (19 R308)? `far` says that the context belongs to a trust domain. -/
def leafBad (e level pkg : Nat) (far : Bool) : Bool :=
  bits e 63 40 != 0 || level == 0 || bits e 7 6 == 3 ||
    (bits e 39 16 * 65536) % 2 ^ pageBits level != 0 ||
    (bits e 15 10 != pkg && !bit e 9 && far)

/-- Is a valid non-leaf entry of a level malformed? -/
def nextBad (e level : Nat) : Bool :=
  bits e 63 40 != 0 || bits e 7 2 != 0 || decide (3 ≤ level) || (bits e 39 8 * 256) % tableSize (level + 1) != 0

/-- The address bits above those that the table of a level resolves. -/
def pathOf (level va : Nat) : Nat := va / 2 ^ (if level = 1 then 44 else if level = 2 then 30 else 21)

/-- Where a walk of a die begins: at the deepest table that its walk cache knows, else at the root (19 R311). -/
def State.walkStart (s : State) (die ctx va : Nat) : Nat × Nat :=
  let at_ (level : Nat) : Option (Nat × Nat) :=
    (s.walkCache.find? (fun e => e.die == die && e.ctx == ctx && e.level == level && e.path == pathOf level va)).map (fun e => (e.table, level))
  ((at_ 3).or ((at_ 2).or (at_ 1))).getD (s.csr2 (1 + ctx) 0x8080, 0)

/-- The walk from a table of a level (19 R307, R308). -/
def State.walkFrom (s : State) (far : Bool) (va : Nat) : Nat → Nat → Nat → WalkEnd
  | 0, _, level => .bad 2 level
  | n + 1, table, level =>
    let e := s.entry (table + 8 * vaIndex va level)
    if !bit e 0 then .bad 1 level
    else if bit e 1 then (if leafBad e level s.pkgIdx far then .bad 2 level else .leaf (leafOf e level))
    else if nextBad e level then .bad 2 level
    else s.walkFrom far va n (bits e 39 8 * 256) (level + 1)

/-- The tables that the walk from a table leads to, by level. -/
def State.tablesOn (s : State) (va : Nat) : Nat → Nat → Nat → List (Nat × Nat)
  | 0, _, _ => []
  | n + 1, table, level =>
    let e := s.entry (table + 8 * vaIndex va level)
    if bit e 0 && !bit e 1 && !nextBad e level then
      (level + 1, bits e 39 8 * 256) :: s.tablesOn va n (bits e 39 8 * 256) (level + 1)
    else []

/-- The walk of an address of a context, from the root. -/
def State.walkOf (s : State) (ctx va : Nat) : WalkEnd :=
  s.walkFrom (s.domOf ctx) va 4 (s.csr2 (1 + ctx) 0x8080) 0

/-- The walk of an address of a context by a die's walker, with its walk cache. -/
def State.walkVia (s : State) (die ctx va : Nat) : WalkEnd :=
  let a := s.walkStart die ctx va
  s.walkFrom (s.domOf ctx) va 4 a.1 a.2

/-- The leaf of an address for the issuer: cached, or as a walk finds it. An unmapped address has none, nor has one from 2^57 up (07 R132). -/
def State.leafFor (s : State) (ctx va : Nat) : Option Leaf :=
  if 2 ^ 57 ≤ va then none
  else (s.leafAt ctx va).or (match s.walkVia (s.clNow / 32) ctx va with | .leaf l => some l | .bad _ _ => none)

/-- The key of an address of a context for the issuer, zero when it is not mapped. -/
def State.keyOf (s : State) (ctx va : Nat) : Nat :=
  match s.leafFor ctx va with
  | some l => l.key va
  | none => 0

/-- What an access does, for permissions, class checks and the fault record's kind. `slot` is a ring's slot that enq only writes. -/
inductive AKind where
  | ld | st | acq | rel | atom | upd | pfch | ring | slot | waitg | rsig | engRead | engWrite | mread | mepi | fetch
deriving DecidableEq, Repr

/-- The kind of a fault record (19 Table 19.3). -/
def AKind.code : AKind → Nat
  | .ld => 0
  | .st => 1
  | .acq => 0
  | .rel => 2
  | .atom => 2
  | .upd => 4
  | .pfch => 0
  | .ring => 2
  | .slot => 2
  | .waitg => 0
  | .rsig => 2
  | .engRead => 5
  | .engWrite => 6
  | .mread => 0
  | .mepi => 1
  | .fetch => 3

/-- The permissions that an access needs (19 R309). Two rules differ on waitc.g: 09 R187 says "rd is needed (R309)", the table of 19 R309
lists it among the accesses that need rd and w; the table is the rule that both name, so rd and w are asked (log 53). -/
def AKind.permitted (k : AKind) (l : Leaf) : Bool :=
  match k with
  | .ld => l.rd
  | .st => l.w
  | .acq => l.rd
  | .rel => l.rd && l.w
  | .atom => l.rd && l.w
  | .upd => l.w
  | .pfch => l.rd
  | .ring => l.rd && l.w
  | .slot => l.rd && l.w
  | .waitg => l.rd && l.w
  | .rsig => l.rd && l.w
  | .engRead => l.rd
  | .engWrite => l.w
  | .mread => l.rd
  | .mepi => l.w
  | .fetch => l.x

/-- Is a home package reached: the local one, or a member whose key generation this package holds; a fabric-sealed page also needs a
context of the domain (20 R322, R343)? -/
def State.reached (s : State) (ctx : Nat) (l : Leaf) : Bool :=
  l.home == s.pkgIdx || (s.peers.any (fun p => p.idx == l.home && s.gens.contains p.gen) && (!l.sealed || s.domOf ctx))

/-- May a context make an access to a page (07 Table 7.2, order 5)? -/
def State.allowed (s : State) (k : AKind) (ctx : Nat) (l : Leaf) : Bool :=
  k.permitted l && (!l.sup || s.supOf ctx) && s.reached ctx l

/-! ### Who reads at which stamp -/

/-- Are the loads and stores of the issuer transactional: a squad in transaction state outside its handler (07 R152, 18 R295)? -/
def State.inTx (s : State) : Bool := s.focus == .squad && s.sq.tx && !s.sq.handler

/-- The kernel snapshot of a launch that asks for one (11 R229). -/
def State.kSnapOf (s : State) (launch : Nat) : Option Stamp :=
  match s.launchOf launch with
  | some l => if l.snapOn then l.k else none
  | none => none

/-- Is the kernel snapshot of a launch revoked (11 R228)? -/
def State.revokedOf (s : State) (launch : Nat) : Bool :=
  match s.launchOf launch with
  | some l => l.snapOn && l.revoked
  | none => false

/-- The stamp at which a reader of tidemark t reads a page (11 R225, R229). -/
def State.stampFor (s : State) (launch : Nat) (t : Stamp) (cls : Nat) : Stamp :=
  if cls = 1 then (s.kSnapOf launch).getD t else t

/-- The update-only epoch of a line (11 R234). -/
def State.epoch (s : State) (line : Nat) : Option Home :=
  s.home.find? (fun h => h.line == line && (h.st == .ha || h.st == .hac))

/-- Is a versioned line in an epoch that began at or below a stamp (11 R230)? -/
def State.epochBy (s : State) (line : Nat) (t : Stamp) : Bool :=
  match s.epoch line with
  | some h => h.firstA.le t
  | none => false

/-- The class check of an access (07 Table 7.2, order 6; 11 Table 11.4, R229, R230). -/
def State.classBad (s : State) (k : AKind) (launch : Nat) (tide : Stamp) (l : Leaf) (key : Nat) : Bool :=
  let ver := l.cls == 1
  let man := l.cls == 2
  let ks := (s.kSnapOf launch).isSome || s.revokedOf launch
  let held := ver && s.epochBy (lineOf key) (s.stampFor launch tide l.cls)
  match k with
  | .ld => (s.inTx && !ver) || (held && (s.inTx || ks))
  | .st => (s.inTx && !ver) || (ks && ver)
  | .acq => man
  | .rel => man || (ks && ver)
  | .atom => man || (ks && ver)
  | .upd => man || !l.upd || (ks && ver)
  | .pfch => false
  | .ring => man
  | .slot => man
  | .waitg => man
  | .rsig => man
  | .engRead => held && ks
  | .engWrite => ks && ver
  | .mread => held && ks
  | .mepi => ks && ver
  | .fetch => false

/-- Is an access checked against the range table (09 R185; waitc.g is checked as an ld.acq is, R187)? -/
def AKind.ranged : AKind → Bool
  | .ld => true
  | .st => true
  | .acq => true
  | .rel => true
  | .atom => true
  | .upd => true
  | .waitg => true
  | _ => false

/-- Does a kind of access read at the snapshot (orders 9 and 10)? -/
def AKind.snapshotRead : AKind → Bool
  | .ld => true
  | .engRead => true
  | .mread => true
  | _ => false

/-- Does it read the current value? -/
def AKind.currentRead : AKind → Bool
  | .acq => true
  | .atom => true
  | .ring => true
  | .waitg => true
  | _ => false

/-! ### Faults of global accesses (07 R134, Table 7.2) -/

/-- One access of an instruction: its lane, its exact address and its bytes. -/
structure Acc where
  lane : Nat
  ea   : Int
  n    : Nat
deriving DecidableEq, Repr

/-- The bytes of an access. -/
def Acc.bytes (a : Acc) : List Nat := (List.range a.n).map (a.ea.toNat + ·)

/-- The outcome of the checks: none fails, a fault, or an untranslated byte with its lane. -/
inductive Chk where
  | ok
  | bad (t : TrapInfo)
  | miss (va lane : Nat)
deriving DecidableEq, Repr

/-- The lowest lane, and in it the lowest byte, that fails a check. -/
def firstByte (accs : List Acc) (f : Nat → Bool) : Option (Nat × Nat) :=
  accs.findSome? (fun a => (a.bytes.find? f).map (fun b => (a.lane, b)))

/-- A row of Table 7.2. -/
def rowOf (c : Cause) (r : Option (Nat × Nat)) : Option TrapInfo :=
  r.map (fun p => ⟨c, 0, p.2, p.1⟩)

/-- Orders 1 and 2 for global addresses. -/
def globalRange (al : Nat) (accs : List Acc) : Option TrapInfo :=
  match accs.find? (fun a => a.ea % (al : Int) != 0) with
  | some a => some ⟨.memMisaligned, 0, wrapI a.ea 64, a.lane⟩
  | none =>
    accs.findSome? (fun a =>
      if a.ea < 0 then some ⟨.addrRange, 0, wrapI a.ea 64, a.lane⟩
      else (a.bytes.find? (fun b => decide (2 ^ 57 ≤ b))).map (fun b => ⟨.addrRange, 0, b, a.lane⟩))

/-- The squad's own pending byte; in the program of a transaction its transactional lines come first. -/
def Squad.pendByte (q : Squad) (key : Nat) : Option Byte :=
  let of (tx : Bool) : Option Byte :=
    (q.pending.find? (fun p => p.line == lineOf key && p.tx == tx)).bind (fun p => get? p.bytes (key % 128))
  if q.tx && !q.handler then (of true).or (of false) else of false

/-- Does a plain load of the squad in focus deliver a poisoned byte: from its own pending line, on a manual page from the copy of its CU,
else from the home (22 R349)? -/
def State.poisonLoad (s : State) (l : Leaf) (launch : Nat) (tide : Stamp) (key : Nat) : Bool :=
  if (s.sq.pendByte key).isSome then s.poisonIn_ (.pend s.sq.id) key
  else if l.cls = 2 then
    (if s.manual.any (fun m => m.place == s.sq.cache && m.line == lineOf key) then s.poisonIn_ (.man s.sq.cache) key
     else s.poisoned none key)
  else if (get? s.sq.own key).isSome then false
  else s.poisoned (some (s.stampFor launch tide l.cls)) key

/-- Does another plain read, of the MCC, an engine or the die `die`, deliver one: on a manual page from the copy in its die's L2 if there is
one? -/
def State.poisonRead (s : State) (l : Leaf) (die launch : Nat) (tide : Stamp) (key : Nat) : Bool :=
  if l.cls = 2 then
    (if s.manual.any (fun m => m.place == 600 + die && m.line == lineOf key) then s.poisonIn_ (.man (600 + die)) key else s.poisoned none key)
  else s.poisoned (some (s.stampFor launch tide l.cls)) key

/-- Orders 5 to 10 for bytes that are all translated, by `leaf`, of an agent of die `die`. `armed` are the ranges of the team. Poison counts
where the byte is read. -/
def State.rowsBy (s : State) (leaf : Nat → Option Leaf) (k : AKind) (ctx die launch : Nat) (tide : Stamp) (armed : List Range)
    (accs : List Acc) : Option TrapInfo :=
  let on (f : Leaf → Nat → Bool) (b : Nat) : Bool :=
    match leaf b with
    | some l => f l b
    | none => false
  (rowOf .memProtect (firstByte accs (on (fun l _ => !s.allowed k ctx l)))).or
  ((rowOf .memClass (firstByte accs (on (fun l b => s.classBad k launch tide l (l.key b))))).or
  ((if k.ranged then rowOf .rangeArmed (firstByte accs (fun b => armed.any (fun r => decide (r.lo ≤ b ∧ b < r.hi))))
    else none).or
  ((if k.snapshotRead && s.revokedOf launch then rowOf .vsnapRevoked (firstByte accs (on (fun l _ => l.cls == 1)))
    else none).or
  (if k.snapshotRead then
      rowOf .poisonedData (firstByte accs (on (fun l b =>
        if k == .ld then s.poisonLoad l launch tide (l.key b) else s.poisonRead l die launch tide (l.key b))))
    else if k.currentRead then rowOf .poisonedData (firstByte accs (on (fun l b => s.poisonedNow (l.key b))))
    else none))))

/-- Orders 5 to 10 for the issuer. -/
def State.laterRows (s : State) (k : AKind) (ctx launch : Nat) (tide : Stamp) (armed : List Range) (accs : List Acc) :
    Option TrapInfo := s.rowsBy (s.leafAt ctx) k ctx (s.clNow / 32) launch tide armed accs

/-- The ranges armed by the issuer's team. -/
def State.armedNow (s : State) : List Range :=
  if s.isM then [] else (match s.teamNow with | some u => u.range.filterMap id | none => [])

/-- Every check of Table 7.2 on the global accesses of an instruction of the issuer. -/
def State.check (s : State) (k : AKind) (al : Nat) (accs : List Acc) : Chk :=
  match globalRange al accs with
  | some t => .bad t
  | none =>
    match firstByte accs (fun b => (s.leafAt s.ctxNow b).isNone) with
    | some p => .miss p.2 p.1
    | none =>
      match s.laterRows k s.ctxNow s.launchNow s.tideNow s.armedNow accs with
      | some t => .bad t
      | none => .ok

/-! ### Effective addresses (07 R132) -/

/-- The index of a lane. -/
def State.eaIdx (s : State) (w : Long) (l : Nat) : Int :=
  match acIdx w.c with
  | 0 => 0
  | 1 => (s.sq.v w.a.toNat l).toInt
  | 2 => (s.sreg w.a.toNat).toInt
  | _ => ((s.sq.v2 w.a.toNat l).toNat : Int)

/-- The displacement of an x that holds one. -/
def dispOf (x : BitVec 16) : Int := x.toInt

/-- The global address of a lane. -/
def State.eaGlobal (s : State) (w : Long) (disp : Int) (l : Nat) : Int :=
  (if acBase w.c then ((s.spair w.b.toNat).toNat : Int) else 0) + s.eaIdx w l * 2 ^ acScale w.c + disp

/-- The scratchpad address of a lane. -/
def State.eaScratch (s : State) (w : Long) (disp : Int) (l : Nat) : Int :=
  (if acBase w.c then ((s.sreg w.b.toNat).toNat : Int) else 0) + s.eaIdx w l * 2 ^ acScale w.c + disp

/-! ### Scratchpad (07 R139 to R141, 12 R240, R243) -/

/-- The key of a scratchpad byte: 2^19 for each cache number. -/
def scrKey (cache off : Nat) : Nat := cache * 2 ^ 19 + off

/-- Poison granules of scratchpads are numbered above those of memory. -/
def scrGran (key : Nat) : Nat := 2 ^ 60 + key / 32

/-- Does a key lie in the scratchpad of a team? -/
def Team.holds (u : Team) (key : Nat) : Bool :=
  decide (scrKey u.cache u.base ≤ key ∧ key < scrKey u.cache u.base + u.size)

/-- The scratch address by which a team names a scratchpad byte: its own, or one in the shoal's window (12 R243). -/
def State.scrAddr (s : State) (u : Team) (key : Nat) : Nat :=
  if u.holds key then key - scrKey u.cache u.base
  else
    match s.teams.find? (fun t => t.shoal.isSome && t.shoal == u.shoal && t.cache / 4 == u.cache / 4 && t.holds key) with
    | some t => 0x80000000 + t.shSlot * 0x80000 + (key - scrKey t.cache t.base)
    | none => key

/-- Where a scratch address of a team lies. -/
def State.scrLoc (s : State) (u : Team) (ea : Int) : Except Cause Nat :=
  if 0 ≤ ea ∧ ea < (u.size : Int) then .ok (scrKey u.cache (u.base + ea.toNat))
  else if 0x80000000 ≤ ea ∧ ea < 0x80400000 then
    let o := ea.toNat - 0x80000000
    match u.shoal with
    | none => .error .shoalWindow
    | some n =>
      match s.teams.find? (fun t => t.shoal == some n && t.cache / 4 == u.cache / 4 && t.shSlot == o / 0x80000 &&
          decide (o % 0x80000 < t.size)) with
      | some t => .ok (scrKey t.cache (t.base + o % 0x80000))
      | none => .error .shoalWindow
  else .error .scratchRange

/-- Where an address of the MCC scratch space lies (08 R160). -/
def mccLoc (cl : Nat) (size : Nat) (a : Nat) : Except Cause Nat :=
  if 2 ^ 21 ≤ a ∨ size ≤ a % 2 ^ 19 then .error .scratchRange
  else .ok (scrKey (4 * cl + a / 2 ^ 19) (a % 2 ^ 19))

/-- The scratch size of the launch of the issuer. -/
def State.scrSize (s : State) (launch : Nat) : Nat :=
  match s.launchOf launch with
  | some l => l.hdr.scratch
  | none => 0

/-- Where a scratch address of the issuer lies. -/
def State.scrAt (s : State) (ea : Int) : Except Cause Nat :=
  if s.isM then
    (if ea < 0 then .error .scratchRange else mccLoc s.mcc.cl (s.scrSize s.mcc.launch) ea.toNat)
  else
    match s.teamNow with
    | some u => s.scrLoc u ea
    | none => .error .scratchRange

/-- The key of a scratch address that has one. -/
def State.scrKeyAt (s : State) (ea : Int) : Nat :=
  match s.scrAt ea with
  | .ok k => k
  | .error _ => 0

/-- The typed object that covers a byte. -/
def State.objAt (s : State) (key : Nat) : Option BarObj :=
  s.objs.find? (fun o => decide (o.key ≤ key ∧ key < o.key + 16))

/-- The bytes of a typed object (09 Table 9.5). -/
def BarObj.bytes (o : BarObj) : List Byte :=
  bytesLE 4 o.expected ++ bytesLE 4 o.arrived ++ bytesLE 4 o.phase.toNat ++ bytesLE 2 0xBA01 ++ bytesLE 2 o.waiters

/-- A scratchpad byte: a typed byte reads as its object holds it (07 R141). -/
def State.scrByte (s : State) (key : Nat) : Byte :=
  match s.objAt key with
  | some o => nth 0 o.bytes (key - o.key)
  | none => look 0 s.scratch key

/-- Consecutive scratchpad bytes. -/
def State.scrBytes (s : State) (key n : Nat) : List Byte := (List.range n).map (fun i => s.scrByte (key + i))

/-- Write consecutive scratchpad bytes; whole granules written lose their poison. -/
def State.scrWrite (s : State) (key : Nat) (b : List Byte) : State :=
  { s with
    scratch := putAll 0 s.scratch key b
    poison := s.poison.filter (fun p => !(decide (2 ^ 60 ≤ p.gran) &&
      decide (key ≤ (p.gran - 2 ^ 60) * 32 ∧ (p.gran - 2 ^ 60) * 32 + 32 ≤ key + b.length))) }

/-- Lines of accesses that are absent (07 R140). -/
def State.absentOf (s : State) (keys : List Nat) : List Nat :=
  sortNat ((keys.map (· / 128)).filter (fun l => s.absent.contains l))

/-- Order 10 for scratchpad reads: the data that the lines hold, so that it counts once they are present (07 R140). -/
def State.scrPoison (s : State) (accs : List Acc) : Option TrapInfo :=
  rowOf .poisonedData (firstByte accs (fun b => s.poison.any (·.gran == scrGran (s.scrKeyAt b))))

/-- Orders 1 to 3 and 8 for scratchpad accesses. -/
def State.checkPlace (s : State) (al : Nat) (store : Bool) (accs : List Acc) : Option TrapInfo :=
  match accs.find? (fun a => a.ea % (al : Int) != 0) with
  | some a => some ⟨.memMisaligned, 0, wrapI a.ea 64, a.lane⟩
  | none =>
    let bad (c : Cause) : Option TrapInfo :=
      accs.findSome? (fun a => ((List.range a.n).map (fun (i : Nat) => a.ea + (i : Int))).findSome? (fun e =>
        match s.scrAt e with
        | .error d => if d = c then some ⟨c, 0, wrapI e 64, a.lane⟩ else none
        | .ok _ => none))
    (bad .scratchRange).or ((bad .shoalWindow).or
      (if store then
        rowOf .barrierClobber (firstByte accs (fun b => (s.objAt (s.scrKeyAt b)).isSome))
       else none))

/-- Orders 1 to 3, 8 and 10 for scratchpad accesses to lines that are present. -/
def State.checkScr (s : State) (al : Nat) (store : Bool) (accs : List Acc) : Option TrapInfo :=
  (s.checkPlace al store accs).or (if store then none else s.scrPoison accs)

/-! ### Low-water marks (11 R227, 19 R319) -/

/-- The squads, MCCs, teams and commands of the package, those of saved contexts included. -/
def State.liveSquads (s : State) : List Squad := s.allSquads ++ s.ctxs.flatMap (fun c => c.saved.squads)
def State.liveMccs (s : State) : List Mcc := s.allMccs ++ s.ctxs.flatMap (fun c => c.saved.mccs)
def State.liveTeams (s : State) : List Team := s.teams ++ s.ctxs.flatMap (fun c => c.saved.teams)
def State.liveCmds (s : State) : List Cmd := s.cmds ++ s.ctxs.flatMap (fun c => c.saved.cmds)

/-- Stamps that are never revoked: tidemarks, launch tidemarks of teams, engine tidemarks and what commands have captured. -/
def State.phaseStamps (s : State) : List Stamp :=
  s.liveSquads.map (·.tide) ++ s.liveTeams.map (·.tide) ++ s.liveMccs.map (·.tide) ++ s.liveCmds.map (·.tide)

/-- Kernel snapshots, and those of transactions, with the tag of their context. -/
def State.revocable (s : State) : List (Stamp × Nat) :=
  s.launches.filterMap (fun l => if l.snapOn && !l.revoked then l.k.map (fun k => (k, l.ctx)) else none) ++
    (s.liveSquads.filter (fun q => q.tx && q.doomed.isNone)).map (fun q => (q.tide, q.ctx))

/-- The slack water at which new readers may begin. -/
def State.floor (s : State) : Stamp := (s.peers.map (·.slack)).foldl Stamp.min s.slack

/-- The package's shares of the two marks: its oldest live snapshot; with none, the slack water (log 95). -/
def State.phaseShare (s : State) : Stamp := (minStamp s.phaseStamps).getD s.floor
def State.fullShare (s : State) : Stamp := (minStamp (s.phaseStamps ++ s.revocable.map (·.1))).getD s.floor

/-- The domain's marks. -/
def State.phaseMark (s : State) : Stamp := (s.peers.map (·.phase)).foldl Stamp.min s.phaseShare
def State.fullMark (s : State) : Stamp := (s.peers.map (·.full)).foldl Stamp.min s.fullShare

/-! ### Where versions live (12 R245, 19 R318, R320) -/

/-- The home die of a line of the local package (12 R248). -/
def homeDie (line : Nat) : Nat :=
  let pa := (line * 128) % 2 ^ 40
  Nat.xor (Nat.xor (bits pa 14 13) (bits pa 22 21)) (Nat.xor (bits pa 30 29) (bits pa 38 37))

/-- The bucket of a line (12 R248). -/
def bucketOf (line : Nat) : Nat :=
  let pa := (line * 128) % 2 ^ 40
  Nat.xor (Nat.xor (bits pa 12 7) (bits pa 20 15)) (Nat.xor (bits pa 28 23) (bits pa 36 31))

/-- The home package of a line. -/
def homePkg (line : Nat) : Nat := line * 128 / 2 ^ 40

/-- The set of its slice that holds a line (12 R245). -/
def l2Set (line : Nat) : Nat :=
  let pa := (line * 128) % 2 ^ 40
  Nat.xor (bits pa 23 13) (bits pa 34 24)

/-- The set among those of the whole package: die, bucket, set of the slice. -/
def l2Key (line : Nat) : Nat := (homeDie line * 64 + bucketOf line) * 2048 + l2Set line

/-- Is a line part of the page of a leaf? -/
def Leaf.hasLine (l : Leaf) (line : Nat) : Bool :=
  decide (memKey l.home l.frame ≤ line * 128 ∧ line * 128 < memKey l.home l.frame + 2 ^ pageBits l.level)

/-- Do the pages of two leaves meet? -/
def Leaf.meets (a b : Leaf) : Bool :=
  decide (memKey a.home a.frame < memKey b.home b.frame + 2 ^ pageBits b.level ∧ memKey b.home b.frame < memKey a.home a.frame + 2 ^ pageBits a.level)

/-- Does a line lie on a versioned page? The translation that a walk has found last tells; of a line that no walk has met nobody knows, and
its versions are kept as those of a versioned page are (log 95). -/
def State.versioned (s : State) (line : Nat) : Bool :=
  let seen := s.leaves.filter (fun l => l.hasLine line)
  seen.isEmpty || seen.any (·.cls == 1)

/-- The mark below which versions of a line are reclaimed: that of its class, and not above the slack water at which a reader may still
begin (log 95). -/
def State.markOf (s : State) (line : Nat) : Stamp := (if s.versioned line then s.fullMark else s.phaseMark).min s.floor

/-- The lines of the older versions held, each once for each version: an event above the mark, or one that another precedes, has
an older version below it. -/
def State.olderLines (s : State) : List Nat :=
  (s.pubs.filter (fun p => homePkg p.line == s.pkgIdx && ((s.markOf p.line).lt p.st || s.pubs.any (fun q => q.line == p.line && q.st.lt p.st)))).map
    (·.line)

/-- Older versions of a set that the version cache does not hold. -/
def spill (ways : Nat) (keys : List Nat) : Nat :=
  ((sortNat keys).map (fun k => (keys.filter (· == k)).length - ways)).foldl (· + ·) 0

/-- Versions in the version store. -/
def State.spilled (s : State) : Nat := spill s.vcWays (s.olderLines.map l2Key)

/-- Is the version store full (19 R318)? -/
def State.storeFull (s : State) : Bool :=
  s.csr 0 0x8098 != 0 && decide ((s.csr 0 0x8098).toNat * 1024 ≤ s.spilled)

/-- Must a publication event on a line wait for room (19 R318): the store is full and the version that it pushes out of its place has
no way of the version cache? -/
def State.stalls (s : State) (line : Nat) : Bool :=
  s.storeFull && homePkg line == s.pkgIdx && decide (s.vcWays ≤ ((s.olderLines.map l2Key).filter (· == l2Key line)).length)

/-- Since when the store is full. -/
def State.noteFull (s : State) : State :=
  if s.csr 0 0x8098 = 0 then s
  else if s.storeFull then { s with vsFullSince := s.vsFullSince.or (some s.now) } else { s with vsFullSince := none }

/-- Fold a publication event into the base bytes. -/
def foldPub (m : List Host.Cell) (p : Pub) : List Host.Cell :=
  p.bytes.foldl (fun m b => put 0 m (p.line * 128 + b.1) b.2) m

/-- Insert an event into a list in ascending stamp order. -/
def insPub (p : Pub) : List Pub → List Pub
  | [] => [p]
  | q :: r => if p.st.lt q.st then p :: q :: r else q :: insPub p r

/-- Reclaim the versions of a line that no live snapshot can select: those older than the newest one at or below the mark. -/
def State.reclaim (s : State) (line : Nat) : State :=
  let low := s.pubs.filter (fun p => p.line == line && p.st.le (s.markOf line))
  let top := maxStamp (low.map (·.st))
  let old := (low.filter (fun p => p.st.lt top)).foldl (fun l p => insPub p l) []
  ({ s with
    mem := old.foldl foldPub s.mem
    pubs := s.pubs.filter (fun p => !(p.line == line && p.st.lt top))
    poison := s.poison.filter (fun p => !(p.gran / 4 == line && p.place == .home && (match p.upto with | some u => u.le top | none => false))) } : State).noteFull

/-- The 64 KiB unit of memory that a page grant names (log 70). -/
def pageOf (line : Nat) : Nat := line / 512

/-- Other packages that hold the line's page under a grant that lets them keep copies while the event lands (12 R259). -/
def State.farHolders (s : State) (line : Nat) : List Nat :=
  if homePkg line = s.pkgIdx then
    sortNat ((s.grants.filter (fun g => g.page == pageOf line && g.pkg != s.pkgIdx && g.kind != 1)).map (·.pkg))
  else []

/-! ### What a plain load reads (07 R137, 11 R225) -/

/-- The die of a place of copies: of a cache number, or 600 + die. -/
def dieOf (place : Nat) : Nat := if place < 512 then place / 128 else place - 600

/-- A byte of a manual page as a CU of a cache number (07 R137), or the MCC and the engines of a die through its L2 copy (`place`
600 + die, 07 R149), read it: from the copy there, else from the home; of a line of another member the copy in the die's L2 brings it. -/
def State.manualByte (s : State) (place key : Nat) : Byte :=
  match s.manual.find? (fun m => m.place == place && m.line == lineOf key) with
  | some m => nth 0 m.data (key % 128)
  | none =>
    match (if homePkg (lineOf key) = s.pkgIdx then none
           else s.manual.find? (fun m => m.place == 600 + dieOf place && m.line == lineOf key)) with
    | some m => nth 0 m.data (key % 128)
    | none => s.byteAt none key

/-- The byte that a plain load of a squad returns. -/
def State.loadByte (s : State) (q : Squad) (l : Leaf) (key : Nat) : Byte :=
  match q.pendByte key with
  | some b => b
  | none =>
    if l.cls = 2 then s.manualByte q.cache key
    else
      match get? q.own key with
      | some b => b
      | none => s.byteAt (some (s.stampFor q.launch q.tide l.cls)) key

/-- The number that the bytes of an access of the squad in focus hold. -/
def State.loadNat (s : State) (va n : Nat) : Nat :=
  natLE ((List.range n).map (fun i =>
    match s.leafAt s.sq.ctx (va + i) with
    | some l => s.loadByte s.sq l (l.key (va + i))
    | none => 0))

/-- The 32-bit registers of a loaded value of a wcode (07 R136). -/
def wideW (w : Nat) (v : Nat) (i : Nat) : W :=
  if w = 1 then w32 (wrapI (sext v 8) 32)
  else if w = 3 then w32 (wrapI (sext v 16) 32)
  else w32 (v / 2 ^ (32 * i))

/-! ### Messages to homes (12 R247, R253) -/

/-- The key generation of the domain (20 Table 20.7). -/
def State.domGen (s : State) : Nat := (s.csr 0 0x8241).toNat

/-- A message goes to the ports under the next number of its channel to the member, in the current generation (20 R327). -/
def State.toPort (s : State) (dst req : Nat) (via : Option Nat) (b : FabBody) : State :=
  let n := match s.sendSeq.find? (fun e => e.1 == dst && e.2.1 == b.vc) with | some e => e.2.2 + 1 | none => 1
  { s with
    sendSeq := upsert (fun e => e.1 == dst && e.2.1 == b.vc) (dst, b.vc, n) s.sendSeq
    outbox := s.outbox ++ [⟨dst, b.vc, s.domGen, n, req, b, via⟩] }

/-- The indices of the domain's members, this package's included. -/
def State.members (s : State) : List Nat := sortNat (s.pkgIdx :: s.peers.map (·.idx))

/-- Is a page's home on the other side of a change that is no eviction: a member that leaves, or any other when this package leaves (20 R343)? -/
def State.parted (s : State) (c : Change) (pkg : Nat) : Bool :=
  !c.lost.contains pkg && pkg != s.pkgIdx && s.members.contains pkg && (!c.members.contains pkg || (!s.spdm.active && !c.members.contains s.pkgIdx))

/-- Does a message serve a hand-over: written bytes, or a collapse at their home? -/
def handsOver (b : FabBody) : Bool :=
  match b with
  | .write _ _ _ _ _ => true
  | .merge _ _ => true
  | .read _ none => true
  | _ => false

/-- Does a membership change hold a new request at its source: one of the request class that serves neither the change nor the hand-over before it
(20 R342, R343)? -/
def State.holds (s : State) (dst : Nat) (b : FabBody) : Bool :=
  b.vc == 0 && !b.ofChange && s.change.any (fun c => !(handsOver b && s.parted c dst))

/-- A request under an identifier: it goes out, unless a membership change holds it, or for a window an earlier access that has no answer
yet (20 R326, R336, R342). -/
def State.demandAs (s : State) (id dst die : Nat) (b : FabBody) (ctx : Nat := 0x8000) : State :=
  let held := s.holds dst b || (b.isWindow && s.reqs.any (fun r => r.dst == dst && r.body.isWindow))
  let s := if held then s else s.toPort dst id none b
  { s with reqs := s.reqs ++ [⟨id, dst, b, die, if held then 0 else 1, s.now, held, none, [], ctx⟩] }

/-- A request under a fresh identifier. -/
def State.demand (s : State) (dst die : Nat) (b : FabBody) (ctx : Nat := 0x8000) : State := s.fresh.2.demandAs s.fresh.1 dst die b ctx

/-- The same, unless one like it is open. -/
def State.demandOnce (s : State) (dst die : Nat) (b : FabBody) (ctx : Nat := 0x8000) : State :=
  if s.reqs.any (fun r => r.dst == dst && r.body == b) then s else s.demand dst die b ctx

/-- The release stamp of a line (11 R232). -/
def State.relstamp (s : State) (line : Nat) : Stamp := (get? s.relstamps line).getD Stamp.zero

/-- What carries a write to a home in another package. -/
def State.bodyOf (s : State) (m : Msg) : FabBody :=
  match m.add with
  | some (o, v) => .add ((m.line * 128 + o) % 2 ^ 40) v m.st
  | none => if m.manual then .merge m.line m.bytes else .write m.line m.st m.pre (if m.owned then s.relstamp m.line else Stamp.zero) m.bytes

/-- Send a write to its home; the issuer's counter rises (02 R47). -/
def State.sendMsg (s : State) (m : Msg) : State :=
  let f := s.fresh
  let m : Msg := { m with id := f.1 }
  let t : State := { f.2 with msgs := f.2.msgs ++ [m] }
  if homePkg m.line = s.pkgIdx then t else t.demandAs f.1 (homePkg m.line) 0 (t.bodyOf m)

/-- Send the bytes of a publication event, or of a manual write-back. -/
def State.send (s : State) (line : Nat) (st : Stamp) (bytes : List (Nat × Byte)) (man : Bool) (ctx : Nat)
    (squad mcc cmd : Option Nat) (pre : Option Stamp := none) : State :=
  s.sendMsg { id := 0, line := line, st := st, bytes := bytes, manual := man, squad := squad, mcc := mcc, cmd := cmd, ctx := ctx, pre := pre }

/-- Send bytes that are a line's current value before they land: those that ordered accesses wrote in an owned line. -/
def State.sendHeld (s : State) (line : Nat) (st : Stamp) (bytes : List (Nat × Byte)) (ctx : Nat) (squad : Option Nat) : State :=
  s.sendMsg { id := 0, line := line, st := st, bytes := bytes, manual := false, squad := squad, mcc := none, cmd := none, ctx := ctx, owned := true }

/-- The invalidations of an event go to the holders of its page in other packages (12 R259). -/
def State.invalFar (s : State) (line : Nat) (st : Stamp) (pkgs : List Nat) : State :=
  pkgs.foldl (fun s p => s.demand p 0 (.inval line st)) s

/-- A publication event that the line's home makes itself lands: it takes its place among the versions, the collector examines the chain
(19 R320), and holders of the page in other packages have still to answer its invalidations (12 R256). The filters of the package
answer within the step (log 25). For a line homed on another member it goes there (12 R259). -/
def State.landed (s : State) (line : Nat) (st : Stamp) (bytes : List (Nat × Byte)) (ctx : Nat) : State :=
  if homePkg line ≠ s.pkgIdx then s.sendHeld line st bytes ctx none
  else
    let s := ((s.land line st bytes ctx).reclaim line).noteFull
    let far := s.farHolders line
    if far.isEmpty then s else ({ s with notes := s.notes ++ [⟨line, st, far⟩] } : State).invalFar line st far

/-- A clean copy of a manual line, with its poison (22 R349). -/
def State.manualCopy (s : State) (place ctx line : Nat) : State :=
  { s with
    manual := s.manual ++ [⟨place, line, ctx, (List.range 128).map (fun i => s.manualByte place (line * 128 + i)), 0⟩]
    poison := s.poison ++ (s.poison.filter (fun p => p.gran / 4 == line && p.place == .home && p.upto == none)).map (fun p => { p with place := .man place }) }

/-- Merge bytes into the copy of a manual line at a place; `dirty` marks them dirty. A place without a copy makes a whole one, its other
bytes as the CU or the die reads them at that moment, which R267 does not say (log 18). -/
def State.mergeManual (s : State) (place line ctx : Nat) (bytes : List (Nat × Byte)) (dirty : Bool) : State :=
  let s := if s.manual.any (fun m => m.place == place && m.line == line) then s else s.manualCopy place ctx line
  let base : Manual := (s.manual.find? (fun m => m.place == place && m.line == line)).getD ⟨place, line, ctx, [], 0⟩
  let m : Manual := bytes.foldl (fun m p =>
    { m with
      data := m.data.set p.1 p.2
      dirty := if dirty then m.dirty ||| BitVec.ofNat 128 (2 ^ p.1) else m.dirty
      ctx := if dirty then ctx else m.ctx }) base
  { s with manual := upsert (fun n => n.place == place && n.line == line) m s.manual }

/-- The dirty bytes of a manual copy. -/
def Manual.dirtyBytes (m : Manual) : List (Nat × Byte) :=
  ((List.range 128).filter (fun i => m.dirty.getLsbD i)).map (fun i => (i, nth 0 m.data i))

/-- Bytes of a manual line reach their home: each takes the latest merge's value (12 R261). A merge that does not write a
whole poisoned granule leaves its poison (22 R349). -/
def State.mergeHome (s : State) (line : Nat) (bytes : List (Nat × Byte)) : State :=
  let s := bytes.foldl (fun s p => s.homeWrite (line * 128 + p.1) [p.2]) s
  { s with poison := s.poison.filter (fun p => !(p.gran / 4 == line && decide (p.gran < 2 ^ 60) && p.place == .home &&
      (List.range 32).all (fun i => (get? bytes (p.gran % 4 * 32 + i)).isSome))) }

/-- A merge of dirty bytes takes the poison of their granules with it (22 R349, 12 R261). -/
def State.spreadPoison (s : State) (m : Manual) (dest : PoisonAt) : State :=
  let bad := s.poison.filter (fun p => p.place == .man m.place && p.gran / 4 == m.line &&
    (List.range 32).any (fun i => m.dirty.getLsbD (p.gran % 4 * 32 + i)))
  { s with poison := s.poison.filter (fun p => !(p.place == dest && p.upto == none && bad.any (·.gran == p.gran))) ++
      bad.map (fun p => { p with place := dest, frm := Stamp.zero, upto := none }) }

/-- Dirty bytes of a CU's copy pass through its die's L2 copy on their way home (07 R149); a home in another package gets them in a message,
which it acknowledges to the squad that wrote them back, if one did (12 R261, 20 R325). -/
def State.writeBack (s : State) (squad : Option Nat) (m : Manual) : State :=
  let b := m.dirtyBytes
  let die := m.place / 128
  let s := if s.manual.any (fun n => n.place == 600 + die && n.line == m.line)
    then (s.mergeManual (600 + die) m.line m.ctx b false).spreadPoison m (.man (600 + die)) else s
  let t := if homePkg m.line = s.pkgIdx then (s.mergeHome m.line b).spreadPoison m .home
    else if b.isEmpty then s
    else ((s.send m.line Stamp.zero b true m.ctx squad none none).modSquads (fun q => some q.id == squad) (fun q => { q with ack := q.ack + 1 })).spreadPoison m
      (.msg s.nextId)
  { t with manual := modAll (fun n => n.place == m.place && n.line == m.line) (fun n => { n with dirty := 0 }) t.manual }

/-! ### Departures and collapses (11 R233 to R236) -/

/-- The bytes of a line that ordered accesses wrote and that are on their way to its home, as events. -/
def State.onWay (s : State) (line : Nat) : List Pub :=
  (s.msgs.filter (fun m => m.line == line && (m.owned || m.dep) && !m.landed)).map (fun m => ⟨m.line, m.st, m.bytes, m.ctx⟩)

/-- The current bytes of a line (11 R231): those that its owner has written, over the newest version and what its owners have sent. -/
def State.curByte (s : State) (key : Nat) : Byte :=
  match (s.l1.find? (fun e => e.line == lineOf key && e.st == .m)).bind (fun e => get? e.written (key % 128)) with
  | some b => b
  | none =>
    match pubByte none (lineOf key) (key % 128) (s.pubs ++ s.onWay (lineOf key)) with
    | some (_, b) => b
    | none => look 0 s.mem key

/-- The current number in n bytes. -/
def State.curNat (s : State) (key n : Nat) : Nat := natLE ((List.range n).map (fun i => s.curByte (key + i)))

/-- The written bytes of an owned line become a version at the next stamp of the departing CU (11 R233); the ownership
entry becomes `next` or leaves. -/
def State.depart (s : State) (cache line : Nat) (next : Option L1St) : State :=
  let e := s.l1.find? (fun e => e.cache == cache && e.line == line)
  let w := match e with | some e => e.written | none => []
  let s := if w.isEmpty then s
    else
      let c := s.cuStamp cache
      (c.2.landed line c.1 w (match e with | some e => e.ctx | none => 0x8000)).carryPoison line (.own cache) .home c.1
  match next with
  | some st =>
    let f : L1 → L1 := fun e => { e with st := st, written := [], writers := [] }
    { s with l1 := modAll (fun e => e.cache == cache && e.line == line) f s.l1 }
  | none => { s with l1 := s.l1.filter (fun e => !(e.cache == cache && e.line == line)) }

/-- The answer of an owner, or its put: the written bytes with the next stamp of its CU; without any the message names the CU alone. -/
def State.sendBytes (s : State) (cache line ctx : Nat) (w : List (Nat × Byte)) : State :=
  let f := s.fresh
  let c : Stamp × State := if w.isEmpty then (⟨0, s.srcOf (cache / 128) (cache % 128)⟩, f.2) else f.2.cuStamp cache
  let m : Msg := { id := f.1, line := line, st := c.1, bytes := w, manual := w.isEmpty, squad := none, mcc := none, cmd := none, ctx := ctx, dep := true }
  ({ c.2 with msgs := c.2.msgs ++ [m] } : State).carryPoison line (.own cache) (.msg f.1) c.1

/-- The words of a line under a type: 32 of 4 bytes or 16 of 8. -/
def wordBytes (ty : Nat) : Nat := if is64 ty then 8 else 4

/-- The identity of an update operator (07 Table 7.6). -/
def updIdentity (op ty : Nat) : Nat :=
  if op = 0 then (if ty = tF32 then 0x80000000 else 0)
  else if op = 1 then (if ty = tF32 then 0x7F800000 else if ty = tS32 then 0x7FFFFFFF else 0xFFFFFFFF)
  else if op = 2 then (if ty = tF32 then 0xFF800000 else if ty = tS32 then 0x80000000 else 0)
  else if op = 3 then 0
  else 0x80000000

/-- One fold (07 R146): the new word and the flags. .accbf folds FP32 words here; its BF16 operand was widened. -/
def fold (op ty old v : Nat) : Nat × Nat :=
  let n := 8 * wordBytes ty
  if op = 0 then
    (if ty = tF32 then fp32.addR .rne (fp32.decode old) (fp32.decode v) else ((old + v) % 2 ^ n, 0))
  else if op = 1 ∨ op = 2 then
    (if ty = tF32 then fp32.minmaxR (op == 2) false (fp32.decode old) (fp32.decode v)
     else
      let less := if isSigned ty then decide (sext v n < sext old n) else decide (v < old)
      let more := if isSigned ty then decide (sext old n < sext v n) else decide (old < v)
      (if op = 1 then (if less then v else old) else (if more then v else old), 0))
  else if op = 3 then (old ||| v, 0)
  else fp32.addR .rne (fp32.decode old) (fp32.decode v)

/-- Fold two rows of words; an absent word is the identity. -/
def foldRow (op ty : Nat) (into from_ : List D) : List D :=
  (List.range (128 / wordBytes ty)).map (fun i =>
    BitVec.ofNat 64 (fold op ty (nth 0 into i).toNat (nth 0 from_ i).toNat).1)

/-- All words of a copy or partial; an absent word is the identity. -/
def rowOfWords (op ty : Nat) (ws : List (Nat × D)) : List D :=
  (List.range (128 / wordBytes ty)).map (fun i => (get? ws i).getD (BitVec.ofNat 64 (updIdentity op ty)))

/-- All words of an update-only copy. -/
def ACopy.row (c : ACopy) (op ty : Nat) : List D := rowOfWords op ty c.words

/-- A row of identities. -/
def idRow (op ty : Nat) : List D := List.replicate (128 / wordBytes ty) (BitVec.ofNat 64 (updIdentity op ty))

/-- The copies of a die, in ascending cache number. -/
def State.copiesOf (s : State) (line die : Nat) : List ACopy :=
  (List.range 128).filterMap (fun i => s.acopies.find? (fun c => c.line == line && c.cache == die * 128 + i))

/-- The partial of a die: none when it holds no copy (11 R235, 12 R258). -/
def State.partOf (s : State) (h : Home) (die : Nat) : Option (List D) :=
  match s.copiesOf h.line die with
  | [] => none
  | cs => some (cs.foldl (fun a c => foldRow h.op h.ty a (c.row h.op h.ty)) (idRow h.op h.ty))

/-- The row of words of a line at its current value. -/
def State.lineRow (s : State) (line ty : Nat) : List D :=
  (List.range (128 / wordBytes ty)).map (fun i => BitVec.ofNat 64 (s.curNat (line * 128 + i * wordBytes ty) (wordBytes ty)))

/-- The bytes of a row of words. -/
def rowBytes (ty : Nat) (r : List D) : List Byte := r.flatMap (fun d => bytesLE (wordBytes ty) d.toNat)

/-- Bytes numbered from an offset. -/
def numbered (o : Nat) : List Byte → List (Nat × Byte)
  | [] => []
  | b :: r => (o, b) :: numbered (o + 1) r

/-- The partial of a die of a package: folded from its copies here, or sent to the home (12 R258). -/
def State.partFrom (s : State) (h : Home) (pkg die : Nat) : Option (List D) :=
  (if pkg = s.pkgIdx then s.partOf h die else none).or
    ((h.parts.find? (fun p => p.1 == pkg && p.2.1 == die)).map (fun p => rowOfWords h.op h.ty p.2.2))

/-- The collapsed words of a line: memory, the home package's dies, then the other packages (11 R235). -/
def State.collapsed (s : State) (h : Home) : List D :=
  let pk := homePkg h.line
  let mine := (List.range 4).filterMap (fun d =>
    s.partFrom h pk d)
  let v := mine.foldl (fun v p => foldRow h.op h.ty v p) (s.lineRow h.line h.ty)
  let others := sortNat ((h.parts.map (·.1)).filter (· != pk) ++ (if pk = s.pkgIdx then [] else [s.pkgIdx]))
  others.foldl (fun v p =>
    let parts := (List.range 4).filterMap (fun d =>
      s.partFrom h p d)
    if parts.isEmpty then v
    else foldRow h.op h.ty v (parts.foldl (fun q e => foldRow h.op h.ty q e) (idRow h.op h.ty))) v

/-- Poison of a line's granules after a collapse with stamp C: it merges the prior version, whose poison stays, and what the copies hold goes
into the new version (22 R349). -/
def State.keepPoison (s : State) (line : Nat) (c : Stamp) (p : List Poison) : State :=
  { s with poison := s.poison.filter (·.gran / 4 != line) ++ (p.filter (·.gran / 4 == line)).map (fun q =>
      match q.place with
      | .upd _ => { q with place := .home, frm := c, upto := none }
      | _ => q) }

/-- Does a squad wait for the collapse that its load has forced of a line (11 R236)? -/
def Squad.forcing (q : Squad) (line : Nat) : Bool :=
  match q.todo with
  | .collapseDo ls :: _ => ls.contains line
  | _ => false

/-- A collapse of a line with stamp C of an agent: the version at C, every copy discarded, the epoch over (11 R235). The
whole line is written; a load that forced it observes C (11 R236). -/
def State.collapseAt (s : State) (h : Home) (c : Stamp) : State :=
  let row := s.collapsed h
  let old := s.poison
  let tag := match s.acopies.find? (·.line == h.line) with | some a => a.ctx | none => 0x8000
  let s := s.modSquads (fun q => q.forcing h.line) (fun q => { q with obs := q.obs.max c })
  let s := (s.landed h.line c (numbered 0 (rowBytes h.ty row)) tag).keepPoison h.line c old
  { s with
    acopies := s.acopies.filter (·.line != h.line)
    home := s.home.filterMap (fun e =>
      if e.line == h.line then
        (let waits := e.serving.toList ++ e.waits
         if waits.isEmpty then none
         else some { e with st := .hs, owner := 0, sharers := [], pkgs := [], acks := [], parts := [], serving := none, waits := waits })
      else some e) }

/-- The next stamp of an agent above every version of some lines: the agent waits until the tick of the newest has passed. -/
def State.stampOver (s : State) (die agent : Nat) (lines : List Nat) : Stamp × State :=
  let c := s.takeStamp die agent
  let top := maxStamp (lines.map s.newest)
  if lines.isEmpty || top.lt c.1 then c
  else State.takeStamp { s with now := max s.now (top.tick + 1) } die agent

/-- Collapse a line that is in an epoch, with a stamp that an agent takes; the stamp, or none when no epoch stands. A line of another member
collapses at its home (12 R258). -/
def State.collapse (s : State) (line die agent : Nat) : Option Stamp × State :=
  match (if homePkg line = s.pkgIdx then s.epoch line else none) with
  | none => (none, s)
  | some h =>
    let c := s.stampOver die agent [line]
    (some c.1, c.2.collapseAt h c.1)

/-- A collapse forced by a squad of a CU. -/
def State.collapseCu (s : State) (cache line : Nat) : Option Stamp × State :=
  s.collapse line (cache / 128) (cache % 128)

/-! ### First-level caches, filters, die ports (12 R241, R245, R250, R251, R255, R257, R261) -/

/-- The L1 ways of each set of a CU (12 R240, R241). -/
def State.ways (s : State) (cache : Nat) : Nat :=
  let top := (s.teams.filter (·.cache == cache)).foldl (fun m u => max m (u.base + u.size)) 1
  8 * (8 - (top + 65535) / 65536)

/-- The L1 set of a line. -/
def setOf (line : Nat) : Nat := line % 64

/-- Is an L1 entry between two states of 12 Table 12.2? -/
def L1.moving (e : L1) : Bool := e.st == .is || e.st == .im || e.st == .sm || e.st == .ia || e.st == .mi

/-- The update-only copies that a die's port stores; those of a collapse under way it folds and does not store (12 R258). -/
def State.portHolds (s : State) (die : Nat) : Nat :=
  (s.acopies.filter (fun c => c.port && c.cache / 128 == die && !s.home.any (fun h => h.line == c.line && h.st == .hac))).length

/-- Is there room at a die's port for n more update-only copies: 2,048 on die and 32 MiB of lines of its HBM (12 R257)? -/
def State.portFits (s : State) (die n : Nat) : Bool := decide (s.portHolds die + n ≤ 2048 + 262144)

/-- Is there room at a die's port for one more? -/
def State.portRoom (s : State) (die : Nat) : Bool := s.portFits die 1

/-- Pending lines of a CU in a set. -/
def State.pendIn (s : State) (cache set : Nat) : Nat :=
  ((s.allSquads.filter (·.cache == cache)).map (fun q => (q.pending.filter (fun p => setOf p.line == set)).length)).foldl (· + ·) 0

/-- An entry of an L1 that may leave it. -/
inductive Victim where
  | copy (c : VCopy)
  | manual (m : Manual)
  | own (e : L1)
  | upd (c : ACopy)
deriving DecidableEq, Repr

/-- The filter of a die keeps the clusters that still hold the line; the entry stays while the die's L2 holds a copy. -/
def State.trimFilter (s : State) (die line : Nat) : State :=
  let held (c : Nat) : Bool :=
    s.l1.any (fun e => e.line == line && e.cache / 4 == 32 * die + c) ||
    s.copies.any (fun e => e.line == line && e.cache / 4 == 32 * die + c) ||
    s.acopies.any (fun e => e.line == line && e.cache / 4 == 32 * die + c)
  let l2 := s.copies.any (fun e => e.line == line && e.cache == 600 + die)
  { s with filters := s.filters.filterMap (fun f =>
      if f.1 == die && f.2.1 == line then
        (let k := f.2.2.filter held
         if k.isEmpty && !l2 then none else some (f.1, f.2.1, k))
      else some f) }

/-- The directory forgets an owner that has left. -/
def State.forgetOwner (s : State) (cache line : Nat) : State :=
  let f : Home → Home := fun h => { h with st := .hs, owner := 0 }
  { s with home := modAll (fun h => h.line == line && h.st == .ho && h.owner == cache && h.serving.isNone) f s.home }

/-- May an entry leave now: its line is in no transient state, a port has room? -/
def State.canLeave (s : State) (v : Victim) : Bool :=
  match v with
  | .copy _ => true
  | .manual _ => true
  | .own e => !e.moving && !s.home.any (fun h => h.line == e.line && (h.st == .hor || h.st == .hsx || h.st == .hv || h.serving.isSome))
  | .upd c => s.portRoom (c.cache / 128) && !s.home.any (fun h => h.line == c.line && (h.st == .hac || h.serving.isSome))

/-- The entries of an L1 set that may leave it. -/
def State.victims (s : State) (cache set : Nat) : List Victim :=
  ((s.copies.filter (fun c => c.cache == cache && setOf c.line == set)).map Victim.copy ++
    (s.manual.filter (fun m => m.place == cache && setOf m.line == set)).map Victim.manual ++
    (s.l1.filter (fun e => e.cache == cache && setOf e.line == set)).map Victim.own ++
    (s.acopies.filter (fun c => c.cache == cache && !c.port && setOf c.line == set)).map Victim.upd).filter s.canLeave

/-- An entry leaves its L1, or a copy its L2 (12 R241, Table 12.2, R261). The written bytes of an M line go out in a put: its entry stays in MI,
in no way, until the home has acknowledged it. -/
def State.evict (s : State) (v : Victim) : State :=
  match v with
  | .copy c => ({ s with copies := s.copies.erase c } : State).trimFilter (dieOf c.cache) c.line
  | .manual m =>
    let s := if m.dirty = 0 then s else s.writeBack none m
    ({ s with manual := s.manual.filter (fun n => !(n.place == m.place && n.line == m.line)) } : State).endPoison m.line (.man m.place)
  | .own e =>
    if e.st = .m then
      let put : L1 → L1 := fun k => { k with st := .mi, written := [], writers := [] }
      let t := s.sendBytes e.cache e.line e.ctx e.written
      { t with l1 := modAll (fun k => k.cache == e.cache && k.line == e.line) put t.l1 }
    else ((s.depart e.cache e.line none).forgetOwner e.cache e.line).trimFilter (e.cache / 128) e.line
  | .upd c =>
    let f : ACopy → ACopy := fun k => { k with port := true }
    { s with acopies := modAll (fun k => k.cache == c.cache && k.line == c.line) f s.acopies }

/-- Ways of a set in use. -/
def State.occupied (s : State) (cache set : Nat) : Nat :=
  (s.copies.filter (fun c => c.cache == cache && setOf c.line == set)).length +
    (s.manual.filter (fun m => m.place == cache && setOf m.line == set)).length +
    (s.l1.filter (fun e => e.cache == cache && setOf e.line == set && e.st != .mi)).length +
    (s.acopies.filter (fun c => c.cache == cache && !c.port && setOf c.line == set)).length + s.pendIn cache set

/-- A way of a line's set becomes free, `extra` beside it being spoken for: an entry leaves when every way is in use; which one is free
(log 14). With none that may leave there is no room (12 R257). -/
def State.makeWay (s : State) (cache line extra : Nat) : Option State :=
  if s.occupied cache (setOf line) + extra < s.ways cache then some s
  else
    match s.victims cache (setOf line) with
    | [] => none
    | v :: r =>
      some (({ s with free := s.free + 1 } : State).evict (nth v (v :: r) ((Config.freeWord s.free).toNat % (r.length + 1))))

/-- A way, if there is one; a line that finds none is not kept (log 14). -/
def State.wayFor (s : State) (cache line : Nat) : State := (s.makeWay cache line 0).getD s

/-- Ways for new lines of one instruction, one after another. -/
def State.makeWays (cache : Nat) (seen : List Nat) : List Nat → State → State
  | [], s => s
  | l :: r, s =>
    State.makeWays cache (l :: seen) r ((s.makeWay cache l (seen.filter (fun k => setOf k == setOf l)).length).getD s)

/-- Can an L1 hold these new lines: what cannot leave a set leaves them room (12 R257)? -/
def State.roomFor (s : State) (cache : Nat) (new : List Nat) : Bool :=
  new.all (fun l => decide (s.occupied cache (setOf l) - (s.victims cache (setOf l)).length +
    (new.filter (fun k => setOf k == setOf l)).length ≤ s.ways cache))

/-- Everything that a die's L1s and L2 hold of a line leaves, since the filter gives up its entry (12 R255). -/
def State.dropFromDie (s : State) (die line : Nat) : State :=
  let s := (s.l1.filter (fun e => e.line == line && e.cache / 128 == die)).foldl (fun s e =>
    (s.depart e.cache line none).forgetOwner e.cache line) s
  let f : ACopy → ACopy := fun k => { k with port := true }
  { s with
    copies := s.copies.filter (fun c => !(c.line == line && (c.cache == 600 + die || (c.cache < 512 && c.cache / 128 == die))))
    acopies := modAll (fun k => k.line == line && k.cache / 128 == die) f s.acopies
    filters := s.filters.filter (fun g => !(g.1 == die && g.2.1 == line)) }

/-- Do two lines of a die lie in one set of a slice's filter: 512 sets of 16 ways (12 R255)? -/
def sameFilterSet (a b : Nat) : Bool := bucketOf a == bucketOf b && Config.filterSet a % 512 == Config.filterSet b % 512

/-- The entries of a set of a die's filter. -/
def State.filterSet (s : State) (die line : Nat) : List (Nat × Nat × List Nat) :=
  s.filters.filter (fun g => g.1 == die && sameFilterSet g.2.1 line)

/-- Those of them that may leave: the line is in no transient state, the event of a departure need not wait, the port takes the line's A
copies (12 R255, R257). -/
def State.filterVictims (s : State) (die line : Nat) : List (Nat × Nat × List Nat) :=
  (s.filterSet die line).filter (fun g =>
    !s.home.any (fun h => h.line == g.2.1 && (h.st == .hor || h.st == .hsx || h.st == .hv || h.st == .hac || h.serving.isSome)) &&
      !s.l1.any (fun e => e.line == g.2.1 && e.moving) && !s.stalls g.2.1 &&
      s.portFits die (s.acopies.filter (fun c => c.line == g.2.1 && c.cache / 128 == die && !c.port)).length)

/-- Can the filter of a die record a line: it does, or its set has an entry free or one that may leave? -/
def State.filterOpen (s : State) (die line : Nat) : Bool :=
  s.filters.any (fun f => f.1 == die && f.2.1 == line) || decide ((s.filterSet die line).length < 16) || !(s.filterVictims die line).isEmpty

/-- A new entry of a filter: with 16 in its set, one that may leave does, which one is free. -/
def State.filterRoom (s : State) (die line : Nat) : State :=
  if (s.filterSet die line).length < 16 then s
  else
    match s.filterVictims die line with
    | [] => s
    | g :: r =>
      ({ s with free := s.free + 1 } : State).dropFromDie die (nth g (g :: r) ((Config.freeWord s.free).toNat % (r.length + 1))).2.1

/-- The snoop filter of a die learns that clusters hold a line, or, with none, that its L2 does (12 R255). -/
def State.filterNote (s : State) (die line : Nat) (cs : List Nat) : State :=
  match s.filters.find? (fun f => f.1 == die && f.2.1 == line) with
  | some f =>
    if cs.all f.2.2.contains then s
    else { s with filters := modAll (fun g => g.1 == die && g.2.1 == line) (fun g => (g.1, g.2.1, sortNat (cs ++ g.2.2))) s.filters }
  | none =>
    let s := s.filterRoom die line
    { s with filters := s.filters ++ [(die, line, cs)] }

/-- The snoop filter of the die of a cache learns that its cluster holds a line. -/
def State.filterAdd (s : State) (cache line : Nat) : State := s.filterNote (cache / 128) line [cache / 4 % 32]

/-- A way for a line that the filter tracks: there is one, and the filter can record the line. -/
def State.takeWay (s : State) (cache line : Nat) : Option State :=
  if s.filterOpen (cache / 128) line then s.makeWay cache line 0 else none

/-- Has an L1 room for a line that the filter tracks? -/
def State.roomOne (s : State) (cache line : Nat) : Bool := s.filterOpen (cache / 128) line && s.roomFor cache [line]

/-- Room for a copy in a die's L2: the ways of a set that the version cache leaves hold at most so many copies of lines of other dies; one
that leaves is free (12 R245; log 14). -/
def State.l2Way (s : State) (die line : Nat) : State :=
  let inSet (k : Nat) : Bool := bucketOf k == bucketOf line && l2Set k == l2Set line
  match (s.copies.filter (fun c => c.cache == 600 + die && inSet c.line)).map Victim.copy ++
      (s.manual.filter (fun m => m.place == 600 + die && inSet m.line)).map Victim.manual with
  | [] => s
  | v :: r =>
    if r.length + 1 < 16 - s.vcWays then s
    else ({ s with free := s.free + 1 } : State).evict (nth v (v :: r) ((Config.freeWord s.free).toNat % (r.length + 1)))

/-- Is a line homed on another die than this one, so that this die's L2 may keep a copy of it (12 R245)? -/
def State.abroad (s : State) (die line : Nat) : Bool := homePkg line != s.pkgIdx || homeDie line != die

/-- Does a copy serve a read at a stamp (12 R251)? -/
def VCopy.serves (c : VCopy) (t : Stamp) : Bool :=
  c.vs.le t && (match c.stale with | some u => t.lt u | none => true)

/-- The copy of a line that a fill at a stamp makes: the newest version at or below it, until the next; of a line of another member, what
a copy here that serves the stamp says (12 R251, R259). -/
def State.copyAt (s : State) (place line : Nat) (t : Stamp) : VCopy :=
  match (if homePkg line = s.pkgIdx then none else s.copies.find? (fun c => c.line == line && c.serves t)) with
  | some c => { c with cache := place }
  | none => ⟨place, line, maxStamp ((s.pubs.filter (fun p => p.line == line && p.st.le t)).map (·.st)),
    minStamp ((s.pubs.filter (fun p => p.line == line && t.lt p.st)).map (·.st))⟩

/-- Does a place hold a copy of a line that serves a read at a stamp? -/
def State.servesAt (s : State) (place line : Nat) (t : Stamp) : Bool :=
  s.copies.any (fun c => c.cache == place && c.line == line && c.serves t)

/-- Can a fill at a stamp be made here: of a line of this package, or of one that a copy here serves? -/
def State.fillable (s : State) (line : Nat) (t : Stamp) : Bool :=
  homePkg line == s.pkgIdx || s.copies.any (fun c => c.line == line && c.serves t)

/-- The L2 of a die keeps a copy of the version of a line of another die (12 R245). -/
def State.fillL2 (s : State) (die line : Nat) (t : Stamp) : State :=
  if !s.abroad die line || !s.fillable line t || s.servesAt (600 + die) line t || !s.filterOpen die line then s
  else
    let s := s.l2Way die line
    ({ s with copies := s.copies ++ [s.copyAt (600 + die) line t] } : State).filterNote die line []

/-- The L2 of a die keeps a clean copy of a manual line of another die (07 R149). -/
def State.manualL2 (s : State) (die ctx line : Nat) : State :=
  if !s.abroad die line || s.manual.any (fun m => m.place == 600 + die && m.line == line) then s
  else
    let s := s.l2Way die line
    s.manualCopy (600 + die) ctx line

/-- A fill makes a version copy when none serves; a fifth copy of a line replaces the oldest (log 14). A line homed on another die leaves
a copy in the reader's L2 as well (12 R245). -/
def State.fillCopy (s : State) (cache line : Nat) (t : Stamp) : State :=
  if s.servesAt cache line t || !s.fillable line t then s
  else
    let mine := s.copies.filter (fun c => c.cache == cache && c.line == line)
    let s : State := if mine.length < 4 then s
      else { s with copies := (match mine.head? with | some c => s.copies.erase c | none => s.copies) }
    let s := s.fillL2 (cache / 128) line t
    match s.takeWay cache line with
    | some u => ({ u with copies := u.copies ++ [u.copyAt cache line t] } : State).filterAdd cache line
    | none => s

/-- A load brings its line to the CU: a version copy, or for a manual line a clean copy; of a line homed on another die it leaves
a copy in the reader's L2 too, which R268 allows and does not ask (log 18). -/
def State.fill (s : State) (cache ctx : Nat) (l : Leaf) (t : Stamp) (key : Nat) : State :=
  let line := lineOf key
  if l.cls = 2 then
    if s.manual.any (fun m => m.place == cache && m.line == line) then s
    else
      let s := s.manualL2 (cache / 128) ctx line
      match s.makeWay cache line 0 with
      | some u => u.manualCopy cache ctx line
      | none => s
  else s.fillCopy cache line (s.stampFor s.launchNow t l.cls)

/-- The stamps at which squads of a CU, or of a die, read. -/
def State.readersAt (s : State) (place : Nat) : List Stamp :=
  (s.allSquads.filter (fun q => q.cache == place || (600 ≤ place && q.cache / 128 == place - 600))).map
    (fun q => ((s.kSnapOf q.launch).getD q.tide).min q.tide)

/-- Stale copies go once no resident squad that they serve has a read stamp below their stale stamp (12 R251). -/
def State.trimCopies (s : State) : State :=
  { s with copies := s.copies.filter (fun c =>
      match c.stale with | none => true | some u => (s.readersAt c.cache).any (fun r => r.lt u)) }

/-! ### Publish (07 R151) -/

/-- Bytes of a list at their keys. -/
def keyed (line : Nat) (b : List (Nat × Byte)) : List Host.Cell := b.map (fun p => (line * 128 + p.1, p.2))

/-- Add cells to a rising list. -/
def insAll (l : List Host.Cell) (b : List Host.Cell) : List Host.Cell := b.foldl (fun l p => ins l p.1 p.2) l

/-- The lines that a Publish of the squad in focus sends: its pending lines that are not transactional, and the written
owned lines of its CU that it wrote. -/
def State.pubLines (s : State) : List PLine := s.sq.pending.filter (fun p => !p.tx)
def State.pubOwned (s : State) : List L1 :=
  s.l1.filter (fun e => e.cache == s.sq.cache && e.writers.contains s.sq.id && !e.written.isEmpty && e.st == .m)

/-- Collapse the epochs of the lines that are about to be published (11 R236). -/
def State.preCollapse (s : State) (cache : Nat) : List PLine → State
  | [] => s
  | p :: r => (if p.upd then (s.collapseCu cache p.line).2 else s).preCollapse cache r

/-- A stamp below that of a publication, for the collapses of epochs at the homes of other members, where some line may need one (11 R236). -/
def State.preStamp (s : State) (lines : List PLine) (take : State → Stamp × State) : Option Stamp × State :=
  if lines.any (fun p => p.upd && !p.scr && p.cls != 2 && homePkg p.line != s.pkgIdx) then (some (take s).1, (take s).2) else (none, s)

/-- Send the pending lines of the squad in focus at stamp st. -/
def State.sendLines (s : State) (pre : Option Stamp) (st : Stamp) : List PLine → State
  | [] => s
  | p :: r =>
    let s :=
      if p.cls = 2 then ((s.wayFor s.sq.cache p.line).mergeManual s.sq.cache p.line p.ctx p.bytes true).carryPoison p.line (.pend s.sq.id)
        (.man s.sq.cache) Stamp.zero
      else
        ((s.send p.line st p.bytes false p.ctx (some s.sq.id) none none (if p.upd then pre else none)).carryPoison p.line (.pend s.sq.id) (.msg s.nextId) st).modSq (fun q => { q with
          ack := q.ack + 1
          own := insAll q.own (keyed p.line p.bytes) })
    s.sendLines pre st r

/-- Send the written owned lines of the squad in focus. -/
def State.sendOwned (s : State) (st : Stamp) : List L1 → State
  | [] => s
  | e :: r =>
    let s := ((s.sendHeld e.line st e.written e.ctx (some s.sq.id)).carryPoison e.line (.own e.cache) (.msg s.nextId) st).modSq (fun q => { q with
      ack := q.ack + 1
      own := insAll q.own (keyed e.line e.written) })
    let clean : L1 → L1 := fun f => { f with written := [], writers := [] }
    State.sendOwned { s with l1 := modAll (fun f => f.cache == e.cache && f.line == e.line) clean s.l1 } st r

/-- Bytes of a at offsets that b does not hold. -/
def lessBytes (a b : List (Nat × Byte)) : List (Nat × Byte) := a.filter (fun p => (get? b p.1).isNone)

/-- A byte that the squad holds both pending and in an owned line goes out once, with the owned line's; whether the plain store's or the
ordered write's value stands is free, `plain` (log 33). -/
def plainBytes (owned : List L1) (l : PLine) : PLine :=
  match owned.find? (·.line == l.line) with
  | some e => { l with bytes := lessBytes l.bytes e.written }
  | none => l

def ownedBytes (plain : Bool) (lines : List PLine) (e : L1) : L1 :=
  match lines.find? (·.line == e.line) with
  | some l => if plain then { e with written := e.written.map (fun p => (p.1, (get? l.bytes p.1).getD p.2)) } else e
  | none => e

/-- Publish of the squad in focus for some of its pending lines, with its written owned lines when `all`, without the
acknowledgement wait. With nothing to send it takes no stamp. -/
def State.publishSome (s : State) (p : PLine → Bool) (all : Bool) : State :=
  let lines := s.pubLines.filter p
  let owned := if all then s.pubOwned else []
  if lines.isEmpty && owned.isEmpty then s
  else
    let plain := (Config.freeWord s.free).getLsbD 0
    let p0 := ({ s with free := s.free + 1 }.preCollapse s.sq.cache lines).preStamp lines (fun t => t.cuStamp s.sq.cache)
    let c := p0.2.cuStamp s.sq.cache
    let s := (c.2.sendLines p0.1 c.1 (lines.map (plainBytes owned))).sendOwned c.1 (owned.map (ownedBytes plain lines))
    s.modSq (fun q => { q with
      pending := q.pending.filter (fun l => l.tx || !p l)
      obs := q.obs.max c.1 })

/-- Publish of the MCC's epilogue lines that satisfy p (08 R173). A line of the scratchpad is written at once, be it absent: the model's
choice (log 113). -/
def State.publishEpi (s : State) (p : PLine → Bool) : State :=
  let lines := s.mcc.epi.filter p
  if lines.isEmpty then s
  else
    let s := lines.foldl (fun s l =>
      if l.upd && !l.scr then (s.collapse l.line (s.mcc.cl / 32) (128 + s.mcc.cl % 32)).2 else s) s
    let p0 := s.preStamp lines State.ownStamp
    let c := p0.2.ownStamp
    let s := lines.foldl (fun s l =>
      if l.scr then l.bytes.foldl (fun s b => s.scrWrite (l.line * 128 + b.1) [b.2]) s
      else (s.send l.line c.1 l.bytes (l.cls == 2) l.ctx none (some s.mcc.id) none (if l.upd then p0.1 else none)).modMcc
        (fun m => { m with ack := m.ack + 1 })) c.2
    let s := s.modLaunch s.mcc.launch (fun l => { l with doneSt := l.doneSt.max c.1 })
    s.modMcc (fun m => { m with
      epi := m.epi.filter (fun l => !p l)
      lastPub := some c.1
      obs := m.obs.max c.1 })

/-- Publish of the issuer, without its wait. -/
def State.publish (s : State) : State :=
  if s.isM then s.publishEpi (fun _ => true) else s.publishSome (fun _ => true) true

/-! ### Snap (07 R151, 11 R223, R226) -/

/-- The estimate of slack water rises to what has settled (11 R223, R224). -/
def State.settle (s : State) : State := { s with slack := s.slack.max s.share }

/-- The estimate of the domain of a context. -/
def State.slackFor (s : State) (ctx : Nat) : Stamp :=
  if s.domOf ctx then (s.peers.map (·.slack)).foldl Stamp.min s.slack else s.slack

/-- The end of a Snap: the tidemark rises to the slack water, own-view bytes and stale copies go. In transaction state, in which a load of a
handler can still force a collapse, the tidemark stays (11 R226). -/
def State.renew (s : State) : State :=
  let w := s.slackFor s.ctxNow
  if s.isM then s.modMcc (fun m => { m with tide := m.tide.max w })
  else (s.modSq (fun q => { q with tide := if q.tx then q.tide else q.tide.max w, own := [] })).trimCopies

/-! ### Ownership and update-only copies (11 R231, R234; 12 R252, R253) -/

/-- Is the line in a transient state: its directory entry between two states or with a grant outstanding, a request of an L1 under way,
invalidations that other packages have still to answer (12 R254, R256)? -/
def State.transient (s : State) (line : Nat) : Bool :=
  s.home.any (fun h => h.line == line && (h.st == .hv || h.st == .hsx || h.st == .hor || h.st == .hac || h.serving.isSome)) ||
    s.l1.any (fun e => e.line == line && e.moving) || s.notes.any (·.line == line)

/-- Set the directory entry of a line. -/
def State.setHome (s : State) (h : Home) : State := { s with home := upsert (fun e => e.line == h.line) h s.home }

/-- A directory entry in a state. -/
def homeAt (line : Nat) (st : HomeSt) (owner : Nat) (sharers : List Nat) : Home :=
  ⟨line, st, owner, sharers, 0, 0, Stamp.zero, [], [], [], Stamp.zero, none, []⟩

/-- What waits at the home of a line. -/
def State.waitsAt (s : State) (line : Nat) : List HomeReq :=
  match s.home.find? (·.line == line) with
  | some h => h.waits
  | none => []

/-- A recall on behalf of a cache (12 Tables 12.2, 12.3): for a shared request an owner in M keeps the data in S and one in E drops
it, for any other every copy leaves. -/
def State.recallOthers (s : State) (cache line : Nat) (share : Bool) : State :=
  (s.l1.filter (fun e => e.line == line && e.cache != cache && !e.moving)).foldl (fun s e =>
    if e.st == .m && share then s.depart e.cache line (some .s)
    else if e.st == .s && share then s
    else (s.depart e.cache line none).trimFilter (e.cache / 128) line) s

/-- Does no other package hold copies of a line's page, so that an L1 may have the line in E (12 Tables 12.3, 12.4)? -/
def State.alone (s : State) (line : Nat) : Bool :=
  if homePkg line = s.pkgIdx then !s.grants.any (fun g => g.page == pageOf line && g.pkg != s.pkgIdx)
  else s.grants.any (fun g => g.page == pageOf line && g.pkg == s.pkgIdx && g.kind == 1)

/-- Gain a line in M for a store (`excl`) or in S or E for an acquire, whole within the step; the line is not in an
epoch and not busy, and its set has room. -/
def State.gain (s : State) (cache line ctx : Nat) (excl : Bool) : State :=
  match s.l1.find? (fun e => e.cache == cache && e.line == line) with
  | some e =>
    if e.st == .m then s
    else if excl then
      let s := s.recallOthers cache line false
      let s : State :=
        { s with l1 := modAll (fun f => f.cache == cache && f.line == line) (fun f => { f with st := .m, ctx := ctx }) s.l1 }
      s.setHome { homeAt line .ho cache [] with waits := s.waitsAt line }
    else s
  | none =>
    let s := (s.recallOthers cache line (!excl)).wayFor cache line
    let others := (s.l1.filter (fun e => e.line == line)).map (·.cache)
    let st : L1St := if excl then .m else if others.isEmpty && s.alone line then .e else .s
    let s : State := { s with l1 := s.l1 ++ [⟨cache, line, st, ctx, [], [], 0, 0⟩] }
    let h := if st = L1St.s then homeAt line .hs 0 (sortNat (cache :: others)) else homeAt line .ho cache []
    (s.setHome { h with waits := s.waitsAt line }).filterAdd cache line

/-- Write bytes of an owned line for a squad. -/
def State.ownWrite (s : State) (cache squad key : Nat) (b : List Byte) : State :=
  { s with l1 := modAll (fun e => e.cache == cache && e.line == lineOf key) (fun e => { e with
      written := (numbered (key % 128) b).foldl (fun l p => ins l p.1 p.2) e.written
      writers := if e.writers.contains squad then e.writers else squad :: e.writers }) s.l1 }

/-- A line under an ordered access of the squad in focus: its epoch collapses, then it is gained. -/
def State.ordered (s : State) (line : Nat) (excl : Bool) : State :=
  ((s.collapseCu s.sq.cache line).2).gain s.sq.cache line s.sq.ctx excl

/-- Obtain an update-only copy for a cache (07 R146): a matching epoch grants it, another collapses, ownership ends, and
a new epoch takes the requester's next stamp as its first-A stamp. -/
def State.obtainA (s : State) (cache line op ty : Nat) : State :=
  let matches_ := match s.epoch line with
    | some h => h.op == op && h.ty == ty
    | none => false
  let s := if matches_ then s else (s.collapseCu cache line).2
  let s := s.recallOthers cache line false
  let s := if s.l1.any (fun e => e.cache == cache && e.line == line) then s.depart cache line none else s
  let s := if matches_ then s
    else
      let c := s.cuStamp cache
      c.2.setHome { homeAt line .ha 0 [] with op := op, ty := ty, firstA := c.1, waits := c.2.waitsAt line }
  let s := s.setHome { (s.home.find? (·.line == line)).getD (homeAt line .ha 0 []) with
    pkgs := sortNat (s.pkgIdx :: ((s.home.find? (·.line == line)).map (·.pkgs)).getD []) }
  let s := s.wayFor cache line
  let s := if s.acopies.any (fun c => c.line == line && c.cache == cache) then
      { s with acopies := modAll (fun c => c.line == line && c.cache == cache) (fun c => { c with port := false }) s.acopies }
    else { s with acopies := s.acopies ++ [⟨line, cache, false, [], s.sq.ctx⟩] }
  s.filterAdd cache line

/-- Does the cache's L1 hold the line in A under an operator and type? -/
def State.holdsA (s : State) (cache line op ty : Nat) : Bool :=
  s.acopies.any (fun c => c.line == line && c.cache == cache && !c.port) &&
    (match s.epoch line with | some h => h.op == op && h.ty == ty | none => false)

/-- One fold of upd into the cache's copy: the flags go to the squad in focus. -/
def State.foldInto (s : State) (cache line op ty i v : Nat) : State :=
  let old := match s.acopies.find? (fun c => c.line == line && c.cache == cache) with
    | some c => ((get? c.words i).getD (BitVec.ofNat 64 (updIdentity op ty))).toNat
    | none => updIdentity op ty
  let r := fold op ty old v
  let f : ACopy → ACopy := fun c => { c with words := ins c.words i (BitVec.ofNat 64 r.1), ctx := s.sq.ctx }
  ({ s with acopies := modAll (fun c => c.line == line && c.cache == cache) f s.acopies } : State).orFlags r.2

/-! ### Pending lines (07 R138, R153) -/

/-- Can the CU allocate pending lines for these new lines of one squad (12 R257)? -/
def State.canPend (s : State) (cache : Nat) (new : List Nat) : Bool := s.roomFor cache new

/-- Write one byte into the pending line of a squad. -/
def Squad.pend (q : Squad) (tx : Bool) (l : Leaf) (key : Nat) (b : Byte) : Squad :=
  let line := lineOf key
  match q.pending.find? (fun p => p.line == line && p.tx == tx) with
  | some _ =>
    let f : PLine → PLine := fun p => { p with bytes := ins p.bytes (key % 128) b }
    { q with pending := modAll (fun p => p.line == line && p.tx == tx) f q.pending }
  | none => { q with pending := q.pending ++ [⟨line, l.cls, l.upd, tx, false, q.ctx, [(key % 128, b)]⟩] }

/-- The lines of keys for which the squad in focus holds no pending line yet. -/
def State.newLines (s : State) (tx : Bool) (keys : List Nat) : List Nat :=
  (sortNat (keys.map lineOf)).filter (fun l => !s.sq.pending.any (fun p => p.line == l && p.tx == tx))

/-- The causes of txcode (02 Table 2.7). -/
def txConflict : Nat := 1
def txLockLost : Nat := 2
def txCapacity : Nat := 3
def txExplicit : Nat := 4
def txPreempt : Nat := 5
def txRevoked : Nat := 6

/-- A doomed transaction discards its pending lines; the first cause is kept (07 R153). -/
def Squad.doom (q : Squad) (cause : Nat) : Squad :=
  { q with doomed := q.doomed.or (some cause), pending := q.pending.filter (fun p => !p.tx) }

end Sys2Proof.Machine
end

