-- ==== Sys2Proof/Machine/Home.lean ====
section
/-! DEFINITION. A home at work on one line (12 Tables 12.3, 12.4, R253, R254, R256, R258, R259): what a request meets, its wait list, grants,
collapses with other packages, publication events, acknowledgements. Instructions of squads and MCCs stand in the same wait lists as
the requests of first-level caches. -/

namespace Sys2Proof.Machine

/-! ### Acknowledgements -/

/-- A write is acknowledged: its issuer's counter falls (02 R47). -/
def State.ackMsg (s : State) (id : Nat) : State :=
  match s.msgs.find? (·.id == id) with
  | none => s
  | some m =>
    let s : State := { s with msgs := s.msgs.filter (·.id != id) }
    let s := match m.far with
      | some (p, q) => s.toPort p q none (if m.add.isSome then .sum m.st else .ack)
      | none => s
    let s := s.modSquads (fun q => some q.id == m.squad) (fun q => { q with ack := q.ack - 1 })
    let s := s.modMccs (fun c => some c.id == m.mcc) (fun c => { c with ack := c.ack - 1 })
    let lower : Cmd → Cmd := fun c => { c with wait := c.wait - 1 }
    { s with cmds := modAll (fun c => some c.id == m.cmd) lower s.cmds }

/-! ### What a request needs -/

/-- What an access asks of a line: a read of the version chain, the line shared, a publication event at its home, the line alone, an
update-only copy. -/
inductive Need where
  | read | shared | event | excl
  | upd (op ty : Nat)
deriving DecidableEq, Repr

/-- What a request in a wait list needs; an instruction says so itself when it is its turn. -/
def HomeReq.need : HomeReq → Need
  | .shared _ => .shared
  | .excl _ => .excl
  | .upd _ op ty _ => .upd op ty
  | .event _ => .event
  | .read _ _ => .shared
  | .collapse _ => .shared
  | .access _ => .read
  | .inval _ _ _ => .read
  | .recallA _ _ => .read

/-- Must a grant of another package for the line's page be recalled first (12 Table 12.4)? -/
def Need.clashes (n : Need) (g : Grant) : Bool :=
  match n with
  | .read => false
  | .shared => g.kind == 1
  | .event => g.kind == 1
  | .excl => true
  | .upd op ty => g.kind == 1 || (g.kind == 2 && (g.op != op || g.ty != ty))

/-- Does a grant of this package allow it on a line of another member (12 Table 12.4)? -/
def Need.allowedBy (n : Need) (g : Grant) : Bool :=
  match n with
  | .read => true
  | .event => g.kind == 1
  | .shared => g.kind != 2
  | .excl => g.kind == 1
  | .upd op ty => g.kind == 2 && g.op == op && g.ty == ty

/-- The kind of grant to ask for. -/
def Need.kind : Need → Nat
  | .excl => 1
  | .event => 1
  | .upd _ _ => 2
  | _ => 0

/-- A grant of another package that stands in the way of a request for a line homed here. -/
def State.clash (s : State) (line : Nat) (n : Need) (g : Grant) : Bool :=
  homePkg line == s.pkgIdx && g.page == pageOf line && g.pkg != s.pkgIdx && n.clashes g

/-- Other packages that hold the line's page under an update-only grant (12 R258). -/
def State.farUpd (s : State) (line : Nat) : List Nat :=
  if homePkg line = s.pkgIdx then
    sortNat ((s.grants.filter (fun g => g.page == pageOf line && g.pkg != s.pkgIdx && g.kind == 2)).map (·.pkg))
  else []

/-- Does this package hold a grant of the line's page that allows a need (12 R259)? -/
def State.pageGranted (s : State) (n : Need) (line : Nat) : Bool :=
  s.grants.any (fun g => g.page == pageOf line && g.pkg == s.pkgIdx && !g.recalled && n.allowedBy g)

/-- Does the proxy hold what a need takes of a line of another member: its current value in an ownership entry or a copy that is not stale; for
an update-only copy, the epoch that the home has granted? A read at a stamp says itself what serves it. -/
def State.hasData (s : State) (n : Need) (line : Nat) : Bool :=
  match n with
  | .read => true
  | .upd op ty => s.home.any (fun h => h.line == line && h.st == .ha && h.op == op && h.ty == ty)
  | _ => s.l1.any (fun e => e.line == line && !e.moving) || s.copies.any (fun c => c.line == line && c.stale.isNone)

/-- May the package touch a line for a need: it is homed here, or the page's grant allows it and its data is here (12 R259)? -/
def State.granted (s : State) (n : Need) (line : Nat) : Bool :=
  homePkg line == s.pkgIdx || (s.pageGranted n line && s.hasData n line)

/-- Does a need end the line's epoch? -/
def State.ends (s : State) (n : Need) (line : Nat) : Bool :=
  match s.epoch line, n with
  | none, _ => false
  | some _, .read => false
  | some h, .upd op ty => h.op != op || h.ty != ty
  | some _, _ => true

/-- Does a need make a publication event at the line's home at once: its own, a collapse, the departure of written bytes? -/
def State.lands (s : State) (n : Need) (line : Nat) : Bool :=
  n == .event || s.ends n line || (n != .read && s.l1.any (fun e => e.line == line && e.st == .m && !e.written.isEmpty))

/-! ### The wait list of a line (12 R254) -/

/-- Is a squad, MCC or command in a line's wait list still waiting there? -/
def State.waitsFor (s : State) (line agent : Nat) : Bool :=
  s.allSquads.any (fun q => q.id == agent && q.inLine == some line) || s.allMccs.any (fun m => m.id == agent && m.inLine == some line) ||
    s.cmds.any (·.id == agent)

/-- The wait list of a line without those who no longer wait. -/
def State.queueAt (s : State) (line : Nat) : List HomeReq :=
  (s.waitsAt line).filter (fun r => match r with | .access a => s.waitsFor line a | _ => true)

/-- Does a need of this package end an epoch that takes in other packages: their update-only grants, or a home that is another's (12 R258)? -/
def State.endsFar (s : State) (n : Need) (line : Nat) : Bool :=
  s.ends n line && (homePkg line != s.pkgIdx || !(s.farUpd line).isEmpty)

/-- Does an agent's access to a line wait, locks apart: a transient state, a grant to be recalled, a collapse that takes in other
packages, a full version store, or an earlier request that waits (12 R254, R258, R260, 19 R318)? -/
def State.held (s : State) (agent : Nat) (n : Need) (line : Nat) : Bool :=
  s.transient line || s.grants.any (s.clash line n) ||
    s.endsFar n line || (s.lands n line && s.stalls line) ||
    (match s.queueAt line with
     | [] => false
     | .access a :: _ => a != agent
     | _ => true)

/-- Does it wait: so, or by the lock of another committer? -/
def State.barred (s : State) (agent : Nat) (n : Need) (line : Nat) : Bool :=
  s.held agent n line || s.locks.any (fun k => k.line == line && k.squad != agent)

/-- The first line of a list whose page this package holds no grant for, and the first that is barred. -/
def State.lacking (s : State) (n : Need) (lines : List Nat) : Option Nat := lines.find? (fun l => !s.granted n l)
def State.barredOf (s : State) (n : Need) (lines : List Nat) : Option Nat := lines.find? (s.barred s.agentNow n)

/-- May the issuer's access to lines be made now? -/
def State.open_ (s : State) (n : Need) (lines : List Nat) : Bool := (s.lacking n lines).isNone && (s.barredOf n lines).isNone

/-- Is a request of this package to a home open for an update-only copy of a line? -/
def State.asksA (s : State) (line : Nat) : Bool :=
  s.reqs.any (fun r => match r.body with | .upd l _ _ _ => l == line | _ => false)

/-- The package asks a line's home for the page's grant, and under it for the line: its current value, or state A with the next stamp of the
agent that asks as first-A stamp (11 R234, 12 R259). -/
def State.ask (s : State) (n : Need) (line : Nat) : State :=
  let home := homePkg line
  if !s.pageGranted n line then
    (match n with
     | .upd op ty => s.demandOnce home 0 (.grant (pageOf line) 2 op ty)
     | _ => s.demandOnce home 0 (.grant (pageOf line) n.kind 0 0))
  else
    match n with
    | .upd op ty => if s.asksA line then s else s.ownStamp.2.demand home 0 (.upd line op ty s.ownStamp.1)
    | _ => s.demandOnce home (s.clNow / 32) (.read line none)

/-- Does a place read a line of another member from a copy: in its L1 or its die's L2, of the version at a stamp, or of a manual line? -/
def State.reachesData (s : State) (place die line : Nat) (man : Bool) (t : Stamp) : Bool :=
  homePkg line == s.pkgIdx ||
    (if man then s.manual.any (fun m => (m.place == place || m.place == 600 + die) && m.line == line)
     else s.servesAt place line t || s.servesAt (600 + die) line t)

/-- The first read of a line of another member that no copy serves at a place or in a die's L2: line, is it manual, stamp. -/
def State.farLack (s : State) (place die : Nat) (rd : List (Nat × Bool × Stamp)) : Option (Nat × Bool × Stamp) :=
  rd.find? (fun r => !s.reachesData place die r.1 r.2.1 r.2.2)

/-- A reader notes that it asks for a line of another member, at a stamp or for the newest version. -/
def noteForced (line : Nat) (t : Option Stamp) (l : List (Nat × Option Stamp × Option Stamp)) : List (Nat × Option Stamp × Option Stamp) :=
  if l.any (fun e => e.1 == line && (e.2.1 == t || e.2.2.isSome)) then l else (line, t, none) :: l

/-- The collapse that its read has forced there has a stamp. -/
def setForced (line : Nat) (t : Option Stamp) (st : Stamp) (l : List (Nat × Option Stamp × Option Stamp)) :
    List (Nat × Option Stamp × Option Stamp) :=
  l.map (fun e => if e.1 == line && e.2.1 == t && e.2.2.isNone then (line, t, some st) else e)

/-- The stamps of the collapses that a reader's reads have forced at other members, by line. -/
def forcedStamps (l : List (Nat × Option Stamp × Option Stamp)) : List (Nat × Stamp) := l.filterMap (fun e => e.2.2.map (fun st => (e.1, st)))

/-- The package asks a line's home for the version at a stamp, or for the bytes of a manual line; they come to a die's L2. -/
def State.askData (s : State) (die ctx line : Nat) (man : Bool) (t : Stamp) : State :=
  s.demandOnce (homePkg line) die (if man then .bytes line else .read line (some t)) ctx

/-- An agent leaves the wait lists it stands in. -/
def State.leaveLines (s : State) (agent : Nat) : State :=
  let keep : Home → Home := fun h => { h with waits := h.waits.filter (· != .access agent) }
  { s with home := modAll (fun h => h.waits.contains (.access agent)) keep s.home }

/-! ### Serving a line (12 Table 12.3) -/

/-- The directory entry of a line; HI is HS without sharers. -/
def State.homeOf (s : State) (line : Nat) : Home := (s.home.find? (·.line == line)).getD (homeAt line .hs 0 [])

/-- Is the entry in a stable state with no grant outstanding? -/
def Home.stable (h : Home) : Bool := (h.st == .hs || h.st == .ho || h.st == .ha) && h.serving.isNone

/-- The cache number under which the home serves a request of another package: 20000 + its index + 64 × the request. -/
def farCache (pkg req : Nat) : Nat := 20000 + pkg + 64 * req

/-- The package of a requester, and the request that it made. -/
def State.pkgOfCache (s : State) (c : Nat) : Nat := if 20000 ≤ c then (c - 20000) % 64 else s.pkgIdx
def reqOfCache (c : Nat) : Nat := (c - 20000) / 64

/-- The package that a request in a wait list comes from, whose own grants do not stand in its way; an addition, which reads the line's current
value, meets every grant. -/
def State.reqPkg (s : State) (r : HomeReq) : Nat :=
  match r with
  | .shared c => s.pkgOfCache c
  | .excl c => s.pkgOfCache c
  | .upd c _ _ _ => s.pkgOfCache c
  | .read c _ => s.pkgOfCache c
  | .event id => match (s.msgs.find? (fun m => m.id == id && m.add.isNone)).bind (·.far) with | some p => p.1 | none => s.pkgIdx
  | _ => s.pkgIdx

/-- A grant of a package other than the one that makes a request stands in its way. -/
def State.clashOf (s : State) (line : Nat) (n : Need) (pkg : Nat) (g : Grant) : Bool := s.clash line n g && g.pkg != pkg

/-- Does a request of a package for the line wait at its home? -/
def State.homeBusy (s : State) (line : Nat) (n : Need) (pkg : Nat) : Bool :=
  !(s.homeOf line).stable || s.locks.any (·.line == line) || s.notes.any (·.line == line) || s.grants.any (s.clashOf line n pkg)

/-- The dies of the package whose filters record the line (12 R255). -/
def State.diesOf (s : State) (line : Nat) : List Nat := sortNat ((s.filters.filter (·.2.1 == line)).map (·.1))

/-- Does a cache other than c hold the line in S, E or M? -/
def State.othersHold (s : State) (line c : Nat) : Bool := s.l1.any (fun e => e.line == line && e.cache != c && !e.moving)

/-- The version of a line at a stamp goes to another package as data, or with none its newest (11 R222, 12 R251). -/
def State.sendData (s : State) (line c : Nat) (t : Option Stamp) : State :=
  let v := s.copyAt 0 line (t.getD (s.newest line))
  s.toPort (s.pkgOfCache c) (reqOfCache c) none
    (.data line v.vs v.stale (s.relstamp line) ((List.range 128).map (fun i => s.byteAt (some v.vs) (line * 128 + i))))

/-- A grant goes out; the home waits for its acknowledgement. The entry records the packages with copies. Another package gets the line's
current value, or state A, in an answer. -/
def State.grantTo (s : State) (h : Home) (r : HomeReq) : State :=
  match r with
  | .shared c =>
    if 20000 ≤ c then (s.setHome { h with st := .hs, owner := 0, serving := some r }).sendData h.line c none
    else if s.othersHold h.line c || !s.alone h.line then s.setHome { h with st := .hs, serving := some r }
    else s.setHome { h with st := .ho, owner := c, serving := some r }
  | .excl c => s.setHome { h with st := .ho, owner := c, serving := some r }
  | .upd c op ty fa =>
    let k : Home := if h.st = .ha then { h with serving := some r, pkgs := sortNat (s.pkgOfCache c :: h.pkgs) }
      else { h with st := .ha, op := op, ty := ty, firstA := fa, pkgs := [s.pkgOfCache c], serving := some r }
    let s := s.setHome k
    if 20000 ≤ c then s.toPort (s.pkgOfCache c) (reqOfCache c) none (.updGrant h.line op ty k.firstA) else s
  | _ => s

/-- A read that has forced a collapse is served from the collapsed version, be its package another (11 R236). -/
def HomeReq.past : HomeReq → HomeReq
  | .read c t => if 20000 ≤ c then .shared c else .read c t
  | r => r

/-- The dies of this package that hold update-only copies of a line. -/
def State.updDies (s : State) (line : Nat) : List Nat :=
  (List.range 4).filter (fun d => s.acopies.any (fun c => c.line == line && c.cache / 128 == d))

/-- A marker of each die without copies, or a partial, goes to a line's home, which acknowledges it (12 R258, 20 R325). -/
def State.sendPart (s : State) (h : Home) (die : Nat) (words : List (Nat × D)) : State :=
  s.demand (homePkg h.line) 0 (.part h.line die h.op h.ty (words.map (·.2)))

/-- A directory entry whose epoch is over. -/
def Home.over (h : Home) : Home := { h with st := .hs, owner := 0, pkgs := [], acks := [], parts := [], serving := none }

/-- Collapse recalls go out to every die that holds copies, in this package and in every package that holds the page's update-only
grant (12 R258). The proxy of a line of another member does so when the home recalls its copies; a request of its own that ends the epoch
waits, and asks the home for the line, which collapses there. -/
def State.startCollapse (s : State) (h : Home) (r : HomeReq) : State :=
  if homePkg h.line = s.pkgIdx then
    let far := s.farUpd h.line
    far.foldl (fun s p => s.demand p 0 (.collapse h.line)) (s.setHome { h with
      st := .hac, serving := some r.past
      acks := (s.updDies h.line).map (fun d => (s.pkgIdx, d)) ++ far.flatMap (fun p => (List.range 4).map (fun d => (p, d))) })
  else
    match r with
    | .recallA _ _ =>
      let s := ((List.range 4).filter (fun d => !(s.updDies h.line).contains d)).foldl (fun s d => s.sendPart h d []) s
      if (s.updDies h.line).isEmpty then s.setHome h.over
      else s.setHome { h with st := .hac, serving := some r, acks := (s.updDies h.line).map (fun d => (s.pkgIdx, d)) }
    | _ => (s.setHome { h with waits := r :: h.waits }).demandOnce (homePkg h.line) 0 (.read h.line none)

/-- Grants that `p` admits are recalled: each holder is told once; the epochs of a page under an update-only grant collapse, with the stamp
of agent 255 of the line's home die where nobody else is named (11 R236, 12 R260; log 64). -/
def State.recallGrants (s : State) (p : Grant → Bool) : State :=
  let gs := s.grants.filter (fun g => p g && !g.recalled)
  let call_ : Grant → Grant := fun g => { g with recalled := true }
  let s : State := { s with grants := modAll p call_ s.grants }
  let s := gs.foldl (fun s g => s.demandOnce g.pkg 0 (.recall g.page)) s
  let hit (h : Home) : Bool := h.st == .ha && homePkg h.line == s.pkgIdx && gs.any (fun g => g.kind == 2 && g.page == pageOf h.line)
  (s.home.filter hit).foldl (fun s h =>
    let r : HomeReq := .collapse (homeDie h.line * 256 + 255)
    if h.serving.isNone then s.startCollapse h r else s.setHome { h with waits := r :: h.waits }) s

/-- The grants that stand in the way of a request are recalled (12 R260). -/
def State.callBack (s : State) (line : Nat) (n : Need) (pkg : Nat) : State := s.recallGrants (s.clashOf line n pkg)

/-- What a publication event writes: its bytes, or the sum of its addend and the line's current word (09 R189). -/
def State.eventBytes (s : State) (m : Msg) : List (Nat × Byte) :=
  match m.add with
  | some (o, v) => numbered o (bytesLE 8 (s.curNat (m.line * 128 + o) 8 + v.toNat))
  | none => m.bytes

/-- The stamp of a publication event: the one that it carries; that of an addition lies above every version of its line, or it is the next such
of agent 255 of the line's home die (log 64). -/
def State.eventStamp (s : State) (m : Msg) : Stamp × State :=
  if m.add.isNone || (s.newest m.line).lt m.st then (m.st, s) else s.stampOver (homeDie m.line) 255 [m.line]

/-- A publication event takes effect at its home, or stalls on a full version store (19 R318). -/
def State.publishAt (s : State) (h : Home) (id : Nat) : State :=
  match s.msgs.find? (·.id == id) with
  | none => s
  | some m =>
    if s.stalls m.line then
      let s := if m.waiting then s else s.setCsr 0 0x809D (s.csr 0 0x809D + 1)
      let stall : Msg → Msg := fun k => { k with waiting := true }
      ({ s with msgs := modAll (·.id == id) stall s.msgs } : State).setHome { h with waits := .event id :: h.waits }
    else
      let e := s.eventStamp m
      let s := (((e.2.land m.line e.1 (s.eventBytes m) m.ctx).carryPoison m.line (.msg id) .home e.1).reclaim m.line).noteFull
      let done : Msg → Msg := fun k => { k with landed := true, waiting := false, st := e.1 }
      let s : State := { s with
        msgs := modAll (·.id == id) done s.msgs
        relstamps := if m.add.isSome then ins s.relstamps m.line e.1 else s.relstamps }
      let far := s.farHolders m.line
      let acks := (s.diesOf m.line).map (fun d => (s.pkgIdx, d)) ++ far.map (fun p => (p, 0))
      if acks.isEmpty then s.ackMsg id else (s.setHome { h with st := .hv, acks := acks, serving := some (.event id) }).invalFar m.line e.1 far

/-- The version copies of a line are stale from a stamp on (12 R251). -/
def State.staleFrom (s : State) (line : Nat) (st : Stamp) : State :=
  let cut : VCopy → VCopy := fun c => { c with stale := some ((c.stale.getD st).min st) }
  { s with copies := modAll (fun c => c.line == line && c.vs.lt st) cut s.copies }

/-- An event's invalidation reaches the proxy of its line, which relays it to the filters that record the line and answers when they have
(12 R255, R259). -/
def State.invalHere (s : State) (h : Home) (pkg req : Nat) (st : Stamp) : State :=
  let s := s.staleFrom h.line st
  if h.st = .hs ∧ !(s.diesOf h.line).isEmpty then
    s.setHome { h with st := .hv, acks := (s.diesOf h.line).map (fun d => (s.pkgIdx, d)), serving := some (.inval pkg req st) }
  else s.toPort pkg req none (.invalDone h.line)

/-- Does a plain read at a stamp find its line in an epoch that it ends (11 R236)? -/
def State.readEnds (s : State) (line : Nat) (t : Stamp) : Bool :=
  match s.epoch line with
  | some h => !(s.versioned line && t.lt h.firstA)
  | none => false

/-- A plain read is served from the version chain: by a fill of a cache here, or by data for another package. -/
def State.readAt (s : State) (c line : Nat) (t : Stamp) : State :=
  if 20000 ≤ c then s.sendData line c (some t) else s.fillCopy c line t

/-- The home takes one request of a line that is not busy. A request for A that finds the line in HS or HO, for which Table 12.3 has no
row, goes through HSX or HOR as an exclusive request does (log 52). -/
def State.serve (s : State) (line : Nat) (r : HomeReq) : State :=
  let h := s.homeOf line
  match h.st, r with
  | .ha, .upd _ op ty _ => if h.op = op ∧ h.ty = ty then s.grantTo h r else s.startCollapse h r
  | _, .inval p q st => s.invalHere h p q st
  | .ha, .read c t => if s.readEnds line t then s.startCollapse h r else s.readAt c line t
  | .ha, _ => s.startCollapse h r
  | _, .read c t => s.readAt c line t
  | _, .recallA _ _ => (List.range 4).foldl (fun s d => s.sendPart h d []) s
  | _, .collapse _ => s
  | _, .access _ => s
  | .ho, _ => s.setHome { h with st := .hor, serving := some r }
  | _, .event id => s.publishAt h id
  | _, .shared _ => s.grantTo h r
  | _, .excl c =>
    if s.othersHold line c then s.setHome { h with st := .hsx, serving := some r, acks := (s.diesOf line).map (fun d => (s.pkgIdx, d)) }
    else s.grantTo h r
  | _, .upd c _ _ _ =>
    if s.othersHold line c then s.setHome { h with st := .hsx, serving := some r, acks := (s.diesOf line).map (fun d => (s.pkgIdx, d)) }
    else s.grantTo h r

/-- An entry that says nothing leaves the directory. -/
def State.tidyHome (s : State) (line : Nat) : State :=
  { s with home := s.home.filter (fun h => !(h.line == line && h.stable && h.waits.isEmpty &&
      (match h.st with
       | .hs => !s.l1.any (fun e => e.line == line)
       | .ho => !s.l1.any (fun e => e.line == line && e.cache == h.owner)
       | _ => false))) }

/-- Waiting requests are served in order of arrival while the line is stable; an instruction's access takes its turn when its agent
issues. -/
def State.serveNext (line : Nat) : Nat → State → State
  | 0, s => s.tidyHome line
  | n + 1, s =>
    match s.queueAt line with
    | [] => if s.homeBusy line .read s.pkgIdx then s else ((s.setHome { s.homeOf line with waits := [] }).tidyHome line)
    | .access _ :: _ => s
    | r :: w =>
      if s.homeBusy line r.need (s.reqPkg r) then s.callBack line r.need (s.reqPkg r)
      else State.serveNext line n ((s.setHome { s.homeOf line with waits := w }).serve line r)

/-- Serve every waiting request that can be served. -/
def State.serveAll (s : State) (line : Nat) : State := State.serveNext line ((s.homeOf line).waits.length + 1) s

/-- A request reaches the home: it waits when the line is busy. -/
def State.arrive (s : State) (line : Nat) (r : HomeReq) : State :=
  let h := s.homeOf line
  let s := if h.waits.contains r then s else s.setHome { h with waits := h.waits ++ [r] }
  s.serveAll line

/-- What the true home of a line asks of its proxy goes before what waits there, which may itself wait for that home (12 R258, R259). -/
def State.arriveFirst (s : State) (line : Nat) (r : HomeReq) : State :=
  (s.setHome { s.homeOf line with waits := r :: (s.homeOf line).waits }).serveAll line

/-! ### Instructions in a wait list -/

/-- An agent's access joins the wait list of a line, once, and stands in no other. -/
def State.joinLine (s : State) (agent line : Nat) : State :=
  if (s.waitsAt line).contains (.access agent) then s
  else
    let s := s.leaveLines agent
    s.setHome { s.homeOf line with waits := s.waitsAt line ++ [.access agent] }

/-- The issuer stands in the wait list of a line. -/
def State.standIn (s : State) (line : Nat) : State :=
  if s.isM then s.modMcc (fun m => { m with inLine := some line }) else s.modSq (fun q => { q with inLine := some line })

/-- What an agent whose stamps have source `src` in the package does about a line that bars its access: it joins the wait list, grants in
its way are recalled, a collapse with other packages begins, and a wait for room in the version store is counted (19 R318). -/
def State.awaitAs (s : State) (agent src : Nat) (n : Need) (line : Nat) : State :=
  let first := !(s.waitsAt line).contains (.access agent)
  let s := if first && s.lands n line && s.stalls line then s.setCsr 0 0x809D (s.csr 0 0x809D + 1) else s
  let s := (s.callBack line n s.pkgIdx).joinLine agent line
  if !s.endsFar n line then s
  else if homePkg line != s.pkgIdx then s.demandOnce (homePkg line) 0 (.read line none)
  else if !s.homeBusy line n s.pkgIdx && (s.queueAt line).head? == some (.access agent) then
    s.startCollapse (s.homeOf line) (.collapse src)
  else s

/-- The agent whose stamps the issuer takes: 256 die + agent (11 Table 11.1). -/
def State.stampAgent (s : State) : Nat :=
  if s.isM then s.mcc.cl / 32 * 256 + 128 + s.mcc.cl % 32 else s.sq.cache / 128 * 256 + s.sq.cache % 128

/-- The issuer's access waits for a line. -/
def State.await (s : State) (n : Need) (line : Nat) : State :=
  (s.standIn line).awaitAs s.agentNow s.stampAgent n line

end Sys2Proof.Machine
end

