-- ==== Sys2Proof/Machine/Sync.lean ====
section
/-! DEFINITION. What instructions do after a wait and what they meet there (10 R213 to R215): engine timelines, barrier
objects, hardware and level barriers, channels, huddles, the queue unit, roles, activation tables; then `runOp`, one
remaining part of an instruction, and `runList`, all of them up to the first wait. -/

namespace Sys2Proof.Machine

/-! ### Timelines (09 R178, R179) -/

/-- An unused timeline. -/
def Timeline.zero : Timeline := ⟨0, 0, Stamp.zero, []⟩

/-- The place of a selector in a timeline set, for a CU position. -/
def tlPlace (sel pos : Nat) : Nat :=
  if sel < 16 then sel else if sel = 0x10 then 16 + pos else if sel = 0x11 then 20 + pos else 24

/-- A timeline of a context on a cluster; a set that does not exist has zeros. -/
def State.timeline (s : State) (ctx cl place : Nat) : Timeline :=
  match s.tlsets.find? (fun t => t.ctx == ctx && t.cl == cl) with
  | some t => nth Timeline.zero t.tls place
  | none => Timeline.zero

/-- Make the timeline set of a context on a cluster when it holds none. -/
def State.makeSet (s : State) (ctx cl : Nat) : State :=
  if s.tlsets.any (fun t => t.ctx == ctx && t.cl == cl) then s
  else { s with tlsets := s.tlsets ++ [⟨ctx, cl, List.replicate 25 Timeline.zero⟩] }

/-- Change a timeline. -/
def State.modTl (s : State) (ctx cl place : Nat) (f : Timeline → Timeline) : State :=
  let s := s.makeSet ctx cl
  let g : TlSet → TlSet := fun t => { t with tls := t.tls.set place (f (nth Timeline.zero t.tls place)) }
  { s with tlsets := modAll (fun t => t.ctx == ctx && t.cl == cl) g s.tlsets }

/-- done rises over every command above it that has completed. -/
def Timeline.rise : Nat → Timeline → Timeline
  | 0, t => t
  | k + 1, t =>
    match get? t.fin (t.done + 1) with
    | some st => Timeline.rise k { t with done := t.done + 1, stamp := t.stamp.max st, fin := t.fin.filter (fun p => p.1 != t.done + 1) }
    | none => t

/-- Command n completes with a stamp. -/
def Timeline.finish (t : Timeline) (n : Nat) (st : Stamp) : Timeline :=
  Timeline.rise (t.fin.length + 1) { t with fin := ins t.fin n st }

/-- The position of the issuing squad's CU in its cluster. -/
def State.posNow (s : State) : Nat := s.sq.cache % 4

/-- The number that the next command of a context takes. -/
def State.issueNo (s : State) (place : Nat) : Nat := (s.timeline s.ctxNow s.clNow place).issued + 1

/-- A command takes its number and joins the outstanding commands (09 R179, R182). -/
def State.issueCmd (s : State) (kind : CmdKind) (place : Nat) (group : List W) (mode : Nat) (two : Bool) (comp compEa : Nat)
    (addend : W) (key : Nat) (lines : List Nat) : State :=
  let n := s.issueNo place
  let f := s.fresh
  let s := f.2.modTl s.ctxNow s.clNow place (fun t => { t with issued := n })
  let c : Cmd :=
    { id := f.1, kind := kind, ctx := s.ctxNow, cl := s.clNow, sel := place, n := n
      cache := if s.isM then 0 else s.sq.cache
      team := if s.isM then none else some s.sq.team
      squad := if s.isM then none else some s.sq.id
      launch := s.launchNow, tide := s.tideNow, group := group, mode := mode, two := two, comp := comp, compEa := compEa
      addend := addend, key := key, lines := lines, ticket := none, walk := none, failed := none, fin := none, wait := 0, got := [], forced := [] }
  { s with cmds := s.cmds ++ [c], absent := sortNat (s.absent ++ lines) }

/-! ### Counters and objects (09 R187, R188, R190, R191) -/

/-- Raise the arrival stamp of a CU. -/
def State.raiseArrival (s : State) (cache : Nat) (st : Stamp) : State :=
  { s with arrival := ins s.arrival cache (((get? s.arrival cache).getD Stamp.zero).max st) }

/-- An addition to a 64-bit arrival counter. -/
def State.addCounter (s : State) (key addend : Nat) (st : Stamp) : State :=
  (s.scrWrite key (bytesLE 8 (natLE (s.scrBytes key 8) + addend))).raiseArrival (key / 2 ^ 19) st

/-- Arrive of 09 R191. -/
def BarObj.arrive (o : BarObj) (st : Stamp) : BarObj :=
  let g := o.gather.max st
  if o.arrived + 1 = o.expected then
    { o with arrived := 0, phase := o.phase + 1, last := g, gather := Stamp.zero, waiters := 0 }
  else { o with arrived := o.arrived + 1, gather := g }

/-- A squad that waits in the part that `p` admits has been released with a stamp: that part becomes its observation (09 R191, R194). -/
def Squad.letGo (p : MOp → Bool) (g : Stamp) (q : Squad) : Squad :=
  match q.todo with
  | m :: r => if p m then { q with todo := .observe g :: r } else q
  | [] => q

/-- The same of an MCC. -/
def Mcc.letGo (p : MOp → Bool) (g : Stamp) (m : Mcc) : Mcc :=
  match m.todo with
  | o :: r => if p o then { m with todo := .observe g :: r } else m
  | [] => m

/-- Release the waiters among the squads that `who` admits, those of saved contexts included. -/
def State.letGo (s : State) (who : Squad → Bool) (p : MOp → Bool) (g : Stamp) : State :=
  let c : Ctx → Ctx := fun c => { c with saved := { c.saved with squads := modAll who (Squad.letGo p g) c.saved.squads } }
  { s.modSquads who (Squad.letGo p g) with ctxs := s.ctxs.map c }

/-- Does a part wait past a phase of the object at a key? -/
def MOp.waitsAt (key : Nat) (ph : W) (m : MOp) : Bool :=
  match m with
  | .waitObj _ k p => k == key && p == ph
  | _ => false

/-- An arrival at an object: when it completes the phase, every waiter, squad or MCC, is released with the phase's stamp (09 R191, R194). -/
def State.arriveAt (s : State) (o : BarObj) (st : Stamp) : State :=
  let n := o.arrive st
  let s : State := { s with objs := upsert (fun p => p.key == o.key) n s.objs }
  if n.phase = o.phase then s
  else (s.letGo (fun _ => true) (MOp.waitsAt o.key o.phase) n.last).modMccs (fun _ => true) (Mcc.letGo (MOp.waitsAt o.key o.phase) n.last)

/-- The object at a key. -/
def State.objOf (s : State) (key : Nat) : Option BarObj := s.objs.find? (·.key == key)

/-- Replace an object. -/
def State.setObj (s : State) (o : BarObj) : State := { s with objs := upsert (fun p => p.key == o.key) o s.objs }

/-! ### Hardware and level barriers (09 R192 to R194) -/

/-- A barrier without arrivals. -/
def HwBar.zero : HwBar := ⟨0, 0, 0, Stamp.zero, Stamp.zero⟩

/-- Completion of a phase. -/
def HwBar.next (b : HwBar) : HwBar := { b with phase := b.phase + 1, arrived := 0, count := 0, gather := Stamp.zero, last := b.gather }

/-- Is the phase complete: enough arrivals, or with a count of 0 every squad still alive? -/
def HwBar.full (b : HwBar) (alive : Nat) : Bool :=
  if b.arrived = 0 then false
  else if b.count = 0 then decide (alive ≤ b.arrived) else decide (b.count ≤ b.arrived)

/-- Complete the phase when it is full. -/
def HwBar.test (b : HwBar) (alive : Nat) : HwBar := if b.full alive then b.next else b

/-- The teams field of a declared level of a launch; none for an undeclared one. -/
def Hdr.levelTeams (h : Hdr) (level : Nat) : Option (Nat × Nat) :=
  if level < 3 then none else h.levels[level - 3]?

/-- Has a team of a launch exited: it was placed in this package, and is neither resident nor saved? -/
def State.teamGone (s : State) (l : Launch) (num : Nat) : Bool :=
  decide (num < l.next) && !l.away.any (·.1 == num) && !s.teams.any (fun t => t.launch == l.id && t.num == num && !t.exited) &&
    !s.ctxs.any (fun c => c.saved.teams.any (fun t => t.launch == l.id && t.num == num))

/-- The squads that wait past the phase of a level barrier are released (09 R194). -/
def State.releaseLevel (s : State) (b : LvlBar) (g : Stamp) : State :=
  let nums := match s.launchOf b.launch with
    | some l => (match l.hdr.levelTeams b.level with | some (_, t) => (List.range t).map (b.part * t + ·) | none => [])
    | none => []
  let teams := (s.liveTeams.filter (fun u => u.launch == b.launch && nums.contains u.num)).map (·.id)
  s.letGo (fun q => teams.contains q.team) (fun m => m == .waitLvl b.level b.bar.phase) g

/-- The teams of the instance of a level barrier. -/
def LvlBar.nums (b : LvlBar) (l : Launch) : List Nat :=
  match l.hdr.levelTeams b.level with
  | some (_, t) => (List.range t).map (b.part * t + ·)
  | none => []

/-- How many teams of the instance have arrived or exited in this package. -/
def State.levelHere (s : State) (l : Launch) (b : LvlBar) : Nat :=
  ((b.nums l).filter (fun n => b.teams.contains n || s.teamGone l n)).length

/-- The member of lowest index among those that hold teams of the instance (20 R334). -/
def State.levelLead (s : State) (l : Launch) (b : LvlBar) : Nat :=
  ((l.away.filter (fun a => (b.nums l).contains a.1)).map (·.2)).foldl min s.pkgIdx

/-- The phase of a level barrier is complete: every team of the instance has arrived or exited here, or by the reports of other members. -/
def State.levelFull (s : State) (l : Launch) (b : LvlBar) : Bool :=
  !(b.teams.isEmpty && b.far.isEmpty) && (l.hdr.levelTeams b.level).isSome &&
    decide ((b.nums l).length ≤ s.levelHere l b + (b.far.map (·.2)).foldl (· + ·) 0)

/-- Test the level barriers of a launch (09 R193): a phase that completes releases its waiters here, and each member that has reported is told
with G (20 R334). -/
def State.testLevels (s : State) (l : Launch) : State :=
  let full := s.lvls.filter (fun b => b.launch == l.id && s.levelFull l b)
  let next : LvlBar → LvlBar := fun b => { b with bar := b.bar.next, teams := [], far := [] }
  full.foldl (fun s b =>
    b.far.foldl (fun s f => s.demand f.1 0 (.barDone b.launch b.level b.part b.bar.phase b.bar.gather)) (s.releaseLevel b b.bar.gather))
    { s with lvls := modAll full.contains next s.lvls }

/-- Teams whose arrivals at a level are complete join its barrier. -/
def State.joinLevels (s : State) (u : Team) : State :=
  match s.launchOf u.launch with
  | none => s
  | some l =>
    let s := (List.range 5).foldl (fun s i =>
      match l.hdr.levelTeams (i + 3) with
      | none => s
      | some (_, t) =>
        if nth 0 u.lvArr i ≠ 0 ∧ u.alive.length ≤ nth 0 u.lvArr i then
          let s := s.modTeam u.id (fun v => { v with lvArr := v.lvArr.set i 0 })
          let add : LvlBar → LvlBar := fun b => { b with teams := u.num :: b.teams }
          { s with lvls := modAll (fun b => b.launch == u.launch && b.level == i + 3 && b.part == u.num / t) add s.lvls }
        else s) s
    s.testLevels l

/-- The barrier of a launch at a level and of one of its parts. -/
def State.lvlOf (s : State) (launch level part : Nat) : LvlBar :=
  (s.lvls.find? (fun b => b.launch == launch && b.level == level && b.part == part)).getD ⟨launch, level, part, HwBar.zero, [], []⟩

/-- The squad in focus arrives at a level barrier: its observed stamp is gathered, its team's arrivals at the level grow, and a team
whose arrivals are complete joins the barrier (09 R193). -/
def State.arriveLevel (s : State) (u : Team) (b : LvlBar) : State :=
  let b2 : LvlBar := { b with bar := { b.bar with gather := b.bar.gather.max s.obsNow } }
  let s : State := { s with lvls := upsert (fun c => c.launch == b.launch && c.level == b.level && c.part == b.part) b2 s.lvls }
  let add : Team → Team := fun v => { v with lvArr := v.lvArr.set (b.level - 3) (nth 0 v.lvArr (b.level - 3) + 1) }
  (s.modTeam u.id add).joinLevels (add u)

/-- A hardware barrier of a team is tested with a new value; a phase that completes releases its waiters (09 R192, R194). -/
def State.testBar (s : State) (u : Team) (bid : Nat) (b : HwBar) : State :=
  let n := b.test u.alive.length
  let s := s.modTeam u.id (fun v => { v with bars := v.bars.set bid n })
  if n.phase = b.phase then s else s.letGo (fun q => q.team == u.id) (fun m => m == .waitSync bid b.phase) n.last

/-- After a squad of a team has ended: barriers that waited only for it complete. -/
def State.recheck (s : State) (team : Nat) : State :=
  let s := match s.teams.find? (·.id == team) with
    | some u => (List.range 16).foldl (fun (s : State) (i : Nat) => if (nth HwBar.zero u.bars i).count = 0 then s.testBar u i (nth HwBar.zero u.bars i) else s) s
    | none => s
  match s.teams.find? (·.id == team) with
  | some u => s.joinLevels u
  | none => s

/-! ### Channels (09 R198) -/

/-- A channel of a cluster. -/
def State.chan (s : State) (cl num : Nat) : Chan :=
  match s.chans.find? (fun c => c.cl == cl && c.num == num) with
  | some c => c
  | none => ⟨cl, num, [], 0⟩

/-- Set a channel. -/
def State.setChan (s : State) (c : Chan) : State :=
  { s with chans := upsert (fun d => d.cl == c.cl && d.num == c.num) c s.chans }

/-- A channel has one reserved place less. -/
def Chan.unreserve (c : Chan) : Chan := { c with reserved := c.reserved - 1 }

/-- What an MCC that is pre-empted waited for counts it no more: it is no waiter of an object (09 R190), and the place that its msend.try
reserved is free again, which the manual does not say (log 106). -/
def State.dropWaits (s : State) (m : Mcc) : State :=
  m.todo.foldl (fun s o =>
    match o with
    | .waitObj _ k _ => (s.objOf k).elim s (fun o => s.setObj { o with waiters := o.waiters - 1 })
    | .sendDo ch _ true => s.setChan (s.chan m.cl ch).unreserve
    | _ => s) s

/-! ### Huddles (10 R207) -/

/-- The timer of a header in ticks. -/
def Hdr.timer (h : Hdr) : Nat := if h.huddle = 0 then 2000 else h.huddle * 250

/-- May a huddle take a record of this launch's header, arguments and context at this entry? -/
def Huddle.takes (h : Huddle) (s : State) (cl : Nat) (l : Launch) (entry : D) : Bool :=
  h.cl == cl && !h.closed && decide (s.now ≤ h.opened + h.timer) && h.ctx == l.ctx && h.entry == entry &&
    (match s.launchOf h.launch with
     | some k => k.hdr.va == l.hdr.va && k.args == l.args
     | none => false)

/-- Land one record in the lowest-numbered open huddle that takes it, else in the lowest free one; none when no huddle can. -/
def State.landRec (s : State) (cl : Nat) (l : Launch) (entry : D) (words : List W) (obs : Stamp) : Option State :=
  let r : Rec := ⟨words, obs, l.id⟩
  match argMin (·.num) (s.huddles.filter (fun h => h.takes s cl l entry)) with
  | some h =>
    let h2 := { h with recs := h.recs ++ [r], closed := decide (31 ≤ h.recs.length), closedAt := s.now }
    some { s with huddles := upsert (fun k => k.cl == cl && k.num == h.num) h2 s.huddles }
  | none =>
    match (List.range 256).find? (fun n => !s.huddles.any (fun h => h.cl == cl && h.num == n)) with
    | some n => some { s with huddles := s.huddles ++ [⟨cl, n, false, 0, l.ctx, entry, l.id, [r], s.now, l.hdr.timer⟩] }
    | none => none

/-! ### The queue unit (17 R275 to R278) -/

/-- A queue descriptor as read (17 Table 17.1). -/
structure QDesc where
  ring    : Nat
  lsize   : Nat
  cls     : Nat
  enabled : Bool
  fed     : Bool
  ctx     : Nat
deriving DecidableEq, Repr

/-- The physical address of descriptor 0. -/
def State.qtBase (s : State) : Nat :=
  (s.csr 0 0x8100).toNat / 4096 * 4096 + (s.csr 0 0x8101).toNat % 256 * 2 ^ 32

/-- Is the queue descriptor table enabled? -/
def State.qtOn (s : State) : Bool := (s.csr 0 0x8100).getLsbD 0

/-- The descriptor of a queue that can be judged: none while the table is disabled or the descriptor malformed. R275 does not say what a ring
address that is not aligned to 4 KiB does; the model counts it among the malformed (log 100). -/
def State.qdesc (s : State) (q : Nat) : Option QDesc :=
  let b := s.phys (s.qtBase + 32 * q) 32
  let n (o k : Nat) : Nat := natLE ((b.drop o).take k)
  if !s.qtOn then none
  else if n 8 1 < 4 ∨ 16 < n 8 1 ∨ 7 < n 9 1 ∨ 4 ≤ n 10 1 ∨ n 11 1 ≠ 0 ∨ 4096 ≤ n 12 2 ∨ n 14 18 ≠ 0 ∨ n 0 8 % 4096 ≠ 0 then none
  else some ⟨n 0 8, n 8 1, n 9 1, bit (n 10 1) 0, bit (n 10 1) 1, n 12 2⟩

/-- A queue's registers before anything used it. -/
def Queue.zero (q : Nat) : Queue := ⟨q, 0, 0, 0, false, false, 0, Stamp.zero, [], [], [], none, 0, 0, Stamp.zero⟩

/-- The registers of a queue. -/
def State.queueOf (s : State) (q : Nat) : Queue :=
  match s.queues.find? (·.num == q) with
  | some r => r
  | none => Queue.zero q

/-- Set a queue's registers. -/
def State.setQueue (s : State) (r : Queue) : State := { s with queues := upsert (fun p => p.num == r.num) r s.queues }

/-- A write performed at its home by the device or the queue unit: epochs collapse, owners depart, the event lands. -/
def State.landAtHome (s : State) (die agent key : Nat) (st : Stamp) (b : List Byte) : State :=
  let line := lineOf key
  let s := (s.collapse line die agent).2.recallOthers 10000 line false
  s.landed line st (numbered (key % 128) b) s.ctxNow

/-- May a context post to a queue now (17 R277)? -/
def State.postable (s : State) (ctx q : Nat) : Bool :=
  decide (q < 4096) && (match s.qdesc q with | some d => d.enabled && d.fed && d.ctx == ctx | none => false)

/-! ### Roles (02 R50, R51, 10 R212) -/

/-- A role record of the issuer's launch. -/
def State.roleRec (s : State) (n : Nat) : RoleRec :=
  match s.launchOf s.sq.launch with
  | some l => nth ⟨0, 1, 1, 0, false⟩ l.hdr.roles n
  | none => ⟨0, 1, 1, 0, false⟩

/-- Squads of the sub-partition of the issuing squad. -/
def State.mates (s : State) : List Squad := s.squads.filter (fun q => q.cache == s.sq.cache && q.sub == s.sq.sub)

/-- What retired squads of teams still resident hold of a sub-partition: slot and allotments (10 R217). -/
def State.heldOn (s : State) (cache sub : Nat) : List (Nat × Nat × Nat) :=
  (s.teams.filter (·.cache == cache)).flatMap (fun u => (u.held.filter (·.1 == sub)).map (·.2))

/-- Does a role wait: the sub-partition lacks registers of a file in which it grows, or a request that needs registers has waited
longer (02 R51, 10 R212)? -/
def State.roleFits (s : State) (r : RoleRec) : Bool :=
  let held := s.heldOn s.sq.cache s.sq.sub
  let v := (s.mates.map (·.vallot) ++ held.map (·.2.1)).foldl (· + ·) 0
  let u := (s.mates.map (·.sallot) ++ held.map (·.2.2)).foldl (· + ·) 0
  let waiting := s.mates.any (fun q => (match q.wake with | some w => w.kind == 9 | none => false) && decide (q.waitSince < s.sq.waitSince))
  let growV := decide (s.sq.vallot < 8 * r.vcode)
  let growS := decide (s.sq.sallot < 8 * r.scode)
  (!growV || decide (v + 8 * r.vcode ≤ 512)) && (!growS || decide (u + 8 * r.scode ≤ 1024)) && (!(growV || growS) || !waiting)

/-- Registers from `a` upward become zero, for those that a new allotment adds; dropped ones are zero from then on. -/
def cutRow {α : Type} (z : α) (old new : Nat) (l : List α) : List α :=
  (List.range l.length).map (fun i => if i < old ∧ i < new then nth z l i else z)

/-- The role switch (02 R51, 04 R97). -/
def State.takeRole (s : State) (n : Nat) : State :=
  let r := s.roleRec n
  s.modSq (fun q => { q with
    vregs := cutRow (List.replicate 32 0) q.vallot (8 * r.vcode) q.vregs
    sregs := cutRow 0 q.sallot (8 * r.scode) q.sregs
    badRegs := q.badRegs.filter (fun b => decide (b.2.1 < if b.1 then min q.vallot (8 * r.vcode) else min q.sallot (8 * r.scode)))
    vallot := 8 * r.vcode
    sallot := 8 * r.scode
    prio := r.prio
    role := n
    sp := { q.sp with pc := r.entry } })

/-! ### Activation tables (05 R117 to R119) -/

/-- The pair of the issuing team, acquired when it holds none: none when no pair of the CU is free. -/
def State.lutPair (s : State) : Option (Nat × State) :=
  match s.teamNow with
  | none => none
  | some u =>
    match u.lut with
    | some n => some (n, s)
    | none =>
      match (List.range 16).find? (fun n => !s.luts.any (fun p => p.cache == u.cache && p.num == n)) with
      | some n =>
        let s := s.modTeam u.id (fun v => { v with lut := some n })
        some (n, { s with luts := s.luts ++ [⟨u.cache, n, false, [], []⟩] })
      | none => none

/-- Is a table operation of the issuing squad's team that issued earlier still to reach the pair (05 R119)? -/
def State.lutEarlier (s : State) : Bool :=
  s.squads.any (fun q => q.team == s.sq.team &&
    (match q.todo with | .lutDo _ _ _ _ _ :: _ => true | _ => false) &&
    (decide (q.lastIssue < s.sq.lastIssue) || (q.lastIssue == s.sq.lastIssue && decide (q.sub < s.sq.sub))))

/-- Write entries of the shadow bank of a pair, or flip its selector. -/
def State.lutWrite (s : State) (n : Nat) (flip : Bool) (base : Nat) (lanes : Mask) (vals slopes : List W) : State :=
  let f : LutPair → LutPair := fun p =>
    if flip then { p with sel := !p.sel }
    else
      let up (b : List (Nat × W)) : List (Nat × W) := (lanesOf lanes).foldl (fun b l =>
        put 0 (put 0 b (2 * (base + l)) (nth 0 vals l)) (2 * (base + l) + 1) (nth 0 slopes l)) b
      if p.sel then { p with bank0 := up p.bank0 } else { p with bank1 := up p.bank1 }
  { s with luts := modAll (fun p => p.cache == s.sq.cache && p.num == n) f s.luts }

/-! ### Range cache operations (07 R148 to R150) -/

/-- The keys of lines that a range touches, in ascending address: those of mapped manual pages. -/
def State.rangeLines (s : State) (ctx lo len : Nat) : List (Nat × Bool) :=
  let first := lo / 128
  let last := (lo + len - 1) / 128
  (List.range (last - first + 1)).filterMap (fun i =>
    let va := (first + i) * 128
    match s.leafFor ctx va with
    | some l => if l.cls = 2 then some (lineOf (l.key va), decide (lo ≤ va ∧ va + 128 ≤ lo + len)) else none
    | none => none)

/-- What a walk does to one copy: op 0 cwb, 1 cinv, 2 cwbinv; `whole` says that the range covers the whole line. -/
def State.walkCopy (s : State) (op : Nat) (whole : Bool) (m : Manual) : State :=
  let s := if op = 1 ∧ whole then s else if m.place < 512 then s.writeBack (if s.isM then none else some s.sq.id) m else s
  if op = 0 then s
  else ({ s with manual := s.manual.filter (fun n => !(n.place == m.place && n.line == m.line)) } : State).endPoison m.line (.man m.place)

/-- The walk over one line: the L1 copy of the issuing CU first, then the die's L2 copy. -/
def State.walkLine (s : State) (op ctx place die line : Nat) (whole : Bool) : State :=
  let s := match s.manual.find? (fun m => m.place == place && m.line == line && m.ctx == ctx) with
    | some m => if place < 512 then s.walkCopy op whole m else s
    | none => s
  match s.manual.find? (fun m => m.place == 600 + die && m.line == line && m.ctx == ctx) with
  | some m => s.walkCopy op whole m
  | none => s

/-- The whole walk. -/
def State.walkRange (s : State) (op lo len : Nat) : State :=
  if len = 0 then s
  else
    let place := if s.isM then 1000 else s.sq.cache
    (s.rangeLines s.ctxNow lo len).foldl (fun s p => s.walkLine op s.ctxNow place (s.clNow / 32) p.1 p.2) s

/-! ### Ring queues (07 R156, R157) -/

/-- A control block. -/
structure RingBlk where
  head : Nat
  tail : Nat
  base : Nat
  cap  : Nat
  ok   : Bool
deriving DecidableEq, Repr

/-- The control block at a virtual address of the issuer, as its home holds it. -/
def State.ringBlk (s : State) (va : Nat) : RingBlk :=
  let b := (List.range 64).map (fun i => s.curByte (s.keyOf s.ctxNow (va + i)))
  let n (o k : Nat) : Nat := natLE ((b.drop o).take k)
  ⟨n 0 8, n 8 8, n 16 8, n 24 1, decide (4 ≤ n 24 1 ∧ n 24 1 ≤ 24) && n 25 39 == 0 && n 16 8 % 128 == 0⟩

/-- The address of entry i. -/
def RingBlk.slot (r : RingBlk) (i : Nat) : Nat := r.base + i % 2 ^ r.cap * 8

/-- A write of an enq or deq at the home. -/
def State.ringWrite (s : State) (va : Nat) (st : Stamp) (b : List Byte) : State :=
  s.landAtHome (s.sq.cache / 128) (s.sq.cache % 128) (s.keyOf s.sq.ctx va) st b

/-- The append stamp held with the entry in a slot; a slot that no enq has written holds none (07 R157). -/
def State.appendStamp (s : State) (key : Nat) : Stamp := (get? s.ringStamps key).getD Stamp.zero

/-- enq at the home of the block: it takes its stamp; scc tells whether the entries were appended. -/
def State.enqAt (s : State) (va : Nat) (es : List D) : State :=
  let r := s.ringBlk va
  let key (i : Nat) : Nat := s.keyOf s.sq.ctx (r.slot (r.tail + i))
  let c := s.stampOver (s.sq.cache / 128) (s.sq.cache % 128) (lineOf (s.keyOf s.sq.ctx va) :: (List.range es.length).map (fun i => lineOf (key i)))
  if 2 ^ r.cap < r.tail - r.head + es.length then c.2.setScc false
  else
    let s := (List.range es.length).foldl (fun s i =>
      let s := s.ringWrite (r.slot (r.tail + i)) c.1 (bytesLE 8 (nth 0 es i).toNat)
      { s with ringStamps := ins s.ringStamps (key i) c.1 }) c.2
    (s.ringWrite (va + 8) c.1 (bytesLE 8 (r.tail + es.length))).setScc true

/-- deq at the home of the block. -/
def State.deqAt (s : State) (va d c : Nat) (lanes : Mask) : State :=
  let r := s.ringBlk va
  let ls := lanesOf lanes
  let m := min ls.length (r.tail - r.head)
  let got := ls.take m
  let gm := maskOf (fun l => got.contains l)
  let val (l : Nat) : D :=
    BitVec.ofNat 64 (s.curNat (s.keyOf s.sq.ctx (r.slot (r.head + got.idxOf l))) 8)
  let st := maxStamp ((List.range m).map (fun i => s.appendStamp (s.keyOf s.sq.ctx (r.slot (r.head + i)))))
  let t := s.stampOver (s.sq.cache / 128) (s.sq.cache % 128) [lineOf (s.keyOf s.sq.ctx va)]
  let s := t.2.ringWrite va t.1 (bytesLE 8 (r.head + m))
  let s := s.modSq (fun q => (q.setV2 gm d val))
  let s := if c = 0 then s else s.modSq (fun q => q.setKBits lanes c (fun l => gm.getLsbD l))
  (s.setScc (decide (0 < m))).observe st

/-! ### Atomics (07 R145) -/

/-- The operators of 07 Table 7.5: the new value and the flags. `w2` is the second operand of .cas. -/
def atomOp (op ty old v w2 : Nat) : Nat × Nat :=
  if op ≤ 2 then
    (if op = 0 ∨ ty ≠ tF32 then
       (if op = 0 then fold 0 ty old v
        else
          let n := 8 * wordBytes ty
          let less := if isSigned ty then decide (sext v n < sext old n) else decide (v < old)
          let more := if isSigned ty then decide (sext old n < sext v n) else decide (old < v)
          (if op = 1 then (if less then v else old) else (if more then v else old), 0))
     else fold op ty old v)
  else if op = 3 then (Nat.land old v, 0)
  else if op = 4 then (Nat.lor old v, 0)
  else if op = 5 then (Nat.xor old v, 0)
  else if op = 6 then (v, 0)
  else (if old = v then w2 else old, 0)

/-- One lane of an atom. -/
def State.atomLane (s : State) (op ty d : Nat) (rel : Bool) (lane key : Nat) : State :=
  let s := s.ordered (lineOf key) true
  let n := wordBytes ty
  let old := s.curNat key n
  let q := s.sq
  let v := if n = 8 then (q.v2 d lane).toNat else (q.v d lane).toNat
  let w2 := if n = 8 then (q.v2 (d + 2) lane).toNat else (q.v (d + 1) lane).toNat
  let r := atomOp op ty old v w2
  let s := (s.ownWrite q.cache q.id key (bytesLE n r.1)).orFlags r.2
  let s := if n = 8 then s.modSq (fun q => q.setV2 (bitAt lane true) d (fun _ => BitVec.ofNat 64 old))
    else s.modSq (fun q => q.setV (bitAt lane true) d (fun _ => w32 old))
  if rel then { s with relstamps := ins s.relstamps (lineOf key) s.sq.obs } else s

/-! ### One part of an instruction -/

/-- How a part ends: done; waiting at a blocking point; waiting elsewhere, its agent still Ready (10 R214); the instruction to be issued
again; a trap found late. -/
inductive MRes where
  | ok (s : State)
  | wait (w : Wake) (s : State) (m : MOp)
  | more (s : State) (m : MOp)
  | redo (s : State)
  | trap (t : TrapInfo) (s : State)

/-- Absent lines of accesses: the wait of kind 0x07. -/
def State.absentWait (s : State) (keys : List Nat) : Option Wake :=
  match s.absentOf keys with
  | [] => none
  | a :: r => some ⟨7, a * 128, (r.getLast?.getD a) * 128⟩

/-- Is an address of the issuer mapped, for an access that its page permits (19 R309)? -/
def State.reachable (s : State) (k : AKind) (va : Nat) : Bool :=
  match s.leafFor s.ctxNow va with
  | some l => s.allowed k s.ctxNow l
  | none => false

/-- The lines of virtual addresses of the issuer, by key: none when one is not mapped any more, or not for the access. -/
def State.linesOf (s : State) (k : AKind) (vas : List Nat) : Option (List Nat) :=
  if vas.all (s.reachable k) then some (sortNat (vas.map (fun a => lineOf (s.keyOf s.ctxNow a)))) else none

/-- The lines among some that the issuer's L1 does not hold, and whether it has room for each: its lanes gain them one after another (07
R144, R145; 12 R255, R257). -/
def State.notHeld (s : State) (ls : List Nat) : List Nat := ls.filter (fun l => !s.l1.any (fun e => e.cache == s.sq.cache && e.line == l))
def State.roomEach (s : State) (ls : List Nat) : Bool := s.isM || (s.notHeld ls).all (s.roomOne s.sq.cache)

/-- An ordered access to virtual addresses: it needs the pages' grants, which the data of a line on another package comes with (kind
0x0C), each line's turn at its home, and room in the L1. An address no longer mapped for it, and an L1 without room, make the instruction issue
again: it has not issued (10 R216, 12 R257). -/
def State.atLines (s : State) (k : AKind) (n : Need) (remote : Bool) (vas : List Nat) (m : MOp) (go : State → State) : MRes :=
  match s.linesOf k vas with
  | none => .redo s
  | some ls =>
    match s.lacking n ls with
    | some l => if remote then .wait ⟨0x0C, l * 128, 0⟩ (s.ask n l) .reissue else .more (s.ask n l) m
    | none =>
      match s.barredOf n ls with
      | some l => .more (s.await n l) m
      | none =>
        if s.roomEach ls then .ok (go s) else .redo s

/-- ld.acq once its lines are there, lanes ascending: each lane's current bytes, and the line's release stamp is observed (07 R144). -/
def State.acqNow (s : State) (d w : Nat) (acc : List (Nat × Nat)) : State :=
  acc.foldl (fun s a =>
    let key := s.keyOf s.sq.ctx a.2
    let s := s.ordered (lineOf key) false
    let v := s.curNat key (wBytes w)
    (s.modSq (fun q => (List.range (wRegs w)).foldl (fun q i => q.setV (bitAt a.1 true) (d + i) (fun _ => wideW w v i)) q)).observe
      (s.relstamp (lineOf key))) s

/-- st.rel once its lines are there, lanes ascending: each lane's bytes, and the line's release stamp (07 R144). -/
def State.relNow (s : State) (acc : List (Nat × Nat × Nat × Nat)) : State :=
  acc.foldl (fun s a =>
    let key := s.keyOf s.sq.ctx a.2.1
    let s := (s.ordered (lineOf key) true).ownWrite s.sq.cache s.sq.id key (bytesLE a.2.2.1 a.2.2.2)
    { s with relstamps := ins s.relstamps (lineOf key) s.sq.obs }) s

/-- atom once its lines are there, lanes ascending; with .acq it observes the release stamps that it found (07 R145). -/
def State.atomNow (s : State) (op ty d : Nat) (acq rel : Bool) (acc : List (Nat × Nat)) : State :=
  let key (a : Nat) : Nat := s.keyOf s.sq.ctx a
  let rs := maxStamp (acc.map (fun a => s.relstamp (lineOf (key a.2))))
  let t := acc.foldl (fun t a => t.atomLane op ty d rel a.1 (key a.2)) s
  if acq then t.observe rs else t

/-- The forced collapses: each raises the observed stamp (11 R236). -/
def State.collapseFor (s : State) : List Nat → State
  | [] => s
  | l :: r =>
    let c := s.collapseCu s.sq.cache l
    State.collapseFor (match c.1 with | some st => c.2.observe st | none => c.2) r

/-- lds once every line is present (07 R139). -/
def State.ldsNow (s : State) (d w : Nat) (acc : List (Nat × Nat × Nat)) : State :=
  let n := wBytes w
  let val (l : Nat) : Nat :=
    match acc.find? (·.1 == l) with
    | some p => natLE (s.scrBytes p.2.2 n)
    | none => 0
  let lanes := maskOf (fun l => acc.any (·.1 == l))
  s.modSq (fun q => (List.range (wRegs w)).foldl (fun q i => q.setV lanes (d + i) (fun l => wideW w (val l) i)) q)

/-- Row r of fragment f of ldsm. -/
def State.fragByte (s : State) (rows : List (Nat × Nat)) (f r i : Nat) : Nat := (s.scrByte ((nth (0, 0) rows (8 * f + r)).2 + i)).toNat

/-- What a lane receives from fragment f (07 R142). -/
def State.fragWord (s : State) (op9 c : Nat) (rows : List (Nat × Nat)) (f l : Nat) : W :=
  let row (r i : Nat) : Nat := s.fragByte rows f r i
  if op9 = 0x124 then
    w32 (row (l / 4) (4 * (l % 4)) + 256 * row (l / 4) (4 * (l % 4) + 1) + 65536 * row (l / 4) (4 * (l % 4) + 2) +
      16777216 * row (l / 4) (4 * (l % 4) + 3))
  else if bit c 2 then
    w32 (row (4 * (l % 2)) (l / 2) + 256 * row (4 * (l % 2) + 1) (l / 2) + 65536 * row (4 * (l % 2) + 2) (l / 2) +
      16777216 * row (4 * (l % 2) + 3) (l / 2))
  else
    w32 (row (2 * (l % 4)) (2 * (l / 4)) + 256 * row (2 * (l % 4)) (2 * (l / 4) + 1) +
      65536 * row (2 * (l % 4) + 1) (2 * (l / 4)) + 16777216 * row (2 * (l % 4) + 1) (2 * (l / 4) + 1))

/-- ldsm and ldsm.t once every line is present. -/
def State.ldsmNow (s : State) (op9 c d : Nat) (rows : List (Nat × Nat)) (lanes : Mask) : State :=
  s.modSq (fun q => (List.range (2 ^ (c % 4))).foldl (fun q f => q.setV lanes (d + f) (fun l => s.fragWord op9 c rows f l)) q)

/-- sts once every line is present. -/
def State.stsNow (s : State) (acc : List (Nat × Nat × Nat × Nat)) : State :=
  acc.foldl (fun u a => u.scrWrite a.2.1 (bytesLE a.2.2.1 a.2.2.2)) s

/-- The keys of the bytes of accesses of some width, each with the address and lane that a fault would report. -/
def spanKeys (n : Nat) (acc : List (Nat × Nat × Nat)) : List (Nat × Nat × Nat) :=
  acc.flatMap (fun a => (List.range n).map (fun i => (a.1, a.2.1 + i, a.2.2 + i)))

/-- A scratchpad access at its target (07 R140): it waits for its lines, then a read meets poisoned granules. `spans` are lane,
address and key of each byte. -/
def State.atScratch (s : State) (reads : Bool) (spans : List (Nat × Nat × Nat)) (m : MOp) (go : State → State) : MRes :=
  match s.absentWait (spans.map (·.2.2)) with
  | some w => .wait w s m
  | none =>
    match (if reads then spans.find? (fun p => s.poison.any (·.gran == scrGran p.2.2)) else none) with
    | some p => .trap ⟨.poisonedData, 0, p.2.1, p.1⟩ s
    | none => .ok (go s)

/-- Free entries of a range table. -/
def freeRanges (r : List (Option Range)) : List Nat := (List.range 32).filter (fun i => (nth none r i).isNone)

/-- rcpy issues: its ranges are armed, the counter rises, the command takes its number (09 R182, R185, R186). -/
def State.rcpyNow (s : State) (d x : Nat) (group : List W) : State :=
  let g2 (i : Nat) : Nat := (pair (nth 0 group (i + 1)) (nth 0 group i)).toNat
  let len := (nth 0 group 4).toNat
  let place := tlPlace 0x11 s.posNow
  let n := s.issueNo place
  let s := if bit x 0 ∧ len ≠ 0 then
      s.modTeam s.sq.team (fun u =>
        match freeRanges u.range with
        | i :: j :: _ => { u with range := (u.range.set i (some ⟨g2 2, g2 2 + len, n⟩)).set j (some ⟨g2 0, g2 0 + len, n⟩) }
        | _ => u)
    else s
  let comp := bits x 2 1
  let s := (s.issueCmd .rcpy place group x false comp (nth 0 group 5).toNat (nth 0 group 6) 0 []).modSq
    (fun q => { q with ack := q.ack + 1 })
  s.setS2 d (BitVec.ofNat 64 n)

/-- The squad in focus leaves transaction state with an outcome (07 R154, R155). -/
def State.leaveTx (s : State) (code : Nat) (ok : Bool) : State :=
  { s.modSq (fun q => { q with
      tx := false, doomed := none, txcode := w32 code, scc := ok, pending := q.pending.filter (fun p => !p.tx) }) with
    locks := s.locks.filter (·.squad != s.sq.id) }

/-- One line of the lock phase (07 R154): the lock, the collapse of an epoch, the validation; the next line, and the commit,
follow in turns of their own, so that two commits can overlap. -/
def State.txLockStep (s : State) (c : Stamp) (lines : List Nat) : MRes :=
  match s.sq.doomed, lines with
  | some cause, _ => .ok (s.leaveTx cause false)
  | none, [] => .ok (s.leaveTx 0 true)
  | none, l :: r =>
    let take (s : State) : MRes :=
      let s : State := { s with locks := s.locks ++ [⟨l, s.sq.id, c, false⟩] }
      let s := (s.collapseCu s.sq.cache l).2
      if s.sq.tide.lt (s.newest l) then .ok (s.leaveTx txConflict false)
      else if r.isEmpty then
        let f : Lock → Lock := fun k => { k with committing := true }
        .more { s with locks := modAll (·.squad == s.sq.id) f s.locks } (.txCommit c)
      else .more s (.txLock c r)
    if !s.granted .event l then .more (s.ask .event l) (.txLock c lines)
    else if s.held s.sq.id .event l then .more (s.await .event l) (.txLock c lines)
    else
      match s.locks.find? (fun k => k.line == l && k.squad != s.sq.id) with
      | none => take s
      | some k =>
        if k.committing then .more (s.await .event l) (.txLock c lines)
        else if k.st.lt c then .ok (s.leaveTx txLockLost false)
        else
          let t : State := { s with locks := s.locks.filter (·.squad != k.squad) }
          take (t.modSquads (fun q => q.id == k.squad) (Squad.doom · txLockLost))

/-- The commit: each written line becomes a version at C, the locks are released (07 R154). -/
def State.txCommitNow (s : State) (c : Stamp) : State :=
  let lines := s.sq.pending.filter (·.tx)
  let s := lines.foldl (fun s p =>
    ((s.recallOthers 10000 p.line false).landed p.line c p.bytes p.ctx).carryPoison p.line (.pend s.sq.id) .home c) s
  ((s.modSq (fun q => { q with own := lines.foldl (fun o p => insAll o (keyed p.line p.bytes)) q.own })).leaveTx 0 true).observe c

/-- The commit, unless its transaction has been doomed since (07 R153), or while a line's event must wait for room (19 R318). -/
def State.txCommitStep (s : State) (c : Stamp) : MRes :=
  match s.sq.doomed with
  | some cause => .ok (s.leaveTx cause false)
  | none =>
    match (s.sq.pending.filter (·.tx)).find? (fun p => s.stalls p.line) with
    | some p => .more (s.await .event p.line) (.txCommit c)
    | none => .ok (s.txCommitNow c)

/-- A counter that a number of operations would raise above 65,535 holds them (02 R47). -/
def State.ackRoom (s : State) (n : Nat) : Bool := decide (s.ackNow + n ≤ 65535)

/-- The lines that a Publish of the issuer sends, and those among them whose epoch it ends first. -/
def State.sending (s : State) : Nat :=
  if s.isM then (s.mcc.epi.filter (fun l => !l.scr)).length else (s.pubLines.filter (·.cls != 2)).length + s.pubOwned.length
def State.preEpochs (s : State) : List Nat :=
  ((if s.isM then s.mcc.epi.filter (fun l => !l.scr) else s.pubLines).filter (fun l => l.upd && (s.epoch l.line).isSome)).map (·.line)

/-- Publish as a part: the collapses before its stamp wait for their homes (07 R151, 11 R236). -/
def State.publishStep (s : State) (m : MOp) : MRes :=
  if !s.ackRoom s.sending then .more s m
  else
    match s.barredOf .shared s.preEpochs with
    | some l => .more (s.await .shared l) m
    | none => .ok s.publish

/-- May a Publish of the issuer be made now? -/
def State.pubReady (s : State) : Bool := s.ackRoom s.sending && (s.barredOf .shared s.preEpochs).isNone

/-- The exit of the squad in focus: its Publish, whose stamp, or the observed stamp when it had nothing to send (07 R151), counts in the
launch's completion (17 R289). -/
def State.exitPublish (s : State) : State :=
  let t := s.publish
  (t.modLaunch t.sq.launch (fun l => { l with doneSt := l.doneSt.max t.sq.obs })).modSq
    (fun q => { q with st := .exiting, sp := { q.sp with mask := 0 } })

/-- Exit as a part: the collapses before its stamp wait for their homes, and its operations for room in the counter. -/
def State.exitStep (s : State) : MRes :=
  if !s.ackRoom s.sending then .more s .exitDo
  else
    match s.barredOf .shared s.preEpochs with
    | some l => .more (s.await .shared l) .exitDo
    | none => .ok s.exitPublish

/-- Is a scratch address in the shoal window (12 R243)? -/
def inWindow (ea : Nat) : Bool := decide (0x80000000 ≤ ea)

/-- Does a part access the shoal window? -/
def MOp.windowed (m : MOp) : Bool :=
  match m with
  | .ldsDo _ _ acc => acc.any (fun a => inWindow a.2.1)
  | .ldsmDo _ _ _ rows _ => rows.any (fun r => inWindow r.1)
  | .stsDo acc => acc.any (fun a => inWindow a.1)
  | .arriveObj ea _ _ => inWindow ea
  | .waitObj ea _ _ => inWindow ea
  | .waitWord ea _ => inWindow ea
  | .postDo ea _ _ _ => inWindow ea
  | _ => false

/-- Has another squad of the issuer's team issued an access to the window that has still to be made (09 R197, 12 R244)? -/
def State.windowIssued (s : State) : Bool := s.squads.any (fun q => q.team == s.sq.team && q.todo.any MOp.windowed)

/-- The end of an mfence: its number of the MCC's timeline is done, no matrix error is left, .sig adds to its counter (08 R175). -/
def State.fenceOver (s : State) (sig : Option (Nat × Nat)) : State :=
  let t := s.timeline s.mcc.ctx s.mcc.cl 24
  let st := s.mcc.lastPub.getD t.stamp
  let s := s.modTl s.mcc.ctx s.mcc.cl 24 (fun t => t.finish (t.done + 1) st)
  let s := s.modMcc (fun m => { m with matErr := [] })
  match sig with
  | some (ea, v) => s.addCounter (s.scrKeyAt (ea : Int)) v st
  | none => s

/-- Is the ring of a queue full (17 R277)? -/
def State.ringFull (s : State) (q lsize : Nat) : Bool := decide (2 ^ lsize ≤ (s.queueOf q).tail - (s.queueOf q).head)

/-- The key of the ring entry that the next post to a queue writes. -/
def State.entryKey (s : State) (q ring lsize : Nat) : Nat := memKey s.pkgIdx (ring + (s.queueOf q).tail % 2 ^ lsize * 64)

/-- The queue unit writes the 64 bytes of a post into the ring and moves the tail (09 R196). -/
def State.postNow (s : State) (ea q ring lsize : Nat) : State :=
  let r := s.queueOf q
  let c := s.stampOver (s.sq.cache / 128) (s.sq.cache % 128) [lineOf (s.entryKey q ring lsize)]
  let b := (List.range 64).map (fun i => s.scrByte (s.scrKeyAt ((ea + i : Nat) : Int)))
  let s := c.2.landAtHome (s.sq.cache / 128) (s.sq.cache % 128) (s.entryKey q ring lsize) c.1 b
  (s.setQueue { r with tail := r.tail + 1, subs := r.subs ++ [(r.tail + 1, c.1.max s.sq.obs)] }).setScc true

/-- The line of the word that waitc.g reads, as an ld.acq has it (09 R187). -/
def State.wordRead (s : State) (line : Nat) : State :=
  if s.isM then ((s.collapse line (s.mcc.cl / 32) (128 + s.mcc.cl % 32)).2).recallOthers 10000 line true else s.ordered line false

/-- One remaining part of an instruction of the agent in focus. -/
def runOp (m : MOp) (s : State) : MRes :=
  match m with
  | .publish => s.publishStep m
  | .waitAck => if s.ackNow = 0 then .ok s else .wait ⟨0x0B, 0, 0⟩ s m
  | .observe st => .ok (s.observe st)
  | .snap =>
    let s := s.settle
    if s.obsNow.le (s.slackFor s.ctxNow) then .ok s.renew else .wait ⟨0x10, s.obsNow.tick, s.obsNow.src⟩ s m
  | .txEnter => .ok (s.modSq (fun q => { q with tx := true, doomed := none, txcode := 0 }))
  | .relWrite acc =>
    s.atLines .rel .excl false (acc.map (·.2.1)) m (fun s => s.relNow acc)
  | .collapseDo ls =>
    match s.barredOf .shared (ls.filter (fun l => (s.epoch l).isSome)) with
    | some l => .more (s.await .shared l) m
    | none => .ok (s.collapseFor ls)
  | .acqRead d w acc =>
    s.atLines .acq .shared true (acc.map (·.2)) m (fun s => s.acqNow d w acc)
  | .atomDo op ty d acq rel acc =>
    s.atLines .atom .excl true (acc.map (·.2)) m (fun s => s.atomNow op ty d acq rel acc)
  | .txLock c lines => s.txLockStep c lines
  | .txCommit c => s.txCommitStep c
  | .reissue => .ok s
  | .arriveObj ea dst wait =>
    match s.scrAt (ea : Int) with
    | .error c => .trap ⟨c, 0, ea, 0⟩ s
    | .ok key =>
      match s.objOf key with
      | none => .trap ⟨.barKind, 0, ea, 0⟩ s
      | some o =>
        let n := o.arrive s.obsNow
        let s := s.arriveAt o s.obsNow
        let s := match dst with
          | some d => s.setS d o.phase
          | none => s
        if !wait then .ok s
        else if n.phase ≠ o.phase then .ok (s.observe n.last)
        else .wait ⟨1, ea, o.phase.toNat⟩ (s.setObj { n with waiters := n.waiters + 1 }) (.waitObj ea key o.phase)
  | .waitObj ea key ph =>
    match s.objOf key with
    | none => .wait ⟨1, ea, ph.toNat⟩ s m
    | some o => if o.phase ≠ ph then .ok (s.observe o.last) else .wait ⟨1, ea, ph.toNat⟩ s m
  | .arriveSync bid count =>
    match s.teamNow with
    | none => .ok s
    | some u =>
      let b := nth HwBar.zero u.bars bid
      if b.arrived ≠ 0 ∧ b.count ≠ count then .trap ⟨.barArg, 0, 0, 0⟩ s
      else
        let b1 : HwBar := { b with arrived := b.arrived + 1, count := count, gather := b.gather.max s.obsNow }
        let b2 := b1.test u.alive.length
        let s := s.testBar u bid b1
        if b2.phase ≠ b.phase then .ok (s.observe b2.last) else .wait ⟨2, bid, b.phase⟩ s (.waitSync bid b.phase)
  | .waitSync bid ph =>
    match s.teamNow with
    | none => .ok s
    | some u =>
      let b := nth HwBar.zero u.bars bid
      if b.phase ≠ ph then .ok (s.observe b.last) else .wait ⟨2, bid, ph⟩ s m
  | .arriveLvl level =>
    match s.teamNow, s.launchOf s.sq.launch with
    | some u, some l =>
      match l.hdr.levelTeams level with
      | none => .ok s
      | some (_, t) =>
        let b := s.lvlOf l.id level (u.num / t)
        let s := s.arriveLevel u b
        let c := s.lvlOf l.id level (u.num / t)
        if c.bar.phase ≠ b.bar.phase then .ok (s.observe c.bar.last)
        else .wait ⟨3, level, b.bar.phase⟩ s (.waitLvl level b.bar.phase)
    | _, _ => .ok s
  | .waitLvl level ph =>
    match s.teamNow, s.launchOf s.sq.launch with
    | some u, some l =>
      match l.hdr.levelTeams level with
      | none => .ok s
      | some (_, t) =>
        let c := s.lvlOf l.id level (u.num / t)
        if c.bar.phase ≠ ph then .ok (s.observe c.bar.last) else .wait ⟨3, level, ph⟩ s m
    | _, _ => .ok s
  | .waitTl sel n =>
    let t := s.timeline s.ctxNow s.clNow (tlPlace sel s.posNow)
    if n ≤ t.done then .ok (s.observe t.stamp) else .wait ⟨4, sel, n⟩ s m
  | .waitWord ea target =>
    match s.scrAt (ea : Int) with
    | .error c => .trap ⟨c, 0, ea, 0⟩ s
    | .ok key =>
      if let some t := s.scrPoison [⟨0, (ea : Int), 8⟩] then .trap t s
      else if target ≤ natLE (s.scrBytes key 8) then .ok (s.observe ((get? s.arrival (key / 2 ^ 19)).getD Stamp.zero))
      else .wait ⟨5, ea, target⟩ s m
  | .waitWordG va target =>
    match s.linesOf .waitg [va] with
    | none => .redo s
    | some ls =>
      let key := s.keyOf s.ctxNow va
      if !s.open_ .shared ls || !s.roomEach ls then
        .wait ⟨6, va, target⟩ (match s.lacking .shared ls, s.barredOf .shared ls with
          | some l, _ => s.ask .shared l
          | none, some l => s.await .shared l
          | none, none => s) m
      else
        let s2 := s.wordRead (lineOf key)
        if target ≤ s2.curNat key 8 then .ok (s2.observe (s2.relstamp (lineOf key)))
        else .wait ⟨6, va, target⟩ (s2.leaveLines s2.agentNow) m
  | .ldsDo d w acc => s.atScratch true (spanKeys (wBytes w) acc) m (fun s => s.ldsNow d w acc)
  | .ldsmDo op9 c d rows lanes =>
    s.atScratch true (spanKeys 16 ((List.range rows.length).map (fun i => (i, nth (0, 0) rows i)))) m (fun s => s.ldsmNow op9 c d rows lanes)
  | .stsDo acc => s.atScratch false (acc.flatMap (fun a => spanKeys a.2.2.1 [(0, a.1, a.2.1)])) m (fun s => s.stsNow acc)
  | .emit entry words =>
    match s.launchOf s.sq.launch with
    | none => .ok s
    | some l =>
      match s.landRec s.clNow l (BitVec.ofNat 64 entry) words s.obsNow with
      | some s => .ok s
      | none => .wait ⟨0x0E, s.clNow, 0⟩ s m
  | .postDo ea q ring lsize =>
    let keys := (List.range 64).map (fun i => s.scrKeyAt ((ea + i : Nat) : Int))
    if let some t := s.checkPlace 64 false [⟨0, (ea : Int), 64⟩] then .trap t s else
    match s.absentWait keys with
    | some w => .wait w s m
    | none =>
      if let some t := s.scrPoison [⟨0, (ea : Int), 64⟩] then .trap t s else
      if s.ringFull q lsize then .ok ((s.setQueue { s.queueOf q with qovf := true }).setScc false)
      else if s.barred s.sq.id .event (lineOf (s.entryKey q ring lsize)) then .more (s.await .event (lineOf (s.entryKey q ring lsize))) m
      else .ok (s.postNow ea q ring lsize)
  | .sendDo ch v reserved =>
    let c := s.chan s.clNow ch
    if reserved then
      .ok (s.setChan { c with msgs := c.msgs ++ [(v, s.obsNow)], reserved := c.reserved - 1 })
    else if c.msgs.length + c.reserved < 16 then .ok (s.setChan { c with msgs := c.msgs ++ [(v, s.obsNow)] })
    else .wait ⟨0x0A, ch, 0⟩ s m
  | .recvDo ch d =>
    let c := s.chan s.clNow ch
    match c.msgs with
    | [] => .wait ⟨0x0A, ch, 1⟩ s m
    | (v, st) :: r => .ok (((s.setChan { c with msgs := r }).setS2 d v).observe st)
  | .roleDo n => if s.roleFits (s.roleRec n) then .ok (s.takeRole n) else .wait ⟨9, n, 0⟩ s m
  | .mrecDo ea words =>
    let key := s.scrKeyAt (ea : Int)
    match s.absentWait ((List.range 64).map (key + ·)) with
    | some k => .wait k s m
    | none => .ok (s.scrWrite key (words.flatMap (fun w => bytesLE 4 w.toNat)))
  | .rcpyDo d x group =>
    if bit x 0 ∧ (nth 0 group 4).toNat ≠ 0 ∧ (freeRanges ((s.teamNow.map (·.range)).getD [])).length < 2 then .wait ⟨0x0D, 0, 0⟩ s m
    else if !s.ackRoom 1 then .more s m
    else .ok (s.rcpyNow d x group)
  | .lutDo flip base lanes vals slopes =>
    if s.lutEarlier then .wait ⟨0x0F, 0, 0⟩ s m
    else
      match s.lutPair with
      | none => .wait ⟨0x0F, 0, 0⟩ s m
      | some (n, s) => .ok (s.lutWrite n flip base lanes vals slopes)
  | .leaveDo => if s.windowIssued then .more s m else .ok (s.modTeam s.sq.team (fun u => { u with shoal := none }))
  | .walkLines op lo len => .ok (s.walkRange op lo len)
  | .walkAck => if s.ackNow = 0 then .ok s else .wait ⟨0x0B, 0, 0⟩ s m
  | .mfenceEnd sig => .ok (s.fenceOver sig)
  | .mccEnd => .ok ((s.modLaunch s.mcc.launch (fun l => { l with doneSt := l.doneSt.max s.mcc.obs })).modMcc (fun m => { m with exiting := true }))
  | .exitDo => s.exitStep

/-- What is left of the issuer's instruction. -/
def State.todoNow (s : State) : List MOp := if s.isM then s.mcc.todo else s.sq.todo

/-- Set what is left. -/
def State.setTodo (s : State) (l : List MOp) : State :=
  if s.isM then s.modMcc (fun m => { m with todo := l }) else s.modSq (fun q => { q with todo := l })

/-- The instruction the issuer runs. -/
def State.curNow (s : State) : Cur := if s.isM then s.mcc.cur else s.sq.cur

/-- The issuer blocks on a wake condition (10 Table 10.3). -/
def State.block (s : State) (w : Wake) (l : List MOp) : State :=
  if s.isM then s.modMcc (fun m => { m with st := .blocked, wake := some w, todo := l })
  else s.modSq (fun q => { q with st := .blocked, wake := some w, todo := l })

/-- The issuer waits at no blocking point: it stays Ready and goes on with what is left when it is chosen again (10 R214). -/
def State.stay (s : State) (l : List MOp) : State :=
  if s.isM then s.modMcc (fun m => { m with st := if m.st = .exiting then .exiting else .ready, wake := none, todo := l })
  else s.modSq (fun q => { q with st := if q.st = .exiting then .exiting else .ready, wake := none, todo := l })

/-- The instruction is complete: the issuer is Ready and its energy is charged (23 R365); it stands in no line's wait list and holds no
translation beside the TLBs. -/
def State.complete (s : State) : State :=
  if s.isM then s.modMcc (fun m => { m with
    st := if m.exiting then .exiting else .ready
    wake := none, todo := [], energy := satAdd m.energy m.due, due := 0, inLine := none, got := [], forced := [] })
  else (s.modSq (fun q => { q with
    st := if q.st = .exiting then .exiting else .ready
    wake := none, todo := [], energy := satAdd q.energy q.due, due := 0, inLine := none, got := [], heldRfe := false })).sampleEnd
      s.sq.id s.sq.cur false

/-- The issuer is Ready to issue the same instruction again. -/
def State.again (s : State) : State :=
  if s.isM then s.modMcc (fun m => { m with st := .ready, wake := none, todo := [], due := 0 })
  else s.modSq (fun q => { q with st := .ready, wake := none, todo := [], due := 0 })

/-- Without the entry of the instruction in progress among those in flight. -/
def Squad.withdraw (q : Squad) : Squad :=
  match q.late.getLast? with
  | some e => if e.cur = q.cur then { q with late := q.late.dropLast } else q
  | none => q

/-- The PC and the block position go back to the instruction in progress, which has not issued: it holds no entry of the replay queue. -/
def State.rewind (s : State) : State :=
  if s.isM then s.modMcc (fun m => { m with pc := m.cur.pc })
  else s.modSq (fun q => { q.withdraw with sp := { q.sp with pc := q.cur.pc, blkPos := q.curPos } })

/-- Run the parts that are left, up to the first wait. -/
def runList : List MOp → State → State
  | [], s => s.complete
  | .reissue :: _, s => s.rewind.again
  | m :: r, s =>
    match runOp m s with
    | .ok s => runList r s
    | .wait w s m => s.block w (m :: r)
    | .more s m => s.stay (m :: r)
    | .redo s => s.sampleBack.rewind.again
    | .trap t s => s.rewind.takeTrap t s.curNow

end Sys2Proof.Machine
end

