-- ==== Sys2Proof/Machine/Issue.lean ====
section
/-! DEFINITION. How an instruction issues: the checks of 03 Table 3.7 from order 5 on, poisoned registers (22 R350), the
scoreboard's wait for SFU results (02 R35, 05 R115), the step past the instruction and the parts that follow a wait. -/

namespace Sys2Proof.Machine

/-! ### SFU results (05 R115, R116) -/

/-- An SFU instruction retires: it writes its results and ORs its flags. -/
def State.retireSfu (s : State) (e : SfuEnt) : State :=
  let f : Squad → Squad := fun q => { q.inject [e.rep] with energy := satAdd q.energy e.rep.energy }
  (({ s with sfu := s.sfu.erase e } : State).modSquads (fun q => q.id == e.squad) f).sampleEnd e.squad e.rep.cur false

/-- Entries of a list up to the last one that satisfies p. -/
def upToLast {α : Type} (p : α → Bool) : List α → List α
  | [] => []
  | x :: r => if p x || r.any p then x :: upToLast p r else []

/-- The scoreboard waits until the entries of the issuing squad that satisfy p have retired: the pipe retires in order. -/
def State.drain (s : State) (p : SfuEnt → Bool) : State :=
  let pipe := s.sfu.filter (fun e => e.cache == s.sq.cache && e.sub == s.sq.sub)
  (upToLast (fun e => e.squad == s.sq.id && p e) pipe).foldl State.retireSfu s

/-- Every SFU instruction of the issuing squad retires. -/
def State.drainAll (s : State) : State := s.drain (fun _ => true)

/-! ### Matrix results (08 R159, R173) -/

/-- A line of mepi enters the epilogue buffer, which publishes itself first when it holds 1,024 others (08 R173). -/
def State.epiAdd (s : State) (l : PLine) : State :=
  let same : PLine → Bool := fun k => k.line == l.line && k.scr == l.scr
  let s := if !s.mcc.epi.any same && decide (1024 ≤ s.mcc.epi.length) then s.publishEpi (fun _ => true) else s
  match s.mcc.epi.find? same with
  | some k =>
    let bytes := l.bytes.foldl (fun b p => ins b p.1 p.2) k.bytes
    s.modMcc (fun m => { m with epi := upsert same { k with bytes := bytes } m.epi })
  | none => s.modMcc (fun m => { m with epi := m.epi ++ [l] })

/-- A pass with what its A bytes hold now among what they have held. -/
def PassIn.note (now : Nat → Byte) (p : PassIn) : PassIn :=
  { p with old := p.old.map (fun e => if e.2.2.contains (now e.2.1) then e else (e.1, e.2.1, e.2.2 ++ [now e.2.1])) }

/-- Every pass in an array queue notes what its A bytes hold, before each step: it reads them at some cycle until it retires (08 R170). -/
def State.notePasses (s : State) : State :=
  let p (q : MPass) : MPass := { q with late := q.late.map (PassIn.note s.scrByte) }
  { s with mccs := modAll (fun m => m.queue.any (·.late.isSome)) (fun m => { m with queue := m.queue.map p }) s.mccs }

/-- The A byte at an address that a pass has read by its retirement: of what stores have left in it since the issue, any, which is free (08
R170). -/
def State.passByte (s : State) (p : PassIn) (a : Nat) : Byte :=
  match (List.range p.old.length).find? (fun i => (nth (0, 0, []) p.old i).1 == a) with
  | some i =>
    let e := nth (0, 0, []) p.old i
    nth (s.scrByte e.2.1) e.2.2 ((Config.freeWord (s.free + i)).toNat % (e.2.2.length + 1))
  | none => 0

/-- A pass as it retires: with A bytes that stores have changed since its issue, the result comes from those it has read (08 R170). -/
def State.passNow (s : State) (p : MPass) : MPass :=
  match p.late with
  | none => p
  | some l =>
    if l.old.all (fun e => e.2.2 == [s.scrByte e.2.1]) then p
    else
      let r := (ARec.ofBytes l.recd).pass l.fmt l.zero l.kst l.slot (s.passByte l) (nth [] s.mcc.acc l.acc)
      { p with acc := some (l.acc, r.1), flags := w32 r.2 }

/-- Must the epilogue buffer publish itself for a matrix instruction's lines? -/
def State.overflows (s : State) (p : MPass) : Bool := !p.lines.isEmpty && decide (1024 < s.mcc.epi.length + p.lines.length)

/-- The epochs that such a publication ends first, those of the instruction's own lines among them. -/
def State.overEpochs (s : State) (p : MPass) : List Nat :=
  s.preEpochs ++ (p.lines.filter (fun l => l.upd && !l.scr && (s.epoch l.line).isSome)).map (·.line)

/-- Has an automatic publication room in the acknowledgement counter (02 R47)? -/
def State.overRoom (s : State) (p : MPass) : Bool := s.ackRoom (s.sending + p.lines.length)

/-- The oldest matrix instruction in the array queue retires (08 R159). One that makes the epilogue buffer publish itself waits for the collapses
before that publication and for room in the counter (08 R173, 11 R236). -/
def State.retirePass (s : State) : State :=
  match s.mcc.queue with
  | [] => s
  | q :: r =>
    if s.overflows q && !s.overRoom q then s
    else
    match (if s.overflows q then s.barredOf .shared (s.overEpochs q) else none) with
    | some l => s.await .shared l
    | none =>
    let p := s.passNow q
    let s : State := match q.late with
      | some l => { s with free := s.free + l.old.length }
      | none => s
    let s := s.modMcc (fun m => { m with
      queue := r
      acc := match p.acc with | some (i, w) => m.acc.set i w | none => m.acc
      slots := match p.slot with | some (i, t) => m.slots.set i t | none => m.slots
      flags := m.flags ||| p.flags
      energy := satAdd m.energy p.energy })
    p.lines.foldl State.epiAdd s

/-- Every matrix instruction of the MCC in focus retires. -/
def State.drainQueue (s : State) : State := s.mcc.queue.foldl (fun s _ => s.retirePass) s

/-! ### What an instruction brings to its issue -/

/-- The set, op9, length and words of an instruction, the first of checks 8 to 10 that fails, the registers it names for the
scoreboard, those among them that it writes with a latency, the registers it reads, the CSR it names, x. -/
structure Form where
  uni   : Bool
  op9   : Nat
  len   : Nat
  w0    : W
  w1    : W
  bad   : Option Nat
  names : List Nat
  late  : Option (List Nat)
  reads : List (Bool × Nat)
  csr   : Option Nat
  x     : BitVec 16
deriving DecidableEq, Repr

/-- The registers that a source field names. -/
def FC.sources (f : FC) (v : Nat) : List (Bool × Nat) :=
  match f with
  | .v cnt _ => (List.range cnt).map (fun i => (true, v + i))
  | .s cnt _ => (List.range cnt).map (fun i => (false, v + i))
  | _ => []

/-- Is field d a source: npack, ipack4, st, sts, st.rel, atom, upd, enq, mepi? -/
def dSource (uni : Bool) (op9 : Nat) : Bool :=
  if uni then op9 == 0x0A6 || op9 == 0x144 else [0x081, 0x083, 0x121, 0x123, 0x128, 0x129, 0x12A].contains op9

/-- Does an instruction deliver its result with a latency that an instruction behind it can see: loads, exchanges, enq and deq, which
complete at their homes (06 R130, 18 R297)? -/
def lateOp (uni : Bool) (op9 : Nat) : Bool :=
  if uni then op9 == 0x0A6 || op9 == 0x0A7
  else decide (0x0E0 ≤ op9 ∧ op9 ≤ 0x0ED) || [0x120, 0x122, 0x124, 0x125, 0x126, 0x127, 0x129].contains op9

/-- The registers that such an instruction writes, if it is one: d, which enq only reads, and the mask that xlane, same.all and deq name in
c. An atom returns its old values in d. -/
def FSpec.lates (f : FSpec) (uni : Bool) (op9 d c : Nat) : Option (List Nat) :=
  if !lateOp uni op9 then none else some ((if uni && op9 == 0x0A6 then [] else f.d.regs d) ++ f.c.regs c)

/-- The group registers that a copy does not read: the second of a scratch address (09 R180). -/
def unreadGroup (uni : Bool) (op9 a x : Nat) : List (Bool × Nat) :=
  if uni && (op9 == 0x0E0 || op9 == 0x0E1) then
    (if bit x 0 then [(false, a + 1)] else []) ++ (if bit x 1 then [(false, a + 3)] else [])
  else []

/-- The fields of a long instruction. -/
def State.specLong (s : State) (uni : Bool) (op9 : Nat) (w : Long) : FSpec :=
  if uni then uniSpec s.fenv op9 w else laneSpec s.fenv op9 w

/-- The form of a long instruction. -/
def State.formLong (s : State) (uni : Bool) (op9 : Nat) (w : Long) : Form :=
  let f := s.specLong uni op9 w
  { uni := uni, op9 := op9, len := 8
    w0 := encHead uni op9 w.d w.a w.m, w1 := w.b ++ w.c ++ w.x
    bad := f.checkLong s.fenv w
    names := f.d.regs w.d.toNat ++ f.a.regs w.a.toNat ++ f.b.regs w.b.toNat ++ f.c.regs w.c.toNat
    late := f.lates uni op9 w.d.toNat w.c.toNat
    reads := (if dSource uni op9 then f.d.sources w.d.toNat else []) ++
      (f.a.sources w.a.toNat).filter (fun r => !(unreadGroup uni op9 w.a.toNat w.x.toNat).contains r) ++ f.b.sources w.b.toNat ++
      f.c.sources w.c.toNat
    csr := if uni && (op9 == 0x181 || op9 == 0x182) then some w.x.toNat else none
    x := w.x }

/-- The form of a short instruction. -/
def State.formShort (s : State) (uni : Bool) (op9 : Nat) (w : Short) : Form :=
  let f := if uni then uniShort s.fenv op9 w else laneShort op9
  { uni := uni, op9 := op9, len := 4
    w0 := encShort uni op9 w, w1 := 0
    bad := f.checkShort s.fenv w
    names := f.d.regs w.d.toNat ++ f.a.regs w.a.toNat ++ f.b.regs w.b.toNat
    late := none
    reads := f.a.sources w.a.toNat ++ f.b.sources w.b.toNat
    csr := none, x := 0 }

/-- The form of a literal instruction. -/
def State.formLit (s : State) (uni : Bool) (op9 : Nat) (w : Lit) : Form :=
  let f := if uni then uniLit op9 w else laneLit op9
  { uni := uni, op9 := op9, len := 8
    w0 := encHead uni op9 w.d w.a w.m, w1 := w.lit
    bad := f.checkLit s.fenv w
    names := f.d.regs w.d.toNat ++ f.a.regs w.a.toNat
    late := none
    reads := f.a.sources w.a.toNat
    csr := none, x := 0 }

/-! ### The checks -/

/-- Does the issuer's launch hold its whole cluster (10 R202)? -/
def State.wholeCluster (s : State) : Bool :=
  match s.launchOf s.launchNow with
  | some l => l.hdr.mcc
  | none => false

/-- Check 5: the issuer may not run the op9. -/
def State.whoBad (s : State) (uni : Bool) (op9 : Nat) : Bool :=
  match (if uni then uniWho op9 else .squad) with
  | .both => false
  | .squad => s.isM
  | .mcc => !s.isM
  | .cluster => !s.wholeCluster

/-- Check 6: a uniform op9 of 0x060 and above stands inside a pblk block, other than nop (03 R65). -/
def State.placeBad (s : State) (uni : Bool) (op9 : Nat) : Bool :=
  !s.isM && s.sq.sp.inBlock && uni && decide (0x060 ≤ op9) && op9 != 0x077

/-- Check 7: rfe outside a handler; a CSR from 0x8000 up without supervisor mode, the frame CSRs in handler mode apart
(09 R177, 18 R295). -/
def State.privBad (s : State) (f : Form) : Bool :=
  (f.uni && f.op9 == 0x180 && !s.sq.handler) ||
    (match f.csr with
     | some n => decide (0x8000 ≤ n) && !s.supOf s.ctxNow && !(!s.isM && s.sq.handler && decide (n ≤ 0x801F))
     | none => false)

/-- Checks 5 to 10: the reason of the first that fails. -/
def State.refusal (s : State) (f : Form) : Option Nat :=
  if s.whoBad f.uni f.op9 then some 3
  else if s.placeBad f.uni f.op9 then some 4
  else if s.privBad f then some 5
  else f.bad

/-- The op9s of the uniform set that handler mode refuses (18 R295). -/
def handlerNo : List Nat := [0x069, 0x06A, 0x071, 0x073, 0x074, 0x0A3, 0x0A4, 0x0A5, 0x0F4, 0x0F5]

/-- Does transaction state, or its absence, refuse an op9 (07 R152, R154, R155, 09 Table 9.1)? -/
def txNo (uni : Bool) (op9 : Nat) (tx : Bool) : Bool :=
  if uni then
    (if op9 = 0x0A4 ∨ op9 = 0x0A5 then !tx
     else tx && ((decide (0x0A0 ≤ op9 ∧ op9 ≤ 0x0AA)) || (decide (0x0E0 ≤ op9 ∧ op9 ≤ 0x0FD) && op9 != 0x0E8) || op9 == 0x182))
  else tx && decide (0x127 ≤ op9 ∧ op9 ≤ 0x12A)

/-- The op9s that need one split and an empty stack (02 R41, 04 R95, R97, 07 R152, R154, 09 R177). -/
def splitNo : List Nat := [0x071, 0x073, 0x0A3, 0x0A4, 0x0F4, 0x0F5]

/-- Has the squad one split with an empty stack? -/
def Squad.whole (q : Squad) : Bool := q.rest.isEmpty && q.sp.stack.isEmpty

/-- The first tests of check 11: handler mode, transaction state, which a handler does not leave (11 R226, 18 R295), split state. -/
def State.modeBad (s : State) (f : Form) : Option Nat :=
  if s.isM then none
  else if f.uni && s.sq.handler && handlerNo.contains f.op9 then some 0x0B
  else if txNo f.uni f.op9 s.sq.tx then some 0x0A
  else if f.uni && splitNo.contains f.op9 && !s.sq.whole then some 0x09
  else none

/-- The lowest lane whose source register is poisoned (22 R350), once the results that the scoreboard waits for are there (02 R35). -/
def State.badLane (s : State) (f : Form) : Option Nat :=
  if s.isM then (if s.mcc.badRegs.any (fun n => f.reads.contains (false, n)) then some 0 else none)
  else
    let hits := s.sq.badRegs.filter (fun b => f.reads.contains (b.1, b.2.1) && (!b.1 || s.lanes.getLsbD b.2.2))
    (argMin id (hits.map (fun b => if b.1 then b.2.2 else 0)))

/-! ### Issue -/

/-- What the body of an instruction answers: its effect is there and the PC moves past it; its effect is there with the
PC it set; it entered an SFU pipe; a fault of its own; it waits with its PC unchanged; it is over, and its agent perhaps gone; it cannot
issue yet. -/
inductive Res where
  | done (s : State)
  | jump (s : State)
  | piped (s : State)
  | trap (t : TrapInfo)
  | park (s : State)
  | over (s : State)
  | hold

/-! ### Accesses of an instruction, and how deep they reach (07 R132, 23 R361) -/

/-- The global accesses of the lanes of the lane set, n bytes each. -/
def State.globalAccs (s : State) (w : Long) (disp : Int) (n : Nat) : List Acc :=
  (lanesOf s.lanes).map (fun l => ⟨l, s.eaGlobal w disp l, n⟩)

/-- The scratchpad accesses of the lanes of a list, n bytes each. -/
def State.scratchAccs (s : State) (w : Long) (lanes : List Nat) (n : Nat) : List Acc :=
  lanes.map (fun l => ⟨l, s.eaScratch w (dispOf w.x) l, n⟩)

/-- The key of a byte of the issuer's context. -/
def State.keyNow (s : State) (va : Nat) : Nat := s.keyOf s.ctxNow va

/-- The lines of accesses, by key, each once. -/
def State.accLines (s : State) (accs : List Acc) : List Nat :=
  sortNat (accs.flatMap (fun a => a.bytes.map (fun b => lineOf (s.keyNow b))))

/-- Does a plain load of a byte force the collapse of its line: an epoch, but for one on a versioned page that began after
the read stamp (07 R137, 11 R236)? -/
def State.forces (s : State) (va : Nat) : Bool :=
  match s.leafAt s.sq.ctx va with
  | none => false
  | some l =>
    let line := lineOf (l.key va)
    l.cls != 2 && (if l.cls = 1 then s.epochBy line (s.stampFor s.sq.launch s.sq.tide 1) else (s.epoch line).isSome)

/-- How deep an access to a line by the squad in focus reaches when it issues (23 Table 23.1): `force` says whether it collapses the line, `has`
whether the squad's L1 serves it. Which of the L2, the HBM and the version store then holds it the manual leaves open: a free value. -/
def State.lineLevel (s : State) (force has : Bool) (n : Need) (t : Stamp) (line i : Nat) : Nat :=
  let die := s.sq.cache / 128
  if force then 8
  else if has then 2
  else if !s.granted n line then 7
  else if s.servesAt (600 + die) line t || s.manual.any (fun m => m.place == 600 + die && m.line == line) then 3
  else if homePkg line != s.pkgIdx then 7
  else
    let l2 := if homeDie line = die then 3 else 4
    if (Config.freeWord (s.free + i)).getLsbD 0 then l2 else if t.lt (s.newest line) then 6 else 5

/-- The deepest level of the accesses that the plain loads, stores and updates and the accesses at the home make. -/
def State.accsLevel (s : State) (k : AKind) (accs : List Acc) (op ty : Nat) : Nat :=
  let vas := accs.flatMap Acc.bytes
  let one (i va : Nat) : Nat :=
    match s.leafFor s.ctxNow va with
    | none => 0
    | some l =>
      let line := lineOf (l.key va)
      let t := s.stampFor s.launchNow s.tideNow l.cls
      let mine := (s.l1.any (fun e => e.cache == s.sq.cache && e.line == line)) || s.sq.pending.any (·.line == line)
      let clean := s.servesAt s.sq.cache line t || s.manual.any (fun m => m.place == s.sq.cache && m.line == line)
      match k with
      | .ld => s.lineLevel (s.forces va) (mine || clean) .read t line i
      | .st => 2
      | .upd => s.lineLevel false (s.holdsA s.sq.cache line op ty) (.upd op ty) t line i
      | .acq => s.lineLevel (s.epoch line).isSome mine .shared t line i
      | .ring => s.lineLevel (s.epoch line).isSome false .event t line i
      | _ => s.lineLevel (s.epoch line).isSome mine .excl t line i
  ((List.range vas.length).map (fun i => one i (nth 0 vas i))).foldl max 0

/-- The level that a sample record gives an instruction of the squad in focus: that of its deepest access at its issue. -/
def State.formLevel (s : State) (f : Form) : Nat :=
  let w := longOf f.w0 f.w1
  let wide (n : Nat) : List Acc := s.globalAccs w (dispOf w.x) n
  let word : List Acc := s.globalAccs w 0 (wordBytes (xType w.x))
  let ring : List Acc :=
    let va := (s.spair w.b.toNat).toNat
    let r := s.ringBlk va
    ⟨0, (va : Int), 64⟩ :: (List.range (popc s.lanes.toNat 32)).map
      (fun j => ⟨0, (r.slot ((if f.op9 = 0x0A6 then r.tail else r.head) + j) : Int), 8⟩)
  if f.uni then
    match f.op9 with
    | 0x0A6 | 0x0A7 => s.accsLevel .ring ring 0 0
    | 0x0EB => if w.x = 0 then 1 else s.accsLevel .ring [⟨0, ((s.spair w.a.toNat).toNat : Int), 8⟩] 0 0
    | 0x0F0 | 0x0F1 | 0x0F2 | 0x0F3 | 0x0F9 => 1
    | _ => 0
  else
    match f.op9 with
    | 0x120 => s.accsLevel .ld (wide (wBytes (acW w.c))) 0 0
    | 0x121 => s.accsLevel .st (wide (wBytes (acW w.c))) 0 0
    | 0x122 | 0x123 | 0x124 | 0x125 => 1
    | 0x126 => s.accsLevel .ld (wide (4 * blkRegs s.fmtNow)) 0 0
    | 0x127 => s.accsLevel .acq (wide (wBytes (acW w.c))) 0 0
    | 0x128 => s.accsLevel .rel (wide (wBytes (acW w.c))) 0 0
    | 0x129 => s.accsLevel .atom word 0 0
    | 0x12A => s.accsLevel .upd word (xSub w.x) (xType w.x)
    | 0x12B => s.accsLevel .ld (wide 1) 0 0
    | _ => 0

/-- The lanes that count for the energy of an instruction (23 R365). -/
def State.laneCount (s : State) (uni : Bool) : Nat := if uni then 1 else popc s.lanes.toNat 32

/-- What the destination registers of an instruction with a latency hold at its issue. At most 32 of a squad's instructions are issued
and not retired, those in an SFU pipe among them (18 R296): `room` may stand here, and the oldest beyond them have retired. -/
def Squad.lateAdd (room : Nat) (cur : Cur) (lanes : Mask) (regs : Option (List Nat)) (q : Squad) : Squad :=
  match regs with
  | none => q
  | some rs =>
    let l := q.late ++ [⟨cur, q.handler, lanes, rs.map (fun r => ⟨r, lanes, q.row r⟩), 0⟩]
    { q with flags := lateFlags q.flags (l.take (l.length - room)), late := l.drop (l.length - room) }

/-- The instruction issues: its words are the current ones, its energy is due, its squad's wait age restarts. -/
def State.started (s : State) (f : Form) : State :=
  let cur : Cur := ⟨s.pcNow, f.w0, f.w1⟩
  let due := s.weight (energyClass f.uni f.op9 (f.len == 8) f.x) * s.laneCount f.uni
  if s.isM then s.modMcc (fun m => { m with cur := cur, due := due })
  else (s.sampleIssue cur (f.uni && f.op9 == 0x065) (s.formLevel f) s.lanes).modSq
    (fun q => { q.lateAdd (32 - (s.sfu.filter (·.squad == q.id)).length) cur s.lanes f.late with
      cur := cur, curPos := q.sp.blkPos, due := due, age := 0, lastIssue := s.now })

/-- Does an instruction wait for every earlier instruction of its issuer: rdspec, role, exit, rfe, rdenergy, and setfmt.flags, so that a
flag set by an earlier instruction is not seen after the write (02 R35)? -/
def Form.needsAll (f : Form) : Bool := f.uni && ([0x072, 0x073, 0x074, 0x180, 0x183].contains f.op9 || (f.op9 == 0x070 && xSub f.x == 1))

/-- Instructions of the issuing squad that the scoreboard waits for have retired: those that wrote a register that `names` holds. -/
def State.settleLate (s : State) (names : List Nat) : State :=
  s.modSq (Squad.settle (fun e => e.old.any (fun w => names.contains w.reg)))

/-- The scoreboard's wait before the instruction issues. -/
def State.ready (s : State) (f : Form) : State :=
  if s.isM then (if f.needsAll then s.drainQueue else s)
  else if f.needsAll then s.drainAll.modSq (Squad.settle (fun _ => true))
  else (s.drain (fun e => e.rep.writes.any (fun w => f.names.contains w.reg))).settleLate f.names

/-- An rfe is held until every earlier instruction of the handler has retired (18 R298). -/
def State.holdsRfe (s : State) (f : Form) : Bool :=
  f.uni && f.op9 == 0x180 && !s.isM && !s.sq.heldRfe && (!s.sq.late.isEmpty || s.sfu.any (·.squad == s.sq.id))

/-- Does a matrix instruction in the array queue, which waits for its publication, hold an instruction of the MCC that waits for all? -/
def State.queueHolds (s : State) (f : Form) : Bool := s.isM && f.needsAll && !(s.ready f).mcc.queue.isEmpty

/-- Run the parts that are left. -/
def State.runTodo (s : State) : State := runList s.todoNow s

/-- The split that issued last (10 R218). -/
def State.setTurn (s : State) (n : Nat) : State := s.modSq (fun q => { q with turn := n })

/-- An instruction that parks has not issued: it holds no entry of the replay queue, and no sampler counted it; but a tag of one that waits
for another package or for a collapse stands until it is done (23 R361). `r` is the state before. -/
def State.unissued (s r : State) : State :=
  let deep := (s.taggedBy s.sq.id s.sq.cur).any (fun p => decide (7 ≤ p.2.level))
  if s.isM then s
  else { s.modSq (fun q => { q with late := r.sq.late, flags := r.sq.flags }) with samplers := if deep then s.samplers else r.samplers }

/-- What follows the body: `num` is the split that issued, `s` the state in which the body ran, the scoreboard's wait over (02 R35); a trap
of its own leaves everything else as it was there. -/
def finishIssue (len num : Nat) (s : State) (cur : Cur) (r : Res) : Out :=
  match r with
  | .done u => .next ((u.setTurn num).advance len).runTodo
  | .jump u => .next (u.setTurn num).runTodo
  | .piped u => .next ((u.setTurn num).advance len)
  | .trap i => .next (s.takeTrap i cur)
  | .park u => .next (u.unissued s)
  | .over u => .next u
  | .hold => .next s

/-- The trap of a check that fails (03 R62). -/
def State.illegal (s : State) (reason : Nat) (cur : Cur) : State := s.takeTrap ⟨.illegalInstruction, reason, 0, 0⟩ cur

/-- An instruction of the agent in focus issues. -/
def State.issue (s : State) (f : Form) (body : State → Res) : Out :=
  if s.focus = .idle then .fault .noIssuer
  else
    let cur : Cur := ⟨s.pcNow, f.w0, f.w1⟩
    match s.refusal f with
    | some r => .next (s.illegal r cur)
    | none =>
      if !f.uni && s.lanes == 0 then finishIssue f.len s.sq.sp.num s cur (.done (s.started f))
      else
        match s.modeBad f with
        | some r => .next (s.illegal r cur)
        | none =>
          match (s.ready f).badLane f with
          | some l => .next ((s.ready f).takeTrap ⟨.poisonedData, 0, 0, l⟩ cur)
          | none =>
            if s.holdsRfe f then .next (s.modSq (fun q => { q with heldRfe := true }))
            else if s.queueHolds f then .next (s.ready f)
            else finishIssue f.len s.sq.sp.num (s.ready f) cur (body ((s.ready f).started f))

/-- Issue of a long, a short and a literal instruction. -/
def State.issueLong (s : State) (uni : Bool) (op9 : Nat) (w : Long) (body : State → Res) : Out := s.issue (s.formLong uni op9 w) body
def State.issueShort (s : State) (uni : Bool) (op9 : Nat) (w : Short) (body : State → Res) : Out := s.issue (s.formShort uni op9 w) body
def State.issueLit (s : State) (uni : Bool) (op9 : Nat) (w : Lit) (body : State → Res) : Out := s.issue (s.formLit uni op9 w) body

/-! ### Untranslated accesses (19 R312) -/

/-- The walk of a context and page that a miss joins, or the one that it adds to its die's queue (19 R312): the first 256 of a die run,
the others wait in order of arrival. -/
def State.joinWalk (s : State) (ctx va kind src : Nat) : Nat × State :=
  match s.walks.find? (fun w => w.ctx == ctx && w.va / 65536 == va / 65536) with
  | some w => (w.id, s)
  | none =>
    let f := s.fresh
    (f.1, { f.2 with walks := f.2.walks ++ [⟨f.1, ctx, va, kind, src, [], []⟩] })

/-- The issuer's access waits for the walk of its page. -/
def State.missAt (s : State) (k : AKind) (va lane : Nat) : Res :=
  let src := s.srcOf (s.clNow / 32) (if s.isM then 128 + s.mcc.cl % 32 else s.sq.cache % 128)
  let w := s.joinWalk s.ctxNow va k.code src
  let add : Walk → Walk := fun x => { x with agents := x.agents ++ [s.agentNow] }
  let s : State := { w.2 with walks := modAll (fun x => x.id == w.1) add w.2.walks }
  .park (if s.isM then s.modMcc (fun m => { m with walk := some w.1, missVa := va, due := 0 })
    else s.modSq (fun q => { q with walk := some w.1, missVa := va, faultLane := lane, due := 0 }))

/-- The access waits for the data of a line on another package: the package asks for the page's grant, and the whole access replays (10
Table 10.4, 12 R259). -/
def State.waitFar (s : State) (n : Need) (line : Nat) : Res :=
  .park ((s.ask n line).modSq (fun q => { q with st := .blocked, wake := some ⟨0x0C, line * 128, 0⟩, todo := [], due := 0 }))

/-- What accesses of the issuer read: line, is its page manual, the stamp. -/
def State.readsOf (s : State) (vas : List Nat) : List (Nat × Bool × Stamp) :=
  vas.filterMap (fun b => (s.leafAt s.ctxNow b).map (fun l => (lineOf (l.key b), l.cls == 2, s.stampFor s.launchNow s.tideNow l.cls)))

/-- A plain load waits for the version that it reads of a line on another package, or for a manual line's bytes (10 Table 10.4, 12 R259). -/
def State.waitData (s : State) (r : Nat × Bool × Stamp) : Res :=
  .park ((s.askData (s.clNow / 32) s.ctxNow r.1 r.2.1 r.2.2).modSq (fun q => { q with st := .blocked, wake := some ⟨0x0C, r.1 * 128, 0⟩, todo := [], due := 0 }))

/-- A read of the MCC does, which waits at no blocking point; it notes what it asked for (11 R236). -/
def State.waitDataM (s : State) (r : Nat × Bool × Stamp) : Res :=
  .park ((s.askData (s.clNow / 32) s.ctxNow r.1 r.2.1 r.2.2).modMcc (fun m => { m with
    due := 0, forced := if r.2.1 then m.forced else noteForced r.1 (some r.2.2) m.forced }))

/-- The access waits for its turn at the home of a line of this package, or for a grant; that wait is no blocking point, and the
instruction has not issued (10 R214, 12 R254). -/
def State.waitNear (s : State) (n : Need) (line : Nat) : Res :=
  let s := if s.granted n line then s.await n line else s.ask n line
  .park (if s.isM then s.modMcc (fun m => { m with due := 0 }) else s.modSq (fun q => { q with due := 0 }))

/-- Go on when the lines may be touched now. -/
def State.whenOpen (s : State) (n : Need) (lines : List Nat) (go : Unit → Res) : Res :=
  match (s.lacking n lines).or (s.barredOf n lines) with
  | some l => s.waitNear n l
  | none => go ()

/-- Go on when the checks of Table 7.2 pass. -/
def State.checked (s : State) (k : AKind) (al : Nat) (accs : List Acc) (go : Unit → Res) : Res :=
  match s.check k al accs with
  | .bad t => .trap t
  | .miss va lane => s.missAt k va lane
  | .ok => go ()

/-- Set what is left and answer that the effect so far is there. -/
def State.andThen (s : State) (l : List MOp) : Res := .done (s.setTodo l)

end Sys2Proof.Machine
end

