-- ==== Sys2Proof/Machine/Flags.lean ====
section
/-! DEFINITION. Flag conditions (01 R27, 02 Table 2.6, 05 R100): every instruction answers for each lane a value and its
conditions; the conditions of all the lanes of the lane set are ORed into the issuer's flags when it retires. -/

namespace Sys2Proof.Machine

/-- The OR of the conditions of the lanes of a mask. -/
def flagsOver (lanes : Mask) (f : Nat → Nat) : Nat := (lanesOf lanes).foldl (fun a l => a ||| f l) 0

/-- Two parts of one operation: the second's value with the conditions of both. -/
def withFlags (fl : Nat) (r : Nat × Nat) : Nat × Nat := (r.1, fl ||| r.2)

/-- The conditions of a value taken to an integer type (01 R31): none when it is there exactly. -/
def clampFlag (x lo hi : Int) : Nat := if x < lo ∨ hi < x then fNV else 0

end Sys2Proof.Machine
end

