-- ==== Sys2Proof/Machine/Operands.lean ====
section
/-! DEFINITION. Operand forms (03 R57 to R60, 05 R100, R102, R106): the operands of a lane under a type, the broadcast of
bsel, literals, modifiers, rounding codes, packed pairs; the writing of a lane result with its flags. -/

namespace Sys2Proof.Machine

/-! ### Types -/

/-- The least and the greatest value of an integer type. -/
def tyLo (t : Nat) : Int := if isSigned t then -((2 ^ (tyWidth t - 1) : Nat) : Int) else 0
def tyHi (t : Nat) : Int := if isSigned t then ((2 ^ (tyWidth t - 1) - 1 : Nat) : Int) else ((2 ^ tyWidth t - 1 : Nat) : Int)

/-- The integer that a pattern means under a type. -/
def tyVal (t v : Nat) : Int := if isSigned t then sext v (tyWidth t) else ((v % 2 ^ tyWidth t : Nat) : Int)

/-- An exact integer in a register of a 32- or 64-bit type: clamped with .sat, else wrapped (05 R102). -/
def tyOut (t : Nat) (sat : Bool) (x : Int) : Nat :=
  wrapI (if sat then clampI x (tyLo t) (tyHi t) else x) (if is64 t then 64 else 32)

/-! ### Lane operands -/

/-- The pattern of register operand r of a lane under a type (02 R36). -/
def State.vn (s : State) (t r l : Nat) : Nat := if is64 t then (s.sq.v2 r l).toNat else (s.sq.v r l).toNat

/-- The pattern of a uniform operand under a type. -/
def State.sn (s : State) (t r : Nat) : Nat := if is64 t then (s.spair r).toNat else (s.sreg r).toNat

/-- The b operand of a lane: v[b], or s[b] broadcast with bsel (05 R100). -/
def State.bn (s : State) (w : Long) (t l : Nat) : Nat := if xBsel w.x then s.sn t w.b.toNat else s.vn t w.b.toNat l

/-- The a and b operands of a lane as integers of the type in x. -/
def State.ai (s : State) (w : Long) (l : Nat) : Int := tyVal (xType w.x) (s.vn (xType w.x) w.a.toNat l)
def State.bi (s : State) (w : Long) (l : Nat) : Int := tyVal (xType w.x) (s.bn w (xType w.x) l)

/-- The b operand of a lane in one register. -/
def State.bw (s : State) (w : Long) (l : Nat) : W := if xBsel w.x then s.sreg w.b.toNat else s.sq.v w.b.toNat l

/-- The rounding mode of a code (03 Table 3.6). -/
def State.mode (s : State) (code : Nat) : Rnd := if code = 4 then fmtRnd s.fmtNow else Rnd.ofCode code

/-- The modifiers on a and on b (03 Table 3.3): absolute first, then negate. -/
def modA (m : BitVec 5) (x : FV) : FV := x.mods (m.getLsbD 2) (m.getLsbD 0)
def modB (m : BitVec 5) (x : FV) : FV := x.mods (m.getLsbD 3) (m.getLsbD 1)

/-- Is .sat set (m[4])? -/
def satOf (m : BitVec 5) : Bool := m.getLsbD 4

/-! ### Lane results -/

/-- Write a register of a type in the lanes of the lane set (05 R100). -/
def State.putV (s : State) (t d : Nat) (f : Nat → Nat) : State :=
  if is64 t then s.modSq (fun q => q.setV2 s.lanes d (fun l => BitVec.ofNat 64 (f l)))
  else s.modSq (fun q => q.setV s.lanes d (fun l => w32 (f l)))

/-- Write the value of each lane and OR the conditions of all lanes. -/
def State.laneOp (s : State) (t d : Nat) (f : Nat → Nat × Nat) : State :=
  (s.putV t d (fun l => (f l).1)).orFlags (flagsOver s.lanes (fun l => (f l).2))

/-- Write the bits of mask d of the lanes of the lane set and OR their conditions. -/
def State.laneK (s : State) (d : Nat) (f : Nat → Bool × Nat) : State :=
  (s.modSq (fun q => q.setKBits s.lanes d (fun l => (f l).1))).orFlags (flagsOver s.lanes (fun l => (f l).2))

/-! ### Float operands -/

/-- The IEEE format of a float type (03 Table 3.5). -/
def fmtOfTy (t : Nat) : IFmt := if t = tF32 then fp32 else if t = tF16 ∨ t = tF16x2 then fp16 else bf16

/-- Is it a packed type? -/
def isPacked (t : Nat) : Bool := t == tF16x2 || t == tBF16x2

/-- Element i of a register under a float type, as a value: a 16-bit scalar is bits [15:0] (05 R106). -/
def floatEl (t i v : Nat) : FV :=
  if t = tF32 then fp32.decode v else (fmtOfTy t).decode (bits v (16 * i + 15) (16 * i))

/-- Compute each element of a float type: element 1 only of a packed type. -/
def floatEach (t : Nat) (f : Nat → Nat × Nat) : Nat × Nat :=
  if isPacked t then
    let r0 := f 0
    let r1 := f 1
    (r0.1 + 65536 * r1.1, r0.2 ||| r1.2)
  else f 0

/-- The a, b and c operands of a lane's element as values after the modifiers. -/
def State.fa (s : State) (w : Long) (l i : Nat) : FV := modA w.m (floatEl (xType w.x) i (s.sq.v w.a.toNat l).toNat)
def State.fb (s : State) (w : Long) (l i : Nat) : FV := modB w.m (floatEl (xType w.x) i (s.bw w l).toNat)
def State.fc (s : State) (w : Long) (l i : Nat) : FV := floatEl (xType w.x) i (s.sq.v w.c.toNat l).toNat

/-- A comparison code of 04 Table 4.3 on an order: 0 eq, 1 ne, 2 lt, 3 le, 4 gt, 5 ge. -/
def condHolds (code : Nat) (lt eq : Bool) : Bool :=
  match code with
  | 0 => eq
  | 1 => !eq
  | 2 => lt
  | 3 => lt || eq
  | 4 => !lt && !eq
  | _ => !lt

end Sys2Proof.Machine
end

