-- ==== Sys2Proof/Machine/MemoryOps.lean ====
section
/-! DEFINITION. The memory instructions of the lane set (07 R136 to R147). -/

namespace Sys2Proof.Machine

/-! ### Plain loads (07 R137, R143) -/

/-- The lines that the loads of an instruction must collapse first. -/
def State.forcedLines (s : State) (accs : List Acc) : List Nat :=
  sortNat (accs.flatMap (fun a => (a.bytes.filter s.forces).map (fun b => lineOf (s.keyNow b))))

/-- The lines reach the CU. -/
def State.fillAccs (s : State) (accs : List Acc) : State :=
  (accs.flatMap Acc.bytes).foldl (fun s b =>
    match s.leafAt s.sq.ctx b with
    | some l => s.fill s.sq.cache s.sq.ctx l s.sq.tide (l.key b)
    | none => s) s

/-- A plain load: `go` writes the registers from the accesses; a doomed transaction reads zero (07 R153). A load that
forces collapses makes them, renews the tidemark and issues again. -/
def State.plainLoad (s : State) (al : Nat) (accs : List Acc) (zero go : State → State) : Res :=
  if s.inTx && s.sq.doomed.isSome then .done (zero s)
  else
    s.checked .ld al accs (fun _ =>
      match s.lacking .read (s.accLines accs) with
      | some l => s.waitFar .read l
      | none =>
        match s.forcedLines accs with
        | [] =>
          (match s.farLack s.sq.cache (s.clNow / 32) (s.readsOf (accs.flatMap Acc.bytes)) with
           | some r => s.waitData r
           | none => .done ((go s).fillAccs accs))
        | ls => .park ((s.setTodo [.collapseDo ls, .snap, .reissue]).runTodo))

/-- The address of a lane's access. -/
def laneEa (accs : List Acc) (l : Nat) : Nat :=
  match accs.find? (·.lane == l) with
  | some a => a.ea.toNat
  | none => 0

/-- Write the registers of a wcode from a value per lane. -/
def State.putWide (s : State) (d w : Nat) (v : Nat → Nat) : State :=
  (List.range (wRegs w)).foldl (fun t i => t.modSq (fun q => q.setV s.lanes (d + i) (fun l => wideW w (v l) i))) s

/-- ld (07 R136, R137). -/
def execLd (w : Long) (s : State) : Out :=
  s.issueLong false 0x120 w (fun s =>
    let wc := acW w.c
    let accs := s.globalAccs w (dispOf w.x) (wBytes wc)
    s.plainLoad (wBytes wc) accs (fun s => s.putWide w.d.toNat wc (fun _ => 0))
      (fun s => s.putWide w.d.toNat wc (fun l => s.loadNat (laneEa accs l) (wBytes wc))))

/-- ldblk (07 R143). -/
def execLdblk (w : Long) (s : State) : Out :=
  s.issueLong false 0x126 w (fun s =>
    let n := blkRegs s.fmtNow
    let accs := s.globalAccs w (dispOf w.x) (4 * n)
    let put (v : State → Nat → Nat → W) (s : State) : State :=
      (List.range n).foldl (fun t i => t.modSq (fun q => q.setV s.lanes (w.d.toNat + i) (v s i))) s
    s.plainLoad 8 accs (put (fun _ _ _ => 0)) (put (fun s i l => w32 (s.loadNat (laneEa accs l + 4 * i) 4))))

/-! ### Plain stores (07 R138) -/

/-- The value that a lane stores from register d under a wcode. -/
def State.storeVal (s : State) (d w l : Nat) : Nat :=
  ((List.range (wRegs w)).foldl (fun a i => a + (s.sq.v (d + i) l).toNat * 2 ^ (32 * i)) 0) % 2 ^ (8 * wBytes w)

/-- Write the bytes of one lane into pending lines. -/
def State.pendBytes (s : State) (va : Nat) : List Byte → State
  | [] => s
  | b :: r =>
    let s := match s.leafAt s.sq.ctx va with
      | some l => s.modSq (fun q => q.pend s.inTx l (l.key va) b)
      | none => s
    s.pendBytes (va + 1) r

/-- All lanes' bytes, lanes ascending. -/
def State.pendAll (s : State) (d w : Nat) (accs : List Acc) : State :=
  accs.foldl (fun s a => s.pendBytes a.ea.toNat (bytesLE a.n (s.storeVal d w a.lane))) s

/-- The lines of accesses that the CU's own L1 holds in A. -/
def State.ownA (s : State) (lines : List Nat) : List Nat :=
  lines.filter (fun l => s.acopies.any (fun c => c.line == l && c.cache == s.sq.cache && !c.port))

/-- st once its pending lines can be allocated: lines that this L1 holds in A collapse, the new pending lines take their ways. -/
def State.storeNow (s : State) (d w : Nat) (accs : List Acc) (lines new : List Nat) : State :=
  (State.makeWays s.sq.cache [] new ((s.ownA lines).foldl (fun s l => (s.collapseCu s.sq.cache l).2) s)).pendAll d w accs

/-- May everything leave the sets of these lines: no squad of the CU has a pending line there, and no other entry must stay? -/
def State.setsClear (s : State) (lines : List Nat) : Bool :=
  lines.all (fun l => decide (s.occupied s.sq.cache (setOf l) ≤ (s.victims s.sq.cache (setOf l)).length))

/-- Has the squad in focus published everything, all of it acknowledged? -/
def State.published (s : State) : Bool := s.pubLines.isEmpty && s.pubOwned.isEmpty && s.sq.ack == 0

/-- st (07 R136, R138, R153): a transaction that cannot allocate is doomed; another squad publishes first, or waits for the
allocation (log 20 for a store that no free L1 could hold). -/
def execSt (w : Long) (s : State) : Out :=
  s.issueLong false 0x121 w (fun s =>
    let wc := acW w.c
    let d := w.d.toNat
    let accs := s.globalAccs w (dispOf w.x) (wBytes wc)
    if s.inTx && s.sq.doomed.isSome then .done s
    else
      s.checked .st (wBytes wc) accs (fun _ =>
        let lines := s.accLines accs
        let new := s.newLines s.inTx (accs.flatMap (fun a => a.bytes.map s.keyNow))
        let fits := s.canPend s.sq.cache new
        s.whenOpen .shared (s.ownA lines) (fun _ =>
          if s.inTx then
            let mine := (s.sq.pending.filter (·.tx)).length + new.length
            if 256 < mine || (!fits && decide (16 < mine)) then .done (s.modSq (fun q => q.doom txCapacity))
            else .done (s.storeNow d wc accs lines new)
          else if fits || s.setsClear new then .done (s.storeNow d wc accs lines new)
          else if s.published then .hold
          else .park ((s.setTodo [.publish, .waitAck, .reissue]).runTodo))))

/-! ### Scratchpad (07 R139 to R142) -/

/-- Go on when the checks of the place pass; poisoned data counts once the lines are present (07 R140). -/
def State.checkedScr (s : State) (al : Nat) (store : Bool) (accs : List Acc) (go : Unit → Res) : Res :=
  match s.checkPlace al store accs with
  | some t => .trap t
  | none => go ()

/-- The address and the key of an access to a scratchpad: the key is where it goes, even if its window closes while it waits (12 R244). -/
def State.aim (s : State) (a : Acc) : Nat × Nat := (a.ea.toNat, s.scrKeyAt a.ea)

/-- lds (07 R139, R140); a doomed transaction reads zero (07 R153). -/
def execLds (w : Long) (s : State) : Out :=
  s.issueLong false 0x122 w (fun s =>
    let wc := acW w.c
    let accs := s.scratchAccs w (lanesOf s.lanes) (wBytes wc)
    if s.inTx && s.sq.doomed.isSome then .done (s.putWide w.d.toNat wc (fun _ => 0))
    else
      s.checkedScr (wBytes wc) false accs (fun _ =>
        s.andThen [.ldsDo w.d.toNat wc (accs.map (fun a => (a.lane, s.aim a)))]))

/-- sts (07 R139 to R141). -/
def execSts (w : Long) (s : State) : Out :=
  s.issueLong false 0x123 w (fun s =>
    let wc := acW w.c
    let accs := s.scratchAccs w (lanesOf s.lanes) (wBytes wc)
    s.checkedScr (wBytes wc) true accs (fun _ =>
      s.andThen [.stsDo (accs.map (fun a => ((s.aim a).1, (s.aim a).2, a.n, s.storeVal w.d.toNat wc a.lane)))]))

/-- The rows of a fragment load: those of its 8 F lanes, whatever the lane set (07 R142). With F = 1 or 2 the lanes from 8 F up supply
no row; R142 says that the rows of all 32 lanes are read, which the model takes as the rows there are: it neither reads nor checks
the addresses of those lanes (log 97). A doomed transaction reads zero (07 R153). -/
def State.fragLoad (s : State) (op9 : Nat) (w : Long) : Res :=
  let accs := s.scratchAccs w (List.range (8 * 2 ^ (w.c.toNat % 4))) 16
  if s.inTx && s.sq.doomed.isSome then
    .done (s.modSq (fun q => (List.range (2 ^ (w.c.toNat % 4))).foldl (fun q f => q.setV s.lanes (w.d.toNat + f) (fun _ => 0)) q))
  else
    s.checkedScr 16 false accs (fun _ =>
      s.andThen [.ldsmDo op9 w.c.toNat w.d.toNat (accs.map s.aim) s.lanes])

/-- ldsm (07 R142). -/
def execLdsm (w : Long) (s : State) : Out := s.issueLong false 0x124 w (fun s => s.fragLoad 0x124 w)

/-- ldsm.t (07 R142). -/
def execLdsmT (w : Long) (s : State) : Out := s.issueLong false 0x125 w (fun s => s.fragLoad 0x125 w)

/-! ### Ordered accesses, atomics, updates (07 R144 to R146) -/

/-- ld.acq (07 R144). -/
def execLdAcq (w : Long) (s : State) : Out :=
  s.issueLong false 0x127 w (fun s =>
    let wc := acW w.c
    let accs := s.globalAccs w (dispOf w.x) (wBytes wc)
    s.checked .acq (wBytes wc) accs (fun _ =>
      s.andThen [.acqRead w.d.toNat wc (accs.map (fun a => (a.lane, a.ea.toNat))), .snap]))

/-- st.rel (07 R144). -/
def execStRel (w : Long) (s : State) : Out :=
  s.issueLong false 0x128 w (fun s =>
    let wc := acW w.c
    let accs := s.globalAccs w (dispOf w.x) (wBytes wc)
    s.checked .rel (wBytes wc) accs (fun _ =>
      s.andThen [.publish, .waitAck,
        .relWrite (accs.map (fun a => (a.lane, a.ea.toNat, a.n, s.storeVal w.d.toNat wc a.lane)))]))

/-- atom (07 R145): the displacement is zero. -/
def execAtom (w : Long) (s : State) : Out :=
  s.issueLong false 0x129 w (fun s =>
    let ty := xType w.x
    let acq := bit (xSub w.x) 4
    let rel := bit (xSub w.x) 5
    let n := wordBytes ty
    let accs := s.globalAccs w 0 n
    s.checked .atom n accs (fun _ =>
      s.andThen ((if rel then [.publish, .waitAck] else []) ++
        [.atomDo (xSub w.x % 16) ty w.d.toNat acq rel (accs.map (fun a => (a.lane, a.ea.toNat)))] ++
        (if acq then [.snap] else []))))

/-- One lane of upd (07 R146). The BF16 operand of .accbf is widened exactly. -/
def State.updLane (s : State) (op ty d : Nat) (a : Acc) : State :=
  let key := s.keyNow a.ea.toNat
  let line := lineOf key
  let s := if s.holdsA s.sq.cache line op ty then s else s.obtainA s.sq.cache line op ty
  let v := if is64 ty then (s.sq.v2 d a.lane).toNat
    else if op = 4 then (s.sq.v d a.lane).toNat % 65536 * 65536
    else (s.sq.v d a.lane).toNat
  s.foldInto s.sq.cache line op ty (key % 128 / wordBytes ty) v

/-- upd (07 R146). -/
def execUpd (w : Long) (s : State) : Out :=
  s.issueLong false 0x12A w (fun s =>
    let ty := xType w.x
    let accs := s.globalAccs w 0 (wordBytes ty)
    s.checked .upd (wordBytes ty) accs (fun _ =>
      let lines := s.accLines accs
      let n : Need := .upd (xSub w.x) ty
      s.whenOpen n lines (fun _ =>
        if (lines.filter (fun l => !s.holdsA s.sq.cache l (xSub w.x) ty)).all (s.roomOne s.sq.cache) then
          .done (accs.foldl (fun s a => s.updLane (xSub w.x) ty w.d.toNat a) s)
        else .hold)))

/-! ### Prefetch (07 R147) -/

/-- One lane of pfch to the L1 (level 0) or to the L2 of its die: a lane that fails a check, whose page is not mapped among them, is
dropped. The L2 of a line's home has it already; for a line of another member the package asks its home, and nothing waits. A line of a manual page is left where it is, since a copy of it could be seen (log 21). R147
gives pfch no access width, so order 1 has no alignment to ask for: the model takes one byte, which is never misaligned (log 21). -/
def State.prefetch (level : Nat) (s : State) (a : Acc) : State :=
  match (if a.ea < 0 then none else s.leafFor s.sq.ctx a.ea.toNat) with
  | some l =>
    let line := lineOf (l.key a.ea.toNat)
    let t := s.stampFor s.sq.launch s.sq.tide l.cls
    if !s.allowed .pfch s.sq.ctx l || l.cls = 2 then s
    else if !s.granted .read line then s.ask .read line
    else if !s.reachesData s.sq.cache (s.clNow / 32) line false t then s.askData (s.clNow / 32) s.sq.ctx line false t
    else if level = 0 then s.fill s.sq.cache s.sq.ctx l s.sq.tide (l.key a.ea.toNat)
    else s.fillL2 (s.sq.cache / 128) line t
  | none => s

/-- pfch (07 R147). -/
def execPfch (w : Long) (s : State) : Out :=
  s.issueLong false 0x12B w (fun s => .done ((s.globalAccs w (dispOf w.x) 1).foldl (State.prefetch (acW w.c)) s))

end Sys2Proof.Machine
end

