-- ==== Sys2Proof/Machine/Engine.lean ====
section
/-! DEFINITION. Engine commands, their checks at issue, counters and waits (09 R178 to R189). -/

namespace Sys2Proof.Machine

/-! ### Ranges of a command (09 R180, R181) -/

/-- Rows of bytes that a command touches: in scratch or global, the first row's address, row length, rows, stride. -/
structure Rng where
  scr    : Bool
  base   : Nat
  len    : Nat
  rows   : Nat
  stride : Nat
deriving DecidableEq, Repr

/-- The same bytes with no row repeated at one place, and no row when there is no byte. -/
def Rng.tidy (r : Rng) : Rng :=
  if r.len = 0 ∨ r.rows = 0 then { r with rows := 0 } else if r.stride = 0 then { r with rows := 1 } else r

/-- The lowest byte of global rows at or above 2^57. -/
def Rng.farByte (r : Rng) : Option Nat :=
  if r.rows = 0 ∨ r.base + (r.rows - 1) * r.stride + r.len ≤ 2 ^ 57 then none
  else
    let i := if 2 ^ 57 < r.base + r.len ∨ r.stride = 0 then 0 else (2 ^ 57 - r.base - r.len) / r.stride + 1
    some (max (2 ^ 57) (r.base + i * r.stride))

/-- How many bytes from a scratch address of the issuer on lie in one scratchpad, or the cause that it lies in none. -/
def State.scrRoom (s : State) (a : Nat) : Except Cause Nat :=
  match s.scrAt (a : Int) with
  | .error c => .error c
  | .ok _ =>
    if s.isM then .ok (s.scrSize s.mcc.launch - a % 2 ^ 19)
    else
      match s.teamNow with
      | none => .error .scratchRange
      | some u =>
        if a < u.size then .ok (u.size - a)
        else
          let o := a - 0x80000000
          match s.teams.find? (fun t => t.shoal == u.shoal && t.cache / 4 == u.cache / 4 && t.shSlot == o / 0x80000 &&
              decide (o % 0x80000 < t.size)) with
          | some t => .ok (t.size - o % 0x80000)
          | none => .error .shoalWindow

/-- The lowest byte of one scratch row that fails with a cause. -/
def State.rowBad (s : State) (c : Cause) : Nat → Nat → Nat → Option Nat
  | 0, _, _ => none
  | n + 1, a, len =>
    if len = 0 then none
    else
      match s.scrRoom a with
      | .ok r => s.rowBad c n (a + r) (len - r)
      | .error d => if d = c then some a else s.rowBad c n (a + (0x80000 - a % 0x80000)) (len - (0x80000 - a % 0x80000))

/-- The lowest byte of scratch rows that fails with a cause. -/
def State.rowsBad (s : State) (c : Cause) (len stride : Nat) : Nat → Nat → Option Nat
  | 0, _ => none
  | n + 1, a => (s.rowBad c 24 a len).or (s.rowsBad c len stride n (a + stride))

/-- The lowest byte of a range that fails with a cause of R181's first check. -/
def State.rngBad (s : State) (c : Cause) (r : Rng) : Option Nat :=
  if c = .addrRange then (if r.scr then none else r.farByte)
  else if r.scr then s.rowsBad c r.len r.stride (min r.rows (2 ^ 23)) r.base
  else none

/-- Bytes of a scratch row that lie together: address, key, number. -/
structure Seg where
  ea  : Nat
  key : Nat
  n   : Nat
deriving DecidableEq, Repr

/-- The pieces of one scratch row. -/
def State.rowSegs (s : State) : Nat → Nat → Nat → List Seg
  | 0, _, _ => []
  | n + 1, a, len =>
    if len = 0 then []
    else
      match s.scrRoom a with
      | .ok r => ⟨a, s.scrKeyAt (a : Int), min r len⟩ :: s.rowSegs n (a + r) (len - r)
      | .error _ => []

/-- The pieces of a scratch range. -/
def State.segs (s : State) (r : Rng) : List Seg :=
  if r.scr then (List.range r.rows).flatMap (fun i => s.rowSegs 24 (r.base + i * r.stride) r.len) else []

/-- The presence lines of pieces (07 R140). -/
def segLines (l : List Seg) : List Nat :=
  sortNat (l.flatMap (fun g => (List.range ((g.key + g.n - 1) / 128 - g.key / 128 + 1)).map (g.key / 128 + ·)))

/-- The lowest address of a piece whose bytes meet n bytes at a key. -/
def Seg.meet (g : Seg) (key n : Nat) : Option Nat :=
  if g.key < key + n ∧ key < g.key + g.n then some (g.ea + (max g.key key - g.key)) else none

/-- The lowest of a list of addresses. -/
def lowest (l : List Nat) : Option Nat := argMin id l

/-- The lowest typed byte of pieces. -/
def State.typedByte (s : State) (l : List Seg) : Option Nat :=
  lowest (l.flatMap (fun g => s.objs.filterMap (fun o => g.meet o.key 16)))

/-- The completion of a command as a range: 0 none, 1 .cnt, 2 .bar. -/
def compRng (comp ea : Nat) : Rng := ⟨true, ea, if comp = 1 then 8 else 16, if comp = 0 then 0 else 1, 0⟩

/-- The checks of R181, in order, with the lowest address that fails. -/
def State.cmdCheck (s : State) (dst src : Rng) (other : List Rng) (comp ea : Nat) (overlap : Bool) : Option TrapInfo :=
  let all := [dst, src] ++ other ++ [compRng comp ea]
  let at_ (c : Cause) (r : Option Nat) : Option TrapInfo := r.map (fun a => ⟨c, 0, a, 0⟩)
  let range (c : Cause) : Option TrapInfo := at_ c (lowest (all.filterMap (s.rngBad c)))
  let d := s.segs dst
  let cseg := s.segs (compRng comp ea)
  (range .addrRange).or ((range .scratchRange).or ((range .shoalWindow).or
    ((if (comp = 1 ∧ ea % 8 ≠ 0) ∨ (comp = 2 ∧ ea % 16 ≠ 0) then some ⟨.memMisaligned, 0, ea, 0⟩ else none).or
    ((at_ .barrierClobber ((s.typedByte d).or (if comp = 1 then s.typedByte cseg else none))).or
    ((if comp = 2 ∧ (s.objOf (s.scrKeyAt (ea : Int))).isNone then some ⟨.barKind, 0, ea, 0⟩ else none).or
    (if overlap then at_ .copyOverlap (lowest (d.flatMap (fun g => (s.segs src).filterMap (fun h => g.meet h.key h.n))))
     else none))))))

/-! ### Commands -/

/-- The operand group. -/
def State.group (s : State) (a n : Nat) : List W := (List.range n).map (fun i => s.sreg (a + i))

/-- A value of a group, and a pair of it. -/
def grp (g : List W) (i : Nat) : Nat := (nth 0 g i).toNat
def grp2 (g : List W) (i : Nat) : Nat := grp g i + 2 ^ 32 * grp g (i + 1)

/-- A side of a command whose group places it at i: scratch takes one register, global a pair. -/
def sideRng (scr : Bool) (g : List W) (i len rows stride : Nat) : Rng :=
  Rng.tidy ⟨scr, if scr then grp g i else grp2 g i, len, rows, stride⟩

/-- A command issues and writes its number (09 R182). -/
def State.sendCmd (s : State) (kind : CmdKind) (place d : Nat) (g : List W) (mode : Nat) (two : Bool) (comp ea : Nat)
    (addend : W) (key : Nat) (lines : List Nat) : State :=
  let n := s.issueNo place
  (s.issueCmd kind place g mode two comp ea addend key lines).setS2 d (BitVec.ofNat 64 n)

/-- cpy and cpy.2d (09 R180 to R182). -/
def State.copyCmd (s : State) (w : Long) (two : Bool) : Res :=
  let x := w.x.toNat
  let g := s.group w.a.toNat (if two then 10 else 7)
  let rows := if two then grp g 7 else 1
  let dst := sideRng (bit x 0) g 0 (grp g 4) rows (if two then grp g 8 else 0)
  let src := sideRng (bit x 1) g 2 (grp g 4) rows (if two then grp g 9 else 0)
  let comp := bits x 3 2
  match s.cmdCheck dst src [] comp (grp g 5) (bit x 0 && bit x 1) with
  | some t => .trap t
  | none => .done (s.sendCmd .cpy w.c.toNat w.d.toNat g x two comp (grp g 5) (nth 0 g 6) 0 (segLines (s.segs dst)))

/-- cpy. -/
def execCpy (w : Long) (s : State) : Out := s.issueLong true 0x0E0 w (fun s => s.copyCmd w false)

/-- cpy.2d. -/
def execCpy2d (w : Long) (s : State) : Out := s.issueLong true 0x0E1 w (fun s => s.copyCmd w true)

/-- gath: the gathered global bytes are checked as the engine reads them (09 R181). -/
def execGath (w : Long) (s : State) : Out :=
  s.issueLong true 0x0E2 w (fun s =>
    let x := w.x.toNat
    let g := s.group w.a.toNat 7
    let dst := Rng.tidy ⟨true, grp g 2, grp g 4 * 2 ^ bits x 2 0, 1, 0⟩
    let idx := Rng.tidy ⟨true, grp g 3, grp g 4 * (if bits x 4 3 = 2 then 8 else 4), 1, 0⟩
    let comp := bits x 6 5
    match s.cmdCheck dst idx [] comp (grp g 5) false with
    | some t => .trap t
    | none =>
      .done (s.sendCmd .gath (tlPlace 0x10 s.posNow) w.d.toNat g x false comp (grp g 5) (nth 0 g 6) 0 (segLines (s.segs dst))))

/-- rcpy: with .arm it waits for two free entries of the range table (09 R185). -/
def execRcpy (w : Long) (s : State) : Out :=
  s.issueLong true 0x0E3 w (fun s =>
    let x := w.x.toNat
    let g := s.group w.a.toNat 7
    match s.cmdCheck (sideRng false g 0 (grp g 4) 1 0) (sideRng false g 2 (grp g 4) 1 0) [] (bits x 2 1) (grp g 5) false with
    | some t => .trap t
    | none => s.andThen [.rcpyDo w.d.toNat x g])

/-- rsig (09 R186, R189). -/
def execRsig (w : Long) (s : State) : Out :=
  s.issueLong true 0x0E4 w (fun s =>
    let va := (s.spair w.a.toNat).toNat
    s.checked .rsig 8 [⟨0, (va : Int), 8⟩] (fun _ =>
      if !s.ackRoom 1 then .hold
      else .done ((s.sendCmd .rsig (tlPlace 0x11 s.posNow) w.d.toNat [] 0 false 0 0 (s.sreg w.b.toNat) (s.keyNow va) []).modSq
        (fun q => { q with ack := q.ack + 1 }))))

/-! ### Counters and waits (09 R187) -/

/-- tlget. -/
def execTlget (w : Long) (s : State) : Out :=
  s.issueLong true 0x0E8 w (fun s =>
    let t := s.timeline s.ctxNow s.clNow (tlPlace w.c.toNat s.posNow)
    .done (s.setS2 w.d.toNat (BitVec.ofNat 64 (if bit w.x.toNat 0 then t.issued else t.done))))

/-- tlwait. -/
def execTlwait (w : Long) (s : State) : Out :=
  s.issueLong true 0x0E9 w (fun s => s.andThen [.waitTl w.c.toNat (s.spair w.a.toNat).toNat, .snap])

/-- tlsig. -/
def execTlsig (w : Long) (s : State) : Out :=
  s.issueLong true 0x0EA w (fun s =>
    let comp := bits w.x.toNat 1 0
    let ea := (s.sreg w.a.toNat).toNat
    match s.cmdCheck (compRng 0 0) (compRng 0 0) [] comp ea false with
    | some t => .trap t
    | none =>
      .done (s.sendCmd .sig (tlPlace w.c.toNat s.posNow) w.d.toNat [] 0 false comp ea (s.sreg w.b.toNat) 0 []))

/-- waitc: the word is untyped. -/
def execWaitc (w : Long) (s : State) : Out :=
  s.issueLong true 0x0EB w (fun s =>
    let ea := (s.sreg w.a.toNat).toNat
    let acc : List Acc := [⟨0, (ea : Int), 8⟩]
    match s.checkScr 8 true acc with
    | some t => .trap (if t.cause = .barrierClobber then ⟨.barKind, 0, t.addr, 0⟩ else t)
    | none => s.checkedScr 8 false acc (fun _ => s.andThen [.waitWord ea (s.spair w.b.toNat).toNat, .snap]))

/-- waitc.g. -/
def execWaitcG (w : Long) (s : State) : Out :=
  s.issueLong true 0x0EB w (fun s =>
    let va := (s.spair w.a.toNat).toNat
    s.checked .waitg 8 [⟨0, (va : Int), 8⟩] (fun _ =>
      s.andThen [.waitWordG va (s.spair w.b.toNat).toNat, .snap]))

end Sys2Proof.Machine
end

