-- ==== Sys2Proof/Machine/Barrier.lean ====
section
/-! DEFINITION. Barriers, work creation, shoals and message channels (09 R190 to R198). -/

namespace Sys2Proof.Machine

/-! ### Barrier objects (09 R190, R191) -/

/-- Go on when an address names 16 bytes of scratch that are 16-aligned. -/
def State.barAt (s : State) (ea : Nat) (go : Unit → Res) : Res :=
  s.checkedScr 1 false [⟨0, (ea : Int), 16⟩] (fun _ => if ea % 16 ≠ 0 then .trap ⟨.barKind, 0, ea, 0⟩ else go ())

/-- Go on with the object at an address. -/
def State.barObj (s : State) (ea : Nat) (go : BarObj → Res) : Res :=
  s.barAt ea (fun _ =>
    match s.objOf (s.scrKeyAt (ea : Int)) with
    | none => .trap ⟨.barKind, 0, ea, 0⟩
    | some o => go o)

/-- Has an object no waiters and no arrivals? -/
def BarObj.idle (o : BarObj) : Bool := o.waiters == 0 && o.arrived == 0

/-- The team whose scratchpad holds a key. -/
def State.ownerOf (s : State) (key : Nat) : Nat :=
  match s.teams.find? (fun t => t.cache == key / 2 ^ 19 && decide (t.base ≤ key % 2 ^ 19 ∧ key % 2 ^ 19 < t.base + t.size)) with
  | some t => t.id
  | none => 0

/-- bar.init. -/
def execBarInit (w : Long) (s : State) : Out :=
  s.issueLong true 0x0F0 w (fun s =>
    let ea := (s.sreg w.a.toNat).toNat
    let n := (s.sreg w.b.toNat).toNat
    s.barAt ea (fun _ =>
      let key := s.scrKeyAt (ea : Int)
      let old := s.objOf key
      if old.any (fun o => !o.idle) then .trap ⟨.barBusy, 0, ea, 0⟩
      else if s.objs.any (fun o => o.key != key && decide (o.key < key + 16 ∧ key < o.key + 16)) then .trap ⟨.barrierClobber, 0, ea, 0⟩
      else if n = 0 ∨ 2 ^ 20 < n ∨ (old.isNone ∧ 256 ≤ (s.objs.filter (fun o => o.key / 2 ^ 19 == key / 2 ^ 19)).length) then
        .trap ⟨.barArg, 0, ea, 0⟩
      else .done (s.setObj ⟨key, n, 0, 0, 0, Stamp.zero, Stamp.zero, s.ownerOf key⟩)))

/-- The typing of an object ends: its bytes stay as it held them. -/
def State.untype (s : State) (o : BarObj) : State :=
  ({ s with objs := s.objs.filter (·.key != o.key) } : State).scrWrite o.key o.bytes

/-- bar.init.free. -/
def execBarInitFree (w : Long) (s : State) : Out :=
  s.issueLong true 0x0F0 w (fun s =>
    let ea := (s.sreg w.a.toNat).toNat
    s.barObj ea (fun o => if o.idle then .done (s.untype o) else .trap ⟨.barBusy, 0, ea, 0⟩))

/-- bar.arr. -/
def execBarArr (w : Long) (s : State) : Out :=
  s.issueLong true 0x0F1 w (fun s =>
    let ea := (s.sreg w.a.toNat).toNat
    s.barObj ea (fun _ => s.andThen [.publish, .waitAck, .arriveObj ea (some w.d.toNat) false]))

/-- bar.wait: it is a waiter until the phase changes. -/
def execBarWait (w : Long) (s : State) : Out :=
  s.issueLong true 0x0F2 w (fun s =>
    let ea := (s.sreg w.a.toNat).toNat
    let ph := s.sreg w.b.toNat
    s.barObj ea (fun o =>
      (if o.phase ≠ ph then s else s.setObj { o with waiters := o.waiters + 1 }).andThen [.waitObj ea (s.scrKeyAt (ea : Int)) ph, .snap]))

/-- bar.arrw. -/
def execBarArrw (w : Long) (s : State) : Out :=
  s.issueLong true 0x0F3 w (fun s =>
    let ea := (s.sreg w.a.toNat).toNat
    s.barObj ea (fun _ => s.andThen [.publish, .waitAck, .arriveObj ea none true, .snap]))

/-! ### Hardware and level barriers (09 R192, R193) -/

/-- bar.sync. -/
def execBarSync (w : Long) (s : State) : Out :=
  s.issueLong true 0x0F4 w (fun s => s.andThen [.publish, .waitAck, .arriveSync w.b.toNat w.c.toNat, .snap])

/-- lbar. -/
def execLbar (w : Long) (s : State) : Out :=
  s.issueLong true 0x0F5 w (fun s => s.andThen [.publish, .waitAck, .arriveLvl w.b.toNat, .snap])

/-! ### Work creation (09 R195, R196) -/

/-- spawn: each lane emits a record, in ascending order. -/
def execSpawn (w : Long) (s : State) : Out :=
  s.issueLong true 0x0F8 w (fun s =>
    let entry := (s.spair w.a.toNat).toNat
    if entry % 4 ≠ 0 then .trap ⟨.spawnArg, 0, 0, 0⟩
    else s.andThen ([.publish, .waitAck] ++
      (lanesOf s.lanes).map (fun l => .emit entry ((List.range 14).map (fun i => s.sq.v (w.b.toNat + i) l)))))

/-- post. -/
def execPost (w : Long) (s : State) : Out :=
  s.issueLong true 0x0F9 w (fun s =>
    let ea := (s.sreg w.a.toNat).toNat
    let q := (s.sreg w.b.toNat).toNat
    let acc : List Acc := [⟨0, (ea : Int), 64⟩]
    match s.checkPlace 64 false acc with
    | some t => .trap t
    | none =>
      match s.qdesc q with
      | some d =>
        if s.postable s.ctxNow q then s.andThen [.publish, .waitAck, .postDo ea q d.ring d.lsize] else .trap ⟨.queueDenied, 0, 0, 0⟩
      | none => .trap ⟨.queueDenied, 0, 0, 0⟩)

/-! ### Shoals (09 R197, 12 R243) -/

/-- The LVIDX of the lowest declared level of domain shoal of a team. -/
def State.shoalSlot (s : State) (u : Team) : Option Nat :=
  match s.launchOf u.launch with
  | none => none
  | some l => (l.hdr.levels.find? (·.1 == 1)).map (fun v => u.num % v.2)

/-- join. -/
def execJoin (w : Long) (s : State) : Out :=
  s.issueLong true 0x0FA w (fun s =>
    let n := w.b.toNat
    match s.teamNow with
    | none => .trap ⟨.shoalState, 0, 0, 0⟩
    | some u =>
      if u.shoal = some n then .done s
      else
        match s.shoalSlot u with
        | none => .trap ⟨.shoalState, 0, 0, 0⟩
        | some slot =>
          if u.shoal.isSome ∨ s.teams.any (fun t => t.id != u.id && t.cache / 4 == u.cache / 4 && t.shoal == some n && t.shSlot == slot) then
            .trap ⟨.shoalState, 0, 0, 0⟩
          else .done (s.modTeam u.id (fun v => { v with shoal := some n, shSlot := slot })))

/-- leave: window accesses already issued have either taken effect or wait on an absent line; while one of the team's own
waits, leave waits for it. -/
def execLeave (w : Long) (s : State) : Out :=
  s.issueLong true 0x0FB w (fun s =>
    s.andThen [.leaveDo])

/-! ### Message channels (09 R198) -/

/-- Has a channel room? -/
def Chan.room (c : Chan) : Bool := decide (c.msgs.length + c.reserved < 16)

/-- msend and msend.try. -/
def execMsend (w : Long) (s : State) : Out :=
  s.issueLong true 0x0FC w (fun s =>
    let ch := w.b.toNat
    let v := s.spair w.a.toNat
    if bit w.x.toNat 0 then
      let c := s.chan s.clNow ch
      if c.room then
        ((s.setChan { c with reserved := c.reserved + 1 }).setScc true).andThen [.publish, .waitAck, .sendDo ch v true]
      else .done (s.setScc false)
    else s.andThen [.publish, .waitAck, .sendDo ch v false])

/-- mrecv and mrecv.try. -/
def execMrecv (w : Long) (s : State) : Out :=
  s.issueLong true 0x0FD w (fun s =>
    let ch := w.b.toNat
    if bit w.x.toNat 0 then
      if (s.chan s.clNow ch).msgs.isEmpty then .done (s.setScc false)
      else (s.setScc true).andThen [.recvDo ch w.d.toNat, .snap]
    else s.andThen [.recvDo ch w.d.toNat, .snap])

end Sys2Proof.Machine
end

