-- ==== Sys2Proof/Machine/Control.lean ====
section
/-! DEFINITION. Control of the uniform set: branches, splits, predicate blocks, format, partition, special registers, roles,
exit, trap (04 R87 to R99, 03 R64, 02 R48 to R51). -/

namespace Sys2Proof.Machine

/-! ### Branches (04 R87, R88) -/

/-- The target of a literal branch: a signed byte offset from its own address. -/
def State.target (s : State) (w : Lit) : D := s.pcNow + w.lit.signExtend 64

/-- A branch of literal form. -/
def State.branch (s : State) (w : Lit) (taken : Bool) : Res := if taken then .jump (s.setPc (s.target w)) else .done s

/-- A jump to the address in a pair. -/
def State.jumpTo (s : State) (w : Short) : Res :=
  if (s.spair w.a.toNat).toNat % 4 = 0 then .jump (s.setPc (s.spair w.a.toNat))
  else .trap ⟨.illegalInstruction, 8, 0, 0⟩

/-- bra (04 R87). -/
def execBra (w : Lit) (s : State) : Out := s.issueLit true 0x060 w (fun s => s.branch w true)

/-- brz (04 R87). -/
def execBrz (w : Lit) (s : State) : Out := s.issueLit true 0x061 w (fun s => s.branch w (!s.scc))

/-- brnz (04 R87). -/
def execBrnz (w : Lit) (s : State) : Out := s.issueLit true 0x062 w (fun s => s.branch w s.scc)

/-- jmp (04 R88). -/
def execJmp (w : Short) (s : State) : Out := s.issueShort true 0x063 w (fun s => s.jumpTo w)

/-- call: its own address + 8 goes to the pair (04 R87). -/
def execCall (w : Lit) (s : State) : Out :=
  s.issueLit true 0x064 w (fun s => .jump ((s.setS2 w.d.toNat (s.pcNow + 8)).setPc (s.target w)))

/-- ret (04 R88). -/
def execRet (w : Short) (s : State) : Out := s.issueShort true 0x065 w (fun s => s.jumpTo w)

/-- bany (04 R87). -/
def execBany (w : Lit) (s : State) : Out :=
  s.issueLit true 0x066 w (fun s => s.branch w (s.sq.k w.a.toNat &&& s.sq.k 0 != 0))

/-- ball (04 R87). -/
def execBall (w : Lit) (s : State) : Out :=
  s.issueLit true 0x067 w (fun s => s.branch w (s.sq.k w.a.toNat &&& s.sq.k 0 == s.sq.k 0))

/-- bnone (04 R87). -/
def execBnone (w : Lit) (s : State) : Out :=
  s.issueLit true 0x068 w (fun s => s.branch w (s.sq.k w.a.toNat &&& s.sq.k 0 == 0))

/-! ### Splits (04 R89 to R93) -/

/-- The lowest free split number above n, else the lowest free one (04 R89). -/
def Squad.freeSplit (q : Squad) : Nat :=
  let free := (List.range 4).filter (fun n => n != q.sp.num && !q.rest.any (·.num == n))
  ((free.find? (fun n => decide (q.sp.num < n))).or free.head?).getD 0

/-- bdiv (04 R89). -/
def execBdiv (w : Lit) (s : State) : Out :=
  s.issueLit true 0x069 w (fun s =>
    let p := s.sq.sp
    let t := s.sq.k w.a.toNat &&& p.mask
    let f := p.mask &&& ~~~(s.sq.k w.a.toNat)
    if t = 0 then .done s
    else if f = 0 then .jump (s.setPc (s.target w))
    else if s.sq.rest.length < 3 then
      let new : Split := { Split.blank with num := s.sq.freeSplit, pc := s.target w, mask := t, fmt := p.fmt }
      .done (s.modSq (fun q => { q with rest := q.rest ++ [new], sp := { q.sp with mask := f } }))
    else if p.stack.length = 16 then .trap ⟨.splitOverflow, 0, 0, 0⟩
    else .jump (s.modSq (fun q => { q with
      sp := { q.sp with stack := ⟨p.pc + 8, .deferred, f, p.fmt⟩ :: p.stack, mask := t, pc := s.target w } })))

/-- May two splits merge (04 R91)? -/
def Split.joins (a b : Split) : Bool :=
  a.pc == b.pc && a.fmt == b.fmt && !a.inBlock && !b.inBlock && (a.stack.isEmpty || b.stack.isEmpty)

/-- The merged split (04 R91). -/
def Split.merge (a b : Split) : Split :=
  { a with num := min a.num b.num, mask := a.mask ||| b.mask, stack := if a.stack.isEmpty then b.stack else a.stack
           waiting := false }

/-- Merge into a split every split of a list that joins it, in ascending number where not all can, the model's choice (log 110): the merged
split and the others. -/
def Split.mergeAll (a : Split) : List Split → Split × List Split
  | [] => (a, [])
  | b :: r => if a.joins b then (a.merge b).mergeAll r
    else
      let m := a.mergeAll r
      (m.1, b :: m.2)

/-- Merge within a list of splits. -/
def mergeGroups : Nat → List Split → List Split
  | 0, l => l
  | _ + 1, [] => []
  | n + 1, a :: r =>
    let m := a.mergeAll r
    m.1 :: mergeGroups n m.2

/-- When every split of the squad waits at converge they are released: equal ones merge, all continue at their address
+ 4 (04 R92). -/
def Squad.release (q : Squad) : Squad :=
  if q.sp.waiting && q.rest.all (·.waiting) then
    let go : Split → Split := fun p => { p with pc := p.pc + 4, waiting := false }
    match (mergeGroups 4 (q.sp :: q.rest)).map go with
    | [] => q
    | p :: r => { q with sp := p, rest := r }
  else q

/-- The loop of converge at address c over the stack (04 R92). -/
def convergeAt (c : D) : List StackEntry → Split → Split
  | [], p => { p with stack := [], pc := c, waiting := true }
  | e :: r, p =>
    if e.kind = .deferred then
      { p with stack := ⟨c, .parked, p.mask, p.fmt⟩ :: r, pc := e.pc, mask := e.mask, fmt := e.fmt }
    else if e.pc = c ∧ e.fmt = p.fmt then convergeAt c r { p with mask := p.mask ||| e.mask }
    else { p with stack := e :: r, pc := c + 4 }

/-- converge (04 R92). -/
def execConverge (w : Short) (s : State) : Out :=
  s.issueShort true 0x06A w (fun s =>
    .jump (s.modSq (fun q => ({ q with sp := convergeAt q.sp.pc q.sp.stack q.sp } : Squad).release)))

/-- pblk opens a block with the captured mask and active mask (03 R64). -/
def execPblk (w : Long) (s : State) : Out :=
  s.issueLong true 0x06B w (fun s => .jump (s.modSq (fun q => { q with sp := { q.sp with
    pc := q.sp.pc + 8, blkPos := 0, blkPat := BitVec.ofNat 8 w.x.toNat, blkN := bits w.x.toNat 10 8 + 1
    blkK := q.k w.a.toNat, blkA := q.sp.mask } })))

/-- The issuing split ends: another split takes its place, and splits in Wait test their release (04 R93). -/
def Squad.endSplit (q : Squad) : Squad :=
  match q.rest with
  | [] => q
  | p :: r => ({ q with sp := p, rest := r } : Squad).release

/-- The end of the MCC's program: mfence without .sig, then the end (08 R174). -/
def State.mccExit (s : State) : State :=
  let s := s.modTl s.mcc.ctx s.mcc.cl 24 (fun t => { t with issued := t.issued + 1 })
  (s.modMcc (fun m => { m with lastPub := none })).setTodo [.publish, .waitAck, .mfenceEnd none, .mccEnd]

/-- exit (04 R93). -/
def execExit (w : Short) (s : State) : Out :=
  s.issueShort true 0x074 w (fun s =>
    if s.isM then .done s.mccExit
    else
      match s.sq.sp.stack with
      | e :: r => .jump (s.modSq (fun q => { q with sp := { q.sp with stack := r, mask := e.mask, fmt := e.fmt, pc := e.pc } }))
      | [] =>
        if s.sq.rest.isEmpty then .jump (s.setTodo [.exitDo])
        else .jump (s.modSq Squad.endSplit))

/-! ### State instructions (04 R94 to R99) -/

/-- setfmt sa (04 R94). -/
def execSetfmt (w : Long) (s : State) : Out :=
  s.issueLong true 0x070 w (fun s =>
    let v := (s.sreg w.a.toNat).toNat % 65536
    if fmtOk v then .done (s.setFmt v) else .trap ⟨.illegalInstruction, 8, 0, 0⟩)

/-- setfmt.flags sa (04 R94): every earlier instruction that sets a flag has retired. -/
def execSetfmtFlags (w : Long) (s : State) : Out :=
  s.issueLong true 0x070 w (fun s => .done (s.setFlags (s.sreg w.a.toNat).toNat))

/-- setfmt.imm (04 R94). -/
def execSetfmtImm (w : Long) (s : State) : Out :=
  s.issueLong true 0x070 w (fun s => .done (s.setFmt (256 * w.b.toNat + w.c.toNat)))

/-- setpart (04 R95). -/
def execSetpart (w : Short) (s : State) : Out :=
  s.issueShort true 0x071 w (fun s => .done (s.modSq (fun q => { q with part := w32 w.b.toNat })))

/-- The squads of the issuing squad's team (02 Table 2.8). -/
def State.teamSquads (s : State) : Nat := match s.teamNow with | some u => u.nsq | none => 0

/-- The team number in its launch. -/
def State.teamNum (s : State) : Nat := match s.teamNow with | some u => u.num | none => 0

/-- The teams of a declared level of the issuer's launch (10 R203). -/
def State.levelT (s : State) (level : Nat) : Option Nat :=
  match s.launchOf s.sq.launch with
  | some l => (l.hdr.levelTeams level).map (·.2)
  | none => none

/-- The value of a squad special (02 Table 2.8). -/
def State.special (s : State) (n : Nat) : W :=
  let q := s.sq
  let tideW (i : Nat) (st : Stamp) : W := if i = 0 then w32 st.tick else if i = 1 then w32 (st.tick / 2 ^ 32) else w32 (st.src % 65536)
  match n with
  | 0x02 => w32 q.idx
  | 0x03 => w32 s.teamSquads
  | 0x04 => w32 s.teamNum
  | 0x05 => w32 (s.teamNum / 2 ^ 32)
  | 0x06 => w32 q.cache
  | 0x07 => w32 q.sub
  | 0x08 => w32 s.clNow
  | 0x09 => w32 s.pkgIdx
  | 0x0A => w32 q.role
  | 0x0B => w32 q.prio
  | 0x0C => w32 q.vallot
  | 0x0D => w32 q.sallot
  | 0x0E => w32 (q.rest.length + 1)
  | 0x0F => w32 q.sp.stack.length
  | 0x10 => s.fmtNow
  | 0x11 => q.part
  | 0x12 => s.flagsNow
  | 0x13 => q.txcode
  | 0x14 => Sys2Proof.Machine.bw s.scc
  | 0x15 => tideW 0 q.tide
  | 0x16 => tideW 1 q.tide
  | 0x17 => tideW 2 q.tide
  | 0x18 => tideW 0 q.obs
  | 0x19 => tideW 1 q.obs
  | 0x1A => tideW 2 q.obs
  | 0x1B => w32 (q.ack % 65536)
  | 0x1C => w32 s.now
  | 0x1D => if s.isM then s.mcc.gtsHi else q.gtsHi
  | 0x1E => Sys2Proof.Machine.bw q.huddle
  | 0x1F => q.filled
  | _ =>
    if n < 0x28 then (match s.levelT (n - 0x20 + 3) with | some t => w32 (s.teamNum % t) | none => 0)
    else (match s.levelT (n - 0x28 + 3) with | some t => w32 t | none => 1)

/-- A read of GTSLO latches the upper word (02 R49). -/
def State.latchGts (s : State) : State :=
  if s.isM then s.modMcc (fun m => { m with gtsHi := w32 (s.now / 2 ^ 32) })
  else s.modSq (fun q => { q with gtsHi := w32 (s.now / 2 ^ 32) })

/-- rdspec (04 R96, 02 R48, R49). -/
def execRdspec (w : Long) (s : State) : Out :=
  s.issueLong true 0x072 w (fun s =>
    let n := w.x.toNat % 256
    if bit w.x.toNat 8 then
      .done (s.modSq (fun q => q.setV q.sp.mask w.d.toNat (fun l => w32 (if n = 0 then l else l % 2 ^ q.tsize))))
    else
      let t := if n = 0x1C then s.latchGts else s
      .done (t.setS w.d.toNat (s.special n)))

/-- role (04 R97, 02 R51): the PC stays at the role until the registers are taken. -/
def execRole (w : Short) (s : State) : Out :=
  s.issueShort true 0x073 w (fun s =>
    .jump ((s.modSq (fun q => { q with waitSince := s.now })).setTodo [.roleDo w.b.toNat]))

/-- trap (04 R98). -/
def execTrap (w : Short) (s : State) : Out :=
  s.issueShort true 0x075 w (fun _ => .trap ⟨.softwareTrap, w.b.toNat, 0, 0⟩)

/-- brkpt (04 R98). -/
def execBrkpt (w : Short) (s : State) : Out := s.issueShort true 0x076 w (fun _ => .trap ⟨.breakpoint, 0, 0, 0⟩)

/-- nop (04 R99). -/
def execNop (w : Short) (s : State) : Out := s.issueShort true 0x077 w (fun s => .done s)

end Sys2Proof.Machine
end

