-- ==== Sys2Proof/Machine/Matrix.lean ====
section
/-! DEFINITION. The matrix instructions of the MCC (08 R158 to R176): address records, the reading of operands, passes, the
epilogue, mfence and mrestart. A matrix instruction reads at its issue and takes effect when it retires from the array queue. -/

namespace Sys2Proof.Machine

/-! ### Address records (08 R161 to R164) -/

/-- A record is malformed whatever its use (08 R163, R164; log 22 for zero extents). -/
def ARec.bad (r : ARec) : Bool :=
  r.res != 0 || !(decide (r.fcode ≤ 0x14) || decide (0x18 ≤ r.fcode ∧ r.fcode ≤ 0x1A)) || r.sparse == 3 ||
  r.rows == 0 || r.cols == 0 ||
  (r.colMajor && decide (r.w < 8)) || (decide (r.w < 8) && r.cols % 32 != 0) ||
  decide (r.stride < ((if r.colMajor then r.held else r.cols) * r.w + 7) / 8) ||
  r.base % (if r.w ≤ 8 then 1 else r.w / 8) != 0 ||
  (r.scr && (decide (2 ^ 21 ≤ r.base) || decide (2 ^ 21 ≤ r.sbase))) ||
  ((r.sparse != 0) != (r.mrec != 0)) || r.rows % sparseG r.sparse != 0

/-- The uses of a record (08 Table 8.4). -/
inductive RecUse where
  | a | b | meta_ | dst | ld
deriving DecidableEq, Repr

/-- Does a record suit a use? -/
def ARec.suits (r : ARec) : RecUse → Bool
  | .a => decide (r.fcode ≤ 0x14) && r.sparse == 0 && r.scr
  | .b => decide (r.fcode ≤ 0x14)
  | .meta_ => r.fcode == 0x1A && r.sparse == 0 && !r.colMajor
  | .dst => (decide (r.fcode ≤ 0x14) && !(r.colMajor && (r.fcode == 0x10 || r.fcode == 0x11)) || r.fcode == 0x18 || r.fcode == 0x19) &&
      r.sparse == 0 && r.sbase == 0
  | .ld => (r.fcode == 0x18 || r.fcode == 0x19) && r.sparse == 0

/-- The MCC waits for absent lines; its instruction then issues again (08 R160). -/
def State.mccPresent (s : State) (keys : List Nat) (go : Unit → Res) : Res :=
  match s.absentWait keys with
  | some w => .park (s.modMcc (fun m => { m with st := .blocked, wake := some w, todo := [], due := 0 }))
  | none => go ()

/-- Read the record at a scratch address for a use: orders 1 and 2 of 08 Table 8.6. Poison in its bytes comes before its form: the
model's choice (log 112). -/
def State.recAt (s : State) (ea : Nat) (use : RecUse) (go : ARec → Res) : Res :=
  s.checkedScr 64 false [⟨0, (ea : Int), 64⟩] (fun _ =>
    let key := s.scrKeyAt (ea : Int)
    s.mccPresent [key, key + 63] (fun _ =>
      let r := ARec.ofBytes (s.scrBytes key 64)
      if let some t := s.scrPoison [⟨0, (ea : Int), 64⟩] then .trap t else
      if r.bad || !r.suits use then .trap ⟨.recfmt, 0, 0, 0⟩ else go r))

/-! ### Operand bytes: checks and reads (08 Table 8.6 order 6, R168) -/

/-- Insert an access by its address. -/
def insAcc (a : Acc) : List Acc → List Acc
  | [] => [a]
  | b :: r => if a.ea ≤ b.ea then a :: b :: r else b :: insAcc a r

/-- Spans as accesses in ascending address. -/
def accsOf (l : List Span) : List Acc := l.foldr (fun p r => insAcc ⟨0, (p.1 : Int), p.2⟩ r) []

/-- The order of a cause in 07 Table 7.2. -/
def Cause.order : Cause → Nat
  | .memMisaligned => 1
  | .addrRange => 2
  | .scratchRange => 2
  | .shoalWindow => 3
  | .memProtect => 5
  | .memClass => 6
  | .rangeArmed => 7
  | .barrierClobber => 8
  | .vsnapRevoked => 9
  | _ => 10

/-- The element of lowest address that is not aligned to its width, rounded up to whole bytes (R133, 08 R166). -/
def misaligned (width : Nat) (l : List Span) : Option TrapInfo :=
  ((accsOf l).find? (fun a => decide (8 < width) && a.ea.toNat % (width / 8) != 0)).map (fun a => ⟨.memMisaligned, 0, wrapI a.ea 64, 0⟩)

/-- The keys of the scratchpad bytes of spans. -/
def State.scrKeys (s : State) (scr : List Span) : List Nat :=
  scr.flatMap (fun p => (List.range p.2).map (fun i => s.scrKeyAt ((p.1 + i : Nat) : Int)))

/-- The checks on scratch bytes; poisoned data counts once the lines are present (07 R140). -/
def State.scrRows (s : State) (store : Bool) (scr : List Span) : Option TrapInfo :=
  (s.checkPlace 1 store (accsOf scr)).or
    (if store || (s.absentWait (s.scrKeys scr)).isSome then none else s.scrPoison (accsOf scr))

/-- The checks on scratch and global bytes together: the earliest order, then the lowest address. -/
def State.checkBoth (s : State) (k : AKind) (store : Bool) (scr glob : List Span) (go : Unit → Res) : Res :=
  let a := s.scrRows store scr
  let b := s.check k 1 (accsOf glob)
  match a, b with
  | none, .ok => go ()
  | some t, .ok => .trap t
  | none, .bad u => .trap u
  | some t, .bad u =>
    if t.cause.order < u.cause.order ∨ (t.cause.order = u.cause.order ∧ t.addr ≤ u.addr) then .trap t else .trap u
  | some t, .miss va lane => if t.cause.order < 4 then .trap t else s.missAt k va lane
  | none, .miss va lane => s.missAt k va lane

/-- Does an engine's read of an address force its line's epoch to end (11 R236)? -/
def State.engineForces (s : State) (launch : Nat) (tide : Stamp) (l : Leaf) (va : Nat) : Bool :=
  let line := lineOf (l.key va)
  l.cls != 2 && (if l.cls = 1 then s.epochBy line (s.stampFor launch tide 1) else (s.epoch line).isSome)

/-- Lines read by an engine's agent that an epoch holds: each collapses, and is read at the collapse's stamp (09 R182). -/
def State.engineCollapse (s : State) (leaf : Nat → Option Leaf) (launch : Nat) (tide : Stamp) (die agent : Nat) (vas : List Nat) :
    List (Nat × Stamp) × State :=
  vas.foldl (fun p va =>
    match leaf va with
    | none => p
    | some l =>
      let line := lineOf (l.key va)
      if !p.2.engineForces launch tide l va then p
      else
        let c := p.2.collapse line die agent
        (match c.1 with | some st => ins p.1 line st | none => p.1, c.2)) ([], s)

/-- One address in each line of spans. -/
def spanLines (l : List Span) : List Nat :=
  sortNat (l.flatMap (fun p => (List.range ((p.1 + p.2 - 1) / 128 - p.1 / 128 + 1)).map (fun i => max p.1 ((p.1 / 128 + i) * 128))))

/-- A global byte as an engine's agent of a die reads it. -/
def State.engineByte (s : State) (leaf : Nat → Option Leaf) (launch : Nat) (tide : Stamp) (die : Nat) (cs : List (Nat × Stamp)) (va : Nat) :
    Byte :=
  match leaf va with
  | none => 0
  | some l =>
    let key := l.key va
    if l.cls = 2 then s.manualByte (600 + die) key
    else s.byteAt (some ((get? cs (lineOf key)).getD (s.stampFor launch tide l.cls))) key

/-- A global byte as the MCC reads it: its own epilogue bytes first, those `still in its buffer` (08 R168). The bytes of an earlier mepi that is
still in the array queue have not entered the buffer; R168 does not say whether they count, and the model does not merge them (log 98). -/
def State.mccByte (s : State) (cs : List (Nat × Stamp)) (va : Nat) : Byte :=
  let key := s.keyOf s.mcc.ctx va
  match (s.mcc.epi.find? (fun p => !p.scr && p.line == lineOf key)).bind (fun p => get? p.bytes (key % 128)) with
  | some b => b
  | none => s.engineByte (s.leafAt s.mcc.ctx) s.mcc.launch s.mcc.tide (s.mcc.cl / 32) cs va

/-- The reader of a record's bytes in its space. -/
def State.reader (s : State) (scr : Bool) (cs : List (Nat × Stamp)) (a : Nat) : Byte :=
  if scr then s.scrByte (s.scrKeyAt (a : Int)) else s.mccByte cs a

/-- The lines of addresses of the MCC whose epoch its reads end. -/
def State.mccForced (s : State) (vas : List Nat) : List Nat :=
  sortNat ((vas.filter (fun a => (s.leafAt s.mcc.ctx a).any (fun l => s.engineForces s.mcc.launch s.mcc.tide l a))).map
    (fun a => lineOf (s.keyOf s.mcc.ctx a)))

/-- The MCC notes that it asks for lines of other members, which an epoch here holds (11 R236). -/
def State.noteMcc (s : State) (lines : List Nat) : State :=
  if lines.isEmpty then s else s.modMcc (fun m => { m with forced := lines.foldl (fun f l => noteForced l none f) m.forced })

/-- What it reads of memory; without lines whose collapse it has forced. -/
def State.mccReads (s : State) (vas : List Nat) : List (Nat × Bool × Stamp) :=
  (s.readsOf vas).filter (fun r => (get? (forcedStamps s.mcc.forced) r.1).isNone)

/-- Check and reach the bytes of operands whose elements, in `els`, have a width in bits: `go` gets the state after forced collapses and
their stamps. Reads need the grants of pages of other members and their lines' data, and a collapse its turn at the line's home (12 R254, R259). -/
def State.operands (s : State) (width : Nat) (els scr glob : List Span) (go : State → List (Nat × Stamp) → Res) : Res :=
  if let some t := misaligned width els then .trap t else
  s.checkBoth .mread false scr glob (fun _ =>
    s.mccPresent (s.scrKeys scr) (fun _ =>
      let vas := spanLines glob
      match s.lacking .read (vas.map (fun a => lineOf (s.keyOf s.mcc.ctx a))) with
      | some l => s.waitNear .read l
      | none =>
        let s := s.noteMcc ((s.mccForced vas).filter (homePkg · != s.pkgIdx))
        s.whenOpen .shared (s.mccForced vas) (fun _ =>
          match s.farLack (600 + s.mcc.cl / 32) (s.mcc.cl / 32) (s.mccReads vas) with
          | some r => s.waitDataM r
          | none =>
            let c := s.engineCollapse (s.leafAt s.mcc.ctx) s.mcc.launch s.mcc.tide (s.mcc.cl / 32) (128 + s.mcc.cl % 32) vas
            go c.2 (forcedStamps s.mcc.forced ++ c.1))))

/-- Split spans by space. -/
def ofScr (b : Bool) (l : List Span) : List Span := if b then l else []

/-! ### The array queue (08 R159) -/

/-- Entries that satisfy p, and those before them, retire. -/
def State.drainQ (s : State) (p : MPass → Bool) : State := (upToLast p s.mcc.queue).foldl (fun s _ => s.retirePass) s

/-- Go on when entries that satisfy p, and those before them, have retired; one that waits for its publication holds the instruction. -/
def State.afterDrain (s : State) (p : MPass → Bool) (go : State → Res) : Res :=
  if (s.drainQ p).mcc.queue.any p then .hold else go (s.drainQ p)

/-- Does an entry write, or touch, an accumulator; does it touch a slot? -/
def MPass.writes (p : MPass) (a : Nat) : Bool := p.acc.any (·.1 == a)
def MPass.usesAcc (p : MPass) (a : Nat) : Bool := p.writes a || p.reads.contains a
def MPass.usesSlot (p : MPass) (n : Nat) : Bool := p.rslot == some n || p.slot.any (·.1 == n)

/-- An entry with no effect. -/
def MPass.none : MPass := ⟨Option.none, Option.none, [], [], Option.none, 0, 0, Option.none⟩

/-- A matrix instruction enters the array queue; its energy, of `cycles` array cycles, is added as it retires (23 R365). -/
def State.enqueue (s : State) (cycles : Nat) (p : MPass) : Res :=
  let e := s.mcc.due * cycles
  .done (s.modMcc (fun m => { m with queue := m.queue ++ [{ p with energy := e }], due := 0 }))

/-! ### mrec (08 R167) -/

/-- mrec: the record is checked before it is written. -/
def execMrec (w : Long) (s : State) : Out :=
  s.issueLong true 0x140 w (fun s =>
    let ea := (s.sreg w.a.toNat).toNat
    let words := (List.range 16).map (fun i => s.sreg (w.b.toNat + i))
    let acc : List Acc := [⟨0, (ea : Int), 64⟩]
    match s.checkScr 64 true acc with
    | some t =>
      if t.cause.order < 8 then .trap t
      else if (ARec.ofBytes (words.flatMap (fun v => bytesLE 4 v.toNat))).bad then .trap ⟨.recfmt, 0, 0, 0⟩ else .trap t
    | none =>
      if (ARec.ofBytes (words.flatMap (fun v => bytesLE 4 v.toNat))).bad then .trap ⟨.recfmt, 0, 0, 0⟩
      else s.andThen [.mrecDo ea words])

/-! ### wld (08 R164, R168) -/

/-- The index of the kept element that column n of compressed row c holds, through the metadata record. -/
def kOf (sp q j x : Nat) : Nat := if sp = 1 then 4 * q + x else 8 * q + 2 * x + j % 2

/-- Is a group of indices valid? -/
def groupOk (sp : Nat) (x : List Nat) : Bool :=
  if sp = 1 then decide (nth 0 x 0 < nth 0 x 1) else decide (nth 0 x 0 < nth 0 x 2) && decide (nth 0 x 1 < nth 0 x 3)

/-- The slot that wld fills, or none when a group of indices is invalid. -/
def wldSlot (r m : ARec) (rd md : Nat → Byte) (bscale : Bool) (kst nst kk nn : Nat) : Option Slot :=
  let sp := r.sparse
  let g := sparseG sp
  let h := sparseH sp
  let q0 := kst / g
  let idx (q n : Nat) : List Nat := (List.range h).map (fun j => m.elem md (q * h + j) n)
  let ok := sp == 0 || (List.range (kk / g)).all (fun q => (List.range nn).all (fun n => groupOk sp (idx (q0 + q) (nst + n))))
  if !ok then none
  else
    let cell (e : List (Nat × W)) (k n v : Nat) : List (Nat × W) := put 0 e (256 * k + n) (w32 v)
    let elems : List (Nat × W) :=
      if sp = 0 then
        (List.range kk).foldl (fun e k => (List.range nn).foldl (fun e n => cell e k n (r.elem rd (kst + k) (nst + n))) e) []
      else
        (List.range (kk / g)).foldl (fun e q => (List.range nn).foldl (fun e n =>
          (List.range h).foldl (fun e j =>
            cell e (kOf sp q j (nth 0 (idx (q0 + q) (nst + n)) j)) n (r.elem rd ((q0 + q) * h + j) (nst + n))) e) e) []
    let scales : List (Nat × Byte) :=
      if bscale then
        (List.range ((kk + 31) / 32)).foldl (fun e b => (List.range nn).foldl (fun e n =>
          put 0x7F e (256 * b + n) (rd (r.sbase + (kst / 32 + b) * r.sstride + nst + n))) e) []
      else []
    some ⟨true, r.fcode, sp, bscale, kk, elems, scales⟩

/-- wld once its records are read; `m` is the metadata record of a sparse one, else the record itself. A metadata record with smaller
extents is read past them: the model's choice (log 112). -/
def State.wldGo (s : State) (w : Long) (r m : ARec) : Res :=
  let kst := (s.sreg w.b.toNat).toNat
  let nst := (s.sreg w.c.toNat).toNat
  let bs := fmtScale s.fmtNow
  if r.fcode ≠ fmtB s.fmtNow then .trap ⟨.matFormat, 0, 0, 0⟩
  else if kst % 32 ≠ 0 ∨ r.rows ≤ kst ∨ r.cols ≤ nst then .trap ⟨.matShape, 0, 0, 0⟩
  else
    let kk := min 128 (r.rows - kst)
    let nn := min 256 (r.cols - nst)
    let h := sparseH r.sparse
    let g := sparseG r.sparse
    let el := r.spans (kst * h / g) (kk * h / g) nst nn ++
      (if bs then r.scaleSpans (kst / 32) ((kk + 31) / 32) nst nn else [])
    let ms := if r.sparse = 0 then [] else m.spans (kst * h / g) (kk * h / g) nst nn
    s.operands r.w (r.spans (kst * h / g) (kk * h / g) nst nn) (ofScr r.scr el ++ ofScr m.scr ms) (ofScr (!r.scr) el ++ ofScr (!m.scr) ms) (fun s cs =>
      match wldSlot r m (s.reader r.scr cs) (s.reader m.scr cs) bs kst nst kk nn with
      | none => .trap ⟨.spmeta, 0, 0, 0⟩
      | some t =>
        s.afterDrain (·.usesSlot w.d.toNat) (fun s => s.enqueue 1 { MPass.none with slot := some (w.d.toNat, t) }))

/-- wld. -/
def execWld (w : Long) (s : State) : Out :=
  s.issueLong true 0x141 w (fun s =>
    s.recAt (s.sreg w.a.toNat).toNat .b (fun r =>
      if r.sparse = 0 then s.wldGo w r r else s.recAt r.mrec .meta_ (fun m => s.wldGo w r m)))

/-! ### mmaz and mma (08 R169; 01 R32 to R34) -/

/-- The A bytes of spans with what a pass needs to read them again until it retires (08 R170). -/
def State.passIn (s : State) (acc ea kst : Nat) (fm : W) (zero : Bool) (t : Slot) (l : List Span) : PassIn :=
  { recd := s.scrBytes (s.scrKeyAt (ea : Int)) 64, kst := kst, fmt := fm, zero := zero, acc := acc, slot := t
    old := l.flatMap (fun p => (List.range p.2).map (fun i =>
      (p.1 + i, s.scrKeyAt ((p.1 + i : Nat) : Int), [s.scrByte (s.scrKeyAt ((p.1 + i : Nat) : Int))]))) }

/-- mmaz and mma. -/
def State.mmaRun (s : State) (w : Long) (zero : Bool) : Res :=
  s.recAt (s.sreg w.a.toNat).toNat .a (fun r =>
    s.afterDrain (fun p => p.slot.any (·.1 == w.b.toNat) || p.usesAcc w.d.toNat) (fun s =>
    let fm := s.fmtNow
    let bs := fmtScale fm
    let kst := (s.sreg w.c.toNat).toNat
    let t := nth Slot.empty s.mcc.slots w.b.toNat
    let k := if t.filled then t.krows else 0
    if r.fcode ≠ fmtA fm ∨ (t.filled ∧ (t.fcode ≠ fmtB fm ∨ t.bscale ≠ bs)) then .trap ⟨.matFormat, 0, 0, 0⟩
    else if kst % 32 ≠ 0 ∨ 128 < r.rows ∨ r.cols < kst + k then .trap ⟨.matShape, 0, 0, 0⟩
    else if !t.filled then .trap ⟨.slotEmpty, 0, 0, 0⟩
    else
      let el := r.spans 0 r.rows kst k
      let all := el ++ (if bs then r.scaleSpans 0 r.rows (kst / 32) ((k + 31) / 32) else [])
      s.operands r.w el all [] (fun s _ =>
        let p := r.pass fm zero kst t (s.reader true []) (nth [] s.mcc.acc w.d.toNat)
        let c := (r.rows + rowsPerCycle r.fcode t.fcode - 1) / rowsPerCycle r.fcode t.fcode
        s.enqueue c { MPass.none with
          acc := some (w.d.toNat, p.1), reads := if zero then [] else [w.d.toNat], rslot := some w.b.toNat, flags := w32 p.2
          late := some (s.passIn w.d.toNat (s.sreg w.a.toNat).toNat kst fm zero t all) })))

/-- mmaz. -/
def execMmaz (w : Long) (s : State) : Out := s.issueLong true 0x142 w (fun s => s.mmaRun w true)

/-- mma. -/
def execMma (w : Long) (s : State) : Out := s.issueLong true 0x143 w (fun s => s.mmaRun w false)

/-! ### mclr (08 R171) -/

/-- mclr.z. -/
def execMclrZ (w : Long) (s : State) : Out :=
  s.issueLong true 0x145 w (fun s =>
    s.afterDrain (·.usesAcc w.d.toNat) (fun s => s.enqueue 8 { MPass.none with acc := some (w.d.toNat, []) }))

/-- mclr.ld: the words are bit copies. -/
def execMclrLd (w : Long) (s : State) : Out :=
  s.issueLong true 0x145 w (fun s =>
    s.recAt (s.sreg w.a.toNat).toNat .ld (fun r =>
      if (r.fcode == 0x19) != fmtAcc s.fmtNow then .trap ⟨.matFormat, 0, 0, 0⟩
      else if 128 < r.rows ∨ 256 < r.cols then .trap ⟨.matShape, 0, 0, 0⟩
      else
        let el := r.spans 0 r.rows 0 r.cols
        s.operands r.w el (ofScr r.scr el) (ofScr (!r.scr) el) (fun s cs =>
          s.afterDrain (·.usesAcc w.d.toNat) (fun s =>
          let acc : List (Nat × W) := (List.range r.rows).foldl (fun a i => (List.range r.cols).foldl (fun a j =>
            put 0 a (256 * i + j) (w32 (r.elem (s.reader r.scr cs) i j))) a) []
          s.enqueue 8 { MPass.none with acc := some (w.d.toNat, acc) }))))

/-! ### mepi (08 R172, R173) -/

/-- The conversion of one accumulator word: the element's code and the flags. `fac` is the factor of .scale. It reads fmt's
infinities bit for a binary8 code, and `mode` may be fmt's rounding field: the model's choice beside 01 R26 (log 108). -/
def mepiWord (fm : W) (mode : Rnd) (fcode : Nat) (relu : Bool) (fac : Option W) (word : W) : Nat × Nat :=
  let v0 : FV := if fmtAcc fm then FV.ofInt word.toInt else f32 word
  let sc : FV × Nat × Nat :=
    match fac with
    | none => (v0, word.toNat, 0)
    | some f =>
      let r := fp32.mulR .rne v0 (f32 f)
      (fp32.decode r.1, r.1, r.2)
  let cut := relu && !sc.1.isNaN && FV.lt sc.1 (.fin false 0 0)
  let v : FV := if cut then .fin false 0 0 else sc.1
  let pat := if cut then 0 else sc.2.1
  if fcode = 0x18 ∧ (fac.isSome ∨ !fmtAcc fm) then (pat, sc.2.2)
  else if fcode = 0x19 ∧ fac.isNone ∧ fmtAcc fm then (pat, 0)
  else
    let r : Nat × Nat :=
      if fcode = 0x18 then fp32.round mode (fmtSat fm) v
      else if fcode = 0x19 then
        let i := toIntR mode (-(2 ^ 31)) (2 ^ 31 - 1) v
        (wrapI i.1 32, i.2)
      else fcEncode fcode (fmtInf fm) (fmtSat fm) mode v
    (r.1, r.2 ||| sc.2.2)

/-- The bytes of a row of codes of one width, packed from bit 0 on (01 R22). -/
def packCodes (w : Nat) (l : List Nat) : List Byte :=
  bytesLE ((l.length * w + 7) / 8) (l.foldr (fun c a => c % 2 ^ w + 2 ^ w * a) 0)

/-- The output bytes: address and bytes of each row, or of each column when column-major. -/
def ARec.outRows (r : ARec) (code : Nat → Nat → Nat) : List (Nat × List Byte) :=
  if r.colMajor then
    (List.range r.cols).map (fun j => (r.base + j * r.stride, packCodes r.w ((List.range r.rows).map (fun i => code i j))))
  else
    (List.range r.rows).map (fun i => (r.base + i * r.stride, packCodes r.w ((List.range r.cols).map (fun j => code i j))))

/-- Add a byte to a list of lines. -/
def addByte (l : List PLine) (p : PLine) (off : Nat) (b : Byte) : List PLine :=
  match l.find? (fun q => q.line == p.line && q.scr == p.scr) with
  | some q => upsert (fun q => q.line == p.line && q.scr == p.scr) { q with bytes := ins q.bytes off b } l
  | none => l ++ [{ p with bytes := [(off, b)] }]

/-- The lines of mepi's output. -/
def State.outLines (s : State) (scr : Bool) (rows : List (Nat × List Byte)) : List PLine :=
  (rows.flatMap (fun r => numbered r.1 r.2)).foldl (fun l p =>
    if scr then
      let key := s.scrKeyAt (p.1 : Int)
      addByte l ⟨key / 128, 0, false, false, true, s.mcc.ctx, []⟩ (key % 128) p.2
    else
      match s.leafAt s.mcc.ctx p.1 with
      | some f => addByte l ⟨lineOf (f.key p.1), f.cls, f.upd, false, false, s.mcc.ctx, []⟩ (f.key p.1 % 128) p.2
      | none => l) []

/-- mepi. -/
def execMepi (w : Long) (s : State) : Out :=
  s.issueLong true 0x144 w (fun s =>
    s.recAt (s.sreg w.d.toNat).toNat .dst (fun r =>
      if 128 < r.rows ∨ 256 < r.cols then .trap ⟨.matShape, 0, 0, 0⟩
      else
        let el := r.spans 0 r.rows 0 r.cols
        if let some t := misaligned r.w el then .trap t else
        s.checkBoth .mepi true (ofScr r.scr el) (ofScr (!r.scr) el) (fun _ =>
          s.afterDrain (·.writes w.a.toNat) (fun s =>
          let fm := s.fmtNow
          let acc := nth [] s.mcc.acc w.a.toNat
          let fac := if bit (xSub w.x) 1 then some (s.sreg w.b.toNat) else none
          let out (i j : Nat) : Nat × Nat :=
            mepiWord fm (s.mode (xRnd w.x)) r.fcode (bit (xSub w.x) 0) fac (look 0 acc (256 * i + j))
          let flags := (List.range r.rows).foldl (fun f i => (List.range r.cols).foldl (fun f j => f ||| (out i j).2) f) 0
          s.enqueue 8 { MPass.none with
            lines := s.outLines r.scr (r.outRows (fun i j => (out i j).1)), reads := [w.a.toNat], flags := w32 flags }))))

/-! ### mrestart and mfence (08 R174, R175) -/

/-- mrestart records its label and the checkpoint. -/
def execMrestart (w : Long) (s : State) : Out :=
  s.issueLong true 0x146 w (fun s =>
    .done (s.modMcc (fun m => { m with
      restart := m.pc + BitVec.ofInt 64 (w.x.toInt * 4)
      hasRestart := true, ckptS := m.sregs, ckptScc := m.scc, ckptFmt := m.fmt })))

/-- mfence begins, the array queue being empty: the MCC's timeline has one more number (08 R175). -/
def State.fenced (s : State) : State :=
  (s.modTl s.mcc.ctx s.mcc.cl 24 (fun t => { t with issued := t.issued + 1 })).modMcc (fun m => { m with lastPub := none })

/-- mfence, with the counter's address and addend under .sig. -/
def execMfence (w : Long) (s : State) : Out :=
  s.issueLong true 0x147 w (fun s =>
    let go (sig : Option (Nat × Nat)) : Res :=
      s.afterDrain (fun _ => true) (fun s => s.fenced.andThen [.publish, .waitAck, .mfenceEnd sig])
    if bit (xSub w.x) 0 then
      let ea := (s.sreg w.a.toNat).toNat
      s.checkedScr 8 true [⟨0, (ea : Int), 8⟩] (fun _ => go (some (ea, (s.sreg w.b.toNat).toNat)))
    else go none)

end Sys2Proof.Machine
end

