-- ==== Sys2Proof/Machine/Command.lean ====
section
/-! DEFINITION. How an engine runs a command (09 R182, R184, R188, R189): its moves, its checks, its writes, its failure and
its completion. A command runs whole in one event and completes in a later one, once its global writes are acknowledged. -/

namespace Sys2Proof.Machine

/-! ### Whose command it is -/

/-- The team of a command. -/
def State.cmdTeam (s : State) (c : Cmd) : Option Team := c.team.bind (fun i => s.teams.find? (·.id == i))

/-- Where a scratch address of a command's issuer lies now. -/
def State.cmdLoc (s : State) (c : Cmd) (ea : Int) : Except Cause Nat :=
  match c.team with
  | none => if ea < 0 then .error .scratchRange else mccLoc c.cl (s.scrSize c.launch) ea.toNat
  | some _ =>
    match s.cmdTeam c with
    | some u => s.scrLoc u ea
    | none => .error .scratchRange

/-- The agent number of the context's stamps (09 Table 9.2). -/
def Cmd.agent (c : Cmd) : Nat :=
  (if c.sel < 16 then 160 else if c.sel < 20 then 192 else if c.sel < 24 then 224 else 128) + c.cl % 32

/-- Change a command. -/
def State.modCmd (s : State) (id : Nat) (f : Cmd → Cmd) : State := { s with cmds := modAll (·.id == id) f s.cmds }

/-- The translation of an address for a command: through its cluster's TLB, or one that it has waited for (19 R311, R312). -/
def State.cmdLeaf (s : State) (c : Cmd) (va : Nat) : Option Leaf := s.leafOn (1000 + c.cl) c.got c.ctx va

/-- The line of an address of a command. -/
def State.cmdLine (s : State) (c : Cmd) (va : Nat) : Nat :=
  match s.cmdLeaf c va with
  | some l => lineOf (l.key va)
  | none => 0

/-- The stamp of a command's context. -/
def State.cmdStamp (s : State) (c : Cmd) : Stamp × State := s.takeStamp (c.cl / 32) c.agent

/-! ### Moves (09 R180, R182) -/

/-- Bytes moved together. -/
structure Move where
  src : Int
  dst : Int
  n   : Nat
deriving DecidableEq, Repr

/-- Are the source and the destination in scratch? -/
def Cmd.srcScr (c : Cmd) : Bool := c.kind == .cpy && bit c.mode 1
def Cmd.dstScr (c : Cmd) : Bool := c.kind == .gath || (c.kind == .cpy && bit c.mode 0)

/-- A scratch byte of a command. -/
def State.cmdScrByte (s : State) (c : Cmd) (ea : Int) : Byte :=
  match s.cmdLoc c ea with
  | .ok k => s.scrByte k
  | .error _ => 0

/-- The e-th index of a gather. -/
def State.gathIdx (s : State) (c : Cmd) (e : Nat) : Int :=
  let t := bits c.mode 4 3
  let n := if t = 2 then 8 else 4
  let v := natLE ((List.range n).map (fun i => s.cmdScrByte c ((grp c.group 3 + e * n + i : Nat) : Int)))
  if t = 0 then (v : Int) else sext v (8 * n)

/-- The moves of a command, in the order in which later ones win. -/
def State.cmdMoves (s : State) (c : Cmd) : List Move :=
  let g := c.group
  match c.kind with
  | .gath =>
    let n : Nat := 2 ^ bits c.mode 2 0
    (List.range (grp g 4)).map (fun e =>
      ⟨(grp2 g 0 : Int) + s.gathIdx c e * (n : Int), (grp g 2 : Int) + (e : Int) * (n : Int), n⟩)
  | .cpy =>
    let src := if c.srcScr then grp g 2 else grp2 g 2
    let dst := if c.dstScr then grp g 0 else grp2 g 0
    if grp g 4 = 0 then []
    else
      (List.range (if c.two then grp g 7 else 1)).map (fun i =>
        ⟨((src + i * grp g 9 : Nat) : Int), ((dst + i * grp g 8 : Nat) : Int), grp g 4⟩)
  | .rcpy => if grp g 4 = 0 then [] else [⟨(grp2 g 2 : Int), (grp2 g 0 : Int), grp g 4⟩]
  | _ => []

/-- Scratch bytes that a command reads: a scratch source, and the index array of a gather. -/
def State.cmdScrReads (s : State) (c : Cmd) : List (Int × Nat) :=
  if c.kind = .gath then
    (if grp c.group 4 = 0 then [] else [((grp c.group 3 : Int), grp c.group 4 * (if bits c.mode 4 3 = 2 then 8 else 4))])
  else if c.srcScr then (s.cmdMoves c).map (fun m => (m.src, m.n)) else []

/-- The scratch lines that a command must find present: absent ones, but for those that only it itself made absent. -/
def State.cmdWaits (s : State) (c : Cmd) : Bool :=
  (s.cmdScrReads c).any (fun r => (List.range r.2).any (fun i =>
    match s.cmdLoc c (r.1 + (i : Int)) with
    | .ok k => s.absent.contains (k / 128) &&
        (!c.lines.contains (k / 128) || s.cmds.any (fun d => d.id != c.id && d.fin.isNone && d.lines.contains (k / 128)))
    | .error _ => false))

/-! ### Checks (09 R184) -/

/-- The first cause, by the order of 07 Table 7.2, for scratch bytes: no place, or poison in a byte read. -/
def State.cmdScrBad (s : State) (c : Cmd) (ms : List Move) : Option Cause :=
  let reads := s.cmdScrReads c
  let writes := if c.dstScr then ms.map (fun m => (m.dst, m.n)) else []
  let places := (reads ++ writes).flatMap (fun r => (List.range r.2).map (fun (i : Nat) => s.cmdLoc c (r.1 + (i : Int))))
  if places.any (fun p => match p with | .error .scratchRange => true | _ => false) then some .scratchRange
  else if places.any (fun p => match p with | .error _ => true | _ => false) then some .shoalWindow
  else if reads.any (fun r => (List.range r.2).any (fun i =>
      match s.cmdLoc c (r.1 + (i : Int)) with
      | .ok k => s.poison.any (·.gran == scrGran k)
      | .error _ => false)) then some .poisonedData
  else none

/-- Table 7.2 on global bytes of a command. -/
def State.cmdGlobal (s : State) (c : Cmd) (k : AKind) (accs : List Acc) : Chk :=
  match globalRange 1 accs with
  | some t => .bad t
  | none =>
    match firstByte accs (fun b => (s.cmdLeaf c b).isNone) with
    | some p => .miss p.2 p.1
    | none =>
      match s.rowsBy (s.cmdLeaf c) k c.ctx (c.cl / 32) c.launch c.tide [] accs with
      | some t => .bad t
      | none => .ok

/-- Global bytes that moves read, and those they write. -/
def srcAccs (ms : List Move) : List Acc := ms.map (fun m => ⟨0, m.src, m.n⟩)
def dstAccs (ms : List Move) : List Acc := ms.map (fun m => ⟨0, m.dst, m.n⟩)

/-- What the checks of a command find. -/
inductive CmdChk where
  | ok
  | bad (c : Cause)
  | miss (va : Nat) (k : AKind)
deriving DecidableEq, Repr

/-- The one of two findings that is earlier in Table 7.2. -/
def CmdChk.first (a b : CmdChk) : CmdChk :=
  let r (x : CmdChk) : Nat := match x with | .ok => 99 | .bad c => c.order | .miss _ _ => 4
  if r a ≤ r b then a else b

/-- Every check of a command as it runs. -/
def State.cmdCheckRun (s : State) (c : Cmd) (ms : List Move) : CmdChk :=
  let of (k : AKind) (x : Chk) : CmdChk := match x with | .ok => .ok | .bad t => .bad t.cause | .miss va _ => .miss va k
  let scr : CmdChk := match s.cmdScrBad c ms with | some d => .bad d | none => .ok
  let rd : CmdChk := if c.srcScr then .ok else of .engRead (s.cmdGlobal c .engRead (srcAccs ms))
  let wr : CmdChk := if c.dstScr then .ok else of .engWrite (s.cmdGlobal c .engWrite (dstAccs ms))
  (scr.first rd).first wr

/-! ### Failure (09 R184) -/

/-- The physical address of the first poisoned granule that a command reads in memory (22 R354). -/
def State.cmdPoisonPa (s : State) (c : Cmd) : Nat :=
  match (if c.srcScr then none else firstByte (srcAccs (s.cmdMoves c)) (fun b => (s.cmdLeaf c b).any (fun l =>
      s.poisonRead l (c.cl / 32) c.launch c.tide (l.key b)))) with
  | some p => match s.cmdLeaf c p.2 with | some l => l.key p.2 / 32 * 32 % 2 ^ 40 | none => 0
  | none => 0

/-- The team of a failing command, or the MCC, is told: ENGFAULT, engine_fault pending, an error record. -/
def State.cmdNotify (s : State) (c : Cmd) (cause : Cause) : State :=
  let s := match c.team with
    | some t =>
      (s.modTeam t (fun u => { u with engFault := w32 c.n })).modSquads (fun q => q.team == t && q.st != RunSt.exiting)
        (fun q => { q with engFault := true })
    | none => s.modMccs (fun m => m.cl == c.cl && m.launch == c.launch) (fun m => { m with engFault := true })
  let s := if cause = .poisonedData then s.report (s.seenStamp (c.cl / 32) c.agent) c.ctx 3 (s.cmdPoisonPa c) cause.code else s
  s.report (s.seenStamp (c.cl / 32) c.agent) c.ctx 4 0 (Config.failDetail cause.code c.n).toNat

/-- The command's scratch lines are present. -/
def State.cmdLand (s : State) (c : Cmd) : State :=
  { s with absent := s.absent.filter (fun l => !c.lines.contains l) }

/-- A command fails: its lines become present with their prior contents, and it goes on to its completion. -/
def State.cmdFail (s : State) (c : Cmd) (cause : Cause) : State :=
  let e := (s.cmdLand c).cmdStamp c
  ((e.2.leaveLines c.id).cmdNotify c cause).modCmd c.id (fun d => { d with failed := some cause, fin := some e.1, lines := [] })

/-! ### Running (09 R182) -/

/-- The byte that a command reads at an address of its source. -/
def State.cmdRead (s : State) (c : Cmd) (cs : List (Nat × Stamp)) (a : Int) : Byte :=
  if c.srcScr then s.cmdScrByte c a else s.engineByte (s.cmdLeaf c) c.launch c.tide (c.cl / 32) cs a.toNat

/-- Write bytes in scratch, a piece of one presence line at a time. -/
def State.cmdPut (s : State) (c : Cmd) (ea : Int) (b : List Byte) : State :=
  (numbered 0 b).foldl (fun s p =>
    match s.cmdLoc c (ea + (p.1 : Int)) with
    | .ok k => { s with scratch := put 0 s.scratch k p.2 }
    | .error _ => s) s

/-- Poison of scratch granules that lines of a command's destination cover whole is cleared. -/
def State.cmdUnpoison (s : State) (keys : List Nat) : State :=
  { s with poison := s.poison.filter (fun p => !(decide (2 ^ 60 ≤ p.gran) &&
      (List.range 32).all (fun i => keys.contains ((p.gran - 2 ^ 60) * 32 + i)))) }

/-- The global lines that moves write, with their bytes. -/
def State.cmdLines (s : State) (c : Cmd) (ms : List (Move × List Byte)) : List PLine :=
  (ms.flatMap (fun m => numbered m.1.dst.toNat m.2)).foldl (fun l p =>
    match s.cmdLeaf c p.1 with
    | some f => addByte l ⟨lineOf (f.key p.1), f.cls, f.upd, false, false, c.ctx, []⟩ (f.key p.1 % 128) p.2
    | none => l) []

/-- The epochs of lines about to be written collapse. -/
def State.cmdCollapse (s : State) (c : Cmd) (l : List PLine) : State :=
  l.foldl (fun s p => if p.upd then (s.collapse p.line (c.cl / 32) c.agent).2 else s) s

/-- The moves of a command take place. -/
def State.cmdMove (s : State) (c : Cmd) (ms : List Move) : State :=
  let vas := if c.srcScr then [] else spanLines (ms.map (fun m => (m.src.toNat, m.n)))
  let k := s.engineCollapse (s.cmdLeaf c) c.launch c.tide (c.cl / 32) c.agent vas
  let s := k.2
  let data := ms.map (fun m => (m, (List.range m.n).map (fun (i : Nat) => s.cmdRead c (forcedStamps c.forced ++ k.1) (m.src + (i : Int)))))
  if c.dstScr then
    let keys := if s.poison.isEmpty then [] else
      ms.flatMap (fun m => (List.range m.n).filterMap (fun (i : Nat) =>
        match s.cmdLoc c (m.dst + (i : Int)) with | .ok k => some k | .error _ => none))
    let s := (data.foldl (fun s d => s.cmdPut c d.1.dst d.2) s).cmdUnpoison keys
    let e := (s.cmdLand c).cmdStamp c
    e.2.modCmd c.id (fun d => { d with fin := some e.1, lines := [] })
  else
    let lines := s.cmdLines c data
    let p0 := (s.cmdCollapse c lines).preStamp lines (fun t => t.cmdStamp c)
    let e := p0.2.cmdStamp c
    let s := lines.foldl (fun s p => s.send p.line e.1 p.bytes (p.cls == 2) c.ctx none none (some c.id) (if p.upd then p0.1 else none)) e.2
    s.modCmd c.id (fun d => { d with fin := some e.1, wait := lines.length })

/-- The addition of a word at its home with a stamp above every version of its line, the next of an agent (09 R189, 11 R231). -/
def State.addAt (s : State) (die agent key addend ctx : Nat) : Stamp × State :=
  let line := lineOf key
  let s := ((s.collapse line die agent).2).recallOthers 10000 line false
  let e := s.stampOver die agent [line]
  let t := e.2.landed line e.1 (numbered (key % 128) (bytesLE 8 (s.curNat key 8 + addend))) ctx
  (e.1, { t with relstamps := ins t.relstamps line e.1 })

/-- An rsig adds at the word's home, as atom.add.n64 with .rel would (09 R189). A home in another package gets the addition in a message
and answers with the stamp of its event: the one that the command takes now, if it lies above every version there (20 R325; log 64). -/
def State.cmdAdd (s : State) (c : Cmd) : State :=
  let line := lineOf c.key
  if homePkg line = s.pkgIdx then
    let e := s.addAt (c.cl / 32) c.agent c.key c.addend.toNat c.ctx
    e.2.modCmd c.id (fun d => { d with fin := some e.1 })
  else
    let e := s.cmdStamp c
    let m : Msg := ⟨0, line, e.1, [], false, none, none, some c.id, c.ctx, false, false, false, false, none, some (c.key % 128, c.addend), none⟩
    (e.2.sendMsg m).modCmd c.id (fun d => { d with fin := some e.1, wait := 1 })

/-- A command waits for the walk of a page (19 R312). -/
def State.cmdMiss (s : State) (c : Cmd) (va : Nat) (k : AKind) : State :=
  let w := s.joinWalk c.ctx va k.code (s.srcOf (c.cl / 32) c.agent)
  let add : Walk → Walk := fun x => { x with cmds := x.cmds ++ [c.id] }
  ({ w.2 with walks := modAll (fun x => x.id == w.1) add w.2.walks } : State).modCmd c.id (fun d => { d with walk := some w.1 })

/-! ### Completion (09 R182, R185, R186, R188) -/

/-- Entries of the range table whose target done has reached disarm (09 R185). -/
def State.disarm (s : State) (c : Cmd) : State :=
  if c.sel < 20 ∨ 24 ≤ c.sel then s
  else
    let d := (s.timeline c.ctx c.cl c.sel).done
    let f : Team → Team := fun u => { u with range := u.range.map (fun r => match r with
      | some e => if e.target ≤ d then none else some e
      | none => none) }
    { s with teams := modAll (fun u => u.ctx == c.ctx && u.cache == c.cl * 4 + (c.sel - 20)) f s.teams }

/-- The completion word or object: an addition, an arrival, or a failure to make it. -/
def State.cmdSignal (s : State) (c : Cmd) (e : Stamp) : State :=
  if c.comp = 0 then s
  else
    match s.cmdLoc c (c.compEa : Int) with
    | .error d => s.cmdNotify c d
    | .ok key =>
      if c.comp = 1 then s.addCounter key c.addend.toNat e
      else
        match s.objOf key with
        | some o => s.arriveAt o e
        | none => s.cmdNotify c .barKind

/-- The command is complete. -/
def State.cmdDone (s : State) (c : Cmd) (e : Stamp) : State :=
  let s := s.cmdSignal c e
  let s := s.modTl c.ctx c.cl c.sel (fun t => t.finish c.n e)
  let s := s.disarm c
  let s := if c.kind = .rcpy ∨ c.kind = .rsig then
      s.modSquads (fun q => some q.id == c.squad) (fun q => { q with ack := q.ack - 1 })
    else s
  let s := s.modLaunch c.launch (fun l => { l with doneSt := l.doneSt.max e })
  { s with cmds := s.cmds.filter (·.id != c.id) }

/-- Has every earlier command of the context completed? -/
def State.cmdFirst (s : State) (c : Cmd) : Bool := decide ((s.timeline c.ctx c.cl c.sel).done + 1 = c.n)

/-- The lines that a command needs and what for: the word of an rsig, lines it reads, those whose epoch its reads or writes end. -/
def State.cmdNeeds (s : State) (c : Cmd) (ms : List Move) : List (Need × Nat) :=
  if c.kind = .rsig then (if homePkg (lineOf c.key) = s.pkgIdx then [(.event, lineOf c.key)] else [])
  else
    let rd := if c.srcScr then [] else spanLines (ms.map (fun m => (m.src.toNat, m.n)))
    let wr := if c.dstScr then [] else spanLines (ms.map (fun m => (m.dst.toNat, m.n)))
    let forced := rd.filter (fun a => (s.cmdLeaf c a).any (fun l => s.engineForces c.launch c.tide l a))
    let ended := wr.filter (fun a => (s.cmdLeaf c a).any (fun l => l.upd && (s.epoch (lineOf (l.key a))).isSome))
    rd.map (fun a => (.read, s.cmdLine c a)) ++ (forced ++ ended).map (fun a => (.shared, s.cmdLine c a))

/-- Lines of other members that it reads and that an epoch here holds; it notes that it asks for lines. -/
def State.cmdForced (s : State) (c : Cmd) (ms : List Move) : List Nat :=
  if c.srcScr then []
  else ((spanLines (ms.map (fun m => (m.src.toNat, m.n)))).filter (fun a => (s.cmdLeaf c a).any (fun l => s.engineForces c.launch c.tide l a))).map
    (s.cmdLine c) |>.filter (homePkg · != s.pkgIdx)
def State.cmdNote (s : State) (c : Cmd) (lines : List Nat) (t : Option Stamp) : State :=
  if lines.isEmpty then s else s.modCmd c.id (fun d => { d with forced := lines.foldl (fun f l => noteForced l t f) d.forced })

/-- What it reads of memory: line, is its page manual, the stamp; without lines whose collapse it has forced. -/
def State.cmdReads (s : State) (c : Cmd) (ms : List Move) : List (Nat × Bool × Stamp) :=
  if c.srcScr then []
  else ((spanLines (ms.map (fun m => (m.src.toNat, m.n)))).filterMap (fun a => (s.cmdLeaf c a).map (fun l =>
    (lineOf (l.key a), l.cls == 2, s.stampFor c.launch c.tide l.cls)))).filter (fun r => (get? (forcedStamps c.forced) r.1).isNone)

/-- Go on with a command when its lines may be touched: pages of other members need a grant, an access that ends an epoch, and an
addition, their turn at the line's home; reads of them need their data (12 R254, R259). -/
def State.cmdWhen (s : State) (c : Cmd) (ms : List Move) (go : State → State) : State :=
  let s := s.cmdNote c (s.cmdForced c ms) none
  match (s.cmdNeeds c ms).find? (fun p => !s.granted p.1 p.2) with
  | some p => s.ask p.1 p.2
  | none =>
    match (s.cmdNeeds c ms).find? (fun p => p.1 != .read && s.barred c.id p.1 p.2) with
    | some p => s.awaitAs c.id (c.cl / 32 * 256 + c.agent) p.1 p.2
    | none =>
      match s.farLack (600 + c.cl / 32) (c.cl / 32) (s.cmdReads c ms) with
      | some r => (if r.2.1 then s else s.cmdNote c [r.1] (some r.2.2)).askData (c.cl / 32) c.ctx r.1 r.2.1 r.2.2
      | none => go (s.leaveLines c.id)

/-- One turn of an engine with a command: it runs, parks on a walk, fails, or completes; else nothing yet. -/
def State.cmdTurn (s : State) (c : Cmd) : State :=
  match c.fin with
  | some e => if c.wait = 0 then s.cmdDone c e else s
  | none =>
    if c.walk.isSome || c.ticket.isSome then s
    else
      match c.kind with
      | .sig =>
        if s.cmdFirst c then
          let e := (s.timeline c.ctx c.cl c.sel).stamp
          (s.modCmd c.id (fun d => { d with fin := some e })).cmdDone { c with fin := some e } e
        else s
      | .rsig => if s.cmdFirst c then s.cmdWhen c [] (fun s => s.cmdAdd c) else s
      | _ =>
        if s.cmdWaits c then s
        else
          let ms := s.cmdMoves c
          match s.cmdCheckRun c ms with
          | .miss va k => s.cmdMiss c va k
          | .bad d => s.cmdFail c d
          | .ok => s.cmdWhen c ms (fun s => s.cmdMove c ms)

/-- ENGINE_COMMAND_RUN. -/
def execEngineCommandRun (cmd : Nat) (s : State) : Out :=
  let s := s.unfocus
  match s.cmds.find? (·.id == cmd) with
  | some c => .next (s.cmdTurn c)
  | none => .next s

end Sys2Proof.Machine
end

