-- ==== Sys2Proof/Machine/Sched.lean ====
section
/-! DEFINITION. How a step chooses and begins: the split that issues (04 R91, 10 R218), asynchronous events (18 R293),
instruction fetch (03 R61, R63), decoding and its refusals, and how an instruction is placed for the next step (log 15). -/

namespace Sys2Proof.Machine

/-- What a step does: it is over, or it runs an instruction or event. -/
inductive Plan where
  | done (s : State)
  | run (i : Instr) (s : State)

/-! ### The issuing split -/

/-- Splits in ascending number. -/
def Squad.splits (q : Squad) : List Split :=
  (List.range 4).filterMap (fun n => (q.sp :: q.rest).find? (·.num == n))

/-- The split that issues next: the lowest-numbered above the last one that is not in Wait, wrapping (10 R218). In handler
mode the trapping split keeps the slot (18 R294). -/
def Squad.pick (q : Squad) : Squad :=
  if q.handler then q
  else
    let can := q.splits.filter (fun p => !p.waiting)
    match (can.find? (fun p => decide (q.turn < p.num))).or can.head? with
    | some p => { q with sp := p, rest := q.splits.filter (·.num != p.num) }
    | none => q

/-- Before a split issues every other split that joins it merges into it (04 R91). -/
def Squad.mergeIn (q : Squad) : Squad :=
  if q.handler then q
  else
    let m := q.sp.mergeAll ((List.range 4).filterMap (fun n => q.rest.find? (·.num == n)))
    { q with sp := m.1, rest := m.2 }

/-! ### Fetch (03 R61, R63) -/

/-- The outcome of fetching one word. -/
inductive Fetch where
  | word (w : W)
  | fault (c : Cause) (va : Nat)
  | miss (va : Nat)
  | far (line : Nat) (manual : Bool) (t : Stamp)
deriving DecidableEq, Repr

/-- The launch tidemark of the issuer's team; for the MCC that of its own launch, which is the model's choice (log 109). -/
def State.codeTide (s : State) : Stamp := if s.isM then s.mcc.launchTide else s.sq.launchTide

/-- Fetch of the word at an address: on a coherent or versioned page as it stood at the launch tidemark, on a manual page as memory holds
it (03 R63); no instruction cache stands between, the model's choice (log 109). A poisoned word is poisoned_data (22 R349; log 115). -/
def State.fetchWord (s : State) (va : Nat) : Fetch :=
  if 2 ^ 57 ≤ va then .fault .fetchFault va
  else
    match s.leafAt s.ctxNow va with
    | none => .miss va
    | some l =>
      let t := if l.cls = 2 then none else some s.codeTide
      if !s.allowed .fetch s.ctxNow l then .fault .fetchFault va
      else if !s.granted .read (lineOf (l.key va)) ∨ !s.reachesData (600 + s.clNow / 32) (s.clNow / 32) (lineOf (l.key va)) (l.cls == 2) s.codeTide then
        .far (lineOf (l.key va)) (l.cls == 2) s.codeTide
      else if s.poisoned t (l.key va) then .fault .poisonedData va
      else .word (wordOf (s.bytesAt t (l.key va) 4))

/-- A fault of a fetch (03 Table 3.7, checks 1 and 4). -/
def State.fetchFault (s : State) (c : Cause) (va : Nat) (w0 : W) : Plan :=
  .done (s.takeTrap ⟨c, 0, va, 0⟩ ⟨s.pcNow, w0, 0⟩)

/-- An untranslated fetch waits on a walk; a word not yet fetched counts as zero in the frame of a denied one (log 23). -/
def State.fetchMiss (s : State) (va : Nat) (w0 : W) : Plan :=
  let cur : Cur := ⟨s.pcNow, w0, 0⟩
  let t := if s.isM then s.modMcc (fun m => { m with cur := cur }) else s.modSq (fun q => { q with cur := cur })
  match t.missAt .fetch va 0 with
  | .park u => .done u
  | _ => .done s

/-- Code of another member: the package asks for its page's grant and its data (12 R259); the agent fetches again. -/
def State.fetchFar (s : State) (line : Nat) (manual : Bool) (t : Stamp) : Plan :=
  .done (if s.granted .read line then s.askData (s.clNow / 32) s.ctxNow line manual t else s.ask .read line)

/-- Decoding: words that are no instruction raise illegal_instruction with the first check that fails (03 R61). -/
def State.decoded (s : State) (w0 w1 : W) : Plan :=
  match decodeWords w0 w1 with
  | .ok i _ => .run i s
  | .bad uni op9 r len =>
    let r := if r ≠ 6 then r else if s.whoBad uni op9 then 3 else if s.placeBad uni op9 then 4 else 6
    .done (s.illegal r ⟨s.pcNow, w0, if len = 8 then w1 else 0⟩)

/-- Fetch and decode at the issuer's PC. -/
def State.fetch (s : State) : Plan :=
  let va := s.pcNow.toNat
  match s.fetchWord va with
  | .miss a => s.fetchMiss a 0
  | .fault c a => s.fetchFault c a 0
  | .far l man t => s.fetchFar l man t
  | .word w0 =>
    if isLong w0 then
      match s.fetchWord (va + 4) with
      | .miss a => s.fetchMiss a w0
      | .fault c a => s.fetchFault c a w0
      | .far l man t => s.fetchFar l man t
      | .word w1 => s.decoded w0 w1
    else s.decoded w0 0

/-! ### Pre-empting an MCC (08 R176) -/

/-- A pre-emption of an MCC (08 R176): everything but flags, stamps and what is published goes; it will run from its restart label
with the checkpoint, or from its entry in the launch state. -/
def Mcc.preempted (m : Mcc) : Mcc :=
  { m with
    acc := List.replicate 8 [], slots := List.replicate 64 Slot.empty, epi := [], queue := []
    st := .ready, wake := none, todo := [], walk := none, denied := false, due := 0, running := false, exiting := false
    inLine := none, got := [], badRegs := [], forced := []
    pc := if m.hasRestart then m.restart else m.entry
    sregs := if m.hasRestart then m.ckptS else [loW m.args, hiW m.args] ++ List.replicate 126 0
    scc := m.hasRestart && m.ckptScc
    fmt := if m.hasRestart then m.ckptFmt else m.fmt0 }

/-- Is an MCC in an mfence whose publication is stamped? A pre-emption lets it complete (08 R176). -/
def Mcc.stamped (m : Mcc) : Bool :=
  m.todo.any (fun o => match o with | .mfenceEnd _ => true | _ => false) && !m.todo.contains .publish

/-- The MCCs of a saving context are pre-empted, but for one whose mfence has stamped its publication: it completes first (08 R176). -/
def State.preemptMccs (s : State) (tag : Nat) : State :=
  let hit : Mcc → Bool := fun m => m.ctx == tag && m.running && !m.stamped
  (s.mccs.filter hit).foldl State.dropWaits { s with mccs := modAll hit Mcc.preempted s.mccs }

/-- The MCC in focus is pre-empted. -/
def State.preemptNow (s : State) : State := (s.dropWaits s.mcc).modMcc Mcc.preempted

/-! ### Turns -/

/-- The context of the squad in focus is being saved. -/
def State.savingNow (s : State) : Bool := (s.ctxOf s.sq.ctx).any (fun c => c.st == 2)

def State.savingMcc (s : State) : Bool := (s.ctxOf s.mcc.ctx).any (fun c => c.st == 2)

/-- Has the grace window of the squad's context closed? -/
def State.windowClosed (s : State) : Bool := (s.ctxOf s.sq.ctx).any (fun c => c.st == 2 && decide (c.graceEnd ≤ s.now))

/-- Does the squad's leave wait for window accesses of its team (09 R197)? -/
def Squad.leaving (q : Squad) : Bool := q.todo.any (fun m => match m with | .leaveDo => true | _ => false)

/-- Is the squad in a range instruction (07 R148), or does its leave wait? -/
def Squad.inRange (q : Squad) : Bool := q.leaving || q.todo.any (fun m => match m with | .walkLines _ _ _ => true | .walkAck => true | _ => false)

/-- A range instruction in progress is left with its PC, to start again (07 R148, 10 R216); so is a leave that waits, which has not taken
effect: the accesses that it waits for may be those of squads that the save or stop has taken (log 107). -/
def State.leaveRange (s : State) : State := if s.sq.inRange then s.rewind.again else s

/-- A save takes the squad in focus (18 R302): an open transaction is doomed with PREEMPT, instructions in flight complete
into replay entries, its pending bytes are published early. -/
def State.takeSquad (s : State) : State :=
  let s := if s.sq.tx then s.modSq (fun q => q.doom txPreempt) else s
  (s.leaveRange.toReplay s.sq.id).publish.modSq (fun q => { q with preempt := true })

/-- A save takes the squad in focus once its early publication can be made: the collapses before it wait for their homes, and its operations for
room in the counter (02 R47, 11 R236). -/
def State.saveSquad (s : State) : State :=
  match s.barredOf .shared s.preEpochs with
  | some l => s.await .shared l
  | none => if s.ackRoom s.sending then s.takeSquad else s

/-- May the squad in focus be taken where it stands (10 R216): Blocked or Halted; or Ready between two instructions, with no walk of an
access of its own in flight and none waited for, or in a range instruction? -/
def Squad.takeable (q : Squad) : Bool :=
  !q.preempt && q.walk.isNone && (q.st == .blocked || q.st == .halted || (q.st == .ready && q.got.isEmpty && (q.todo.isEmpty || q.inRange)))

/-- Does a save take the squad in focus now: at its window's close wherever it may be taken, before it while Blocked or Halted
(18 R302)? -/
def State.saveTakes (s : State) : Bool :=
  s.sq.takeable && (s.windowClosed || (s.savingNow && (s.sq.st == .blocked || s.sq.st == .halted)))

/-- Is an asynchronous event of the squad that handler mode holds back free to be taken: outside a handler, or at an rfe that is held (18
R293, R298)? -/
def Squad.between (q : Squad) : Bool := q.got.isEmpty && (!q.handler || q.heldRfe)

/-- May the squad in focus issue now? -/
def Squad.mayIssue (q : Squad) : Bool := q.st == .ready && q.walk.isNone && q.todo.isEmpty && !q.preempt

/-- May the MCC in focus issue now: it does not while all 4 entries of the array queue are held (08 R159)? -/
def Mcc.mayIssue (m : Mcc) : Bool := m.running && !m.halted && m.st == .ready && m.walk.isNone && m.todo.isEmpty &&
  decide (m.queue.length < 4)

/-- Is an agent in the middle of an instruction that waits at no blocking point (10 R214)? -/
def Squad.goesOn (q : Squad) : Bool := q.st == .ready && q.walk.isNone && !q.todo.isEmpty && !q.preempt
def Mcc.goesOn (m : Mcc) : Bool := m.running && !m.halted && m.st == .ready && m.walk.isNone && !m.todo.isEmpty

/-- The squad in focus takes engine_fault before its next instruction, which the next split's is (18 R293). -/
def State.takeEngFault (s : State) : State :=
  (s.modSq (fun q => { q with engFault := false })).takeTrap ⟨.engineFault, 0, 0, 0⟩ ⟨s.pcNow, 0, 0⟩

/-- A boundary of the squad in focus (18 R293): a forced pre-emption, then a pending stop, then a pending engine fault, is taken, the last
two not in a handler; else the split whose turn it is issues. -/
def State.boundary (s : State) : Plan :=
  if s.saveTakes then .done s.saveSquad
  else if s.sq.stopReq && s.sq.between then .done s.haltSquad
  else
    let s := s.modSq (fun q => q.pick.mergeIn)
    if s.sq.engFault && s.sq.got.isEmpty && !s.sq.handler then .done s.takeEngFault else s.fetch

/-! ### The issue choice (17 R290, R291) -/

/-- Word 0 of the next instruction of a squad, when its translation is cached. -/
def State.nextWord (s : State) (q : Squad) : Option W :=
  let va := q.pick.sp.pc.toNat
  (s.leafOn q.cache q.got q.ctx va).map (fun l => wordOf (s.bytesAt (if l.cls = 2 then none else some q.launchTide) (l.key va) 4))

/-- Does a squad wait for its sub-partition's SFU queue, all of whose 8 entries are held (05 R115)? -/
def State.sfuHeld (s : State) (q : Squad) : Bool :=
  decide (8 ≤ (s.sfu.filter (fun e => e.cache == q.cache && e.sub == q.sub)).length) &&
    (match s.nextWord q with
     | some w => !w.getLsbD 31 && (decide (0x0C0 ≤ op9Of w ∧ op9Of w ≤ 0x0C6) || op9Of w == 0x0CA)
     | none => false)

/-- Can a squad issue in this cycle, its operands' arrival apart (17 R290)? -/
def State.eligible (s : State) (q : Squad) : Bool := q.mayIssue && q.splits.any (fun p => !p.waiting) && !s.sfuHeld q

/-- The squads of the issuer's sub-partition, the one in focus first if it is one, that are eligible in this cycle. Whether the operands of another have
arrived is timing, and free (log 99). -/
def State.contenders (s : State) : List Squad :=
  (if s.eligible s.sq then [s.sq] else []) ++ ((List.range s.mates.length).filter (fun i => (Config.freeWord s.free).getLsbD (i % 32))).filterMap (fun i =>
    s.mates[i]?.bind (fun q => if s.eligible q then some q else none))

/-- The choice of a sub-partition among eligible squads (17 R291): one whose age has reached 512, the oldest; else of the highest class
the one issued least recently. The lower slot breaks a tie. -/
def issueChoice (l : List Squad) : Option Squad :=
  let old := l.filter (fun q => decide (512 ≤ q.age))
  let cls := l.foldl (fun m q => max m q.prio) 0
  if old.isEmpty then argMin (fun q => q.lastIssue * 16 + q.slot) (l.filter (·.prio == cls))
  else argMin (fun q => (l.foldl (fun m q => max m q.age) 0 - q.age) * 16 + q.slot) old

/-- The eligible squads that the choice passes over grow older (17 R291). -/
def State.grow (s : State) (ids : List Nat) : State :=
  { s with squads := modAll (fun q => ids.contains q.id) (fun q => { q with age := q.age + 1 }) s.squads }

/-- The sub-partition of the squad in focus issues the squad that it chooses. -/
def State.chooseIssue (s : State) : Plan :=
  if s.mates.isEmpty then s.boundary
  else
    let l := s.contenders
    let s : State := { s with free := s.free + 1 }
    match issueChoice l with
    | some q => ((s.focusOn q.id).grow ((l.filter (·.id != q.id)).map (·.id))).boundary
    | none => s.boundary

/-- The turn of an agent: it goes on with an instruction in progress, or an instruction issues. -/
def State.issueTurn (s : State) (id : Nat) : Plan :=
  let s := s.focusOn id
  match s.focus with
  | .idle => .done s
  | .mcc =>
    if s.savingMcc && s.mcc.running && !s.mcc.stamped then .done s.preemptNow
    else if s.mcc.goesOn then .done s.runTodo
    else if !s.mcc.mayIssue then .done s
    else if s.mcc.engFault && s.mcc.got.isEmpty then
      .done ((s.modMcc (fun m => { m with engFault := false })).takeTrap ⟨.engineFault, 0, 0, 0⟩ ⟨s.pcNow, 0, 0⟩)
    else s.fetch
  | .squad =>
    if s.sq.goesOn then .done (if s.saveTakes then s.saveSquad else s.runTodo)
    else if s.sq.mayIssue then s.chooseIssue
    else .done s

/-! ### Placing an instruction (log 15) -/

/-- The address at which `withFetchWord` places its instruction. -/
def placeVa : Nat := 0x10000

/-- The context that runs it. -/
def placeCtx (tag : Nat) : Ctx := ⟨tag, 1, 0, true, false, true, 0, ⟨[], [], [], [], [], [], [], [], [], [], []⟩, [], false⟩

/-- A kernel header as a launch of one team of one squad holds it. -/
def placeHdr : Hdr :=
  ⟨0x8000, true, BitVec.ofNat 64 placeVa, 0x10000, 1, 5, 0, 0x6000, [⟨BitVec.ofNat 64 placeVa, 32, 16, 0, false⟩], [(1, 1)]⟩

/-- A launch of it. -/
def placeLaunch (id tag : Nat) : Launch :=
  { id := id, ctx := tag, queue := 0, entry := 1, card := 0, hdr := placeHdr, args := 0, teams := 1, snapOn := false
    intr := false, dmask := 0, dep := Stamp.zero, k := none, revoked := false, next := 1, doneSt := Stamp.zero, since := 0
    waited := 0, aged := false, away := [], killed := false, huddle := false, parents := [] }

/-- Its team, with the activation table pair, ranges and barriers of a new team. -/
def placeTeamRec (id launch tag sq : Nat) : Team :=
  { id := id, ctx := tag, launch := launch, num := 0, cache := 0, base := 0, size := 0x10000, nsq := 1, alive := [sq], held := []
    huddle := false, tide := Stamp.zero, bars := List.replicate 16 HwBar.zero, lvArr := List.replicate 5 0
    range := List.replicate 32 none, shoal := none, shSlot := 0, engFault := 0, lut := none, stopping := false
    halted := false, trap := none, exited := false }

/-- Its squad. -/
def placeSquad (id team launch tag : Nat) : Squad :=
  { Squad.blank with
    id := id, ctx := tag, launch := launch, team := team, vallot := 256, sallot := 128, filled := 0xFFFFFFFF
    sp := { Split.blank with pc := BitVec.ofNat 64 placeVa, mask := 0xFFFFFFFF, fmt := 0x6000 } }

/-- The MCC of the launch's cluster. -/
def placeMcc (id launch tag : Nat) : Mcc :=
  { Mcc.blank with
    id := id, ctx := tag, launch := launch, running := true, pc := BitVec.ofNat 64 placeVa, entry := BitVec.ofNat 64 placeVa
    fmt := 0x6000, fmt0 := 0x6000 }

/-- Place the bytes of an instruction where the next step fetches: a resident launch of one squad on cache 0 in a context of
its own, whose code page is mapped and holds the bytes; the MCC of cluster 0 runs the matrix instructions. -/
def State.place (s : State) (code : List Byte) (mcc : Bool) : State :=
  let s := s.unfocus
  let tag := 4095
  let n := s.nextId
  let leaf : Leaf := ⟨0, s.pkgIdx, false, false, 0, false, true, true, true, 3⟩
  let s := s.homeWrite (leaf.key placeVa) code
  (({ s with
    nextId := n + 3
    ctxs := placeCtx tag :: s.ctxs
    launches := placeLaunch n tag :: s.launches
    teams := placeTeamRec (n + 1) n tag (n + 2) :: s.teams
    squads := if mcc then s.squads else placeSquad (n + 2) (n + 1) n tag :: s.squads
    mccs := if mcc then placeMcc (n + 2) n tag :: s.mccs else s.mccs
    tlb := ⟨tag, placeVa, leaf, if mcc then 1000 else 0⟩ :: s.tlb
    agenda := .issue (n + 2) :: s.agenda } : State).setCsr 0 0x8500 3)

/-- Is a word 0 a matrix instruction (08)? -/
def matrixWord (w0 : W) : Bool := w0.getLsbD 31 && decide (0x140 ≤ op9Of w0 ∧ op9Of w0 ≤ 0x147)

end Sys2Proof.Machine
end

