-- ==== Sys2Proof/Machine/EvSquad.lean ====
section
/-! DEFINITION. Events of squads and MCCs: the retiring of SFU and matrix work, asynchronous events, waking, retiring, the
exit of teams and the end of MCC programs (10 R213 to R217, 18 R293, 23 R361, R366). An event that is not enabled leaves the
package as it is (log 3). -/

namespace Sys2Proof.Machine

/-! ### Work in flight -/

/-- SFU_RETIRE: the oldest entry of a sub-partition's pipe. -/
def execSfuRetire (cu sub : Nat) (s : State) : Out :=
  let s := s.unfocus
  match s.sfu.find? (fun e => e.cache == cu && e.sub == sub) with
  | some e => .next (s.retireSfu e)
  | none => .next s

/-- MATRIX_PASS_RETIRE: the oldest entry of a cluster's array queue. -/
def execMatrixPassRetire (cl : Nat) (s : State) : Out :=
  let s := s.unfocus
  match s.mccs.find? (fun m => m.cl == cl && m.running && !m.queue.isEmpty) with
  | some m => .next (s.focusOn m.id).retirePass
  | none => .next s

/-- SAMPLER_COUNT_ZERO: at zero the sampler tags the next issue (23 R361). -/
def execSamplerCountZero (cu sub : Nat) (s : State) : Out :=
  let s := s.unfocus
  if s.smpOn then .next (s.setSampler (s.sampler cu sub).atZero) else .next s

/-! ### Asynchronous events (18 R293) -/

/-- ASYNC_EVENT_TAKE: at a boundary a forced pre-emption, then a team stop, then engine_fault; a stop takes a Blocked squad as
well. -/
def execAsyncEventTake (id : Nat) (s : State) : Out :=
  let s := s.focusOn id
  match s.focus with
  | .idle => .next s
  | .mcc =>
    if s.mcc.engFault && s.mcc.mayIssue && s.mcc.got.isEmpty then
      .next ((s.modMcc (fun m => { m with engFault := false })).takeTrap ⟨.engineFault, 0, 0, 0⟩ ⟨s.pcNow, 0, 0⟩)
    else .next s
  | .squad =>
    let q := s.sq
    if s.saveTakes then .next s.saveSquad
    else if q.preempt then .next s
    else if q.stopReq && ((q.mayIssue && q.between) || (q.st == .blocked && q.takeable)) then .next s.haltSquad
    else if q.stopReq && q.leaving && !q.handler && q.takeable then .next s.leaveRange.haltSquad
    else if q.engFault && !q.handler && q.inRange && q.takeable then .next s.leaveRange.takeEngFault
    else if q.engFault && q.mayIssue && q.got.isEmpty && !q.handler then .next (s.modSq (fun q => q.pick.mergeIn)).takeEngFault
    else .next s

/-! ### Waking (10 R212, R215) -/

/-- Does an open ticket hold the agent, or does its fault wait for one? -/
def State.ticketOpen (s : State) (id : Nat) : Bool :=
  s.tickets.any (·.agents.contains id) || s.parkWait.any (·.ticket.agents.contains id)

/-- Is the squad in focus the oldest role waiter of a sub-partition all of whose squads wait for a role (10 R212)? -/
def State.roleStuck (s : State) : Bool :=
  (s.heldOn s.sq.cache s.sq.sub).isEmpty && s.mates.all (fun q => q.st == .blocked && (match q.wake with | some w => w.kind == 9 | none => false) &&
    (decide (s.sq.waitSince < q.waitSince) || (q.waitSince == s.sq.waitSince && decide (s.sq.id < q.id))))

/-- Is a request of this package for the grant of a line's page, or for the line's data, still open (12 R259)? -/
def State.wantsPage (s : State) (line : Nat) : Bool :=
  s.reqs.any (fun r =>
    match r.body with
    | .grant p _ _ _ => p == pageOf line
    | .read l _ => l == line
    | .upd l _ _ _ => l == line
    | .bytes l => l == line
    | _ => false)

/-- The squad or MCC in focus, blocked on w, tests its condition. -/
def State.wakeNow (s : State) (w : Wake) : State :=
  if w.kind = 8 then
    (let denied := if s.isM then s.mcc.denied else s.sq.denied
     if denied then
       (if s.isM then (s.modMcc (fun m => { m with denied := false })).takeTrap ⟨.pageFault, 0, s.mcc.missVa, 0⟩ s.mcc.cur
        else (s.modSq (fun q => { q with denied := false })).takeTrap ⟨.pageFault, 0, s.sq.missVa, s.sq.faultLane⟩ s.sq.cur)
     else if s.ticketOpen s.agentNow then s else s.again)
  else if s.todoNow.isEmpty then
    (if w.kind = 7 then (if s.absent.contains (w.op0 / 128) then s else s.again)
     else if s.wantsPage (w.op0 / 128) then s else s.again)
  else if w.kind = 0x0C ∧ s.wantsPage (w.op0 / 128) then s
  else if w.kind = 9 ∧ !s.roleFits (s.roleRec w.op0) ∧ s.roleStuck then s.takeTrap ⟨.roleStall, 0, 0, 0⟩ s.sq.cur
  else s.runTodo

/-- SQUAD_WAKE, for an MCC as well; a squad that a save takes does not wake. -/
def execSquadWake (id : Nat) (s : State) : Out :=
  let s := s.focusOn id
  match s.focus with
  | .idle => .next s
  | .mcc =>
    match s.mcc.wake with
    | some w =>
      if s.savingMcc && !s.mcc.stamped then .next s.preemptNow
      else if s.mcc.st = .blocked then .next (s.wakeNow w)
      else .next s
    | none => .next s
  | .squad =>
    match s.sq.wake with
    | some w =>
      if s.sq.st ≠ .blocked ∨ s.sq.preempt then .next s
      else if s.saveTakes then .next s.saveSquad
      else .next (s.wakeNow w)
    | none => .next s

/-! ### TLBs (19 R311) -/

/-- A translation takes its place in a TLB: the L1 TLB of a CU holds 64, a cluster's 8 in each set; which one leaves is open (log 14). -/
def State.putTlb (s : State) (t : Tlb) : State :=
  let rivals := s.tlb.filter (fun u => u.place == t.place && (t.place < 1000 || tlbSet u.base == tlbSet t.base))
  if rivals.any (fun u => u.covers t.ctx t.base) then s
  else if rivals.length < (if t.place < 1000 then 64 else 8) then { s with tlb := s.tlb ++ [t] }
  else
    let out := nth t rivals ((Config.freeWord s.free).toNat % rivals.length)
    { s with tlb := s.tlb.erase out ++ [t], free := s.free + 1 }

/-! ### Tickets (19 R315) -/

/-- A ticket opens and its record goes to the fault queue. -/
def State.openTicket (s : State) (t : Ticket) (rest : List Byte) : State :=
  let s : State := { s with
    tickets := s.tickets ++ [t]
    fqWait := s.fqWait ++ [(t.num, bytesLE 8 t.num ++ rest)] }
  State.flushFq s.fqWait.length s

/-- Faults that wait for a ticket get one, in order of arrival, while fewer than 4,096 are open. -/
def State.letIn : Nat → State → State
  | 0, s => s
  | k + 1, s =>
    match s.parkWait with
    | [] => s
    | p :: r =>
      if 4096 ≤ s.tickets.length then s
      else
        let n := s.nextTicket
        let name (w : Option Wake) : Option Wake := w.map (fun w => if w.kind = 8 then { w with op0 := n } else w)
        let mineQ (q : Squad) : Bool := p.ticket.agents.contains q.id
        let q1 : Squad → Squad := fun q => { q with wake := name q.wake }
        let c1 : Cmd → Cmd := fun c => { c with ticket := some n }
        let mineC (c : Cmd) : Bool := p.ticket.cmds.contains c.id && c.ticket.isSome
        let x1 : Ctx → Ctx := fun c => { c with saved := { c.saved with
          squads := modAll mineQ q1 c.saved.squads, cmds := modAll mineC c1 c.saved.cmds } }
        let s := (s.modSquads mineQ q1).modMccs (fun m => p.ticket.agents.contains m.id) (fun m => { m with wake := name m.wake })
        let s : State := { s with
          cmds := modAll mineC c1 s.cmds, ctxs := s.ctxs.map x1, parkWait := r, nextTicket := n + 1 }
        State.letIn k (s.openTicket { p.ticket with num := n } p.rest)

/-- A ticket closes and those that wait for one are admitted. -/
def State.closeTicket (s : State) (num : Nat) : State :=
  let s : State := { s with tickets := s.tickets.filter (·.num != num) }
  State.letIn s.parkWait.length s

/-! ### Retiring (04 R93, 10 R217, 17 R288, 23 R366) -/

/-- The bytes of an energy record. -/
def energyBytes (sum tick team cache sq role ctx : Nat) : List Byte :=
  bytesLE 8 sum ++ bytesLE 8 tick ++ bytesLE 4 team ++ bytesLE 2 cache ++ bytesLE 1 sq ++ bytesLE 1 role ++ bytesLE 2 ctx ++ zbytes 6

/-- May an energy record be written or passed over now: a full ring holds it (23 R366, 22 R355)? -/
def State.energyRoom (s : State) (ctx : Nat) : Bool := (s.enRing ctx).base == 0 || (s.enRing ctx).open_

/-- Write an energy record when the context's ring is enabled. -/
def State.putEnergy (s : State) (ctx : Nat) (b : List Byte) : State :=
  if (s.enRing ctx).base = 0 then s else s.ringPut (s.enRing ctx) 32 b

/-- Timeline sets that nothing uses any more are freed (09 R179). -/
def State.freeSets (s : State) : State :=
  { s with tlsets := s.tlsets.filter (fun t =>
      s.teams.any (fun u => u.ctx == t.ctx && u.cache / 4 == t.cl && !u.exited) || s.allMccs.any (fun m => m.ctx == t.ctx && m.cl == t.cl) ||
      s.huddles.any (fun h => h.ctx == t.ctx && h.cl == t.cl) || s.cmds.any (fun c => c.ctx == t.ctx && c.cl == t.cl) ||
      s.ctxs.any (fun c => c.tag == t.ctx && (c.st == 2 || c.st == 4))) }

/-- Has the context a resident slot, or is one of the 256 free? -/
def State.slotFor (s : State) (tag : Nat) : Bool :=
  (s.ctxOf tag).any (·.slot) || decide ((s.ctxs.filter (·.slot)).length < 256)

/-- Slots became free since state `s`: launches that waited for one begin to count again (17 R288). -/
def State.slotsFreed (s t : State) : State :=
  { t with launches := modAll (fun l => !s.slotFor l.ctx && t.slotFor l.ctx) (fun l => { l with since := t.now }) t.launches }

/-- A context with nothing on the package frees its resident slot (17 R288). -/
def State.freeSlots (s : State) : State :=
  let busy (t : Nat) : Bool :=
    s.teams.any (·.ctx == t) || s.allMccs.any (·.ctx == t) || s.huddles.any (·.ctx == t) || s.cmds.any (·.ctx == t)
  s.slotsFreed { s with ctxs := modAll (fun c => c.slot && c.st == 1 && !busy c.tag) (fun c => { c with slot := false, st := 0 }) s.ctxs }

/-- The scratchpad of a CU keeps the steps that reach its highest team; what lies above is L1 again (12 R240). -/
def State.trimScratch (s : State) (cache : Nat) : State :=
  let top := (s.teams.filter (·.cache == cache)).foldl (fun m u => max m (u.base + u.size)) 1
  let size := (top + 65535) / 65536 * 65536
  { s with scratch := s.scratch.filter (fun c => !(c.1 / 2 ^ 19 == cache && decide (size ≤ c.1 % 2 ^ 19))) }

/-- A team leaves its CU: typing, presence and scratchpad go. -/
def State.freeTeam (s : State) (u : Team) : State :=
  let inside (k : Nat) : Bool := k / 2 ^ 19 == u.cache && decide (u.base ≤ k % 2 ^ 19 ∧ k % 2 ^ 19 < u.base + u.size)
  ({ s with
    teams := s.teams.filter (·.id != u.id)
    objs := s.objs.filter (fun o => !inside o.key)
    absent := s.absent.filter (fun l => !inside (l * 128)) } : State).trimScratch u.cache

/-- Has the MCC of the team's cluster still its program of the launch (10 R202)? -/
def State.mccHolds (s : State) (u : Team) : Bool := s.allMccs.any (fun m => m.launch == u.launch && m.cl == u.cache / 4)

/-- The message channels of a cluster that no launch holds whole any more are empty: its MCC program has ended and the teams of the launch,
those of its huddles among them, have exited (09 R198, 10 R202). -/
def State.clearChans (s : State) (cl : Nat) : State :=
  let whole (t : Team) : Bool := match s.launchOf t.launch with | some l => l.hdr.mcc | none => false
  if s.allMccs.any (·.cl == cl) || s.teams.any (fun t => t.cache / 4 == cl && whole t) then s
  else { s with chans := s.chans.filter (·.cl != cl) }

/-- The exit of a team, in the order of 10 R217; a team whose scratchpad the MCC still holds frees the rest. -/
def State.exitTeam (s : State) (u : Team) : State :=
  let s := { s with luts := s.luts.filter (fun p => !(p.cache == u.cache && u.lut == some p.num)) }
  let s := if s.mccHolds u then s.modTeam u.id (fun v => { v with exited := true, shoal := none, lut := none, held := [] })
    else (s.freeTeam u).clearChans (u.cache / 4)
  let s := match s.launchOf u.launch with | some l => s.testLevels l | none => s
  s.freeSets.freeSlots

/-- Is every engine command of the team complete and every entry of its range table disarmed? -/
def State.teamSettled (s : State) (u : Team) : Bool :=
  !s.cmds.any (fun c => c.team == some u.id) && u.range.all (·.isNone)

/-- SQUAD_RETIRE: after its exit Publish is acknowledged. -/
def execSquadRetire (id : Nat) (s : State) : Out :=
  let s := s.unfocus
  match s.squads.find? (·.id == id) with
  | none => .next s
  | some q =>
    if q.st = .exiting ∧ q.ack = 0 ∧ q.todo.isEmpty ∧ s.energyRoom q.ctx then
      let num := match s.teams.find? (·.id == q.team) with | some u => u.num | none => 0
      let s := s.putEnergy q.ctx (energyBytes q.energy s.now num q.cache q.idx q.role q.ctx)
      let s := { s with squads := s.squads.filter (·.id != id) }
      let s := s.modTeam q.team (fun u => { u with
        alive := u.alive.filter (· != id), held := u.held ++ [(q.sub, q.slot, q.vallot, q.sallot)] })
      .next (s.recheck q.team).trimCopies
    else .next s

/-- TEAM_EXIT. -/
def execTeamExit (team : Nat) (s : State) : Out :=
  let s := s.unfocus
  match s.teams.find? (·.id == team) with
  | some u => if u.alive.isEmpty ∧ !u.exited ∧ s.teamSettled u then .next (s.exitTeam u) else .next s
  | none => .next s

/-- The cluster of an ended MCC program is given up by the teams that have exited. -/
def State.releaseCluster (s : State) (launch cl : Nat) : State :=
  let gone := s.teams.filter (fun u => u.launch == launch && u.cache / 4 == cl && u.exited)
  (gone.foldl State.freeTeam s).clearChans cl

/-- MCC_PROGRAM_END: after its publications are acknowledged and its engine commands complete (08 R174). Team number, cache
number and role of its energy record are free values (log 24). -/
def execMccProgramEnd (cl : Nat) (s : State) : Out :=
  let s := s.unfocus
  match s.mccs.find? (fun m => m.cl == cl && m.exiting && !(s.ctxOf m.ctx).any (fun c => c.st == 2)) with
  | none => .next s
  | some m =>
    if m.st = .exiting ∧ m.todo.isEmpty ∧ m.ack = 0 ∧ m.queue.isEmpty ∧ s.energyRoom m.ctx ∧
        !s.cmds.any (fun c => c.team.isNone && c.cl == cl && c.launch == m.launch) then
      let f (i : Nat) : Nat := (Config.freeWord (s.free + i)).toNat
      let s := s.putEnergy m.ctx (energyBytes m.energy s.now (f 0) (f 1) 0xFF (f 2) m.ctx)
      let s := { s with free := s.free + 3, mccs := s.mccs.filter (·.id != m.id) }
      .next (s.releaseCluster m.launch cl).freeSets.freeSlots
    else .next s

end Sys2Proof.Machine
end

