-- ==== Sys2Proof/Machine/Place.lean ====
section
/-! DEFINITION. Where the placer may put teams and what a placement does (02 R50, R52; 10 R200 to R206; 12 R240, R241;
17 R285 to R288): registers and slots of a sub-partition, the offset of a scratchpad, resident slots of contexts, the L1 that a
placement shrinks, a new team, its squads and its MCC. -/

namespace Sys2Proof.Machine

/-- Does the runtime of the management controller run, so that the compute dies are enabled (24 R369)? -/
def State.running (s : State) : Bool := s.csr 0 0x8500 == 3 && !s.heldReset

/-- A list with each value once, where it first stands. -/
def dedup (l : List Nat) : List Nat := (l.foldl (fun m x => if m.contains x then m else x :: m) []).reverse

/-- The sum of a list. -/
def total (l : List Nat) : Nat := l.foldl (· + ·) 0

/-! ### Resident slots (17 R288) -/

/-- A context that nothing of it is on the package. -/
def Ctx.new (tag : Nat) : Ctx :=
  ⟨tag, 0, 0, Config.supTag tag, Config.domTag tag, false, 0, ⟨[], [], [], [], [], [], [], [], [], [], []⟩, [], false⟩

/-- The record of a context exists. -/
def State.needCtx (s : State) (tag : Nat) : State :=
  if s.ctxs.any (·.tag == tag) then s else { s with ctxs := s.ctxs ++ [Ctx.new tag] }

/-- The context takes a slot and is resident. When it takes the last one, launches of contexts that hold none begin a wait that does not
count toward the 1 ms of R285. -/
def State.takeSlot (s : State) (tag : Nat) : State :=
  let t := (s.needCtx tag).modCtx tag (fun c => { c with slot := true, st := if c.st = 0 then 1 else c.st })
  let pause (l : Launch) : Launch := { l with waited := l.waited + (t.now - l.since) }
  { t with launches := modAll (fun l => s.slotFor l.ctx && !t.slotFor l.ctx) pause t.launches }

/-- Is the context being saved, saved or being restored, so that nothing of it is taken or placed (18 R301, R306)? -/
def State.ctxAway (s : State) (tag : Nat) : Bool := (s.ctxOf tag).any (fun c => decide (2 ≤ c.st))

/-! ### Room on a CU -/

/-- What squads hold of a sub-partition: slot and allotments, retired ones of resident teams included (10 R217). -/
def State.residents (s : State) (cache sub : Nat) : List (Nat × Nat × Nat) :=
  (s.allSquads.filter (fun q => q.cache == cache && q.sub == sub)).map (fun q => (q.slot, q.vallot, q.sallot)) ++ s.heldOn cache sub

/-- Squads that a CU holds. -/
def State.load (s : State) (cache : Nat) : Nat := total ((List.range 4).map (fun i => (s.residents cache i).length))

/-- Does a CU take squads of the given sub-partitions and allotments (02 R50)? -/
def State.squadsFit (s : State) (cache : Nat) (need : List (Nat × Nat × Nat)) : Bool :=
  (List.range 4).all (fun i =>
    let r := s.residents cache i
    let n := need.filter (·.1 == i)
    decide (r.length + n.length ≤ 16) &&
      decide (total (r.map (·.2.1)) + total (n.map (·.2.1)) ≤ 512) &&
      decide (total (r.map (·.2.2)) + total (n.map (·.2.2)) ≤ 1024))

/-- The lowest offset at which a scratchpad lies clear of every resident team, when the CU's scratchpad then stays within 448
KiB (12 R240). -/
def State.scrOffset (s : State) (cache size : Nat) : Option Nat :=
  let us := s.teams.filter (·.cache == cache)
  let offs := sortNat (0 :: us.map (fun u => (u.base + u.size + 1023) / 1024 * 1024))
  match offs.find? (fun o => us.all (fun u => decide (o + size ≤ u.base ∨ u.base + u.size ≤ o))) with
  | none => none
  | some o => if o + size ≤ 458752 then some o else none

/-- Is a cluster held whole by an MCC kernel (10 R202)? -/
def State.heldWhole (s : State) (cl : Nat) : Bool :=
  s.allMccs.any (·.cl == cl) ||
    s.teams.any (fun u => u.cache / 4 == cl && (match s.launchOf u.launch with | some l => l.hdr.mcc | none => false))

/-- The physical cluster that serves a logical one (22 R356). -/
def State.physCluster (s : State) (cl : Nat) : Nat := (get? s.clusterMap cl).getD (cl % 32)

/-- Is a cluster marked worn or failed, so that it waits for its retirement (22 R356)? Unit classes 1 to 3 lie in clusters, and
a record's place is 64 die + physical cluster. -/
def State.clusterMarked (s : State) (cl : Nat) : Bool :=
  s.units.any (fun u => decide (u.cls ≤ 3) && u.place == 64 * (cl / 32) + s.physCluster cl && (u.worn || u.failed))

/-- May the placer use a cluster for a context: in service, and with a timeline set or room for one of its 64 (09 R179)? -/
def State.clusterFits (s : State) (cl tag : Nat) : Bool :=
  !s.withdrawn.contains cl && !s.clusterMarked cl &&
    (s.tlsets.any (fun t => t.ctx == tag && t.cl == cl) || decide ((s.tlsets.filter (·.cl == cl)).length < 64))

/-- What n squads of role 0 need: squad i on sub-partition i mod 4 (10 R200). -/
def Hdr.need (h : Hdr) (n : Nat) : List (Nat × Nat × Nat) :=
  let r := nth ⟨0, 1, 1, 0, false⟩ h.roles 0
  (List.range n).map (fun i => (i % 4, 8 * r.vcode, 8 * r.scode))

/-- May a team of n squads of a launch go on a CU, its levels apart (17 R286)? -/
def State.teamFits (s : State) (l : Launch) (n cache : Nat) : Bool :=
  bit l.dmask (cache / 128) && !s.heldWhole (cache / 4) && s.clusterFits (cache / 4) l.ctx &&
    s.squadsFit cache (l.hdr.need n) && (s.scrOffset cache l.hdr.scratch).isSome

/-! ### The L1 that a placement shrinks (12 R241) -/

/-- A line of a way that the scratchpad will take leaves (12 R241), `w` ways being left: of the lines of a set that hold more, which one is
free (log 14). A pending line finds no way left; its squad publishes early, once it can, or its transaction is doomed. -/
def State.squeezeSet (cache set w : Nat) : Nat → State → State
  | 0, s => s
  | n + 1, s =>
    if s.occupied cache set ≤ w then s
    else
      let vs := s.victims cache set
      let ps := s.squads.filter (fun q => q.cache == cache && q.pending.any (fun p => setOf p.line == set))
      let i := (Config.freeWord s.free).toNat % (vs.length + ps.length)
      let s : State := { s with free := s.free + 1 }
      match vs[i]?, ps[i - vs.length]? with
      | some v, _ => State.squeezeSet cache set w n (s.evict v)
      | none, some q =>
        if q.pending.any (fun p => p.tx && setOf p.line == set) then
          State.squeezeSet cache set w n (s.modSquads (fun k => k.id == q.id) (fun k => k.doom txCapacity))
        else
          let t := s.focusOn q.id
          match t.barredOf .shared t.preEpochs with
          | some l => (t.await .shared l).unfocus
          | none => if t.ackRoom t.sending then State.squeezeSet cache set w n t.publish.unfocus else s
      | none, none => s

/-- The CU's L1 gives up all but `w` ways of each set, as far as their lines may leave now. -/
def State.squeeze (s : State) (cache w : Nat) : State :=
  (List.range 64).foldl (fun s set => State.squeezeSet cache set w (s.occupied cache set) s) s

/-- The caches of the teams that a placement adds to state s. -/
def State.newCaches (s t : State) : List Nat := dedup ((t.teams.drop s.teams.length).map (·.cache))

/-- Are the ways empty that the placement takes from the L1s (12 R241)? -/
def State.waysClear (s t : State) : Bool :=
  (s.newCaches t).all (fun c => decide (s.ways c ≤ t.ways c) ||
    (List.range 64).all (fun set => decide (s.occupied c set ≤ t.ways c)))

/-- A placement waits until the ways that it takes are empty; their lines leave meanwhile. The second answer is the package that waits. -/
def State.whenClear (s : State) (f : State → Option State) : Option State × State :=
  match f s with
  | none => (none, s)
  | some t =>
    if s.waysClear t then (some t, s)
    else
      let u := (s.newCaches t).foldl (fun u c => if s.ways c ≤ t.ways c then u else u.squeeze c (t.ways c)) s
      match f u with
      | none => (none, u)
      | some v => (if u.waysClear v then some v else none, u)

/-! ### A new team -/

/-- The free squad slots of a sub-partition. -/
def State.openSlots (s : State) (cache sub : Nat) : List Nat :=
  (List.range 16).filter (fun n => !(s.residents cache sub).any (·.1 == n))

/-- A squad as its launch finds it (02 Table 2.10). -/
def Launch.squad (l : Launch) (id team idx cache slot : Nat) (tide : Stamp) : Squad :=
  let r := nth ⟨0, 1, 1, 0, false⟩ l.hdr.roles 0
  { Squad.blank with
    id := id, ctx := l.ctx, launch := l.id, team := team, idx := idx, cache := cache, sub := idx % 4, slot := slot
    sp := { Split.blank with pc := r.entry, mask := 0xFFFFFFFF, fmt := l.hdr.fmt }
    sregs := [loW l.args, hiW l.args] ++ List.replicate 126 0
    part := w32 l.hdr.tsize, tide := tide, obs := tide, launchTide := tide
    vallot := 8 * r.vcode, sallot := 8 * r.scode, prio := r.prio, filled := 0xFFFFFFFF }

/-- A team without history. -/
def Launch.team (l : Launch) (id num cache base n : Nat) (alive : List Nat) (tide : Stamp) : Team :=
  { id := id, ctx := l.ctx, launch := l.id, num := num, cache := cache, base := base, size := l.hdr.scratch, nsq := n
    alive := alive, held := [], huddle := l.huddle, tide := tide, bars := List.replicate 16 HwBar.zero
    lvArr := List.replicate 5 0, range := List.replicate 32 none, shoal := none, shSlot := 0, engFault := 0, lut := none
    stopping := false, halted := false, trap := none, exited := false }

/-- Place a team of n squads on a CU with a launch tidemark (10 R200, 17 R287). -/
def State.putTeam (s : State) (l : Launch) (num n cache : Nat) (tide : Stamp) : State :=
  let base := (s.scrOffset cache l.hdr.scratch).getD 0
  let tid := s.nextId
  let ids := (List.range n).map (tid + 1 + ·)
  let sq := (List.range n).map (fun i => l.squad (tid + 1 + i) tid i cache (nth 0 (s.openSlots cache (i % 4)) (i / 4)) tide)
  let s := (s.takeSlot l.ctx).makeSet l.ctx (cache / 4)
  { s with
    nextId := s.nextId + n + 1
    teams := s.teams ++ [l.team tid num cache base n ids tide]
    squads := s.squads ++ sq }

/-- The MCC of a cluster starts (02 Table 2.11, 08 R160). -/
def State.putMcc (s : State) (l : Launch) (cl : Nat) (tide : Stamp) : State :=
  let m : Mcc :=
    { Mcc.blank with
      id := s.nextId, cl := cl, ctx := l.ctx, launch := l.id, running := true, pc := l.hdr.mccEntry, entry := l.hdr.mccEntry
      args := l.args, fmt0 := l.hdr.fmt, sregs := [loW l.args, hiW l.args] ++ List.replicate 126 0, fmt := l.hdr.fmt
      tide := tide, obs := tide, launchTide := tide }
  { s with nextId := s.nextId + 1, mccs := s.mccs ++ [m] }

/-! ### Level instances (10 R203 to R206) -/

/-- The levels of a header from the highest down: domain and teams. An MCC kernel goes in whole clusters of four, so that each of its
instances takes the clusters that hold it (10 R206, 17 R281). -/
def Hdr.nest (h : Hdr) : List (Nat × Nat) := h.levels.reverse.map (fun v => (v.1, if h.mcc then Nat.lcm 4 v.2 else v.2))

/-- Teams placed by one choice. -/
def Hdr.step (h : Hdr) : Nat := if h.mcc then 4 else 1

/-- The number of teams placed together: those of an instance of the highest declared level, which holds whole instances of the
lower ones; one team when no level is declared (10 R206). -/
def Hdr.unit_ (h : Hdr) : Nat := match h.nest with | v :: _ => v.2 | [] => h.step

/-- The CUs of one instance of a domain (10 Table 10.1). -/
def domainCus (d : Nat) : Nat := if d ≤ 2 then 4 else if d = 3 then 128 else 512

/-- CUs in the placer's order: fewest resident squads, then lowest cache number; for an MCC kernel the lowest (17 R286). -/
def State.inOrder (s : State) (h : Hdr) (caches : List Nat) : List Nat :=
  if h.mcc then sortNat caches else (sortNat (caches.map (fun c => s.load c * 512 + c))).map (· % 512)

/-- Is a cluster wholly idle: its MCC and four CUs hold nothing (17 R286)? -/
def State.clusterIdle (s : State) (cl : Nat) : Bool :=
  !s.allMccs.any (·.cl == cl) && !s.teams.any (·.cache / 4 == cl)

/-- May a cluster take four teams of an MCC kernel? -/
def State.clusterTakes (s : State) (l : Launch) (cl : Nat) : Bool :=
  s.clusterIdle cl && s.clusterFits cl l.ctx && bit l.dmask (cl / 32) &&
    (List.range 4).all (fun i => s.squadsFit (4 * cl + i) (l.hdr.need l.hdr.squads))

/-- Place four teams and the MCC on a cluster. -/
def State.putCluster (s : State) (l : Launch) (num cl : Nat) (tide : Stamp) : State :=
  ((List.range 4).foldl (fun s i => s.putTeam l (num + i) l.hdr.squads (4 * cl + i) tide) s).putMcc l cl tide

/-- Place the next team of a launch, or the next four and their MCC, on the first of some CUs that it fits; none when it fits none. -/
def State.putOne (l : Launch) (tide : Stamp) (caches : List Nat) (num : Nat) (s : State) : Option State :=
  let cs := s.inOrder l.hdr caches
  if l.hdr.mcc then
    ((cs.map (· / 4)).find? (fun cl => caches.contains (4 * cl + 3) && s.clusterTakes l cl)).map (fun cl => s.putCluster l num cl tide)
  else (cs.find? (s.teamFits l l.hdr.squads)).map (fun c => s.putTeam l num l.hdr.squads c tide)

/-- Does the first team of a level instance fit a CU (17 R286)? -/
def State.firstFits (s : State) (l : Launch) (cache : Nat) : Bool :=
  if l.hdr.mcc then s.clusterTakes l (cache / 4) else s.teamFits l l.hdr.squads cache

/-- Place an instance of the highest of some levels from team `num`: it takes the first domain instance, in the order of the CUs that its first
team fits, in which all its instances of the next lower level find room; none when no domain instance does (17 R286). -/
def State.putInst (l : Launch) (tide : Stamp) : List (Nat × Nat) → List Nat → Nat → State → Option State
  | [], caches, num, s => State.putOne l tide caches num s
  | (d, t) :: rest, caches, num, s =>
    let g := domainCus d
    let sub := match rest with | v :: _ => v.2 | [] => l.hdr.step
    (dedup ((s.inOrder l.hdr (caches.filter (s.firstFits l))).map (· / g))).findSome? (fun k =>
      (List.range (t / sub)).foldl (fun o i => o.bind (State.putInst l tide rest (caches.filter (· / g == k)) (num + i * sub))) (some s))

/-- Does a closed huddle wait for room on a cluster, to be placed before any team of a job card that came to its placement after the huddle
closed (10 R209)? -/
def State.hudWaits (s : State) (l : Launch) (cl : Nat) : Bool :=
  s.huddles.any (fun h => h.cl == cl && h.closed && decide (h.closedAt < l.since) && s.slotFor h.ctx && !s.ctxAway h.ctx)

/-- The greatest part of an instance that spans members which finds room here: n instances of the next lower level, or fewer. -/
def State.putPart (s : State) (l : Launch) (rest : List (Nat × Nat)) (sub : Nat) (tide : Stamp) (caches : List Nat) : Nat → Option (Nat × State)
  | 0 => none
  | n + 1 =>
    match (List.range (n + 1)).foldl (fun o i => o.bind (State.putInst l tide rest caches (l.next + i * sub))) (some s) with
    | some t => some ((n + 1) * sub, t)
    | none => s.putPart l rest sub tide caches n

/-- Place the next unit of a launch on the given dies; none when it finds no room. An instance of the trust domain that this package does
not hold whole is placed here as far as there is room, and the other members hold the rest (10 R204, log 45). -/
def State.putNext (s : State) (l : Launch) (dies : List Nat) (tide : Stamp) : Option State :=
  let caches := (dies.flatMap (fun d => (List.range 128).map (128 * d + ·))).filter (fun c => !s.hudWaits l (c / 4))
  match State.putInst l tide l.hdr.nest caches l.next s, l.hdr.nest with
  | some t, _ => some t
  | none, (5, t) :: rest =>
    if s.peers.isEmpty then none
    else
      let sub := match rest with | v :: _ => v.2 | [] => l.hdr.step
      (s.putPart l rest sub tide caches (t / sub - 1)).map (fun p =>
        let f := p.2.free
        let pick (i : Nat) : Nat := (nth ⟨0, 0, Stamp.zero, Stamp.zero, Stamp.zero, none, 0⟩ s.peers ((Config.freeWord (f + i)).toNat % s.peers.length)).idx
        ({ p.2 with free := f + (t - p.1) } : State).modLaunch l.id (fun m => { m with
          away := m.away ++ (List.range (t - p.1)).map (fun i => (l.next + p.1 + i, pick i)) }))
  | none, _ => none

end Sys2Proof.Machine
end

