-- ==== Sys2Proof/Machine/EvHome.lean ====
section
/-! DEFINITION. Homes and first-level caches message by message (11 R222, R233 to R236; 12 R250 to R260; 19 R318 to R321):
requests, publication events, invalidations, recalls, collapses, page grants, and the reclaiming of versions. The agenda
decides which L1 asks and when (log 25). -/

namespace Sys2Proof.Machine

/-! ### Requests of first-level caches -/

/-- The L1 entry of a line. -/
def State.l1Of (s : State) (cache line : Nat) : Option L1 := s.l1.find? (fun e => e.cache == cache && e.line == line)

/-- Set the L1 entry of a line to a state, making it when there is none. -/
def State.setL1 (s : State) (cache line : Nat) (st : L1St) (op ty : Nat) : State :=
  match s.l1Of cache line with
  | some _ =>
    let f : L1 → L1 := fun e => { e with st := st, op := op, ty := ty }
    { s with l1 := modAll (fun e => e.cache == cache && e.line == line) f s.l1 }
  | none => { s with l1 := s.l1 ++ [⟨cache, line, st, 0, [], [], op, ty⟩] }

/-- The L1 entry of a line goes. -/
def State.dropL1 (s : State) (cache line : Nat) : State :=
  { s with l1 := s.l1.filter (fun e => !(e.cache == cache && e.line == line)) }

/-- A request of an L1 goes out: its entry takes a way (12 R241), and a page homed on another member needs its grant (12 R259). -/
def State.request (s : State) (cache line : Nat) (st : L1St) (op ty : Nat) (n : Need) (r : HomeReq) : State :=
  if !s.granted n line then s.ask n line
  else
    match (if (s.l1Of cache line).isSome then some s else s.takeWay cache line) with
    | some s => (s.setL1 cache line st op ty).arrive line r
    | none => s

/-- HOME_SHARED_REQUEST: from I the L1 asks for the line shared. -/
def execHomeSharedRequest (line cache : Nat) (s : State) : Out :=
  let s := s.unfocus
  match s.l1Of cache line with
  | none => .next (s.request cache line .is 0 0 .shared (.shared cache))
  | some _ => .next (s.serveAll line)

/-- HOME_EXCLUSIVE_REQUEST: from I or S. -/
def execHomeExclusiveRequest (line cache : Nat) (s : State) : Out :=
  let s := s.unfocus
  match s.l1Of cache line with
  | none => .next (s.request cache line .im 0 0 .excl (.excl cache))
  | some e => if e.st = .s then .next (s.request cache line .sm 0 0 .excl (.excl cache)) else .next (s.serveAll line)

/-- HOME_UPDATE_ONLY_REQUEST: from I, S or E the L1 asks for the line in A; an M line leaves first, in a put. A request that finds no matching epoch carries the next
stamp of the CU's agent, which is thereby taken (11 R234); one of another member, accepted before, carries that member's and is served under
its package's grant. The proxy of a line of another member asks the home with that stamp before it grants (12 R259). -/
def execHomeUpdateOnlyRequest (line cache op ty : Nat) (firstA : Stamp) (s : State) : Out :=
  let s := s.unfocus
  let pkg := firstA.src / 1024
  if pkg ≠ s.pkgIdx then
    (match s.inbox.find? (fun m => m.src == pkg && m.body == .upd line op ty firstA) with
     | some m =>
       if homePkg line = s.pkgIdx ∧
           s.grants.any (fun g => g.page == pageOf line && g.pkg == pkg && !g.recalled && g.kind == 2 && g.op == op && g.ty == ty) then
         .next (({ s with inbox := s.inbox.erase m } : State).arrive line (.upd (farCache pkg m.req) op ty firstA))
       else .next s
     | none => .next s)
  else if s.holdsA cache line op ty ∨ (s.l1Of cache line).any L1.moving then .next (s.serveAll line)
  else
    let same := (s.epoch line).any (fun h => h.op == op && h.ty == ty)
    let c := s.cuStamp cache
    match s.l1Of cache line with
    | some e =>
      if e.st = .m then .next (s.evict (.own e))
      else if !same ∧ c.1 ≠ firstA then .next s
      else .next (((if same then s else c.2).dropL1 cache line).request cache line .ia op ty (.upd op ty) (.upd cache op ty firstA))
    | none =>
      if !same ∧ c.1 ≠ firstA then .next s
      else if homePkg line ≠ s.pkgIdx ∧ !same ∧ s.pageGranted (.upd op ty) line then
        .next (if s.asksA line then s else c.2.demand (homePkg line) 0 (.upd line op ty firstA))
      else .next ((if same then s else c.2).request cache line .ia op ty (.upd op ty) (.upd cache op ty firstA))

/-- HOME_PLAIN_READ: served from the version chain in every state, or after the collapse that it forces (12 R253, R254). Of a line of another
member the home sends the version under a grant (12 R259). -/
def execHomePlainRead (line cache : Nat) (t : Stamp) (s : State) : Out :=
  let s := s.unfocus
  if 512 ≤ cache then .next s
  else if !s.reachesData cache (cache / 128) line false t then
    .next (if s.pageGranted .read line then s.askData (cache / 128) 0x8000 line false t else s.ask .read line)
  else if s.readEnds line t then .next (s.arrive line (.read cache t))
  else .next (s.fillCopy cache line t)

/-- HOME_COLLAPSE_REQUEST by an agent, numbered 256 die + agent. -/
def execHomeCollapseRequest (line agent : Nat) (s : State) : Out := .next (s.unfocus.arrive line (.collapse agent))

/-- The slice that holds a line: die and place (12 R248, R249). While the line's bucket migrates, the spare holds the lines of the sets that the
walk has passed, and the old slice forwards their requests to it (12 R262). -/
def State.sliceOf (s : State) (line : Nat) : Nat × Nat :=
  let old := nth 0 (nth [] s.sliceMap (homeDie line)) (bucketOf line)
  match s.migrating.find? (fun m => m.1 == homeDie line && m.2.1 == bucketOf line) with
  | some (_, _, spare, next) => (homeDie line, if l2Set line < next then spare else old)
  | none => (homeDie line, old)

/-- Is a write still on its way to its home? -/
def State.travels (s : State) (m : Msg) : Bool :=
  !m.dep && !m.landed && homePkg m.line == s.pkgIdx && !((s.homeOf m.line).serving.toList ++ (s.homeOf m.line).waits).contains (.event m.id)

/-- Has an agent of the package sent an earlier write to the same slice that has not arrived? The writes between two endpoints, which are
of one class, arrive in the order they were sent (12 R247). -/
def State.overtakes (s : State) (m : Msg) : Bool :=
  m.st.src / 1024 == s.pkgIdx && (s.msgs.takeWhile (·.id != m.id)).any (fun k =>
    k.st.src == m.st.src && s.travels k && s.sliceOf k.line == s.sliceOf m.line)

/-- HOME_PUBLICATION_EVENT: a write reaches its home in this package; bytes of a manual line merge there (12 R261). -/
def execHomePublicationEvent (msg : Nat) (s : State) : Out :=
  let s := s.unfocus
  match s.msgs.find? (fun m => m.id == msg && !m.dep && !m.landed && homePkg m.line == s.pkgIdx) with
  | none => .next s
  | some m =>
    if s.overtakes m then .next s
    else if m.manual then .next ((s.mergeHome m.line m.bytes).ackMsg msg) else .next (s.arrive m.line (.event msg))

/-! ### Invalidations (12 R251, R255, R256) -/

/-- Is an invalidation under way that a die has still to answer? -/
def Home.asks (h : Home) (pkg die : Nat) : Bool := (h.st == .hv || h.st == .hsx) && h.acks.contains (pkg, die)

/-- The cache whose request the home serves. -/
def Home.requester (h : Home) : Nat :=
  match h.serving with
  | some (.shared c) => c
  | some (.excl c) => c
  | some (.upd c _ _ _) => c
  | some (.read c _) => c
  | _ => 10000

/-- An L1 drops its S or E copy. -/
def State.invalidate (s : State) (cache line : Nat) : State :=
  match s.l1Of cache line with
  | some e => if (e.st = .s ∨ e.st = .e) ∧ cache ≠ (s.homeOf line).requester then s.dropL1 cache line else s
  | none => s

/-- L1_INVALIDATE. -/
def execL1Invalidate (cache line : Nat) (s : State) : Out :=
  let s := s.unfocus
  if (s.homeOf line).asks s.pkgIdx (cache / 128) then .next (s.invalidate cache line) else .next s

/-- The die has answered, with a partial or without; the answer is on its way. -/
def State.answered (s : State) (data : Bool) (line pkg die : Nat) : State :=
  let h := s.homeOf line
  let s : State := if pkg = s.pkgIdx then { s with answers := s.answers ++ [(data, line, die)] } else s
  s.setHome { h with acks := h.acks.map (fun a => if a == (pkg, die) then (pkg, die + 4) else a) }

/-- Is an earlier answer of the same class of a die to the slice of a line still on its way (12 R247)? -/
def State.answerBehind (s : State) (data : Bool) (line die : Nat) : Bool :=
  (s.answers.takeWhile (· != (data, line, die))).any (fun a => a.1 == data && a.2.2 == die && s.sliceOf a.2.1 == s.sliceOf line)

/-- An answer has arrived. -/
def State.answerIn (s : State) (data : Bool) (line die : Nat) : State := { s with answers := s.answers.erase (data, line, die) }

/-! ### Recalls and departures (11 R233, 12 Table 12.2) -/

/-- The owner answers a recall. -/
def State.answerRecall (s : State) (cache line : Nat) : State :=
  let h := s.homeOf line
  if h.st ≠ .hor ∨ h.owner ≠ cache ∨ s.msgs.any (fun m => m.dep && m.line == line) then s
  else
    match s.l1Of cache line with
    | none => s.sendBytes cache line 0 []
    | some e =>
      if e.st = .m then
        let t := s.sendBytes cache line e.ctx e.written
        match h.serving with
        | some (.shared _) =>
          let keep : L1 → L1 := fun e => { e with st := .s, written := [], writers := [] }
          { t with l1 := modAll (fun e => e.cache == cache && e.line == line) keep t.l1 }
        | _ => t.dropL1 cache line
      else if e.st = .mi then s
      else (s.sendBytes cache line e.ctx []).dropL1 cache line

/-- L1_RECALL. -/
def execL1Recall (cache line : Nat) (s : State) : Out := .next (s.unfocus.answerRecall cache line)

/-- The event of a message that has to wait for room in the version store is counted once (19 R318). -/
def State.stallMsg (s : State) (id : Nat) : State :=
  let s := if s.msgs.any (fun m => m.id == id && !m.waiting) then s.setCsr 0 0x809D (s.csr 0 0x809D + 1) else s
  let stall : Msg → Msg := fun k => { k with waiting := true }
  { s with msgs := modAll (·.id == id) stall s.msgs }

/-- Is an earlier departure of the same CU to the same slice still on its way (12 R247)? One that waits for room has arrived. -/
def State.putBehind (s : State) (m : Msg) : Bool :=
  (s.msgs.takeWhile (·.id != m.id)).any (fun k => k.dep && !k.waiting && k.st.src == m.st.src && s.sliceOf k.line == s.sliceOf m.line)

/-- HOME_OWNER_BYTES: the departure version, once the version store has room; then the waiting request. -/
def execHomeOwnerBytes (line : Nat) (s : State) : Out :=
  let s := s.unfocus
  match s.msgs.find? (fun m => m.dep && m.line == line) with
  | none => .next s
  | some m =>
    if s.putBehind m then .next s
    else if !m.bytes.isEmpty ∧ s.stalls line then .next (s.stallMsg m.id)
    else
    let s : State := { s with msgs := s.msgs.filter (·.id != m.id) }
    let s := if m.bytes.isEmpty then s else (s.landed line m.st m.bytes m.ctx).carryPoison line (.msg m.id) .home m.st
    let h := s.homeOf line
    if h.st = .hor then
      .next ((s.setHome { h with st := .hs, owner := 0, serving := none, waits := h.serving.toList ++ h.waits }).serveAll line)
    else if h.st = .ho ∧ h.serving = none then .next ((s.setHome { h with st := .hs, owner := 0 }).serveAll line)
    else .next s

/-- L1_PUT_ACK: the home has the bytes of an evicted line. -/
def execL1PutAck (cache line : Nat) (s : State) : Out :=
  let s := s.unfocus
  match s.l1Of cache line with
  | some e =>
    if e.st = .mi ∧ !s.msgs.any (fun m => m.dep && m.line == line) then .next ((s.dropL1 cache line).serveAll line) else .next s
  | none => .next s

/-! ### Collapses (11 R235, 12 R258) -/

/-- L1_COLLAPSE_RECALL: the copy goes to the die port. -/
def execL1CollapseRecall (cache line : Nat) (s : State) : Out :=
  let s := s.unfocus
  if (s.homeOf line).st = .hac then
    let f : ACopy → ACopy := fun c => { c with port := true }
    .next { s with acopies := modAll (fun c => c.line == line && c.cache == cache) f s.acopies }
  else .next s

/-- The words of a row that differ from the identity, numbered. -/
def rowWords (r : List D) : List (Nat × D) := (List.range r.length).map (fun i => (i, nth 0 r i))

/-- MERGE_PORT_COLLAPSE: with every copy of the die at its port, the port folds them into the partial and sends it, to a home in another
package as a message; with the last partial of this package the line leaves A here (12 R258). -/
def execMergePortCollapse (die line : Nat) (s : State) : Out :=
  let s := s.unfocus
  let h := s.homeOf line
  let mine := s.acopies.filter (fun c => c.line == line && c.cache / 128 == die)
  if h.st = .hac ∧ h.acks.contains (s.pkgIdx, die) ∧ mine.all (·.port) then
    let t : State := { s with acopies := s.acopies.filter (fun c => !(c.line == line && c.cache / 128 == die)) }
    let words := (s.partOf h die).elim [] rowWords
    if homePkg line = s.pkgIdx then
      let parts := match s.partOf h die with
        | some r => h.parts ++ [(s.pkgIdx, die, rowWords r)]
        | none => h.parts
      .next ((t.setHome { h with parts := parts }).answered true line s.pkgIdx die)
    else
      let h := { h with acks := h.acks.filter (· != (s.pkgIdx, die)) }
      let t := t.sendPart h die words
      if h.acks.isEmpty then .next ((t.setHome h.over).serveAll line) else .next (t.setHome h)
  else .next s

/-- The die and agent whose access forced the collapse. Where the spec names none, for a request of another package, the model takes agent 255
of the line's home die (log 64). -/
def State.forcer (s : State) (h : Home) : Nat × Nat :=
  match h.serving with
  | some (.collapse a) => (a / 256, a % 256)
  | some (.event id) =>
    match s.msgs.find? (·.id == id) with
    | some m => (m.st.src / 256 % 4, m.st.src % 256)
    | none => (homeDie h.line, 255)
  | _ => if h.requester < 512 then (h.requester / 128, h.requester % 128) else (homeDie h.line, 255)

/-- The stamp that the issuer of an event has taken for the collapse before it, unless the line has a newer version by now. -/
def State.preOf (s : State) (h : Home) : Option Stamp :=
  match h.serving with
  | some (.event id) => ((s.msgs.find? (·.id == id)).bind (·.pre)).bind (fun st => if (s.newest h.line).lt st then some st else none)
  | _ => none

/-- Every partial has arrived: the fold, the version at C, then the waiting requests. -/
def State.endCollapse (s : State) (h : Home) : State :=
  let a := s.forcer h
  let c := match s.preOf h with
    | some st => (st, s)
    | none => s.stampOver a.1 a.2 [h.line]
  (c.2.collapseAt h c.1).serveAll h.line

/-- The last partial is in: the collapse, once the version store has room (19 R318); `first` says that the wait begins now. -/
def State.lastPartial (s : State) (h : Home) (first : Bool) : State :=
  if s.stalls h.line then (if first then s.setCsr 0 0x809D (s.csr 0 0x809D + 1) else s) else s.endCollapse h

/-- A partial of another package has been accepted: it joins those that the collapse folds, in whatever order it came; one without words is
the marker of a die without copies. The home acknowledges it; with the package's last, its collapse recall is answered (12 R258, 20
R325). -/
def State.partIn (s : State) (line pkg die : Nat) : State :=
  match s.inbox.find? (fun m => m.src == pkg && (match m.body with | .part l d _ _ _ => l == line && d == die | _ => false)) with
  | some m =>
    let s := ({ s with inbox := s.inbox.erase m } : State).toPort pkg m.req none .ack
    let h := s.homeOf line
    if h.st = .hac ∧ h.acks.contains (pkg, die) then
      let words : List (Nat × D) := match m.body with | .part _ _ _ _ w => (List.range w.length).map (fun i => (i, nth 0 w i)) | _ => []
      let h := { h with
        parts := if words.isEmpty then h.parts else h.parts ++ [(pkg, die, words)]
        acks := h.acks.map (fun a => if a == (pkg, die) then (pkg, die + 4) else a) }
      let s := s.setHome h
      if h.acks.any (fun a => a.1 == pkg && a.2 < 4) then s
      else { s with reqs := s.reqs.filter (fun r => !(r.dst == pkg && r.body == .collapse line)) }
    else s
  | none => s

/-- HOME_DIE_PARTIAL. -/
def execHomeDiePartial (line pkg die : Nat) (s : State) : Out :=
  let s := s.unfocus
  let s := if pkg = s.pkgIdx then s else s.partIn line pkg die
  let behind := pkg == s.pkgIdx && s.answerBehind true line die
  let s := if pkg == s.pkgIdx && !behind then s.answerIn true line die else s
  let h := s.homeOf line
  if h.st = .hac ∧ h.acks.contains (pkg, die + 4) ∧ !behind then
    let h := { h with acks := h.acks.filter (· != (pkg, die + 4)) }
    if h.acks.isEmpty then .next ((s.setHome h).lastPartial h true) else .next (s.setHome h)
  else if h.st = .hac ∧ h.acks.isEmpty then .next (s.lastPartial h false)
  else .next s

/-! ### Filters and the end of invalidations -/

/-- SNOOP_FILTER_MESSAGE: the filter of a die forwards an invalidation, a recall or a collapse recall, and answers. -/
def execSnoopFilterMessage (die line : Nat) (s : State) : Out :=
  let s := s.unfocus
  let h := s.homeOf line
  if h.asks s.pkgIdx die then
    let caches := (s.l1.filter (fun e => e.line == line && e.cache / 128 == die)).map (·.cache)
    .next (((caches.foldl (fun s c => s.invalidate c line) s).trimFilter die line).answered false line s.pkgIdx die)
  else if h.st = .hor ∧ h.owner / 128 = die then .next (s.answerRecall h.owner line)
  else if h.st = .hac then
    let f : ACopy → ACopy := fun c => { c with port := true }
    .next { s with acopies := modAll (fun c => c.line == line && c.cache / 128 == die) f s.acopies }
  else .next s

/-- One answer to an invalidation has reached the home; with the last, the publisher is acknowledged or M is granted. -/
def State.takeAck (s : State) (line : Nat) (a : Nat × Nat) : State :=
  let h := s.homeOf line
  if (h.st == .hv || h.st == .hsx) && h.acks.contains a then
    let h := { h with acks := h.acks.filter (· != a) }
    if !h.acks.isEmpty then s.setHome h
    else if h.st = .hv then
      let s := s.setHome { h with st := .hs, serving := none }
      (match h.serving with
       | some (.event id) => s.ackMsg id
       | some (.inval p q _) => s.toPort p q none (.invalDone line)
       | _ => s).serveAll line
    else
      match h.serving with
      | some r => s.grantTo { h with st := .hs } r
      | none => s.setHome { h with st := .hs }
  else s

/-- Another package has answered the invalidations of an event (12 R256, R259): one that the home has made, or one that it serves. -/
def State.farAnswer (s : State) (line pkg : Nat) : State :=
  match s.notes.find? (fun n => n.line == line && n.pkgs.contains pkg) with
  | some n =>
    let left := n.pkgs.filter (· != pkg)
    ({ s with notes := if left.isEmpty then s.notes.erase n else modAll (· == n) (fun m => { m with pkgs := left }) s.notes } : State).serveAll line
  | none => s.takeAck line (pkg, 0)

/-- HOME_INVALIDATION_ACK of a die of the package, or, numbered from 4 up, of package die - 4, whose answer has been accepted. -/
def execHomeInvalidationAck (line die : Nat) (s : State) : Out :=
  let s := s.unfocus
  .next (if 4 ≤ die then
      (match s.inbox.find? (fun m => m.src + 4 == die && m.body == .invalDone line) with
       | some m => ({ s with inbox := s.inbox.erase m } : State).farAnswer line m.src
       | none => s)
    else if s.answerBehind false line die then s else (s.answerIn false line die).takeAck line (s.pkgIdx, die + 4))

/-! ### Grants (12 Table 12.2) -/

/-- L1_GRANT: the grant arrives and is acknowledged; the home goes on with its next request. -/
def execL1Grant (cache line : Nat) (s : State) : Out :=
  let s := s.unfocus
  let h := s.homeOf line
  if cache < 512 ∧ h.requester = cache ∧ (h.st = .hs ∨ h.st = .ho ∨ h.st = .ha) ∧ s.filterOpen (cache / 128) line then
    let s := s.filterAdd cache line
    let s := match h.serving with
      | some (.shared _) => s.setL1 cache line (if h.st = HomeSt.ho then L1St.e else L1St.s) 0 0
      | some (.excl _) => s.setL1 cache line .m 0 0
      | some (.upd _ _ _ _) =>
        let s := s.dropL1 cache line
        if s.acopies.any (fun c => c.line == line && c.cache == cache) then
          let f : ACopy → ACopy := fun c => { c with port := false }
          { s with acopies := modAll (fun c => c.line == line && c.cache == cache) f s.acopies }
        else
          let fresh : ACopy := ⟨line, cache, false, [], 0x8000⟩
          { s with acopies := s.acopies ++ [fresh] }
      | _ => s
    .next ((s.setHome { h with serving := none }).serveAll line)
  else .next s

/-! ### Page grants (12 R259, R260) -/

/-- May two grants of a page coexist (12 Table 12.4)? -/
def Grant.with_ (a b : Grant) : Bool :=
  (a.kind == 0 && b.kind != 1) || (b.kind == 0 && a.kind != 1) || (a.kind == 2 && b.kind == 2 && a.op == b.op && a.ty == b.ty)

/-- The member that a page is homed on. -/
def pageHome (page : Nat) : Nat := homePkg (page * 512)

/-- Must an event that giving up a page makes wait for room in the version store (19 R318)? -/
def State.pageStalls (s : State) (page : Nat) : Bool :=
  s.home.any (fun h => pageOf h.line == page && h.st == .ha && s.stalls h.line) ||
    s.l1.any (fun e => pageOf e.line == page && e.st == .m && !e.written.isEmpty && s.stalls e.line)

/-- Has a line of a page a transient state? -/
def State.pageMoves (s : State) (page : Nat) : Bool :=
  s.home.any (fun h => pageOf h.line == page && s.transient h.line) || s.l1.any (fun e => pageOf e.line == page && e.moving)

/-- What this package's own caches hold of a page goes back (12 R260): epochs collapse in full, M lines depart, S, E and version copies are dropped, the
filter entries with them. The recall names no agent: a collapse that it forces takes the stamp of agent 255 of the line's home die (log 64). -/
def State.handOver (s : State) (page : Nat) : State :=
  let inPage (l : Nat) : Bool := pageOf l == page
  let epochs := (s.home.filter (fun h => inPage h.line && (h.st == .ha || h.st == .hac))).map (·.line)
  let s := epochs.foldl (fun s l => (s.collapse l (homeDie l) 255).2) s
  let owned := s.l1.filter (fun e => inPage e.line && e.st == .m)
  let s := owned.foldl (fun s e => s.depart e.cache e.line none) s
  { s with
    l1 := s.l1.filter (fun e => !(inPage e.line && !e.moving))
    copies := s.copies.filter (fun c => !inPage c.line)
    filters := s.filters.filter (fun f => !inPage f.2.1)
    home := s.home.filter (fun h => !(inPage h.line && h.stable && h.waits.isEmpty)) }

/-- Pages in the home's grant table. -/
def State.grantPages (s : State) : Nat := (sortNat ((s.grants.filter (fun g => g.pkg != s.pkgIdx)).map (·.page))).length

/-- What stands in the way of a new grant: grants of other packages that may not coexist with it, of the same package those whose copies would
have to leave first, or, with the table full of other pages,
the grant with the oldest request. -/
def State.grantClash (s : State) (new : Grant) : List Grant :=
  let clash := s.grants.filter (fun g => g.page == new.page && g.pkg != s.pkgIdx && !g.with_ new &&
    (g.pkg != new.pkg || (g.kind == 2 && new.kind != 0) || (g.kind == 1 && new.kind == 2)))
  if !clash.isEmpty then clash
  else if s.grants.any (·.page == new.page) || s.grantPages < 16384 then []
  else (argMin (·.age) (s.grants.filter (fun g => g.pkg != s.pkgIdx))).toList

/-- Does a grant of a package for a page give way to a new one of the same package? -/
def Grant.gives (g new : Grant) : Bool :=
  g.page == new.page && g.pkg == new.pkg && (g.kind == new.kind || (g.kind == 0 && new.kind == 1) || (g.kind == 1 && new.kind == 0))

/-- Grants that wait at this home are given in order of arrival, a page at a time; those in the way are recalled. An exclusive grant goes
out once this package's own caches have given the page up; none goes out while holders have an invalidation to answer. -/
def State.giveGrants (s : State) : List Grant → State
  | [] => s
  | g :: r =>
    let earlier := s.grantWaits.takeWhile (· != g)
    if earlier.any (·.page == g.page) then s.giveGrants r
    else
      match s.grantClash g with
      | [] =>
        if s.notes.any (fun n => pageOf n.line == g.page) ∨ (g.kind = 1 ∧ (s.pageMoves g.page || s.pageStalls g.page)) then s.giveGrants r
        else
          let s := if g.kind = 1 then s.handOver g.page else s
          State.giveGrants (({ s with
            grants := s.grants.filter (fun k => !k.gives g) ++ [g]
            grantWaits := s.grantWaits.erase g } : State).toPort g.pkg g.req none (.granted g.page g.kind g.op g.ty)) r
      | l => (s.recallGrants l.contains).giveGrants r

/-- PAGE_GRANT_REQUEST: of another package for a page homed here, its message having been accepted, it waits its turn; of this package for a
page homed on another member, it goes to that home. -/
def execPageGrantRequest (pkg page kind op ty : Nat) (s : State) : Out :=
  let s := s.unfocus
  if 2 < kind then .next s
  else if pkg = s.pkgIdx then
    (if s.peers.any (·.idx == pageHome page) then .next (s.demandOnce (pageHome page) 0 (.grant page kind op ty)) else .next s)
  else
    match s.inbox.find? (fun m => m.src == pkg && m.body == .grant page kind op ty) with
    | none => .next s
    | some m =>
      let s : State := { s with inbox := s.inbox.erase m }
      if pageHome page ≠ s.pkgIdx then .next s
      else
        let s : State := { s with grantWaits := s.grantWaits ++ [⟨page, pkg, kind, op, ty, s.now, false, m.req⟩] }
        .next (s.giveGrants s.grantWaits)

/-- The first steps of a hand-over at the holder (12 R260): its epochs collapse through the home, which recalls the copies; M lines leave in
puts, as far as no line is in a transient state. -/
def State.leavePage (s : State) (page : Nat) : State :=
  let s : State := { s with grants := modAll (fun g => g.page == page && g.pkg == s.pkgIdx) (fun g => { g with recalled := true }) s.grants }
  (s.l1.filter (fun e => pageOf e.line == page && e.st == .m)).foldl (fun s e => if s.canLeave (.own e) then s.evict (.own e) else s) s

/-- Have they ended: no epoch with copies, no line between two states, no departure on its way home? -/
def State.leftPage (s : State) (page : Nat) : Bool :=
  !s.pageMoves page && !s.home.any (fun h => pageOf h.line == page && h.st == .ha) && !s.acopies.any (fun c => pageOf c.line == page) &&
    !s.l1.any (fun e => pageOf e.line == page && e.st == .m) && !s.msgs.any (fun m => pageOf m.line == page && (m.dep || m.owned))

/-- The last steps: S, E and version copies are dropped with their filter entries, the grants end. -/
def State.dropPage (s : State) (page : Nat) : State :=
  let inPage (l : Nat) : Bool := pageOf l == page
  { s with
    l1 := s.l1.filter (fun e => !inPage e.line)
    copies := s.copies.filter (fun c => !inPage c.line)
    pubs := s.pubs.filter (fun p => !inPage p.line)
    filters := s.filters.filter (fun f => !inPage f.2.1)
    home := s.home.filter (fun h => !(inPage h.line && h.waits.isEmpty))
    grants := s.grants.filter (fun g => !(g.page == page && g.pkg == s.pkgIdx)) }

/-- PAGE_GRANT_RECALL: the home recalls another package's grants of a page; this package, told to by an accepted message, hands its own over, and
acknowledges once the hand-over has ended. -/
def execPageGrantRecall (pkg page : Nat) (s : State) : Out :=
  let s := s.unfocus
  if pkg ≠ s.pkgIdx then .next (s.recallGrants (fun g => g.page == page && g.pkg == pkg))
  else
    match s.inbox.find? (fun m => m.src == pageHome page && m.body == .recall page) with
    | none => .next s
    | some m =>
      let t := s.leavePage page
      if t.leftPage page then .next ((({ t with inbox := t.inbox.erase m } : State).dropPage page).toPort m.src m.req none (.recalled page))
      else .next t

/-- PAGE_GRANT_RECALL_ACK: the grants of a page that a member has handed over end; the requests for the page that waited are served in
order of arrival. -/
def execPageGrantRecallAck (pkg page : Nat) (s : State) : Out :=
  let s := s.unfocus
  match s.inbox.find? (fun m => m.src == pkg && m.body == .recalled page) with
  | none => .next s
  | some m =>
    let s : State := { s with
      inbox := s.inbox.erase m
      reqs := s.reqs.filter (fun r => !(r.dst == pkg && r.body == .recall page))
      grants := s.grants.filter (fun g => !(g.page == page && g.pkg == pkg)) }
    let lines := (s.home.filter (fun h => pageOf h.line == page)).map (·.line)
    .next (lines.foldl State.serveAll (s.giveGrants s.grantWaits))

/-! ### The collector and revocation (19 R320, R321) -/

/-- EBB_COLLECTOR_PASS over one line; room in the store ends its fullness. -/
def execEbbCollectorPass (line : Nat) (s : State) : Out := .next (s.unfocus.reclaim line)

/-- Revoke every kernel and transaction snapshot of the package at or below a stamp that `p` admits. -/
def State.revoke (s : State) (st : Stamp) (p : Nat → Bool) : State :=
  let l : Launch → Launch := fun l => { l with revoked := true }
  let q : Squad → Squad := fun q => q.doom txRevoked
  let hit (q : Squad) : Bool := q.tx && q.tide.le st && p q.ctx
  let c : Ctx → Ctx := fun c => { c with saved := { c.saved with squads := modAll hit q c.saved.squads } }
  { s.modSquads hit q with
    launches := modAll (fun l => l.snapOn && p l.ctx && (match l.k with | some k => k.le st | none => false)) l s.launches
    ctxs := s.ctxs.map c }

/-- The oldest revocable stamp of the domain (19 R321). -/
def State.oldestRevocable (s : State) : Option Stamp := minStamp (s.revocable.map (·.1) ++ s.peers.filterMap (·.rev))

/-- A revocation goes to each other member that holds the stamp (19 R321). -/
def State.sendRevocation (s : State) (st : Stamp) : State :=
  (s.peers.filter (fun p => p.rev.any (fun r => r.le st))).foldl (fun s p => s.demand p.idx 0 (.revoke st)) s

/-- VERSION_STORE_FULL_TIMEOUT: a store full for 10 µs revokes the oldest revocable snapshot, here and at each member that holds it; the next
10 µs begin. -/
def execVersionStoreFullTimeout (s : State) : Out :=
  let s := s.unfocus
  match s.vsFullSince, s.oldestRevocable with
  | some t, some st =>
    if t + 10000 ≤ s.now ∧ s.storeFull then .next { (s.sendRevocation st).revoke st (fun _ => true) with vsFullSince := some s.now } else .next s
  | _, _ => .next s

/-- SNAPSHOT_AGE_LIMIT: revocable snapshots older than 2^40 ns of contexts that ask for the limit. -/
def execSnapshotAgeLimit (s : State) : Out :=
  let s := s.unfocus
  if s.now ≤ 2 ^ 40 then .next s
  else .next (s.revoke ⟨s.now - 2 ^ 40 - 1, 65535⟩ (fun tag => (s.csr (1 + tag) 0x8082).getLsbD 0))

/-- SNAPSHOT_REVOCATION by the home of another member, whose accepted message names a stamp; it is acknowledged. -/
def execSnapshotRevocation (st : Stamp) (s : State) : Out :=
  let s := s.unfocus
  match s.inbox.find? (fun m => m.body == .revoke st) with
  | some m => .next ((({ s with inbox := s.inbox.erase m } : State).toPort m.src m.req none .ack).revoke st (fun _ => true))
  | none => .next s

end Sys2Proof.Machine
end

