-- ==== Sys2Proof/Machine/SaveArea.lean ====
section
/-! DEFINITION. The save area of a context (18 Tables 18.4 and 18.5): its parts in order, the bytes of each and what a restore takes
from them. Where the tables list the contents of a part without their places, they stand in the order listed, each in the width that
its comment gives, and the rest of the part is zero (log 36). -/

namespace Sys2Proof.Machine

/-- Nothing saved. -/
def Saved.none_ : Saved := ⟨[], [], [], [], [], [], [], [], [], [], []⟩

/-- A part of a save area: bytes with what a restore does with those it finds there; bytes that a restore checks; zeros that it checks;
bytes that the manual leaves open; the offset of one of 2^size slots of a stop ring; the scratchpad of a team, with which poison goes. -/
inductive Piece where
  | item (b : List Byte) (load : List Byte → Saved → Saved)
  | fixed (b : List Byte)
  | zero (n : Nat)
  | free (n : Nat)
  | slot (size : Nat)
  | scratch (team : Nat) (b : List Byte)

/-- Bytes from which a restore takes nothing. -/
def Piece.data (b : List Byte) : Piece := .item b (fun _ v => v)

/-- Its length. -/
def Piece.len : Piece → Nat
  | .item b _ => b.length
  | .fixed b => b.length
  | .zero n => n
  | .free n => n
  | .slot _ => 8
  | .scratch _ b => b.length

/-! ### Values as bytes -/

/-- The bytes of words. -/
def wordsBytes (l : List W) : List Byte := l.flatMap (fun w => bytesLE 4 w.toNat)

/-- Consecutive words of bytes. -/
def wordsOf (n : Nat) (b : List Byte) : List W := (List.range n).map (fun i => w32 (natLE ((b.drop (4 * i)).take 4)))

/-- The number in n bytes from an offset. -/
def natAt (b : List Byte) (o n : Nat) : Nat := natLE ((b.drop o).take n)

/-- The word at an offset. -/
def wordAt (b : List Byte) (o : Nat) : W := w32 (natAt b o 4)

/-- A double word at an offset. -/
def dblAt (b : List Byte) (o : Nat) : D := BitVec.ofNat 64 (natAt b o 8)

/-- A stamp in the 16 bytes at an offset. -/
def stampAt (b : List Byte) (o : Nat) : Stamp := bytesStamp ((b.drop o).take 16)

/-! ### Records of a context by their owners -/

def Saved.onSquad (id : Nat) (f : Squad → Squad) (v : Saved) : Saved := { v with squads := modAll (·.id == id) f v.squads }
def Saved.onTeam (id : Nat) (f : Team → Team) (v : Saved) : Saved := { v with teams := modAll (·.id == id) f v.teams }
def Saved.onMcc (id : Nat) (f : Mcc → Mcc) (v : Saved) : Saved := { v with mccs := modAll (·.id == id) f v.mccs }

/-- A part that belongs to a squad. -/
def Squad.item (q : Squad) (b : List Byte) (f : List Byte → Squad → Squad) : Piece := .item b (fun w => Saved.onSquad q.id (f w))

/-! ### Squad records (18 Table 18.5) -/

/-- A frame CSR, numbered from 0x8000 (18 Table 18.3). -/
def Squad.frameWord (q : Squad) (n : Nat) : W :=
  let f := q.frame
  if n = 0 then f.tcause else if n = 1 then loW f.tpc else if n = 2 then hiW f.tpc else if n = 3 then f.tword0
  else if n = 4 then f.tword1 else if n = 5 then loW f.taddr else if n = 6 then hiW f.taddr else if n = 7 then f.tsplit
  else if n = 8 then f.tblkk else if n = 9 then f.tblka else if n < 14 then nth 0 f.ts (n - 10)
  else if n = 14 then
    w32 (b2n f.tscc + 2 * b2n f.ttx + 4 * b2n f.tdoom + 256 * (q.replay.filter (fun e => !e.handler)).length)
  else if n = 15 then f.tfmt else if n = 16 then loW f.ttick else if n = 17 then hiW f.ttick
  else if n = 18 then f.tlane else 0

/-- The frame that its CSRs hold. -/
def Frame.ofWords (f : Frame) (w : List W) : Frame :=
  let at_ (i : Nat) : W := nth 0 w i
  { f with
    tcause := at_ 0, tpc := pair (at_ 2) (at_ 1), tword0 := at_ 3, tword1 := at_ 4, taddr := pair (at_ 6) (at_ 5), tsplit := at_ 7
    tblkk := at_ 8, tblka := at_ 9, ts := [at_ 10, at_ 11, at_ 12, at_ 13]
    tscc := (at_ 14).getLsbD 0, ttx := (at_ 14).getLsbD 1, tdoom := (at_ 14).getLsbD 2
    tfmt := at_ 15, ttick := pair (at_ 17) (at_ 16), tlane := at_ 18 }

/-- A state in four bits. -/
def RunSt.code : RunSt → Nat
  | .ready => 0
  | .blocked => 1
  | .halted => 2
  | .exiting => 3

/-- The state of a code. -/
def RunSt.ofCode (n : Nat) : RunSt :=
  match n % 16 with
  | 0 => .ready
  | 1 => .blocked
  | 2 => .halted
  | _ => .exiting

/-- Offset 0x000: state, and the state before a stop, in one byte; handler mode; transaction and doomed bits; the cause of the doom;
SQUADID in 4 bytes. -/
def Squad.headBytes (q : Squad) : List Byte :=
  bytesLE 1 (q.st.code + 16 * q.prior.code) ++ bytesLE 1 (b2n q.handler) ++ bytesLE 1 (b2n q.tx + 2 * b2n q.doomed.isSome) ++
    bytesLE 1 (q.doomed.getD 0) ++ bytesLE 4 q.idx
def Squad.ofHead (b : List Byte) (q : Squad) : Squad :=
  { q with
    st := RunSt.ofCode (natAt b 0 1), prior := RunSt.ofCode (natAt b 0 1 / 16), handler := bit (natAt b 1 1) 0
    tx := bit (natAt b 2 1) 0, doomed := if bit (natAt b 2 1) 1 then some (natAt b 3 1) else none }

/-- Offset 0x008: the wake condition, kind 0 for none. -/
def Squad.wakeBytes (q : Squad) : List Byte :=
  let w := q.wake.getD ⟨0, 0, 0⟩
  bytesLE 8 w.kind ++ bytesLE 8 w.op0 ++ bytesLE 8 w.op1
def Squad.ofWake (b : List Byte) (q : Squad) : Squad :=
  { q with wake := if natAt b 0 8 = 0 then none else some ⟨natAt b 0 8, natAt b 8 8, natAt b 16 8⟩ }

/-- Offset 0x020: role and the two allotments, 2 bytes each, which are lengths and checked; priority class in 2, GTSHI latch in 4. -/
def Squad.roleBytes (q : Squad) : List Byte := bytesLE 2 q.role ++ bytesLE 2 q.vallot ++ bytesLE 2 q.sallot

/-- Offset 0x050: scc, part, flags, txcode, k1 to k7, 4 bytes each. -/
def Squad.maskBytes (q : Squad) : List Byte :=
  bytesLE 4 (b2n q.scc) ++ wordsBytes [q.part, q.flags, q.txcode] ++ wordsBytes (q.kregs.take 7)
def Squad.ofMasks (b : List Byte) (q : Squad) : Squad :=
  { q with
    scc := bit (natAt b 0 4) 0, part := wordAt b 4, flags := wordAt b 8, txcode := wordAt b 12, kregs := wordsOf 7 (b.drop 16) }

/-- The split of a number. -/
def Squad.splitNo (q : Squad) (n : Nat) : Option Split := (q.sp :: q.rest).find? (·.num == n)

/-- Offset 0x080: four split records of 64 bytes: PC in 8, mask, fmt copy, state (0 ended, 1 issuing, 2 in Wait), depth, block position,
pattern, n and the captured masks in 4 each. -/
def Split.bytes (p : Split) : List Byte :=
  bytesLE 8 p.pc.toNat ++ wordsBytes [p.mask, p.fmt] ++ bytesLE 4 (if p.waiting then 2 else 1) ++ bytesLE 4 p.stack.length ++
    bytesLE 4 p.blkPos.toNat ++ bytesLE 4 p.blkPat.toNat ++ bytesLE 4 p.blkN ++ wordsBytes [p.blkK, p.blkA]
def Squad.splitBytes (q : Squad) : List Byte :=
  (List.range 4).flatMap (fun n => fitBytes 64 ((q.splitNo n).elim [] Split.bytes))

/-- An entry of a reconvergence stack. -/
def StackEntry.bytes (e : StackEntry) : List Byte :=
  bytesLE 8 (e.pc.toNat / 4 * 4 + (if e.kind = .parked then 1 else 0)) ++ bytesLE 4 e.mask.toNat ++ bytesLE 4 e.fmt.toNat
def StackEntry.ofBytes (b : List Byte) : StackEntry :=
  ⟨BitVec.ofNat 64 (natAt b 0 8 / 4 * 4), if bit (natAt b 0 8) 0 then .parked else .deferred, wordAt b 8, wordAt b 12⟩

/-- Offset 0x180: the four reconvergence stacks, by split number, from the bottom up. -/
def Squad.stackBytes (q : Squad) : List Byte :=
  (List.range 4).flatMap (fun n => fitBytes 256 ((q.splitNo n).elim [] (fun p => p.stack.reverse.flatMap StackEntry.bytes)))

/-- A split as its record and its stack have it; none when it has ended. -/
def Split.ofBytes (n : Nat) (b stk : List Byte) : Option Split :=
  if natAt b 16 4 = 0 then none
  else some {
    num := n, pc := dblAt b 0, mask := wordAt b 8, fmt := wordAt b 12, waiting := natAt b 16 4 == 2
    blkPos := BitVec.ofNat 4 (natAt b 24 4), blkPat := BitVec.ofNat 8 (natAt b 28 4), blkN := natAt b 32 4
    blkK := wordAt b 36, blkA := wordAt b 40
    stack := ((List.range (min 16 (natAt b 20 4))).map (fun i => StackEntry.ofBytes (stk.drop (16 * i)))).reverse }

/-- The splits that the records and stacks hold; the one in the issuing place stays there. -/
def Squad.ofSplits (b : List Byte) (q : Squad) : Squad :=
  let l := (List.range 4).filterMap (fun n => Split.ofBytes n (b.drop (64 * n)) (b.drop (256 + 256 * n)))
  match (l.find? (·.num == q.sp.num)).or l.head? with
  | some p => { q with sp := p, rest := l.filter (·.num != p.num) }
  | none => q

/-- The own-view lines of a squad: address, mask, data. -/
def Squad.ownLines (q : Squad) : List Nat := sortNat (q.own.map (fun c => lineOf c.1))
def Squad.ownBytes (q : Squad) (l : Nat) : List Byte :=
  let has (i : Nat) : Bool := (get? q.own (l * 128 + i)).isSome
  bytesLE 8 (l * 128) ++ bytesLE 16 ((List.range 128).foldl (fun m i => if has i then m + 2 ^ i else m) 0) ++
    (List.range 128).map (fun i => (get? q.own (l * 128 + i)).getD 0)
def Squad.ofOwn (l : Nat) (b : List Byte) (q : Squad) : Squad :=
  let old := q.own.filter (fun c => lineOf c.1 != l)
  { q with own := ((List.range 128).filter (bit (natAt b 8 16))).foldl (fun o i => ins o (natAt b 0 8 + i) (nth 0 b (24 + i))) old }

/-- The head of a replay entry: PC, with the handler's mark in bit 0 and the flags in bits [62:57], in 8 bytes; the lane set in 4; the first
and the last destination register in 2 each. 16 bytes do not hold its words too: they are those at its PC (log 36). -/
def Replay.head (e : Replay) : List Byte :=
  let reg (w : Option VWrite) : Nat := w.elim 0xFFFF (·.reg)
  bytesLE 8 (e.cur.pc.toNat % 2 ^ 57 / 4 * 4 + b2n e.handler + e.flags.toNat % 64 * 2 ^ 57) ++ bytesLE 4 e.lanes.toNat ++
    bytesLE 2 (reg e.writes.head?) ++ bytesLE 2 (reg e.writes.getLast?)
def Replay.ofHead (b : List Byte) (e : Replay) : Replay :=
  let n := natAt b 0 8
  let reg (i : Nat) : Nat := if i + 1 = e.writes.length ∧ i ≠ 0 then natAt b 14 2 else natAt b 12 2 + i
  { e with
    cur := { e.cur with pc := BitVec.ofNat 64 (n % 2 ^ 57 / 4 * 4) }, handler := bit n 0, flags := w32 (n / 2 ^ 57 % 64), lanes := wordAt b 8
    writes := (List.range e.writes.length).map (fun i => ⟨reg i, wordAt b 8, (nth ⟨0, 0, []⟩ e.writes i).vals⟩) }

/-- The results of a replay entry, and the entry with those that bytes hold. -/
def Replay.bytes (e : Replay) : List Byte := e.writes.flatMap (fun w => wordsBytes (w.vals.take 32))
def Replay.ofBytes (b : List Byte) (e : Replay) : Replay :=
  { e with writes := (List.range e.writes.length).map (fun i =>
      let w := nth ⟨0, 0, []⟩ e.writes i
      { w with vals := wordsOf w.vals.length (b.drop (128 * i)) }) }
def Squad.replaySegs (q : Squad) : List Piece :=
  (List.range q.replay.length).flatMap (fun i =>
    match q.replay[i]? with
    | some e => [q.item e.head (fun b k => { k with replay := modAt i (Replay.ofHead b) k.replay }), q.item e.bytes (fun b k => { k with replay := modAt i (Replay.ofBytes b) k.replay })]
    | none => [])

/-- A squad record. -/
def Squad.segs (q : Squad) : List Piece :=
  [q.item q.headBytes Squad.ofHead, q.item q.wakeBytes Squad.ofWake,
   .fixed q.roleBytes,
   q.item (bytesLE 2 q.prio ++ bytesLE 4 q.gtsHi.toNat) (fun b k => { k with prio := natAt b 0 2, gtsHi := wordAt b 2 }), .zero 4,
   q.item (stampBytes q.tide ++ stampBytes q.obs) (fun b k => { k with tide := stampAt b 0, obs := stampAt b 16 }),
   q.item q.maskBytes Squad.ofMasks, .zero 4,
   q.item (q.splitBytes ++ q.stackBytes) Squad.ofSplits,
   q.item (wordsBytes ((List.range 32).map q.frameWord)) (fun b k => { k with frame := k.frame.ofWords (wordsOf 32 b) }),
   q.item (bytesLE 8 q.energy) (fun b k => { k with energy := natAt b 0 8 }),
   .fixed (bytesLE 4 q.replay.length ++ bytesLE 4 q.ownLines.length), .zero 1008,
   q.item (wordsBytes (q.sregs.take 128)) (fun b k => { k with sregs := wordsOf 128 b }), .zero 1024,
   q.item ((q.vregs.take q.vallot).flatMap (fun r => wordsBytes (r.take 32))) (fun b k => { k with
     vregs := (List.range k.vallot).map (fun r => wordsOf 32 (b.drop (128 * r))) ++ k.vregs.drop k.vallot })] ++
  q.replaySegs ++ q.ownLines.map (fun l => q.item (q.ownBytes l) (Squad.ofOwn l))

/-! ### Team records -/

/-- A bank of an activation table, and the bank that bytes hold. -/
def lutBytes (b : List (Nat × W)) : List Byte := wordsBytes ((List.range 258).map (fun i => look 0 b i))
def lutOf (b : List Byte) : List (Nat × W) := putAll 0 [] 0 (wordsOf 258 b)

/-- The scratchpad bytes of a saved team. -/
def Saved.scrOf (v : Saved) (u : Team) : List Byte :=
  let cells := match v.scratch.find? (·.1 == u.id) with | some p => p.2 | none => []
  (List.range u.size).map (fun i => look 0 cells (scrKey u.cache u.base + i))

/-- The lines of a team's scratchpad. -/
def Team.scrLines (u : Team) : List Nat := (List.range ((u.size + 127) / 128)).map (fun i => scrKey u.cache u.base / 128 + i)

/-- The presence bitmap: bit i for line i of the scratchpad. -/
def Saved.presence (v : Saved) (u : Team) : List Byte :=
  let gone := match v.absent.find? (·.1 == u.id) with | some p => p.2 | none => []
  bytesLE 448 ((List.range u.scrLines.length).foldl (fun m i => if gone.contains (nth 0 u.scrLines i) then m else m + 2 ^ i) 0)
def Saved.ofPresence (u : Team) (b : List Byte) (v : Saved) : Saved :=
  let m := natLE b
  let gone := ((List.range u.scrLines.length).filter (fun i => !bit m i)).map (nth 0 u.scrLines)
  { v with absent := upsert (·.1 == u.id) (u.id, gone) v.absent }

/-- A hardware barrier in 16 bytes: phase, arrivals, count in 4 each, and zeros; its stamps stay with the device (log 36). -/
def HwBar.bytes (b : HwBar) : List Byte := fitBytes 16 (bytesLE 4 b.phase ++ bytesLE 4 b.arrived ++ bytesLE 4 b.count)
def HwBar.ofBytes (w : List Byte) (b : HwBar) : HwBar := { b with phase := natAt w 0 4, arrived := natAt w 4 4, count := natAt w 8 4 }

/-- An entry of the range table in 32 bytes: armed, first byte, end, target in 8 each. -/
def rangeBytes : Option Range → List Byte
  | some r => bytesLE 8 1 ++ bytesLE 8 r.lo ++ bytesLE 8 r.hi ++ bytesLE 8 r.target
  | none => zbytes 32
def rangeOf (b : List Byte) : Option Range := if natAt b 0 8 = 0 then none else some ⟨natAt b 8 8, natAt b 16 8, natAt b 24 8⟩

/-- The level indices of a team, level 3 first (10 R203). -/
def Launch.lvIdx (l : Option Launch) (num : Nat) : List Byte :=
  (List.range 5).flatMap (fun i => bytesLE 4 (match l.bind (fun l => l.hdr.levelTeams (i + 3)) with | some t => num % t.2 | none => 0))

/-- The team header: launch identity in 8 bytes; team number, level indices, shoal (its number above 1, 0 for none) and slot in it in 4
each; the scratch size in 4, which is a length and checked; presence, barriers, ranges; counts and offsets in 4 each. -/
def Saved.teamHead (v : Saved) (ls : List Launch) (u : Team) (nobj ncmd : Nat) (lut : Bool) : List Piece :=
  let lutAt := 4096 + 64 * nobj + 128 * ncmd
  [.data (bytesLE 8 u.launch), .data (bytesLE 4 u.num ++ Launch.lvIdx (ls.find? (·.id == u.launch)) u.num),
   .item (bytesLE 4 (u.shoal.elim 0 (· + 1)) ++ bytesLE 4 u.shSlot) (fun b => Saved.onTeam u.id (fun t => { t with
     shoal := if natAt b 0 4 = 0 then none else some (natAt b 0 4 - 1), shSlot := natAt b 4 4 })),
   .fixed (bytesLE 4 u.size),
   .item (v.presence u) (Saved.ofPresence u),
   .item (u.bars.take 16 |>.flatMap HwBar.bytes) (fun b => Saved.onTeam u.id (fun t => { t with
     bars := (List.range t.bars.length).map (fun i => (nth HwBar.zero t.bars i).ofBytes (b.drop (16 * i))) })),
   .item (u.range.take 32 |>.flatMap rangeBytes) (fun b => Saved.onTeam u.id (fun t => { t with
     range := (List.range 32).map (fun i => rangeOf (b.drop (32 * i))) })),
   .fixed (bytesLE 4 nobj ++ bytesLE 4 ncmd),
   .fixed (bytesLE 4 4096 ++ bytesLE 4 (4096 + 64 * nobj) ++ bytesLE 4 (if lut then lutAt else 0)), .zero 2304]

/-- A typed object as an entry has it. -/
def BarObj.ofBytes (b : List Byte) (o : BarObj) : BarObj :=
  { o with
    expected := natAt b 0 4, arrived := natAt b 4 4, phase := wordAt b 8, waiters := natAt b 14 2
    gather := stampAt b 16, last := stampAt b 32 }

/-- A typed-object entry. -/
def BarObj.segs (u : Team) (o : BarObj) : List Piece :=
  let k := scrKey u.cache u.base
  [.data (bytesLE 4 (o.key - k)), .zero 12,
   .item (o.bytes ++ stampBytes o.gather ++ stampBytes o.last) 
     (fun b v => { v with objs := modAll (·.key == o.key) (BarObj.ofBytes b) v.objs })]

/-- A parked command as its entry has it. What has become of its ticket meanwhile decides whether it waits on (18 R306): the device knows that,
and the number in the entry only names it. -/
def Cmd.ofBytes (b : List Byte) (c : Cmd) : Cmd :=
  { c with
    sel := natAt b 0 8, n := natAt b 8 8, group := wordsOf c.group.length (b.drop 16)
    tide := stampAt b 72 }

/-- A parked-command entry: selector in 8 bytes, command number in 8, the operand group in 10 words, what is performed already (nothing: a
command that a fault parks has performed no part), the ticket in 8, the captured snapshot stamp in 16. -/
def Cmd.segs (c : Cmd) : List Piece :=
  [.item (bytesLE 8 c.sel ++ bytesLE 8 c.n ++ fitBytes 40 (wordsBytes c.group) ++ bytesLE 8 0 ++ bytesLE 8 (c.ticket.getD 0) ++ stampBytes c.tide)
     (fun b v => { v with cmds := modAll (·.id == c.id) (Cmd.ofBytes b) v.cmds }), .zero 40]

/-- A pair as its bytes have it. -/
def LutPair.ofBytes (b : List Byte) (p : LutPair) : LutPair :=
  { p with sel := bit (natAt b 0 8) 0, bank0 := lutOf (b.drop 8), bank1 := lutOf (b.drop 1040) }

/-- The activation table pair: the bank selector, then the banks. -/
def LutPair.segs (p : LutPair) : List Piece :=
  let same (r : LutPair) : Bool := r.cache == p.cache && r.num == p.num
  [.item (bytesLE 8 (b2n p.sel) ++ lutBytes p.bank0 ++ lutBytes p.bank1) 
     (fun b v => { v with luts := modAll same (LutPair.ofBytes b) v.luts })]

/-- A team record: header, typed objects, parked commands, activation table pair, scratchpad, squads. -/
def Saved.teamSegs (v : Saved) (ls : List Launch) (u : Team) : List Piece :=
  let objs := v.objs.filter (fun o => u.holds o.key)
  let cmds := v.cmds.filter (fun c => c.team == some u.id)
  let lut := v.luts.filter (fun p => p.cache == u.cache && u.lut == some p.num)
  v.teamHead ls u objs.length cmds.length (!lut.isEmpty) ++ objs.flatMap (BarObj.segs u) ++ cmds.flatMap Cmd.segs ++ lut.flatMap LutPair.segs ++
  [.scratch u.id (v.scrOf u)] ++ (v.squads.filter (·.team == u.id)).flatMap Squad.segs

/-! ### MCCs, timeline sets, huddles -/

/-- An MCC record, of a pre-empted MCC: what it resumes with stands at its restart label and checkpoint. Of a halted one it names the offset
of a slot from STOPBASE (23 R364), of 2^stop; which one, where no record is written for an MCC (18 R299), is open (log 36). -/
def Mcc.segs (stop : Nat) (m : Mcc) : List Piece :=
  [.item (bytesLE 8 m.pc.toNat ++ stampBytes m.tide) (fun b => Saved.onMcc m.id (fun k => { k with
     pc := dblAt b 0, restart := if k.hasRestart then dblAt b 0 else k.restart, tide := stampAt b 8 })), .zero 32,
   .item (wordsBytes [m.flags, m.fmt] ++ wordsBytes (m.sregs.take 128) ++ bytesLE 4 (b2n m.scc) ++ bytesLE 4 m.fmt.toNat)
     (fun b => Saved.onMcc m.id (fun k => { k with
       flags := wordAt b 0, fmt := wordAt b 524, sregs := wordsOf 128 (b.drop 8), scc := bit (natAt b 520 4) 0
       ckptS := if k.hasRestart then wordsOf 128 (b.drop 8) else k.ckptS
       ckptScc := if k.hasRestart then bit (natAt b 520 4) 0 else k.ckptScc
       ckptFmt := if k.hasRestart then wordAt b 524 else k.ckptFmt })),
   .data (bytesLE 8 (b2n m.stopped.isSome)), if m.stopped.isSome then .slot stop else .data (bytesLE 8 0),
   .item (stampBytes m.obs) (fun b => Saved.onMcc m.id (fun k => { k with obs := stampAt b 0 })), .zero 152]

/-- The timelines that the entries of a set hold. -/
def tlsOf (b : List Byte) (l : List Timeline) : List Timeline :=
  (List.range l.length).map (fun i =>
    { nth ⟨0, 0, Stamp.zero, []⟩ l i with
      issued := natAt b (32 * i) 8, done := natAt b (32 * i + 8) 8, stamp := stampAt b (32 * i + 16) })

/-- A timeline set. -/
def TlSet.segs (t : TlSet) : List Piece :=
  let same (r : TlSet) : Bool := r.ctx == t.ctx && r.cl == t.cl
  [.data (bytesLE 4 (t.cl / 32) ++ bytesLE 4 (t.cl % 32)), .zero 24,
   .item ((t.tls.take 25).flatMap (fun l => bytesLE 8 l.issued ++ bytesLE 8 l.done ++ stampBytes l.stamp)) 
     (fun b v => { v with tlsets := modAll same (fun r => { r with tls := tlsOf b r.tls }) v.tlsets })]

/-- The record of the n-th saved huddle: its binding as context, entry, header and argument block in 8 bytes each and zeros; the time left; its records. -/
def Huddle.segs (ls : List Launch) (n : Nat) (h : Huddle) : List Piece :=
  let l := ls.find? (·.id == h.launch)
  let set (f : Huddle → Huddle) (v : Saved) : Saved := { v with huddles := modAt n f v.huddles }
  [.data (fitBytes 64 (bytesLE 8 h.ctx ++ bytesLE 8 h.entry.toNat ++ bytesLE 8 (l.elim 0 (·.hdr.va)) ++ bytesLE 8 (l.elim 0 (·.args.toNat)))),
   .item (bytesLE 8 h.timer) (fun b => set (fun k => { k with timer := natAt b 0 8 })),
   .fixed (bytesLE 8 h.recs.length),
   .item (fitBytes 2048 (h.recs.flatMap (fun r => fitBytes 64 (bytesLE 8 h.entry.toNat ++ wordsBytes r.words)))) (fun b => set (fun k => { k with
     recs := (List.range k.recs.length).map (fun i =>
       let r := nth ⟨[], Stamp.zero, 0⟩ k.recs i
       { r with words := wordsOf r.words.length (b.drop (64 * i + 8)) }) }))]

/-! ### The area (18 Table 18.4) -/

/-- What follows the header. -/
def Saved.body (v : Saved) (ls : List Launch) (stop : Nat) : List Piece :=
  v.mccs.flatMap (Mcc.segs stop) ++ v.tlsets.flatMap TlSet.segs ++ (List.range v.huddles.length).flatMap (fun i => (v.huddles[i]?).elim [] (Huddle.segs ls i)) ++ v.teams.flatMap (v.teamSegs ls)

/-- The length of segments. -/
def segsLen (l : List Piece) : Nat := total (l.map Piece.len)

/-- The area of a context (18 R305), with 2^stop slots in its stop ring. -/
def Saved.area (v : Saved) (ls : List Launch) (stop tag now : Nat) : List Piece :=
  [.fixed (bytesLE 4 0x58535443), .data (bytesLE 4 tag), .fixed (bytesLE 8 (256 + segsLen (v.body ls stop))),
   .fixed (bytesLE 4 v.teams.length ++ bytesLE 4 v.mccs.length ++ bytesLE 4 v.huddles.length ++ bytesLE 4 v.tlsets.length),
   .free 2, .data (bytesLE 8 now), .zero 6, .zero 208] ++ v.body ls stop

/-- Segments with their offsets. -/
def placeSegs (o : Nat) : List Piece → List (Nat × Piece)
  | [] => []
  | g :: r => (o, g) :: placeSegs (o + g.len) r

/-- Bytes that the manual leaves open. -/
def openBytes (f n : Nat) : List Byte := (List.range n).map (fun i => BitVec.ofNat 8 (Config.freeWord (f + i)).toNat)

/-- The bytes of a segment at an offset. -/
def Piece.bytes (free o : Nat) : Piece → List Byte
  | .item b _ => b
  | .fixed b => b
  | .zero n => zbytes n
  | .free n => openBytes (free + o) n
  | .slot n => bytesLE 8 ((Config.freeWord (free + o)).toNat % 2 ^ n * 16384)
  | .scratch _ b => b

end Sys2Proof.Machine
end

