-- ==== Sys2Proof/Machine/EvContext.lean ====
section
/-! DEFINITION. A context saved, restored and killed (18 R301 to R306, 08 R176, 10 R206, R210, R215, R216), and a team stopped
and resumed (23 R362 to R364). -/

namespace Sys2Proof.Machine

/-- The result of the last command on a context (18 Table 18.2). -/
def State.setResult (s : State) (tag r : Nat) : State := (s.needCtx tag).modCtx tag (fun c => { c with result := r })

/-! ### Poison of a saved scratchpad (22 R349) -/

/-- The number of a poisoned granule of a team that is saved. -/
def savedGran (team k : Nat) : Nat := 2 ^ 61 + team * 2 ^ 14 + k

/-- Poison of a team's scratchpad becomes poison of its record, or comes back from it. -/
def State.poisonOut (s : State) (u : Team) : State :=
  { s with poison := s.poison.map (fun p =>
      if decide (2 ^ 60 ≤ p.gran ∧ p.gran < 2 ^ 61) && u.holds ((p.gran - 2 ^ 60) * 32) then
        { p with gran := savedGran u.id (((p.gran - 2 ^ 60) * 32 - scrKey u.cache u.base) / 32) }
      else p) }
def State.poisonIn (s : State) (u : Team) : State :=
  { s with poison := s.poison.map (fun p =>
      if decide (2 ^ 61 ≤ p.gran) && (p.gran - 2 ^ 61) / 2 ^ 14 == u.id then
        { p with gran := scrGran (scrKey u.cache u.base) + (p.gran - 2 ^ 61) % 2 ^ 14 }
      else p) }

/-- Write a segment of a save area; poison goes with the scratchpad's data. -/
def State.writeSeg (s : State) (pa free : Nat) (g : Nat × Piece) : State :=
  let a := memKey s.pkgIdx (pa + g.1)
  let b := g.2.bytes free g.1
  let s := s.physWrite (pa + g.1) b
  let kept := s.poison.filter (fun p => !(decide (a ≤ p.gran * 32 ∧ p.gran * 32 + 32 ≤ a + b.length)))
  let own : List Poison := match g.2 with
    | .scratch t _ =>
      ((s.poison.filter (fun p => decide (2 ^ 61 ≤ p.gran) && (p.gran - 2 ^ 61) / 2 ^ 14 == t)).flatMap (fun p =>
        let k := a + (p.gran - 2 ^ 61) % 2 ^ 14 * 32
        sortNat [k / 32, (k + 31) / 32])).map (fun n => { gran := n, upto := none })
    | _ => []
  { s with poison := kept ++ own }

/-- Is any byte of 32 bytes from a key poisoned in memory? -/
def State.badGran (s : State) (key : Nat) : Bool :=
  s.poison.any (fun p => p.upto == none && p.place == .home && decide (p.gran * 32 < key + 32 ∧ key < p.gran * 32 + 32))

/-! ### Saving (18 R301 to R303) -/

/-- The physical address of a context's save area. -/
def State.saveBase (s : State) (tag : Nat) : Nat := s.csr2 (1 + tag) 0x8043

/-- What a Publish leaves of a squad that a save takes: every instruction of it that may be in flight is a replay entry, the bytes it publishes
are in its own view. -/
def State.settled (s : State) (q : Squad) : Squad :=
  { q with
    replay := (q.toEntries (BitVec.allOnes 32)).replay ++ (s.sfu.filter (·.squad == q.id)).map (·.rep)
    own := q.pending.foldl (fun o p => if p.tx || p.cls == 2 then o else insAll o (keyed p.line p.bytes)) q.own }

/-- The record that a context would have if everything of it were saved now. -/
def State.wouldSave (s : State) (tag : Nat) : Saved :=
  let v := match s.ctxOf tag with | some c => c.saved | none => Saved.none_
  let teams := s.teams.filter (·.ctx == tag)
  { v with
    teams := v.teams ++ teams
    squads := v.squads ++ (s.allSquads.filter (fun q => q.ctx == tag && q.st != .exiting)).map s.settled
    mccs := v.mccs ++ s.allMccs.filter (·.ctx == tag)
    huddles := v.huddles ++ s.huddles.filter (·.ctx == tag)
    tlsets := v.tlsets ++ s.tlsets.filter (·.ctx == tag)
    cmds := v.cmds ++ s.cmds.filter (fun c => c.ctx == tag && c.ticket.isSome)
    objs := v.objs ++ s.objs.filter (fun o => teams.any (·.holds o.key))
    luts := v.luts ++ s.luts.filter (fun p => teams.any (fun u => p.cache == u.cache && u.lut == some p.num)) }

/-- The base-2 logarithm of the slots of a context's stop ring (23 Table 23.3). -/
def State.stopSlots (s : State) (tag : Nat) : Nat := (s.csr (1 + tag) 0x8402).toNat

/-- CTXNEED: what a save would write now, in units of 4 KiB (18 Table 18.2). -/
def State.ctxNeed (s : State) (tag : Nat) : Nat := (segsLen ((s.wouldSave tag).area s.launches (s.stopSlots tag) tag s.now) + 4095) / 4096

/-- A save takes a squad, or leaves it as it is. -/
def State.trySave (s : State) (id : Nat) : State :=
  let s := s.focusOn id
  (if s.focus = .squad ∧ s.saveTakes then s.saveSquad else s).unfocus

/-- The squads of a context that a save may take now are taken. -/
def State.saveSquads (s : State) (tag : Nat) : State :=
  ((s.squads.filter (·.ctx == tag)).map (·.id)).foldl State.trySave s

/-- A huddle with the time left on its timer (10 R210). -/
def Huddle.stowed (h : Huddle) (now : Nat) : Huddle := { h with timer := h.opened + h.timer - now, opened := 0 }

/-- Does a context hold a cluster whole, its teams saved or not? -/
def Saved.mccClusters (v : Saved) (s : State) : List Nat :=
  sortNat (v.mccs.map (·.cl) ++ (v.teams.filter (fun u =>
    match s.launchOf u.launch with | some l => l.hdr.mcc | none => false)).map (·.cache / 4))

/-- The huddles of a saving context move into its record with the time left on their timers, one that a spawn binds in the grace window as
well (10 R210, 18 R301). -/
def State.stowHuddles (s : State) (tag : Nat) : State :=
  let hs := (s.huddles.filter (·.ctx == tag)).map (fun h => h.stowed s.now)
  { s.modCtx tag (fun c => { c with saved := { c.saved with huddles := c.saved.huddles ++ hs } }) with
    huddles := s.huddles.filter (·.ctx != tag) }

/-- Has every team and MCC of a saving context left a cluster, its MCC's acknowledgements in and its commands settled (18 R301 step 6)? -/
def State.clusterLeft (s : State) (tag cl : Nat) : Bool :=
  !s.teams.any (fun u => u.ctx == tag && u.cache / 4 == cl) &&
    s.mccs.all (fun m => m.ctx != tag || m.cl != cl || (!m.running && m.ack == 0)) &&
    s.cmds.all (fun c => c.ctx != tag || c.cl != cl || c.ticket.isSome)

/-- A command that is saved translates again when it is resumed (19 R313). -/
def Cmd.parked (c : Cmd) : Cmd := { c with got := [], walk := none }

/-- A cluster that a saving context has left: the MCC, the timeline set, the parked commands and, of a cluster it held whole, the channels move
into its record, and the set is free on that cluster (18 R301, R303). -/
def State.stowCluster (tag : Nat) (s : State) (cl : Nat) : State :=
  if !s.clusterLeft tag cl then s
  else
    let here (c k : Nat) : Bool := c == tag && k == cl
    let chans (v : Saved) : List Chan :=
      if (v.mccClusters s).contains cl || s.mccs.any (fun m => here m.ctx m.cl) then s.chans.filter (·.cl == cl) else []
    let old := match s.ctxOf tag with | some c => c.saved | none => Saved.none_
    let moved := chans old
    let add (c : Ctx) : Ctx := { c with saved := { c.saved with
      mccs := c.saved.mccs ++ s.mccs.filter (fun m => here m.ctx m.cl)
      tlsets := c.saved.tlsets ++ s.tlsets.filter (fun t => here t.ctx t.cl)
      cmds := c.saved.cmds ++ (s.cmds.filter (fun k => here k.ctx k.cl)).map Cmd.parked
      chans := c.saved.chans ++ moved } }
    { s.modCtx tag add with
      mccs := s.mccs.filter (fun m => !here m.ctx m.cl)
      tlsets := s.tlsets.filter (fun t => !here t.ctx t.cl)
      cmds := s.cmds.filter (fun k => !here k.ctx k.cl)
      chans := if moved.isEmpty then s.chans else s.chans.filter (·.cl != cl) }

/-- The clusters on which a context has something. -/
def State.heldClusters (s : State) (tag : Nat) : List Nat :=
  sortNat ((s.tlsets.filter (·.ctx == tag)).map (·.cl) ++ (s.mccs.filter (·.ctx == tag)).map (·.cl))

/-- Is nothing of a saving context left to wait for? -/
def State.saveDone (s : State) (tag : Nat) : Bool :=
  !s.squads.any (·.ctx == tag) && !s.teams.any (·.ctx == tag) && !s.mccs.any (·.ctx == tag) && !s.cmds.any (·.ctx == tag) &&
    !s.tlsets.any (·.ctx == tag)

/-- What a saving context no longer needs is saved; with the last record the area is written, the parts of which lie behind one another so
that the count of huddles fixes the place of every team record, and the state is saved (18 R301, R305). -/
def State.finishSave (s : State) (tag : Nat) : State :=
  if !(s.ctxOf tag).any (fun c => c.st == 2) then s
  else
    let s := (s.preemptMccs tag).stowHuddles tag
    let s := (s.heldClusters tag).foldl (State.stowCluster tag) s
    if !s.saveDone tag then s.trimCopies
    else
      let v : Saved := match s.ctxOf tag with | some c => c.saved | none => Saved.none_
      let area := v.area s.launches (s.stopSlots tag) tag s.now
      let base := s.saveBase tag
      let free := s.free
      let s : State := { s with free := s.free + segsLen area }
      let s := (placeSegs 0 area).foldl (fun s g => s.writeSeg base free g) s
      (s.slotsFreed (s.modCtx tag (fun c => { c with st := 3, slot := false }))).trimCopies

/-- CTXCMD_SAVE (18 R301). -/
def execCtxcmdSave (ctx : Nat) (s : State) : Out :=
  let s := s.unfocus.needCtx ctx
  match s.ctxOf ctx with
  | none => .next s
  | some c =>
    if c.st ≠ 1 then .next (s.setResult ctx 2)
    else if (s.csr (1 + ctx) 0x8045).toNat < s.ctxNeed ctx then .next (s.setResult ctx 1)
    else
      let end_ := s.now + (s.csr (1 + ctx) 0x8047).toNat * 1000
      let s := s.modCtx ctx (fun c => { c with st := 2, result := 0, graceEnd := end_, saved := Saved.none_ })
      .next ((((s.preemptMccs ctx).stowHuddles ctx).saveSquads ctx).finishSave ctx)

/-- GRACE_WINDOW_CLOSE: every squad still to be taken is taken where it may be (18 R302, 10 R216). -/
def execGraceWindowClose (ctx : Nat) (s : State) : Out :=
  let s := s.unfocus
  match s.ctxOf ctx with
  | some c => if c.st = 2 ∧ c.graceEnd ≤ s.now then .next ((s.saveSquads ctx).finishSave ctx) else .next s
  | none => .next s

/-- Is a team of a saving context ready for its record: its squads are taken with nothing unacknowledged and its commands are
complete or parked on a ticket? A team that can exit, exits. -/
def State.teamSavable (s : State) (u : Team) : Bool :=
  (s.ctxOf u.ctx).any (fun c => c.st == 2) &&
    s.squads.all (fun q => q.team != u.id || (q.preempt && q.ack == 0)) &&
    s.cmds.all (fun c => (c.team != some u.id && (c.team.isSome || c.cl != u.cache / 4)) || c.ticket.isSome) &&
    s.mccs.all (fun m => m.cl != u.cache / 4 || !m.running) &&
    (u.exited || !u.alive.isEmpty || !s.teamSettled u)

/-- The wait of a squad of a team for absent lines, which its record names by scratch addresses (10 Table 10.4). -/
def State.wakeOut (s : State) (u : Team) (q : Squad) : Squad :=
  let out (w : Wake) : Wake := if w.kind = 7 then { w with op0 := s.scrAddr u w.op0, op1 := s.scrAddr u w.op1 } else w
  { q with wake := q.wake.map out }

/-- A team moves into the record of its context and its resources are freed (18 R303). Manual bytes that its squads published stay in the
L1 of its CU: the model's choice (log 114). -/
def State.stowTeam (s : State) (u : Team) : State :=
  let inside (k : Nat) : Bool := u.holds k
  let sq := (s.squads.filter (·.team == u.id)).map (s.wakeOut u)
  let cmds := (s.cmds.filter (fun c => c.team == some u.id)).map Cmd.parked
  let mine (p : LutPair) : Bool := p.cache == u.cache && u.lut == some p.num
  let add (c : Ctx) : Ctx :=
    let v := c.saved
    { c with saved := { v with
        teams := v.teams ++ [u], squads := v.squads ++ sq, cmds := v.cmds ++ cmds
        objs := v.objs ++ s.objs.filter (fun o => inside o.key)
        luts := v.luts ++ s.luts.filter mine
        scratch := v.scratch ++ [(u.id, s.scratch.filter (fun c => inside c.1))]
        absent := v.absent ++ [(u.id, s.absent.filter (fun l => inside (l * 128)))] } }
  let t : State := { s.modCtx u.ctx add with
    squads := s.squads.filter (·.team != u.id)
    cmds := s.cmds.filter (fun c => c.team != some u.id)
    luts := s.luts.filter (fun p => !mine p)
    scratch := s.scratch.filter (fun c => !inside c.1) }
  (t.poisonOut u).freeTeam u

/-- TEAM_SAVE_RECORD. -/
def execTeamSaveRecord (team : Nat) (s : State) : Out :=
  let s := s.unfocus
  match s.teams.find? (·.id == team) with
  | some u => if s.teamSavable u then .next ((s.stowTeam u).finishSave u.ctx) else .next s
  | none => .next s

/-! ### Restoring (18 R305, R306) -/

/-- Does a save area hold what its record says where a restore checks it? -/
def State.areaOk (s : State) (base : Nat) (l : List (Nat × Piece)) : Bool :=
  l.all (fun g => match g.2 with
    | .fixed b => s.phys (base + g.1) b.length == b
    | .zero n => s.phys (base + g.1) n == zbytes n
    | _ => true)

/-- The record takes what a part of the save area holds; what the manual leaves open comes from the device's own record (log 36). -/
def State.loadSeg (s : State) (base : Nat) (g : Nat × Piece) (v : Saved) : Saved :=
  match g.2 with
  | .item b load => load (s.phys (base + g.1) b.length) v
  | .scratch t b =>
    let w := s.phys (base + g.1) b.length
    match v.teams.find? (·.id == t) with
    | some u => { v with scratch := upsert (·.1 == t) (t, putAll 0 [] (scrKey u.cache u.base) w) v.scratch }
    | none => v
  | _ => v

/-- Poison that the scratchpad parts of a save area hold. -/
def State.loadPoison (s : State) (base : Nat) (g : Nat × Piece) : List Poison :=
  match g.2 with
  | .scratch t b => ((List.range (b.length / 32)).filter (fun k => s.badGran (memKey s.pkgIdx (base + g.1) + 32 * k))).map
      (fun k => { gran := savedGran t k, upto := none })
  | _ => []

/-- The clusters that a saved context had work on. -/
def Saved.clusters (v : Saved) : List Nat :=
  sortNat (v.teams.map (·.cache / 4) ++ v.mccs.map (·.cl) ++ v.huddles.map (·.cl) ++ v.tlsets.map (·.cl))

/-- CTXCMD_RESTORE: the area is checked and read, and the placer is asked for room. -/
def execCtxcmdRestore (ctx : Nat) (s : State) : Out :=
  let s := s.unfocus.needCtx ctx
  match s.ctxOf ctx with
  | none => .next s
  | some c =>
    let base := s.saveBase ctx
    let area := placeSegs 0 (c.saved.area s.launches (s.stopSlots ctx) ctx s.now)
    if c.st ≠ 3 then .next (s.setResult ctx 2)
    else if !s.areaOk base area then .next (s.setResult ctx 3)
    else
      let v := area.foldl (fun v g => s.loadSeg base g v) c.saved
      let ids := c.saved.teams.map (·.id)
      let old := s.poison.filter (fun p => !(decide (2 ^ 61 ≤ p.gran) && ids.contains ((p.gran - 2 ^ 61) / 2 ^ 14)))
      let s := { s with poison := old ++ area.flatMap (s.loadPoison base) }
      let s := s.modCtx ctx (fun c => { c with st := 4, result := 0, saved := v, toPlace := v.clusters })
      .next (if s.slotFor ctx then s.takeSlot ctx else s)

/-- Where a scratch key of a saved cluster lies after the placement: `l` pairs saved teams with placed ones. -/
def reKey (l : List (Team × Team)) (k : Nat) : Nat :=
  match l.find? (fun p => p.1.holds k) with
  | some p => k - scrKey p.1.cache p.1.base + scrKey p.2.cache p.2.base
  | none => k

/-- The replay entries of a squad that is restored or resumed are written: all of them outside handler mode, the handler's in it
(18 R297, R306). -/
def Squad.reinject (q : Squad) : Squad :=
  if q.handler then { q.inject (q.replay.filter (·.handler)) with replay := q.replay.filter (fun e => !e.handler) }
  else { q.inject q.replay with replay := [] }

/-- One squad of a restored team takes a slot on its new CU. It keeps its state and its wake condition, which is tested again (10 R215). -/
def State.putSquad (s : State) (u : Team) (q : Squad) : State :=
  let slot := nth 0 (s.openSlots u.cache q.sub) 0
  { s with squads := s.squads ++ [{ q.reinject with cache := u.cache, slot := slot, preempt := false, stopReq := q.stopReq && u.stopping, inLine := none, got := [] }] }

/-- What a retired squad of a restored team still holds takes a slot. -/
def State.putHeld (s : State) (u : Team) (h : Nat × Nat × Nat × Nat) : State :=
  let slot := nth 0 (s.openSlots u.cache h.1) 0
  s.modTeam u.id (fun v => { v with held := v.held ++ [(h.1, slot, h.2.2)] })

/-- Place one saved team at its CU position of a cluster, when it fits there; the placed team comes back as well. -/
def State.putSaved (s : State) (v : Saved) (u : Team) (cl : Nat) : Option (Team × State) :=
  let cache := 4 * cl + u.cache % 4
  let sq := v.squads.filter (·.team == u.id)
  let need := sq.map (fun q => (q.sub, q.vallot, q.sallot)) ++ u.held.map (fun h => (h.1, h.2.2))
  let lut := (List.range 16).find? (fun n => !s.luts.any (fun p => p.cache == cache && p.num == n))
  let pair := v.luts.find? (fun p => p.cache == u.cache && u.lut == some p.num)
  match s.scrOffset cache u.size with
  | none => none
  | some base =>
    if !s.squadsFit cache need || (pair.isSome && lut.isNone) then none
    else
      let w : Team := { u with cache := cache, base := base, held := [], lut := if pair.isSome then lut else none }
      let s : State := { s with
        teams := s.teams ++ [w]
        luts := match pair, lut with | some p, some n => s.luts ++ [{ p with cache := cache, num := n }] | _, _ => s.luts }
      let s := u.held.foldl (fun s h => s.putHeld w h) (sq.foldl (fun s q => s.putSquad w q) s)
      some (w, s.raiseArrival cache ((get? s.arrival u.cache).getD Stamp.zero))

/-- Place saved teams one after another. -/
def State.putSavedAll (v : Saved) (cl : Nat) : List Team → List (Team × Team) → State → Option (List (Team × Team) × State)
  | [], done, s => some (done, s)
  | u :: r, done, s =>
    match s.putSaved v u cl with
    | none => none
    | some (w, t) => State.putSavedAll v cl r (done ++ [(u, w)]) t

/-- Huddles of a saved cluster come back open with the time left, under their numbers where those are free. -/
def State.putHuddle (s : State) (cl : Nat) (h : Huddle) : State :=
  let free (n : Nat) : Bool := !s.huddles.any (fun k => k.cl == cl && k.num == n)
  let num := if free h.num then h.num else ((List.range 256).find? free).getD h.num
  { s with huddles := s.huddles ++ [{ h with cl := cl, num := num, opened := s.now }] }

/-- What is left of an instruction that names scratchpad bytes follows the scratchpads. -/
def MOp.rebase (l : List (Team × Team)) : MOp → MOp
  | .ldsDo d w acc => .ldsDo d w (acc.map (fun a => (a.1, a.2.1, reKey l a.2.2)))
  | .ldsmDo op9 c d rows lanes => .ldsmDo op9 c d (rows.map (fun r => (r.1, reKey l r.2))) lanes
  | .stsDo acc => .stsDo (acc.map (fun a => (a.1, reKey l a.2.1, a.2.2)))
  | .waitObj ea key ph => .waitObj ea (reKey l key) ph
  | m => m

/-- Where a scratch address of a placed team lies. -/
def placedKey (l : List (Team × Team)) (team a : Nat) : Nat :=
  match l.find? (fun p => p.2.id == team) with
  | none => a
  | some p =>
    if a < 0x80000000 then scrKey p.2.cache (p.2.base + a)
    else
      match l.find? (fun t => t.2.shoal == p.2.shoal && t.2.shSlot == (a - 0x80000000) / 0x80000) with
      | some t => scrKey t.2.cache (t.2.base + (a - 0x80000000) % 0x80000)
      | none => a

/-- The wait for absent scratch lines, the instruction that waits, and the lines of a command, follow the scratchpads. -/
def Squad.rebase (l : List (Team × Team)) (q : Squad) : Squad :=
  let moved (w : Wake) : Wake := if w.kind = 7 then { w with op0 := placedKey l q.team w.op0, op1 := placedKey l q.team w.op1 } else w
  { q with todo := q.todo.map (MOp.rebase l), wake := q.wake.map moved }
def Cmd.rebase (l : List (Team × Team)) (cl : Nat) (c : Cmd) : Cmd :=
  { c with cl := cl, cache := 4 * cl + c.cache % 4, lines := c.lines.map (fun k => reKey l (k * 128) / 128) }

/-- The fields of a saved cluster that follow its teams: scratchpad, objects, presence, commands, timelines, channels. -/
def State.putRestOf (s : State) (v : Saved) (old cl : Nat) (l : List (Team × Team)) : State :=
  let cells := (v.scratch.filter (fun p => l.any (fun t => t.1.id == p.1))).flatMap (·.2)
  let lines := (v.absent.filter (fun p => l.any (fun t => t.1.id == p.1))).flatMap (·.2)
  let objs := v.objs.filter (fun o => l.any (fun t => t.1.holds o.key))
  let cmds := (v.cmds.filter (·.cl == old)).map (Cmd.rebase l cl)
  let ids := l.map (·.2.id)
  let s : State := { s with
    scratch := cells.foldl (fun m c => put 0 m (reKey l c.1) c.2) s.scratch
    absent := sortNat (s.absent ++ lines.map (fun k => reKey l (k * 128) / 128))
    objs := s.objs ++ objs.map (fun o => { o with key := reKey l o.key })
    cmds := s.cmds ++ cmds
    tlsets := s.tlsets ++ (v.tlsets.filter (·.cl == old)).map (fun t => { t with cl := cl })
    chans := s.chans.filter (·.cl != cl) ++ (v.chans.filter (·.cl == old)).map (fun c => { c with cl := cl })
    mccs := s.mccs ++ (v.mccs.filter (·.cl == old)).map (fun m => { m with
      cl := cl, running := true, halted := false, stopped := none }) }
  let s := s.modSquads (fun q => ids.contains q.team) (Squad.rebase l)
  let s := (l.map (·.2)).foldl State.poisonIn s
  (v.huddles.filter (·.cl == old)).foldl (fun s h => s.putHuddle cl h) s

/-- May the work saved from a cluster go on another one, the set of the context apart from the CUs' room? -/
def State.clusterOpen (s : State) (v : Saved) (ctx old cl : Nat) : Bool :=
  let us := v.teams.filter (·.cache / 4 == old)
  let whole := (v.mccClusters s).contains old
  !s.withdrawn.contains cl && !s.clusterMarked cl && !s.tlsets.any (fun t => t.ctx == ctx && t.cl == cl) &&
    decide ((s.tlsets.filter (·.cl == cl)).length < 64) &&
    (if whole then s.clusterIdle cl && !s.huddles.any (·.cl == cl) else !s.heldWhole cl) &&
    us.all (fun u => u.shoal.isNone || !s.teams.any (fun t => t.cache / 4 == cl && t.shoal == u.shoal)) &&
    decide ((v.huddles.filter (·.cl == old)).length + (s.huddles.filter (·.cl == cl)).length ≤ 256) &&
    us.all (fun u => match s.launchOf u.launch with | some l => l.huddle || bit l.dmask (cl / 32) | none => true)

/-- Place the work of one saved cluster on another one. -/
def State.putGroup (s : State) (ctx old cl : Nat) : Option State :=
  match s.ctxOf ctx with
  | none => none
  | some c =>
    let v := c.saved
    if !s.clusterOpen v ctx old cl then none
    else
      match State.putSavedAll v cl (v.teams.filter (·.cache / 4 == old)) [] s with
      | none => none
      | some (l, s) => some (s.putRestOf v old cl l)

/-- The teams of an instance of the highest level of domain die or larger that a launch declares; none when it declares none (10 R206). -/
def Hdr.together (h : Hdr) : Option Nat := (h.levels.reverse.find? (fun p => decide (3 ≤ p.1))).map (·.2)

/-- Do two saved teams belong to one instance that is placed together, or come from one cluster? -/
def State.tied (s : State) (u t : Team) : Bool :=
  u.cache / 4 == t.cache / 4 || (u.launch == t.launch &&
    ((s.launchOf u.launch).bind (·.hdr.together)).any (fun n => u.num / n == t.num / n))

/-- The clusters that are placed with some clusters of a record: those to which an instance of domain die or larger ties them. -/
def State.tiedTo (s : State) (v : Saved) : Nat → List Nat → List Nat
  | 0, l => l
  | n + 1, l =>
    let more := (v.teams.filter (fun t => v.teams.any (fun u => l.contains (u.cache / 4) && s.tied u t))).map (·.cache / 4)
    s.tiedTo v n (sortNat (l ++ more))

/-- Do teams of one level instance of domain die lie on one die, the cluster `old` going to `cl` and others to `done`? -/
def State.dieApart (s : State) (v : Saved) (old cl : Nat) (done : List (Nat × Nat)) : Bool :=
  v.teams.all (fun u => u.cache / 4 != old || v.teams.all (fun t =>
    match done.find? (fun d => d.1 == t.cache / 4), s.launchOf u.launch with
    | some d, some l => t.launch != u.launch || d.2 / 32 == cl / 32 ||
        l.hdr.levels.all (fun p => p.1 != 3 || t.num / p.2 != u.num / p.2)
    | _, _ => true))

/-- Place the work of several saved clusters, all of them or none, each on the lowest-numbered cluster that takes it and leaves the others room:
the manual gives no order among fitting clusters (log 101). -/
def State.putGroups (ctx : Nat) (v : Saved) : List Nat → List (Nat × Nat) → State → Option State
  | [], _, s => some s
  | o :: r, done, s =>
    (List.range 128).findSome? (fun cl =>
      if s.dieApart v o cl done then
        match s.putGroup ctx o cl with
        | some t => State.putGroups ctx v r ((o, cl) :: done) t
        | none => none
      else none)

/-- Placed clusters leave the record; with the last one the context is resident. -/
def State.unlist (s : State) (ctx : Nat) (olds : List Nat) : State :=
  let s := s.modCtx ctx (fun c =>
    let v := c.saved
    let gone (cl : Nat) : Bool := olds.contains cl
    let ids := (v.teams.filter (fun u => gone (u.cache / 4))).map (·.id)
    { c with
      toPlace := c.toPlace.filter (fun o => !gone o)
      saved := { v with
        teams := v.teams.filter (fun u => !gone (u.cache / 4)), squads := v.squads.filter (fun q => !ids.contains q.team)
        mccs := v.mccs.filter (fun m => !gone m.cl), huddles := v.huddles.filter (fun h => !gone h.cl)
        tlsets := v.tlsets.filter (fun t => !gone t.cl), cmds := v.cmds.filter (fun c => !gone c.cl)
        objs := v.objs.filter (fun o => !gone (o.key / 2 ^ 19 / 4)), luts := v.luts.filter (fun p => !gone (p.cache / 4))
        chans := v.chans.filter (fun c => !gone c.cl)
        scratch := v.scratch.filter (fun p => !ids.contains p.1), absent := v.absent.filter (fun p => !ids.contains p.1) } })
  (s.modCtx ctx (fun c => if c.toPlace.isEmpty then { c with st := 1, saved := Saved.none_ } else c)).freeSlots

/-- What a restore can place now: the clusters of the context that leave its record, and the package with them placed. -/
def State.restorable (s : State) (ctx : Nat) : Option (List Nat × State) :=
  match s.ctxOf ctx with
  | none => none
  | some c =>
    if c.st ≠ 4 ∨ !s.running ∨ !s.slotFor ctx then none
    else if c.toPlace.isEmpty then some ([], s)
    else
      c.toPlace.findSome? (fun o =>
        let l := s.tiedTo c.saved c.toPlace.length [o]
        (State.putGroups ctx c.saved l [] s).map (fun t => (l, t)))

/-- A squad tests its wake condition again (10 R215). -/
def State.retest (s : State) (id : Nat) : State :=
  let s := s.focusOn id
  let t : State := match s.sq.wake with
    | some w => if s.focus = .squad ∧ s.sq.st = .blocked then s.wakeNow w else s
    | none => s
  t.unfocus

/-- Commands that a denied ticket failed while they were saved fail now. -/
def State.failSaved (s : State) : State :=
  (s.cmds.filter (fun c => c.failed.isSome && c.fin.isNone)).foldl (fun s c => s.cmdFail c (c.failed.getD .pageFault)) s

/-- CONTEXT_RESTORE_PLACE (18 R306). -/
def execContextRestorePlace (ctx : Nat) (s : State) : Out :=
  let s := s.unfocus
  match s.restorable ctx with
  | none => .next s
  | some (olds, _) =>
    match s.whenClear (fun u => (u.restorable ctx).bind (fun p => if p.1 == olds then some p.2 else none)) with
    | (none, u) => .next u
    | (some t, _) =>
    let news := (t.squads.filter (fun q => !s.squads.any (·.id == q.id))).map (·.id)
    .next (news.foldl State.retest (((t.takeSlot ctx).failSaved).unlist ctx olds))

/-! ### Killing (18 R304) -/

/-- One turn of a command of a killed context: it does not wait for a home, a walk or a ticket; a page that is not mapped fails
it. -/
def State.cmdForce (s : State) (c : Cmd) : State :=
  match c.fin with
  | some e => s.cmdDone c e
  | none =>
    if c.ticket.isSome then s.cmdFail c .pageFault
    else
      match c.kind with
      | .sig => s.cmdTurn { c with walk := none }
      | .rsig => if s.cmdFirst c then s.cmdAdd c else s
      | _ =>
        if s.cmdWaits c then s
        else
          let ms := s.cmdMoves c
          match s.cmdCheckRun c ms with
          | .miss va _ =>
            match s.walkOf c.ctx va with
            | .leaf l => s.putTlb ⟨c.ctx, va, l, 1000 + c.cl⟩
            | .bad _ _ => s.cmdFail c .pageFault
          | .bad d => s.cmdFail c d
          | .ok => s.cmdMove c ms

/-- The commands of a context run to completion. -/
def State.runOut (ctx : Nat) : Nat → State → State
  | 0, s => s
  | n + 1, s =>
    let mine := s.cmds.filter (·.ctx == ctx)
    if mine.isEmpty then s
    else State.runOut ctx n (mine.foldl (fun s c =>
      match s.cmds.find? (·.id == c.id) with
      | some d => s.cmdForce d
      | none => s) s)

/-- The queues of a context are disabled in their descriptors. -/
def State.disableQueues (s : State) (ctx : Nat) : State :=
  if s.qtOn then
    (List.range 4096).foldl (fun s q =>
      match s.qdesc q with
      | some d => if d.ctx = ctx ∧ d.enabled then s.physWrite (s.qtBase + 32 * q + 10) [BitVec.ofNat 8 (2 * b2n d.fed)] else s
      | none => s) s
  else s

/-- Everything of a context leaves the package. -/
def State.wipe (s : State) (ctx : Nat) : State :=
  let sq := s.squads.filter (·.ctx == ctx)
  let s := sq.foldl (fun s q => s.sampleQuit q.id) s
  let ids := sq.map (·.id)
  let ls := (s.launches.filter (·.ctx == ctx)).map (·.id)
  let cls := (s.mccs.filter (·.ctx == ctx)).map (·.cl)
  let us := s.teams.filter (·.ctx == ctx)
  let s := us.foldl State.freeTeam { s with luts := s.luts.filter (fun p => !us.any (fun u => p.cache == u.cache && u.lut == some p.num)) }
  { s with
    squads := s.squads.filter (·.ctx != ctx)
    mccs := s.mccs.filter (·.ctx != ctx)
    chans := s.chans.filter (fun c => !cls.contains c.cl)
    huddles := s.huddles.filter (·.ctx != ctx)
    launches := s.launches.filter (·.ctx != ctx)
    lvls := s.lvls.filter (fun b => !ls.contains b.launch)
    sfu := s.sfu.filter (fun e => !ids.contains e.squad)
    tlsets := s.tlsets.filter (·.ctx != ctx)
    cmds := s.cmds.filter (·.ctx != ctx)
    locks := s.locks.filter (fun l => !ids.contains l.squad)
    tickets := s.tickets.filter (·.ctx != ctx)
    parkWait := s.parkWait.filter (·.ticket.ctx != ctx)
    stopWait := s.stopWait.filter (·.ctx != ctx) }

/-- CTXCMD_KILL. -/
def execCtxcmdKill (ctx : Nat) (s : State) : Out :=
  let s := s.unfocus.needCtx ctx
  let s := (State.runOut ctx 4096 s).wipe ctx
  let t := s.modCtx ctx (fun c => { c with st := 0, result := 0, slot := false, saved := Saved.none_, toPlace := [] })
  let t := (s.slotsFreed t).trimCopies
  .next ((State.letIn t.parkWait.length t).disableQueues ctx)

/-! ### Stops (23 R362 to R364) -/

/-- A command of STOPCMD on a context that is not resident is discarded. -/
def State.stopOn (s : State) (ctx : Nat) (f : State → State) : State :=
  let s := s.unfocus.needCtx ctx
  let res := (s.ctxOf ctx).any (fun c => c.st == 1)
  let s := s.modCtx ctx (fun c => { c with badstate := !res })
  if res then f s else s

/-- Every squad of a team that is not Exiting is asked to stop. -/
def State.stopTeam (s : State) (u : Team) : State :=
  if u.stopping || u.halted || u.exited then s
  else
    (s.modTeam u.id (fun v => { v with stopping := true })).modSquads (fun q => q.team == u.id && q.st != .exiting)
      (fun q => { q with stopReq := true })

/-- STOPCMD_STOP names a team number of the context. -/
def execStopcmdStop (ctx team : Nat) (s : State) : Out :=
  .next (s.stopOn ctx (fun s => (s.teams.filter (fun u => u.ctx == ctx && u.num == team)).foldl State.stopTeam s))

/-- The bytes of a stop record (23 R364); the code of a squad's state is open. -/
def State.stopBytes (s : State) (u : Team) : List Byte :=
  let sq := s.squads.filter (fun q => q.team == u.id && q.st != .exiting)
  let objs := s.objs.filter (fun o => u.holds o.key)
  let card := match s.launchOf u.launch with | some l => l.card | none => 0
  let head : List Byte :=
    bytesLE 8 s.now ++ bytesLE 2 u.ctx ++ bytesLE 1 (b2n u.trap.isSome) ++
    bytesLE 1 (match u.trap with | some t => t.2.1.cause.code | none => 0) ++ bytesLE 4 u.num ++ bytesLE 8 card ++
    bytesLE 1 sq.length ++ bytesLE 2 objs.length ++ zbytes 5 ++
    (match u.trap with
     | some (_, _, f) => bytesLE 8 f.tpc.toNat ++ bytesLE 4 f.tword0.toNat ++ bytesLE 4 f.tword1.toNat ++ bytesLE 8 f.taddr.toNat ++
         bytesLE 1 f.tlane.toNat
     | none => [])
  let one (i : Nat) (q : Squad) : List Byte :=
    let w := (s.wakeOut u q).wake.getD ⟨0, 0, 0⟩
    bytesLE 1 q.idx ++ openBytes (s.free + i) 1 ++ bytesLE 1 w.kind ++ bytesLE 1 (q.rest.length + 1) ++ zbytes 4 ++
      bytesLE 8 w.op0 ++ bytesLE 8 w.op1 ++
      (List.range 4).flatMap (fun n => bytesLE 8 (match (q.sp :: q.rest).find? (·.num == n) with | some p => p.pc.toNat | none => 0)) ++
      bytesLE 8 q.obs.tick
  let lvl (i : Nat) : List Byte :=
    match s.lvls.find? (fun b => b.launch == u.launch && b.level == i + 3 &&
      (match (s.launchOf u.launch).bind (fun l => l.hdr.levelTeams (i + 3)) with | some t => b.part == u.num / t.2 | none => false)) with
    | some b => bytesLE 4 b.bar.phase ++ bytesLE 1 (b2n (b.teams.contains u.num)) ++ zbytes 3
    | none => zbytes 8
  fitBytes 64 head ++ (List.range sq.length).flatMap (fun i => one i (nth Squad.blank sq i)) ++
    u.bars.flatMap (fun b => bytesLE 4 b.phase ++ bytesLE 2 b.arrived ++ bytesLE 2 b.count) ++
    (List.range 5).flatMap lvl ++
    objs.flatMap (fun o => bytesLE 4 (o.key - scrKey u.cache u.base) ++ zbytes 4 ++ o.bytes ++ bytesLE 8 o.last.tick)

/-- STOP_COMPLETE: with every squad Halted the record is written, or waits for room in the ring. -/
def execStopComplete (team : Nat) (s : State) : Out :=
  let s := s.unfocus
  match s.teams.find? (·.id == team) with
  | none => .next s
  | some u =>
    if u.stopping ∧ s.squads.all (fun q => q.team != u.id || q.st == .halted || q.st == .exiting) then
      let b := s.stopBytes u
      let t : State := { s.modTeam u.id (fun v => { v with stopping := false, halted := true }) with
        stopWait := s.stopWait ++ [⟨u.ctx, u.id, b⟩], free := s.free + 32 }
      .next (t.flushStop u.ctx t.stopWait.length)
    else .next s

/-- A halted team whose record is written runs on: its squads take their replay entries and their prior states (23 R363). -/
def State.resumeTeam (s : State) (u : Team) : State :=
  if !u.halted || s.stopWait.any (·.team == u.id) then s
  else
    let go : Squad → Squad := fun q => { q.reinject with st := q.prior, prior := .ready, stopReq := false }
    let ids := (s.squads.filter (fun q => q.team == u.id && q.st == .halted)).map (·.id)
    let s := (s.modTeam u.id (fun v => { v with halted := false, trap := none })).modSquads (fun q => ids.contains q.id) go
    ids.foldl State.retest s

/-- STOPCMD_RESUME. -/
def execStopcmdResume (ctx team : Nat) (s : State) : Out :=
  .next (s.stopOn ctx (fun s => (s.teams.filter (fun u => u.ctx == ctx && u.num == team)).foldl State.resumeTeam s))

/-- STOPCMD_RESUME_ALL. -/
def execStopcmdResumeAll (ctx : Nat) (s : State) : Out :=
  .next (s.stopOn ctx (fun s => (s.teams.filter (fun u => u.ctx == ctx)).foldl State.resumeTeam s))

end Sys2Proof.Machine
end

