-- ==== Sys2Proof/Machine/EvSched.lean ====
section
/-! DEFINITION. From queue to placement (17; 10 R203 to R209; 03 R75 to R77): queue registers, the arbiter, entries, job cards and
kernel headers, the placer, huddles, and the completion of launches. -/

namespace Sys2Proof.Machine

/-! ### Queues (17 R275 to R280) -/

/-- Change a queue's registers. -/
def State.modQueue (s : State) (q : Nat) (f : Queue → Queue) : State := s.setQueue (f (s.queueOf q))

/-- done rises over every entry above it that is complete. -/
def Queue.rise : Nat → Queue → Queue
  | 0, r => r
  | k + 1, r =>
    match get? r.fin (r.done + 1) with
    | some st => Queue.rise k { r with done := r.done + 1, doneSt := r.doneSt.max st, fin := r.fin.filter (fun p => p.1 != r.done + 1) }
    | none => r

/-- Entry n is complete with a stamp. -/
def Queue.finish (r : Queue) (n : Nat) (st : Stamp) : Queue :=
  Queue.rise (r.fin.length + 1) { r with fin := ins r.fin n st, begun := max r.begun n }

/-- Is the last entry taken complete (17 R283)? -/
def Queue.lastDone (r : Queue) : Bool := decide (r.head ≤ r.done) || (get? r.fin r.head).isSome

/-- The submission stamp of entry n (17 R280): a tail write covers every entry up to its value. -/
def Queue.subOf (r : Queue) (n : Nat) : Stamp :=
  match r.subs.find? (fun p => decide (n ≤ p.1)) with
  | some p => p.2
  | none => Stamp.zero

/-- A queue entry as read (17 Table 17.3). -/
structure QEntry where
  card   : Nat
  ekind  : Nat
  eflags : Nat
  ncond  : Nat
  res    : Bool
  conds  : List (Nat × Nat × Nat)
deriving DecidableEq, Repr

/-- The fields of 64 bytes. -/
def QEntry.of (b : List Byte) : QEntry :=
  let n (o k : Nat) : Nat := natLE ((b.drop o).take k)
  ⟨n 0 8, n 8 1, n 9 1, n 10 1, n 11 5 != 0, (List.range 4).map (fun i => (n (16 + 12 * i) 8, n (24 + 12 * i) 2, n (26 + 12 * i) 2))⟩

/-- Does condition (v, q) of entry n of queue `own` break its table, so that it counts as holding (17 R283)? -/
def condBad (own n v q : Nat) : Bool := decide (4096 ≤ q) || (q == own && decide (n ≤ v))

/-- Does an entry break its table (17 Table 17.5, order 2)? -/
def QEntry.bad (e : QEntry) (own n : Nat) : Bool :=
  decide (1 < e.ekind) || decide (1 < e.eflags) || decide (4 < e.ncond) || e.res || e.card % 256 != 0 ||
    (e.ekind == 0 && e.card != 0) ||
    (List.range 4).any (fun i =>
      let c := nth (0, 0, 0) e.conds i
      if i < e.ncond then c.2.2 != 0 || condBad own n c.1 c.2.1 else c.1 != 0 || c.2.1 != 0 || c.2.2 != 0)

/-- The address of the slot of entry n. -/
def QDesc.slotPa (d : QDesc) (n : Nat) : Nat := d.ring + (n - 1) % 2 ^ d.lsize * 64

/-- The next entry of a queue, once its slot may be read (17 R280, R283): the queue is enabled and not held, the entry lies below
QTAIL, the one before it has begun placement, slack water has reached its submission stamp. -/
def State.nextEntry (s : State) (r : Queue) : Option (QDesc × QEntry) :=
  match s.qdesc r.num with
  | none => none
  | some d =>
    let n := r.head + 1
    let t := s.slackFor d.ctx
    if d.enabled && !s.ctxAway d.ctx && !r.qfault && decide (n ≤ r.tail) && decide (r.head ≤ r.begun) && (r.subOf n).le t then
      some (d, QEntry.of (s.bytesAt (some t) (memKey s.pkgIdx (d.slotPa n)) 64))
    else none

/-- The stamp of a condition that holds now. -/
def State.condNow (s : State) (d : QDesc) (own n : Nat) (c : Nat × Nat × Nat) : Option Stamp :=
  if condBad own n c.1 c.2.1 then some Stamp.zero
  else
    match s.qdesc c.2.1 with
    | some k => if k.enabled && k.ctx == d.ctx && decide (c.1 ≤ (s.queueOf c.2.1).done) then some (s.queueOf c.2.1).doneSt else none
    | none => none

/-- The arbiter looks at a queue: conditions that hold are kept with the done stamp first read (17 R284, R292), and the time since
which the entry is eligible, with what that adds to its class. -/
def State.lookQueue (s : State) (r : Queue) : Queue :=
  match s.nextEntry r with
  | none => { r with since := none, raised := 0 }
  | some (d, e) =>
    let m := min e.ncond 4
    let held := (List.range m).foldl (fun h i =>
      if (get? h i).isSome then h
      else
        match s.condNow d r.num (r.head + 1) (nth (0, 0, 0) e.conds i) with
        | some st => ins h i st
        | none => h) r.held
    if (List.range m).all (fun i => (get? held i).isSome) && (!bit e.eflags 0 || r.lastDone) then
      let since := r.since.getD s.now
      { r with held := held, since := some since, raised := (s.now - since) / 100000 }
    else { r with held := held, since := none, raised := 0 }

/-- The arbiter looks at every queue. -/
def State.lookAll (s : State) : State := { s with queues := s.queues.map s.lookQueue }

/-- An entry is complete. -/
def State.finishEntry (s : State) (q n : Nat) (st : Stamp) : State := (s.modQueue q (fun r => r.finish n st)).lookAll

/-- A write of QTAIL by the host (17 R278), with the stamp that the bridge member gave it, or on the bridge member with its own next (20 R339).
An entry withdrawn by lowering QTAIL takes what was seen of its conditions with it (17 R283). -/
def State.qtailWrite (s : State) (q n : Nat) (st : Option Stamp) : State :=
  let r := s.queueOf q
  let ovf := s.setQueue { r with qovf := true }
  match s.qdesc q with
  | none => ovf
  | some d =>
    if d.fed || (d.enabled && decide (n < r.tail)) || decide (n < r.head) ||
        decide (r.tail < n ∧ r.head + 2 ^ d.lsize < n) then ovf
    else if n ≤ r.tail then
      let cut := (r.subs.filter (fun p => decide (p.1 < n))) ++
        (match r.subs.find? (fun p => decide (n ≤ p.1)) with | some p => [(n, p.2)] | none => [])
      let held := if n ≤ r.head then [] else r.held
      (s.setQueue { r with tail := n, subs := cut, held := held }).lookAll
    else
      let c := match st with | some c => (c, s) | none => s.takeStamp 0 255
      (c.2.setQueue { r with tail := n, subs := r.subs ++ [(n, c.1)] }).lookAll

/-- QTAIL_WRITE: the host's write reaches the bridge member itself; that of another member's window comes by HOST_WINDOW_ACCESS (20 R336). -/
def execQtailWrite (q : Nat) (v : D) (s : State) : Out :=
  let s := s.unfocus
  if 4096 ≤ q ∨ !s.bridge then .next s else .next (s.qtailWrite q v.toNat none)

/-- QFAULT_CLEAR completes the refused entry with its dependence stamp (17 R282). -/
def execQfaultClear (q : Nat) (s : State) : Out :=
  let s := s.unfocus
  let r := s.queueOf q
  if r.qfault ∧ s.running then .next ((s.setQueue { r with qfault := false, fcode := 0 }).finishEntry q r.head r.refDep) else .next s

/-- QTBASE_WRITE (17 R276): with enable set, a write that would change the address is discarded in full and sets QTBERR. -/
def execQtbaseWrite (hi : Bool) (v : W) (s : State) : Out :=
  let s := s.unfocus
  let lo := s.csr 0 0x8100
  let err := s.setCsr 0 0x8100 (lo ||| 2)
  if !s.running then .next s
  else if hi then
    (if s.qtOn ∧ v.toNat % 256 ≠ (s.csr 0 0x8101).toNat % 256 then .next err else .next (s.setCsr 0 0x8101 (w32 (v.toNat % 256))).lookAll)
  else if s.qtOn ∧ v.toNat / 4096 ≠ lo.toNat / 4096 then .next err
  else
    let keep := lo.getLsbD 1 && !v.getLsbD 1
    .next (s.setCsr 0 0x8100 (w32 (v.toNat / 4096 * 4096 + 2 * b2n keep + b2n (v.getLsbD 0)))).lookAll

/-! ### Headers (03 R75 to R77) -/

/-- The residency bound of a role 0 (02 R50). -/
def RoleRec.bound (r : RoleRec) : Nat := min 16 (min (512 / (8 * r.vcode)) (1024 / (8 * r.scode)))

/-- A role record as read. -/
def roleAt (va : Nat) (b : List Byte) (i : Nat) : RoleRec :=
  let n (o k : Nat) : Nat := natLE ((b.drop (0x20 + 16 * i + o)).take k)
  ⟨BitVec.ofNat 64 (va + n 0 8), n 8 1, n 9 1, n 10 1, bit (n 11 1) 0⟩

/-- Is role record i as its table and the declared count ask? -/
def roleOk (b : List Byte) (nroles i : Nat) : Bool :=
  let n (o k : Nat) : Nat := natLE ((b.drop (0x20 + 16 * i + o)).take k)
  if i < nroles then
    n 0 8 % 4 == 0 && decide (256 ≤ n 0 8) && decide (1 ≤ n 8 1 ∧ n 8 1 ≤ 32) && decide (1 ≤ n 9 1 ∧ n 9 1 ≤ 16) &&
      decide (n 10 1 ≤ 7) && decide (n 11 1 ≤ 1) && n 12 4 == 0
  else n 0 16 == 0

/-- Level record i: domain, reserved bytes, teams. -/
def levelAt (b : List Byte) (i : Nat) : Nat × Nat × Nat :=
  let n (o k : Nat) : Nat := natLE ((b.drop (0x60 + 8 * i + o)).take k)
  (n 0 1, n 1 3, n 4 4)

/-- Are the level records well formed: contiguous from level 3, domains strictly ascending? -/
def levelsOk (b : List Byte) : Bool :=
  (List.range 5).all (fun i =>
    let l := levelAt b i
    let p := levelAt b (i - 1)
    if l.1 = 0 then l.2.1 == 0 && l.2.2 == 0
    else decide (l.1 ≤ 5) && l.2.1 == 0 && l.2.2 != 0 && (i == 0 || (p.1 != 0 && decide (p.1 < l.1))))

/-- The header in 256 bytes at an address; none when it is malformed (03 R77). -/
def Hdr.parse (va : Nat) (b : List Byte) : Option Hdr :=
  let n (o k : Nat) : Nat := natLE ((b.drop o).take k)
  let nroles := n 0x18 1
  let roles := (List.range nroles).map (roleAt va b)
  let r0 := roleAt va b 0
  let ok :=
    n 0 4 == 0x4B4C5841 && n 4 2 == 1 && decide (n 6 2 ≤ 1) && ((n 6 2 == 1) == (n 8 8 != 0)) && n 8 8 % 4 == 0 &&
    n 0x10 4 % 1024 == 0 && decide (n 0x10 4 ≤ 458752) && decide (1 ≤ n 0x14 1 ∧ n 0x14 1 ≤ 32) &&
    decide (1 ≤ n 0x15 1 ∧ n 0x15 1 ≤ 5) && decide (n 0x16 2 ≤ 256) && decide (1 ≤ nroles ∧ nroles ≤ 4) && n 0x19 3 == 0 &&
    decide (n 0x1C 4 < 65536) && fmtOk (n 0x1C 4) && (List.range 4).all (roleOk b nroles) && levelsOk b && n 0x88 120 == 0 &&
    decide ((roles.filter (·.relay)).length ≤ 1)
  if ok && decide ((n 0x14 1 + 3) / 4 ≤ r0.bound) then
    some
      { va := va, mcc := n 6 2 == 1, mccEntry := if n 6 2 = 1 then BitVec.ofNat 64 (va + n 8 8) else 0, scratch := n 0x10 4
        squads := n 0x14 1, tsize := n 0x15 1, huddle := n 0x16 2, fmt := w32 (n 0x1C 4), roles := roles
        levels := ((List.range 5).map (levelAt b)).filterMap (fun l => if l.1 = 0 then none else some (l.1, l.2.2)) }
  else none

/-- Can the levels not be formed for a card's teams: LVLSHAPE (10 R205)? -/
def Hdr.misshapen (h : Hdr) (teams : Nat) : Bool :=
  (List.range (h.levels.length - 1)).any (fun i => (nth (0, 1) h.levels (i + 1)).2 % (nth (0, 1) h.levels i).2 != 0) ||
    (match h.levels.getLast? with | some v => teams % v.2 != 0 | none => false) ||
    (h.mcc && h.levels.any (fun v => (v.1 == 1 && 4 % v.2 != 0) || (v.1 == 2 && v.2 != 4)))

/-- Teams of a header that one idle CU holds (10 R204). -/
def Hdr.perCu (h : Hdr) : Nat :=
  if h.mcc then 1
  else
    let r := (nth ⟨0, 1, 1, 0, false⟩ h.roles 0).bound / ((h.squads + 3) / 4)
    if h.scratch = 0 then r else min r (458752 / h.scratch)

/-- Clusters of a die in service. -/
def State.clustersOf (s : State) (die : Nat) : Nat := ((List.range 32).filter (fun c => !s.withdrawn.contains (32 * die + c))).length

/-- Does a level exceed what its domain holds on the dies allowed: LVLFIT (10 R205)? Other members are taken to hold as much as
this one (log 26). -/
def State.unfit (s : State) (h : Hdr) (dmask : Nat) : Bool :=
  let dies := (List.range 4).filter (bit dmask)
  let most (v : Nat) : Nat :=
    if v = 1 then 8
    else if v = 2 then 4 * h.perCu
    else if v = 3 then (dies.map s.clustersOf).foldl max 0 * 4 * h.perCu
    else total (dies.map s.clustersOf) * 4 * h.perCu * (if v = 5 then s.peers.length + 1 else 1)
  h.levels.any (fun v => decide (most v.1 < v.2))

/-! ### Taking an entry (17 R282 to R284) -/

/-- The translation of an address for the arbiter, which does not park. -/
def State.arbLeaf (s : State) (ctx va : Nat) : Option Leaf :=
  if 2 ^ 57 ≤ va then none
  else
    (s.leafAt ctx va).or (match s.walkOf ctx va with | .leaf l => some l | .bad _ _ => none)

/-- Bytes that the arbiter reads in a context at a stamp; none when a byte faults or its page denies reading. `own` marks the job
card, which a supervisor page admits (19 R309). -/
def State.arbRead (s : State) (own : Bool) (ctx va n : Nat) (t : Stamp) : Option (List Byte) :=
  let one (i : Nat) : Option Byte :=
    match s.arbLeaf ctx (va + i) with
    | none => none
    | some l =>
      let u := if l.cls = 2 then none else some t
      if s.allowed .ld ctx (if own then { l with sup := false } else l) && !s.poisoned u (l.key (va + i)) then some (s.byteAt u (l.key (va + i))) else none
  let bs := (List.range n).filterMap one
  if bs.length = n then some bs else none

/-- A job card as read (17 Table 17.4). -/
structure Card where
  header : Nat
  args   : D
  teams  : Nat
  cflags : Nat
  dmask  : Nat
  bad    : Bool
deriving DecidableEq, Repr

/-- The fields of 256 bytes. -/
def Card.of (b : List Byte) : Card :=
  let n (o k : Nat) : Nat := natLE ((b.drop o).take k)
  ⟨n 0 8, BitVec.ofNat 64 (n 8 8), n 16 4, n 20 1, n 21 1,
   n 0 8 % 256 != 0 || n 16 4 == 0 || decide (4 ≤ n 20 1) || decide (16 ≤ n 21 1) || n 22 234 != 0⟩

/-- The checks of 17 Table 17.5 on entry n of a queue: a refusal code, or the launch to be (none for a marker). -/
def State.checkEntry (s : State) (d : QDesc) (e : QEntry) (q n : Nat) : Except Nat (Option (Card × Hdr)) :=
  let t := s.slackFor d.ctx
  let slotBad := (List.range 64).any (fun i => s.poisoned (some t) (memKey s.pkgIdx (d.slotPa n + i)))
  let cb := s.arbRead true d.ctx e.card 256 t
  let hb := cb.bind (fun b => s.arbRead false d.ctx (Card.of b).header 256 t)
  if slotBad then .error 1
  else if e.ekind = 1 ∧ hb = none then .error 1
  else if e.bad q n then .error 2
  else if e.ekind = 0 then .ok none
  else
    let c := Card.of (cb.getD [])
    if c.bad then .error 3
    else
      match Hdr.parse c.header (hb.getD []) with
      | none => .error 4
      | some h =>
        if h.mcc ∧ c.teams % 4 ≠ 0 then .error 3
        else if h.misshapen c.teams then .error 5
        else if s.unfit h (if c.dmask = 0 then 15 else c.dmask) then .error 6
        else .ok (some (c, h))

/-- Launches that the placer holds: those not yet placed whole. -/
def State.placing (s : State) : List Launch := s.launches.filter (fun l => !l.huddle && decide (l.next < l.teams))

/-- The launch of a card. -/
def launchFor (id ctx q n : Nat) (card : Nat) (c : Card) (h : Hdr) (dep : Stamp) (now : Nat) : Launch :=
  { id := id, ctx := ctx, queue := q, entry := n, card := card, hdr := h, args := c.args, teams := c.teams, snapOn := bit c.cflags 0
    intr := bit c.cflags 1, dmask := if c.dmask = 0 then 15 else c.dmask, dep := dep, k := none, revoked := false, next := 0
    doneSt := dep, since := now, waited := 0, aged := false, away := [], killed := false, huddle := false, parents := [] }

/-- Take the next entry of a queue (17 R282, R284). -/
def State.takeEntry (s : State) (r : Queue) (d : QDesc) (e : QEntry) : State :=
  let n := r.head + 1
  let dep := maxStamp (r.subOf n :: r.held.map (·.2))
  let t := { r with head := n, held := [], since := none, raised := 0, subs := r.subs.filter (fun p => decide (n < p.1)) }
  match s.checkEntry d e r.num n with
  | .error code =>
    (s.setQueue { t with qfault := true, fcode := code, refDep := dep }).report (s.seenStamp 0 255) d.ctx 5 0 code
  | .ok none => (s.setQueue t).finishEntry r.num n dep
  | .ok (some (c, h)) =>
    let f := (s.setQueue t).fresh
    { f.2 with launches := f.2.launches ++ [launchFor f.1 d.ctx r.num n e.card c h dep s.now] }

/-- The effective class of an eligible queue. -/
def effClass (d : QDesc) (r : Queue) : Nat := min 7 (d.cls + r.raised)

/-- The queues that the arbiter may take from, with effective class: launch entries only while the placer holds fewer than 64
launches. -/
def State.candidates (s : State) : List (Nat × Queue × QDesc × QEntry) :=
  s.queues.filterMap (fun r =>
    match r.since, s.nextEntry r with
    | some _, some (d, e) =>
      if e.ekind = 1 ∧ 64 ≤ s.placing.length then none else some (effClass d r, r, d, e)
    | _, _ => none)

/-- ARBITER_TAKE_ENTRY: the highest effective class, and in it the queue next after the one last taken from. -/
def execArbiterTakeEntry (s : State) : Out :=
  let s := s.unfocus.settle
  if !s.running then .next s
  else
    let s := s.lookAll
    let cs := s.candidates
    let top := cs.foldl (fun m c => max m c.1) 0
    let last := nth 4095 s.arbLast top
    match argMin (fun c => (c.2.1.num + 4096 - (last + 1) % 4096) % 4096) (cs.filter (fun c => c.1 == top)) with
    | some (_, r, d, e) => .next (({ s with arbLast := s.arbLast.set top r.num } : State).takeEntry r d e)
    | none => .next s

/-- ENTRY_CLASS_AGE: a full 100 µs of being eligible raises the class by 1. -/
def execEntryClassAge (q : Nat) (s : State) : Out :=
  let s := s.unfocus
  if s.running ∧ s.queues.any (·.num == q) then .next (s.setQueue (s.lookQueue (s.queueOf q))) else .next s

/-! ### Huddles (10 R207, R208) -/

/-- HUDDLE_TIMER_EXPIRE. -/
def execHuddleTimerExpire (cl h : Nat) (s : State) : Out :=
  let s := s.unfocus
  let due (k : Huddle) : Bool := k.cl == cl && k.num == h && !k.closed && decide (k.opened + k.timer ≤ s.now)
  let shut : Huddle → Huddle := fun k => { k with closed := true, closedAt := s.now }
  .next { s with huddles := modAll due shut s.huddles }

/-- A cluster held whole takes a huddle only of the launch that holds it. -/
def State.hudOpen (s : State) (cl : Nat) (l : Launch) : Bool :=
  let own (id : Nat) : Bool := match s.launchOf id with
    | some k => k.ctx == l.ctx && k.queue == l.queue && k.entry == l.entry
    | none => false
  s.allMccs.all (fun m => m.cl != cl || own m.launch) &&
    s.teams.all (fun u => u.cache / 4 != cl || own u.launch ||
      (match s.launchOf u.launch with | some k => !k.hdr.mcc | none => true))

/-- The lowest-positioned CU of a cluster with room for a huddle's squad. -/
def State.hudCache (s : State) (cl : Nat) (l : Launch) : Option Nat :=
  if s.hudOpen cl l && s.clusterFits cl l.ctx then
    ((List.range 4).map (4 * cl + ·)).find? (fun c => s.squadsFit c (l.hdr.need 1) && (s.scrOffset c l.hdr.scratch).isSome)
  else none

/-- Does a context that is being restored find room now, ahead of every launch (18 R306)? -/
def State.restoreFirst (s : State) : Bool := s.ctxs.any (fun c => c.st == 4 && (s.restorable c.tag).isSome)

/-- May a closed huddle be placed now, and on which CU? -/
def State.hudReady (s : State) (h : Huddle) : Option (Launch × Nat) :=
  match s.launchOf h.launch with
  | none => none
  | some l =>
    if h.closed && s.running && s.slotFor h.ctx && !s.ctxAway h.ctx then (s.hudCache h.cl l).map (fun c => (l, c)) else none

/-- The launch of a huddle: the header and arguments of the launch that bound it, without MCC and levels. -/
def hudLaunch (id : Nat) (l : Launch) (h : Huddle) : Launch :=
  { l with
    id := id, hdr := { l.hdr with mcc := false, levels := [] }, teams := 1, next := 1, dep := maxStamp (h.recs.map (·.obs))
    doneSt := Stamp.zero, huddle := true, intr := false, killed := false, parents := sortNat (h.recs.map (·.launch)) }

/-- Lane values of a huddle's payload word r: lane i holds record i. -/
def Huddle.word (h : Huddle) (r i : Nat) : W := nth 0 (nth ⟨[], Stamp.zero, 0⟩ h.recs i).words r

/-- HUDDLE_PLACE (10 R208, 17 R285, R287). -/
def execHuddlePlace (cl h : Nat) (s : State) : Out :=
  let s := s.unfocus.settle
  match s.huddles.find? (fun k => k.cl == cl && k.num == h) with
  | none => .next s
  | some k =>
    match s.hudReady k with
    | none => .next s
    | some (l, cache) =>
      if s.restoreFirst then .next s
      else
        let hl := hudLaunch s.nextId l k
        let tide := (s.slackFor k.ctx).max hl.dep
        let fill : Mask := maskOf (fun i => decide (i < k.recs.length))
        let load : Squad → Squad := fun q =>
          { (List.range 14).foldl (fun q r => q.setV 0xFFFFFFFF r (fun i => k.word r i)) q with
            sp := { q.sp with pc := k.entry, mask := fill }, filled := fill, huddle := true }
        let open_ (u : State) : State := { u.fresh.2 with
          launches := u.fresh.2.launches ++ [hudLaunch u.nextId l k]
          huddles := u.fresh.2.huddles.filter (fun j => !(j.cl == cl && j.num == h)) }
        match s.whenClear (fun u => some ((open_ u).putTeam (hudLaunch u.nextId l k) 0 1 cache tide)) with
        | (none, u) => .next u
        | (some t, u) => .next (t.modSquads (fun q => q.launch == u.nextId) load)

/-! ### The placer (17 R285 to R288) -/

/-- Does a closed huddle of a die find room now? -/
def State.hudFirst (s : State) (die : Nat) : Bool := s.huddles.any (fun h => h.cl / 32 == die && (s.hudReady h).isSome)

/-- May the placer place anything of a launch now? -/
def State.ripe (s : State) (l : Launch) : Bool :=
  !l.huddle && decide (l.next < l.teams) && s.slotFor l.ctx && !s.ctxAway l.ctx

/-- The dies of a launch. -/
def Launch.dies (l : Launch) : List Nat := (List.range 4).filter (bit l.dmask)

/-- Does the next unit of a launch fit with this die's help: on the die alone, or for a level of domain package or larger on all of
its dies? -/
def State.fitsOn (s : State) (l : Launch) (die : Nat) : Bool :=
  s.ripe l && l.dep.le (s.slackFor l.ctx) && bit l.dmask die &&
    (s.putNext l (if l.hdr.levels.any (fun v => decide (4 ≤ v.1)) then l.dies else [die]) (s.slackFor l.ctx)).isSome

/-- The launches taken before one. -/
def State.older (s : State) (l : Launch) : List Launch := s.launches.takeWhile (fun k => k.id != l.id)

/-- The dies on which the placer turns to a launch now. -/
def State.turnDies (s : State) (l : Launch) : List Nat :=
  l.dies.filter (fun d => !s.hudFirst d &&
    (s.older l).all (fun k => !s.ripe k || (!s.fitsOn k d && !(k.aged && bit k.dmask d))))

/-- PLACE_TEAM: the next team or level instance of a launch; the first fixes the kernel snapshot. -/
def execPlaceTeam (launch : Nat) (s : State) : Out :=
  let s := s.unfocus.settle
  match s.launchOf launch with
  | none => .next s
  | some l =>
    let tide := s.slackFor l.ctx
    if !s.running || !s.ripe l || !l.dep.le tide || s.restoreFirst then .next s
    else
      match s.whenClear (fun u => u.putNext l (s.turnDies l) tide) with
      | (none, u) => .next u
      | (some t, _) =>
        let k := if l.snapOn ∧ l.next = 0 then some tide else l.k
        let t := t.modLaunch l.id (fun m => { m with next := m.next + m.hdr.unit_, k := k, since := t.now, waited := 0, aged := false })
        .next (t.modQueue l.queue (fun r => { r with begun := max r.begun l.entry })).lookAll

/-- PLACER_OLDEST_WAIT_EXPIRE: the next team of the oldest launch has waited 1 ms. -/
def execPlacerOldestWaitExpire (s : State) : Out :=
  let s := s.unfocus
  match s.launches.find? s.ripe with
  | some l => if 1000000 ≤ l.waited + (s.now - l.since) then .next (s.modLaunch l.id (fun m => { m with aged := true })) else .next s
  | none => .next s

/-! ### Completion (17 R289) -/

/-- Has everything of a launch ended: teams, MCC programs, huddles with its records, huddle launches spawned from it? -/
def State.launchOver (s : State) (l : Launch) : Bool :=
  decide (l.teams ≤ l.next) && !s.liveTeams.any (·.launch == l.id) && !s.liveMccs.any (·.launch == l.id) &&
    !(s.huddles ++ s.ctxs.flatMap (fun c => c.saved.huddles)).any (fun h => h.launch == l.id || h.recs.any (·.launch == l.id)) &&
    !s.launches.any (fun k => k.parents.contains l.id)

/-- LAUNCH_COMPLETE: a huddle launch counts in the launches it was spawned from; a card's launch completes its entry. -/
def execLaunchComplete (launch : Nat) (s : State) : Out :=
  let s := s.unfocus
  match s.launchOf launch with
  | none => .next s
  | some l =>
    if !s.launchOver l then .next s
    else
      let st := if l.huddle then l.doneSt else l.doneSt.max l.dep
      let s : State := { s with
        launches := s.launches.filter (·.id != l.id)
        lvls := s.lvls.filter (·.launch != l.id) }
      if l.huddle then
        let up : Launch → Launch := fun k => { k with doneSt := k.doneSt.max st }
        .next { s with launches := modAll (fun k => l.parents.contains k.id) up s.launches }
      else
        let s := s.finishEntry l.queue l.entry st
        .next (if l.intr then s.raiseHirq 0 else s)

end Sys2Proof.Machine
end

