-- ==== Sys2Proof/Machine/EvTrans.lean ====
section
/-! DEFINITION. Translation events (19 R310 to R316): the end of a walk, invalidations with and without drain, fault tickets and
their resolution. -/

namespace Sys2Proof.Machine

/-! ### Walks (19 R311, R312) -/

/-- Is an agent parked on a ticket? -/
def onTicket (w : Option Wake) (num : Nat) : Bool := match w with | some w => w.kind == 8 && w.op0 == num | none => false

/-- A table that a walk has found takes an entry of its die's walk cache, of 512 (19 R311, log 14). -/
def State.putWalkEnt (s : State) (e : WalkEnt) : State :=
  let rivals := s.walkCache.filter (·.die == e.die)
  if rivals.any (fun k => k.ctx == e.ctx && k.level == e.level && k.path == e.path) then s
  else if rivals.length < 512 then { s with walkCache := s.walkCache ++ [e] }
  else
    let out := nth e rivals ((Config.freeWord s.free).toNat % rivals.length)
    { s with walkCache := s.walkCache.erase out ++ [e], free := s.free + 1 }

/-- The die whose walker makes a walk. -/
def Walk.die (w : Walk) : Nat := w.src / 256 % 4

/-- The non-leaf entries of a walk enter its die's walk cache. -/
def State.cacheTables (s : State) (w : Walk) : State :=
  let a := s.walkStart w.die w.ctx w.va
  (s.tablesOn w.va 4 a.1 a.2).foldl (fun s t => s.putWalkEnt ⟨w.die, w.ctx, t.1, pathOf t.1 w.va, t.2⟩) s

/-- The leaf of a walk enters the TLBs of those that wait for it, its attributes are known, and an access holds it until its instruction is
complete. -/
def State.cacheLeaf (s : State) (w : Walk) (l : Leaf) : State :=
  let t (place : Nat) : Tlb := ⟨w.ctx, w.va, l, place⟩
  let cus := (s.squads.filter (·.walk == some w.id)).map (·.cache)
  let cls := cus.map (· / 4) ++ (s.mccs.filter (·.walk == some w.id)).map (·.cl) ++ (s.cmds.filter (·.walk == some w.id)).map (·.cl)
  let s := (sortNat (cus ++ cls.map (1000 + ·))).foldl (fun s p => s.putTlb (t p)) s
  let keep (place : Nat) (got : List Tlb) : List Tlb := if w.kind = 3 then got else got ++ [t place]
  let s := (s.modSquads (fun q => q.walk == some w.id) (fun q => { q with got := keep q.cache q.got })).modMccs (fun m => m.walk == some w.id)
    (fun m => { m with got := keep (1000 + m.cl) m.got })
  let c1 : Cmd → Cmd := fun c => { c with got := keep (1000 + c.cl) c.got }
  { s with
    cmds := modAll (fun c => c.walk == some w.id) c1 s.cmds
    leaves := s.leaves.filter (fun k => !k.meets l) ++ [l] }

/-- The agents and commands of a walk go on: they translate again. -/
def State.walkFree (s : State) (w : Nat) : State :=
  let s := (s.modSquads (fun q => q.walk == some w) (fun q => { q with walk := none })).modMccs (fun m => m.walk == some w)
    (fun m => { m with walk := none })
  { s with
    cmds := modAll (fun c => c.walk == some w) (fun c => { c with walk := none }) s.cmds
    walks := s.walks.filter (·.id != w) }

/-- Park the agents and commands of a walk under a ticket number. -/
def State.walkPark (s : State) (w num : Nat) : State :=
  let s := (s.modSquads (fun q => q.walk == some w)
      (fun q => { q with walk := none, st := .blocked, wake := some ⟨8, num, q.missVa⟩, todo := [], denied := false })).modMccs
    (fun m => m.walk == some w)
    (fun m => { m with walk := none, st := .blocked, wake := some ⟨8, num, m.missVa⟩, todo := [], denied := false })
  { s with
    cmds := modAll (fun c => c.walk == some w) (fun c => { c with walk := none, ticket := some num }) s.cmds
    walks := s.walks.filter (·.id != w) }

/-! ### Faults of walks (19 R315) -/

/-- A fault record after its ticket number (19 Table 19.3). -/
def faultRest (w : Walk) (now cause level : Nat) : List Byte :=
  bytesLE 8 w.va ++ stampBytes ⟨now, w.src⟩ ++ bytesLE 2 w.ctx ++ bytesLE 1 w.kind ++ bytesLE 1 cause ++ bytesLE 1 level ++ zbytes 27

/-- A walk ends with a fault: its agents join the open ticket of their context and page, or get one, or wait for one. -/
def State.walkFault (s : State) (w : Walk) (cause level : Nat) : State :=
  let page := w.va / 65536
  let ags := (s.allSquads.filter (fun q => q.walk == some w.id)).map (·.id) ++ (s.allMccs.filter (fun m => m.walk == some w.id)).map (·.id)
  let cs := (s.cmds.filter (fun c => c.walk == some w.id)).map (·.id)
  let same (t : Ticket) : Bool := t.ctx == w.ctx && t.page == page
  let join : Ticket → Ticket := fun t => { t with agents := t.agents ++ ags, cmds := t.cmds ++ cs }
  match s.tickets.find? same with
  | some t => { s.walkPark w.id t.num with tickets := modAll same join s.tickets }
  | none =>
    if s.parkWait.any (fun p => same p.ticket) then
      let f : Parked → Parked := fun p => { p with ticket := join p.ticket }
      { s.walkPark w.id 0 with parkWait := modAll (fun p => same p.ticket) f s.parkWait }
    else if 4096 ≤ s.tickets.length then
      { s.walkPark w.id 0 with parkWait := s.parkWait ++ [⟨⟨0, w.ctx, page, ags, cs⟩, faultRest w s.now cause level⟩] }
    else
      let n := s.nextTicket
      ({ s.walkPark w.id n with nextTicket := n + 1 } : State).openTicket ⟨n, w.ctx, page, ags, cs⟩ (faultRest w s.now cause level)

/-- Does a walk run: it is among the first 256 of its die, the others wait in order of arrival (19 R312)? -/
def State.walkRuns (s : State) (w : Walk) : Bool := ((s.walks.filter (·.die == w.die)).take 256).any (·.id == w.id)

/-- TRANSLATION_WALK_END: the walker reads the entries as they are at that moment. -/
def execTranslationWalkEnd (walk : Nat) (s : State) : Out :=
  let s := s.unfocus
  match s.walks.find? (·.id == walk) with
  | none => .next s
  | some w =>
    if !s.walkRuns w then .next s
    else
      match s.walkVia w.die w.ctx w.va with
      | .leaf l => .next (((s.cacheTables w).cacheLeaf w l).walkFree w.id)
      | .bad cause level => .next ((s.cacheTables w).walkFault w cause level)

/-- Set a bit of TLBSTAT. -/
def State.tlbStat (s : State) (k : Nat) : State := s.setCsr 0 0x808B (s.csr 0 0x808B ||| w32 (2 ^ k))

/-- TKCMD_MAPPED: the parked accesses replay (19 R316). -/
def execTkcmdMapped (ticket : Nat) (s : State) : Out :=
  let s := s.unfocus
  if s.tickets.any (·.num == ticket) then
    let go : Cmd → Cmd := fun c => { c with ticket := none }
    let mine (c : Cmd) : Bool := c.ticket == some ticket
    let x : Ctx → Ctx := fun c => { c with saved := { c.saved with cmds := modAll mine go c.saved.cmds } }
    .next (({ s with cmds := modAll mine go s.cmds, ctxs := s.ctxs.map x } : State).closeTicket ticket)
  else .next (s.tlbStat 2)

/-- TKCMD_DENIED: parked instructions raise page_fault, parked commands fail. -/
def execTkcmdDenied (ticket : Nat) (s : State) : Out :=
  let s := s.unfocus
  if s.tickets.any (·.num == ticket) then
    let no : Squad → Squad := fun q => { q with denied := true }
    let mineQ (q : Squad) : Bool := onTicket q.wake ticket
    let mine (c : Cmd) : Bool := c.ticket == some ticket
    let dead : Cmd → Cmd := fun c => { c with ticket := none, failed := some .pageFault }
    let x : Ctx → Ctx := fun c => { c with saved := { c.saved with
      squads := modAll mineQ no c.saved.squads, cmds := modAll mine dead c.saved.cmds } }
    let s := (s.modSquads mineQ no).modMccs (fun m => onTicket m.wake ticket) (fun m => { m with denied := true })
    let s : State := { s with ctxs := s.ctxs.map x }
    let s := (s.cmds.filter mine).foldl (fun s c => (s.modCmd c.id (fun d => { d with ticket := none })).cmdFail c .pageFault) s
    .next (s.closeTicket ticket)
  else .next (s.tlbStat 2)

/-! ### Invalidation (19 R313) -/

/-- Is an invalidation under way? -/
def State.tlbBusy (s : State) : Bool := (s.csr 0 0x808B).getLsbD 0

/-- Remove the cached translations that satisfy p and the entries of walk caches that satisfy r; what a squad, an MCC or a command has
still to do translates again. TLBSTAT is busy. A command during an invalidation is discarded. -/
def State.invalidateTlb (s : State) (p : Tlb → Bool) (r : WalkEnt → Bool) : State :=
  if s.tlbBusy then s.tlbStat 1
  else
    let keep (l : List Tlb) : List Tlb := l.filter (fun t => !p t)
    let c1 : Cmd → Cmd := fun c => { c with got := keep c.got }
    let s := (s.modSquads (fun _ => true) (fun q => { q with got := keep q.got })).modMccs (fun _ => true) (fun m => { m with got := keep m.got })
    let s : State := { s with
      tlb := keep s.tlb
      walkCache := s.walkCache.filter (fun e => !r e)
      cmds := s.cmds.map c1 }
    s.tlbStat 0

/-- Is an entry of a walk cache on the path of an address of a context? -/
def WalkEnt.onPath (e : WalkEnt) (ctx va : Nat) : Bool := e.ctx == ctx && e.path == pathOf e.level va

/-- TLBINV_SCOPE_ADDRESS, TLBINV_SCOPE_CONTEXT, TLBINV_SCOPE_ALL. -/
def execTlbinvScopeAddress (ctx va : Nat) (s : State) : Out :=
  .next (s.unfocus.invalidateTlb (fun t => t.covers ctx va) (fun e => e.onPath ctx va))
def execTlbinvScopeContext (ctx : Nat) (s : State) : Out := .next (s.unfocus.invalidateTlb (fun t => t.ctx == ctx) (fun e => e.ctx == ctx))
def execTlbinvScopeAll (s : State) : Out := .next (s.unfocus.invalidateTlb (fun _ => true) (fun _ => true))

/-- The caches of a range of lines are emptied in the order of a grant recall, as far as no line is in a transient state: epochs collapse
through their home; M lines leave in puts; dirty manual lines are written home; all other copies are dropped.
A drain names no agent: its collapses take the stamp of agent 255 of the line's home die (log 64). -/
def State.drainLines (s : State) (p : Nat → Bool) : State :=
  let epochs := (s.home.filter (fun h => p h.line && h.st == .ha)).map (·.line)
  let s := epochs.foldl (fun s l => s.arrive l (.collapse (homeDie l * 256 + 255))) s
  let s := (s.l1.filter (fun e => p e.line && e.st == .m)).foldl (fun s e => if s.canLeave (.own e) then s.evict (.own e) else s) s
  let s := (s.manual.filter (fun m => p m.line && decide (m.place < 512) && m.dirty != 0)).foldl (fun s m => s.writeBack none m) s
  { s with
    l1 := s.l1.filter (fun e => !(p e.line && !e.moving && e.st != .m))
    copies := s.copies.filter (fun c => !p c.line)
    manual := s.manual.filter (fun m => !p m.line)
    filters := s.filters.filter (fun f => !p f.2.1) }

/-- Are the caches empty of a range of lines, what left them having reached its home? -/
def State.emptied (s : State) (p : Nat → Bool) : Bool :=
  !s.l1.any (fun e => p e.line) && !s.acopies.any (fun c => p c.line) && !s.home.any (fun h => p h.line && (h.st == .ha || h.st == .hac)) &&
    !s.msgs.any (fun m => p m.line && (m.dep || m.manual || m.owned))

/-- TLBINV_DRAIN: the named page's lines leave every cache before the invalidation completes. -/
def execTlbinvDrain (ctx va : Nat) (s : State) : Out :=
  let s := s.unfocus
  if s.tlbBusy then .next (s.tlbStat 1)
  else
    let ls := (s.tlb.filter (fun t => t.covers ctx va)).map (·.leaf) ++ (match s.walkOf ctx va with | .leaf l => [l] | .bad _ _ => [])
    let s := (s.drainLines (fun n => ls.any (fun l => l.hasLine n))).invalidateTlb (fun t => t.covers ctx va) (fun e => e.onPath ctx va)
    .next { s with draining := ls }

/-- Does a part hold lines that its instruction has translated: the collapses that a load forces, the lines of a commit? -/
def MOp.translated (m : MOp) : Bool :=
  match m with
  | .collapseDo _ => true
  | .txLock _ _ => true
  | .txCommit _ => true
  | _ => false

/-- Has every access that holds a translated address from its issue been performed: remote additions, epilogue lines in the array queues,
collapses that a load has still to force, commits? -/
def State.translatedDone (s : State) : Bool :=
  s.allSquads.all (fun q => !q.todo.any MOp.translated) && s.cmds.all (fun c => c.kind != .rsig || c.fin.isSome) && s.allMccs.all (fun m => m.queue.all (fun p => p.lines.all (·.scr)))

/-- TLBINV_COMPLETE: every access that translated before has been performed, and the pages to be drained are. -/
def execTlbinvComplete (s : State) : Out :=
  let s := s.unfocus
  let p (n : Nat) : Bool := s.draining.any (fun l => l.hasLine n)
  if !s.tlbBusy then .next s
  else
    let s := if s.draining.isEmpty then s else s.drainLines p
    if s.translatedDone ∧ (s.draining.isEmpty ∨ s.emptied p) then
      .next { s.setCsr 0 0x808B (s.csr 0 0x808B &&& ~~~1) with draining := [] }
    else .next s

end Sys2Proof.Machine
end

