-- ==== Sys2Proof/Machine/EvFabric.lean ====
section
/-! DEFINITION. The fabric and the trust domain (20 R322 to R334, R340 to R343; 22 R358): links, the sequence window, what messages
do at their arrival, beacons, level barriers across members, admission by SPDM and membership changes. -/

namespace Sys2Proof.Machine

/-! ### Members -/

/-- The package that coordinates: the bridge member, index 0, or after its eviction the remaining member of lowest index (20 R331;
log 28). -/
def State.coordinates (s : State) : Bool := s.bridge || (!s.members.contains 0 && s.members.head? == some s.pkgIdx)

/-- The beacon period in ticks: BEACONP quarters of a microsecond (20 Table 20.7). -/
def State.beaconTicks (s : State) : Nat := 250 * (s.csr 0 0x8247).toNat

/-- Count an event in a CSR. -/
def State.bump (s : State) (n k : Nat) : State := s.setCsr 0 n (s.csr 0 n + w32 k)

/-- Record the result of the last domain command: 0 done, 1 AUTHFAIL, 2 MEASFAIL, 3 FULL, 4 BUSY. -/
def State.domResult (s : State) (r : Nat) : State := s.setCsr 0 0x8240 (w32 (16 * r))

/-! ### Links (20 R324) -/

/-- FPSTAT of a port from its lanes, peer and state (20 Table 20.1). -/
def fpstat (peer lanes : Nat) (pcie sparing up : Bool) : W :=
  w32 (b2n up + 2 * b2n sparing + 4 * b2n (decide (popc lanes 5 < 4)) + 8 * b2n pcie + 256 * (lanes % 32) + 65536 * (peer % 64))

/-- On the bridge member F14 to F17 form the endpoint (20 R335). -/
def State.isPcie (s : State) (port : Nat) : Bool := s.bridge && decide (14 ≤ port)

/-- FPSTAT of a trained port: one of the endpoint shows its lanes and carries no fabric traffic; one whose peer is no member carries none, and
one with fewer than two lanes is down, so that they show no peer and no lane (22 R357). -/
def State.portStat (s : State) (port peer lanes : Nat) : W :=
  if s.isPcie port then fpstat 0 lanes true false false
  else if popc lanes 5 < 2 ∨ !s.peers.any (·.idx == peer) then 0
  else fpstat peer lanes false (bit lanes 4) true

/-- The FPSTAT registers of the trained ports. -/
def State.showPorts (s : State) : State := s.links.foldl (fun s l => s.setCsr 0 (0x8200 + l.1) (s.portStat l.1 l.2.1 l.2.2)) s

/-- The lanes among those trained that the repair map leaves in use: lane 4 in the place of one that it replaced, else the first four (22
Table 22.4, 24 R369). -/
def State.goodLanes (s : State) (port lanes : Nat) : Nat :=
  match s.repair.find? (fun r => r.cls == 8 && r.place / 8 == port) with
  | some r => (lanes % 32) &&& (31 - 2 ^ (r.place % 8))
  | none => lanes % 16

/-- PORT_LINK_TRAINED: a port has trained with some lanes; its peer is known by its index. -/
def execPortLinkTrained (port peer lanes : Nat) (s : State) : Out :=
  let s := s.unfocus
  if 18 ≤ port ∨ 32 ≤ lanes ∨ !s.running then .next s
  else .next ({ s with links := upsert (·.1 == port) (port, peer, s.goodLanes port lanes) s.links } : State).showPorts

/-- PORT_LINK_DOWN. -/
def execPortLinkDown (port : Nat) (s : State) : Out :=
  let s := s.unfocus
  if 18 ≤ port then .next s
  else .next { s.setCsr 0 (0x8200 + port) (fpstat 0 0 (s.isPcie port) false false &&& ~~~4) with links := s.links.filter (·.1 != port) }

/-- FLIT_CRC_REPLAY: the link replays a flit and counts it. -/
def execFlitCrcReplay (port : Nat) (s : State) : Out :=
  let s := s.unfocus
  if 18 ≤ port then .next s else .next (s.bump (0x8220 + port) 1)

/-! ### Sealing (20 R327) -/

/-- The key of a pair of members in a key generation, as the coordinator's DRBG makes it (20 R331, R341). -/
def newKey (a b gen : Nat) : BitVec 256 := Config.pairKey (min a b) (max a b) gen

/-- The keys of a generation for one member of a set: one for each other member. -/
def keysFor (gen i : Nat) (members : List Nat) : List (Nat × BitVec 256) := (members.filter (· != i)).map (fun j => (j, newKey i j gen))

/-- A member keeps the keys that it is sent. -/
def State.takeKeys (s : State) (gen : Nat) (ks : List (Nat × BitVec 256)) : State :=
  { s with keys := s.keys.filter (·.1 != gen) ++ ks.map (fun k => (gen, k.1, k.2)) }

/-- The key that seals the messages to and from a member in a generation. -/
def State.sealKey (s : State) (idx gen : Nat) : Option (BitVec 256) :=
  (s.keys.find? (fun k => k.1 == gen && k.2.1 == idx)).map (·.2.2)

/-- The nonce of a message: virtual channel, source, destination, zeros, sequence number. -/
def sealNonce (vc src dst seq : Nat) : BitVec 96 :=
  BitVec.ofNat 2 vc ++ BitVec.ofNat 6 src ++ BitVec.ofNat 6 dst ++ (0 : BitVec 18) ++ BitVec.ofNat 64 seq

/-- What seals a message given to the ports: the pair's key in its generation, and its nonce, which no other message under that key has. A message
received has a tag that holds (`Seal.tagOk`) when it verifies under the same key and nonce, its header being the associated data. -/
def State.sealOf (s : State) (m : FabOut) : Option (BitVec 256) × BitVec 96 := (s.sealKey m.dst m.gen, sealNonce m.vc s.pkgIdx m.dst m.seq)

/-! ### The sequence window (20 R328) -/

/-- What the window says of a message. -/
inductive Verdict where
  | accept (gap : Nat)
  | old
  | replayed
deriving DecidableEq, Repr

/-- The window of a source, channel and generation. -/
def State.window (s : State) (src vc gen : Nat) : Window :=
  match s.windows.find? (fun w => w.src == src && w.vc == vc && w.gen == gen) with
  | some w => w
  | none => ⟨src, vc, gen, 0, []⟩

/-- The test of a sequence number; the numbers that leave the window unaccepted are counted. -/
def Window.judge (w : Window) (n : Nat) : Verdict :=
  if w.hi < n then
    let first := if 1023 < w.hi then w.hi - 1023 else 1
    let left := n - 1024 + 1 - first
    .accept (left - (w.seen.filter (fun k => decide (first ≤ k ∧ k + 1024 ≤ n))).length)
  else if n + 1024 ≤ w.hi then .old
  else if w.seen.contains n then .replayed
  else .accept 0

/-- The window after a number is accepted. -/
def Window.take (w : Window) (n : Nat) : Window :=
  let hi := max w.hi n
  { w with hi := hi, seen := n :: w.seen.filter (fun k => decide (hi < k + 1024)) }

/-- The seal, the generation and the window of a message are tested; is it accepted, and the package with what is counted? A refused message has
no other effect. -/
def State.accept (s : State) (m : Seal) : Bool × State :=
  if !s.gens.contains m.gen ∧ m.gen < s.domGen then (false, s.bump 0x824C 1)
  else if !m.tagOk ∨ !s.gens.contains m.gen ∨ !s.peers.any (·.idx == m.src) then (false, s.bump 0x824B 1)
  else
    let w := s.window m.src m.vc m.gen
    match w.judge m.seq with
    | .old => (false, s.bump 0x8248 1)
    | .replayed => (false, s.bump 0x8249 1)
    | .accept gap =>
      (true, ({ s with windows := upsert (fun v => v.src == m.src && v.vc == m.vc && v.gen == m.gen) (w.take m.seq) s.windows } : State).bump 0x824A gap)

/-- What an accepted message does; a message inside the session of an admission needs no further test (20 R341). -/
def State.accepted (s : State) (m : Seal) (session : Bool) (go : State → State) : State :=
  if session then go s
  else
    match s.accept m with
    | (true, t) => go t
    | (false, t) => t

/-! ### What a message does (20 R325, R326) -/

/-- A write or an addition of another member joins the events of its home line; the line's release stamp comes with it (11 R232). -/
def State.farWrite (s : State) (m : Msg) (rel : Stamp) : State :=
  let f := s.fresh
  let t : State := { f.2 with
    msgs := f.2.msgs ++ [{ m with id := f.1 }]
    relstamps := if rel = Stamp.zero then f.2.relstamps else ins f.2.relstamps m.line ((f.2.relstamp m.line).max rel) }
  t.arrive m.line (.event f.1)

/-- The message of a request of another member. -/
def farMsg (src req line : Nat) (st : Stamp) (bytes : List (Nat × Byte)) : Msg :=
  { id := 0, line := line, st := st, bytes := bytes, manual := false, squad := none, mcc := none, cmd := none, ctx := 0x8000, far := some (src, req) }

/-- An addition: of the 8-aligned word of an address here. -/
def farSum (own src req addr : Nat) (v : W) (st : Stamp) : Msg :=
  { farMsg src req (lineOf (memKey own addr)) st [] with add := some (memKey own addr % 128 / 8 * 8, v) }

/-- A held request goes out. -/
def State.sendReq (s : State) (r : FabReq) : State :=
  let go : FabReq → FabReq := fun k => { k with held := false, attempts := 1, sent := s.now }
  { s.toPort r.dst r.id none r.body with reqs := modAll (· == r) go s.reqs }

/-- A request is answered; of the host's accesses to one window the next goes out (20 R336). -/
def State.closeReq (s : State) (r : FabReq) : State :=
  let s : State := { s with reqs := s.reqs.erase r }
  if !r.body.isWindow || s.change.isSome then s
  else (s.reqs.find? (fun k => k.dst == r.dst && k.body.isWindow)).elim s s.sendReq

/-- A write or an addition has landed at its home with a stamp: version copies of the line are stale from there on, and under an exclusive grant
the proxy keeps the event. -/
def State.writeDone (s : State) (req : Nat) (st : Option Stamp) : State :=
  match s.msgs.find? (fun m => m.id == req && !m.dep) with
  | none => s
  | some m =>
    let e := st.getD m.st
    let s : State := if m.add.isNone then s else { s with cmds := modAll (fun c => some c.id == m.cmd) (fun c => { c with fin := some e }) s.cmds }
    let s := if m.manual then s
      else (if s.pageGranted .excl m.line && m.add.isNone then s.land m.line e m.bytes m.ctx else s).staleFrom m.line e
    s.ackMsg req

/-- A load that has forced a collapse at its home observes the version that it gets, and renews its tidemark before it issues again (11
R236). -/
def State.forcedData (s : State) (line : Nat) (st : Stamp) : State :=
  let parked (q : Squad) : Bool := q.st == .blocked && q.todo.isEmpty && q.wake.any (fun w => w.kind == 0x0C && w.op0 == line * 128)
  s.modSquads parked (fun q => { q with obs := q.obs.max st, todo := [.snap, .reissue] })

/-- Data of a line of another member arrives: the version, until the first invalidation that came meanwhile, in the L2 of the die that asked; or a
clean copy of a manual line. The home hears of it, which it waits for when it has sent the current value (12 R254). -/
def State.dataIn (s : State) (r : FabReq) (line : Nat) (st : Stamp) (stale : Option Stamp) (rel : Stamp) (bytes : List Byte) : State :=
  match r.body with
  | .bytes _ => (s.homeWrite (line * 128) (bytes.take 128)).manualL2 r.die r.ctx line
  | .read _ t =>
    let c : VCopy := ⟨600 + r.die, line, st, minStamp (stale.toList ++ r.cuts.filter (fun k => st.lt k))⟩
    let s : State := { s with
      pubs := s.pubs.filter (fun p => !(p.line == line && p.st == st)) ++ [⟨line, st, numbered 0 (bytes.take 128), 0x8000⟩]
      relstamps := ins s.relstamps line ((s.relstamp line).max rel) }
    let s := s.modSquads (fun q => q.forcing line) (fun q => { q with obs := q.obs.max st })
    let s := s.l2Way r.die line
    let s := ({ s with copies := s.copies.filter (fun k => !(k.cache == c.cache && k.line == line && k.vs == st)) ++ [c] } : State).filterNote r.die line []
    let seen : List (Nat × Option Stamp × Option Stamp) → List (Nat × Option Stamp × Option Stamp) := setForced line t st
    let forced : State := { s.modMccs (fun m => m.cl / 32 == r.die) (fun m => { m with forced := seen m.forced }) with
      cmds := s.cmds.map (fun c => if c.cl / 32 = r.die then { c with forced := seen c.forced } else c) }
    (match t with
     | none => forced
     | some t => if t.lt st then forced.forcedData line st else s).toPort r.dst r.id none (.taken line)
  | _ => s

/-- What the package asked for is granted (12 R259). -/
def State.grantIn (s : State) (g : Grant) : State := { s with grants := s.grants.filter (fun k => !k.gives g) ++ [g] }

/-- The home has granted a line in state A: the proxy records the epoch and acknowledges (11 R234, 12 R253). -/
def State.updIn (s : State) (src req line op ty : Nat) (fa : Stamp) : State :=
  (s.setHome { homeAt line .ha 0 [] with op := op, ty := ty, firstA := fa, pkgs := [s.pkgIdx], waits := s.waitsAt line }).toPort src req none (.taken line)

/-- An answer to a request of this package. A copy of data or of a grant whose request is closed is acknowledged again. -/
def State.answerFrom (s : State) (src req : Nat) (b : FabBody) : State :=
  match s.reqs.find? (fun r => r.id == req && r.dst == src) with
  | none =>
    (match b with
     | .data line _ _ _ _ => s.toPort src req none (.taken line)
     | .updGrant line _ _ _ => s.toPort src req none (.taken line)
     | _ => s)
  | some r =>
    let t := s.closeReq r
    match b with
    | .granted page kind op ty => t.grantIn ⟨page, t.pkgIdx, kind, op, ty, t.now, false, req⟩
    | .data line st stale rel bytes => t.dataIn r line st stale rel bytes
    | .updGrant line op ty fa => t.updIn src req line op ty fa
    | .sum st => t.writeDone req (some st)
    | .ack => t.writeDone req none
    | .windowData v => { t with hostReads := t.hostReads ++ [bytesLE 4 v.toNat] }
    | .apertureData x => { t with hostReads := t.hostReads ++ [x] }
    | _ => t

/-- Another package has taken what the home granted: the home goes on with the line (12 R254). -/
def State.takenBy (s : State) (src req line : Nat) : State :=
  let h := s.homeOf line
  if h.requester = farCache src req ∧ (h.st = .hs ∨ h.st = .ho ∨ h.st = .ha) then (s.setHome { h with serving := none }).serveAll line else s

/-- An invalidation of the true home meets requests for the line that are still open: data that comes is stale from its stamp on. -/
def State.cutReqs (s : State) (line : Nat) (st : Stamp) : State :=
  let cut : FabReq → FabReq := fun r => { r with cuts := st :: r.cuts }
  { s with reqs := modAll (fun r => match r.body with | .read l _ => l == line | _ => false) cut s.reqs }

/-- Set a level barrier's entry. -/
def State.setLvl (s : State) (b : LvlBar) : State :=
  { s with lvls := upsert (fun c => c.launch == b.launch && c.level == b.level && c.part == b.part) b s.lvls }

/-- Teams of an instance that another member reports for a phase, with the greatest stamp they gathered (20 R334). -/
def State.farReport (s : State) (src launch level part phase count : Nat) (st : Stamp) : State :=
  let b := s.lvlOf launch level part
  if b.bar.phase ≠ phase then s
  else
    let s := s.setLvl { b with bar := { b.bar with gather := b.bar.gather.max st }, far := upsert (·.1 == src) (src, max count (((b.far.find? (·.1 == src)).map (·.2)).getD 0)) b.far }
    match s.launchOf launch with
    | some l => s.testLevels l
    | none => s

/-- A phase of a level barrier completes with G: its waiters here are released. -/
def State.farComplete (s : State) (launch level part : Nat) (g : Stamp) : State :=
  let b := s.lvlOf launch level part
  let n : LvlBar := { b with bar := ({ b.bar with gather := b.bar.gather.max g } : HwBar).next, teams := [], far := [] }
  (s.setLvl n).releaseLevel b n.bar.last

/-- The member that coordinates the others. -/
def State.coordinator (s : State) : Nat := if s.members.contains 0 then 0 else s.members.head?.getD 0

/-- The coordinator's SWITCH comes (20 R342). -/
def State.calledBy (s : State) (src : Nat) : State :=
  if src = s.coordinator then { s with change := s.change.map (fun c => { c with called := true }) } else s

/-- The latest shares of a member; none decreases. -/
def State.heard (s : State) (src : Nat) (slack phase full : Stamp) (rev : Option Stamp) (gen : Nat) : State :=
  let up : Peer → Peer := fun p => { p with
    seen := s.now, slack := p.slack.max slack, phase := p.phase.max phase, full := p.full.max full, rev := rev, gen := gen }
  { s with peers := modAll (·.idx == src) up s.peers }

/-- A request whose own event is still to come waits for it. -/
def State.await_ (s : State) (src req : Nat) (b : FabBody) : State := { s with inbox := s.inbox ++ [⟨src, req, b⟩] }

/-- The effect of an accepted message. -/
def State.deliver (s : State) (src req : Nat) (b : FabBody) : State :=
  let ours (line : Nat) : Bool := homePkg line == s.pkgIdx
  match b with
  | .write line st pre rel bytes =>
    if ours line then s.farWrite { farMsg src req line st (bytes.filter (fun p => decide (p.1 < 128))) with pre := pre } rel else s
  | .merge line bytes => if ours line then (s.mergeHome line bytes).toPort src req none .ack else s
  | .add addr v st => s.farWrite (farSum s.pkgIdx src req addr v st) Stamp.zero
  | .read line none => if ours line then s.arrive line (.shared (farCache src req)) else s
  | .read line (some t) =>
    if !ours line then s
    else if s.readEnds line t then s.arrive line (.read (farCache src req) t)
    else s.sendData line (farCache src req) (some t)
  | .bytes line =>
    if ours line then s.toPort src req none (.data line Stamp.zero none Stamp.zero ((List.range 128).map (fun i => s.byteAt none (line * 128 + i)))) else s
  | .inval line st => if homePkg line = src then (s.cutReqs line st).arriveFirst line (.inval src req st) else s
  | .collapse line => if homePkg line = src then s.arriveFirst line (.recallA src req) else s
  | .taken line => s.takenBy src req line
  | .bar launch level inst phase count st => (s.farReport src launch level inst phase count st).toPort src req none .ack
  | .beacon slack phase full rev gen => s.heard src slack phase full rev gen
  | .switch => (s.calledBy src).toPort src req none .ack
  | .upd _ _ _ _ => s.await_ src req b
  | .grant _ _ _ _ => s.await_ src req b
  | .part _ _ _ _ _ => s.await_ src req b
  | .recall _ => s.await_ src req b
  | .recalled _ => s.await_ src req b
  | .invalDone _ => if s.reqs.any (fun r => r.id == req && r.dst == src) then (s.answerFrom src req b).await_ src req b else s
  | .revoke _ => s.await_ src req b
  | .barDone _ _ _ _ _ => s.await_ src req b
  | .window _ _ _ => s.await_ src req b
  | .aperture _ _ _ => s.await_ src req b
  | .begin_ _ _ _ _ => s
  | .ready _ => s
  | .vendor _ _ _ => s
  | .granted _ _ _ _ => s.answerFrom src req b
  | .data _ _ _ _ _ => s.answerFrom src req b
  | .updGrant _ _ _ _ => s.answerFrom src req b
  | .sum _ => s.answerFrom src req b
  | .ack => s.answerFrom src req b
  | .windowData _ => s.answerFrom src req b
  | .apertureData _ => s.answerFrom src req b

/-- The answer that a request of another member has had goes out again. -/
def State.answerAgain (s : State) (src req : Nat) : State :=
  match s.outbox.reverse.find? (fun m => m.dst == src && m.req == req && !m.body.asks && m.body != .taken m.body.line && m.gen == s.domGen) with
  | some m => s.toPort src req none m.body
  | none => s

/-- FABRIC_MESSAGE_RECEIVE: the seal, the generation and the window are tested; a request is performed once for each identifier of its
source and generation, and a copy of one that is answered gets the same answer. -/
def execFabricMessageReceive (src vc gen seq req : Nat) (tagOk : Bool) (body : FabBody) (s : State) : Out :=
  let s := s.unfocus
  match s.accept ⟨src, vc, gen, seq, tagOk⟩ with
  | (false, t) => .next t
  | (true, t) =>
    if !body.asks then .next (t.deliver src req body)
    else if t.performed.contains (src + 64 * gen, req) then .next (t.answerAgain src req)
    else .next (({ t with performed := t.performed ++ [(src + 64 * gen, req)] } : State).deliver src req body)

/-- Ports that carry fabric traffic and whose peer reaches a member: is it, or, where the manual does not say what a member passes on, may
(log 51). -/
def State.portsTo (s : State) (dst : Nat) : List Nat :=
  (s.links.filter (fun l => (s.csr 0 (0x8200 + l.1)).getLsbD 0 && (l.2.1 == dst || Config.relays l.2.1 dst))).map (·.1)

/-- A request goes out again, over a port or as it is routed. -/
def State.resend (s : State) (r : FabReq) (via : Option Nat) : State :=
  let more : FabReq → FabReq := fun k => { k with attempts := k.attempts + 1, sent := s.now, via := via }
  { s.toPort r.dst r.id via r.body with reqs := modAll (· == r) more s.reqs }

/-- FABRIC_RETRANSMIT_TIMEOUT: 20 µs without an answer. A request is sent at most four times as it is routed; after that another port carries it
until it is performed or its home is evicted (20 R326, 22 R358); which of several is free. -/
def execFabricRetransmitTimeout (req : Nat) (s : State) : Out :=
  let s := s.unfocus
  match s.reqs.find? (·.id == req) with
  | none => .next s
  | some r =>
    if r.held ∨ s.now < r.sent + 20000 then .next s
    else if r.attempts < 4 then .next (s.resend r none)
    else
      match (s.portsTo r.dst).filter (fun p => some p != r.via) with
      | [] => .next s
      | p :: l => .next (({ s with free := s.free + 1 } : State).resend r (some (nth p (p :: l) ((Config.freeWord s.free).toNat % (l.length + 1)))))

/-! ### Beacons (20 R329, R330) -/

/-- A message to every other member. -/
def State.toAll (s : State) (b : FabBody) : State := s.peers.foldl (fun s p => s.toPort p.idx 0 none b) s

/-- What a beacon of this package carries at a moment: its shares, its oldest revocable snapshot, its key generation. -/
def State.beaconNow (s : State) : FabBody := .beacon s.slack s.phaseShare s.fullShare (minStamp (s.revocable.map (·.1))) s.domGen

/-- SETTLE_BEACON_SEND: once a period, to every other member. -/
def execSettleBeaconSend (s : State) : Out :=
  let s := s.unfocus.settle
  if s.running ∧ s.lastBeacon + s.beaconTicks ≤ s.now then .next { s.toAll s.beaconNow with lastBeacon := s.now } else .next s

/-- SETTLE_BEACON_RECEIVE. -/
def execSettleBeaconReceive (b : Beacon) (s : State) : Out :=
  .next (s.unfocus.accepted b.sealing false (fun s => s.heard b.sealing.src b.slack b.phase b.full b.rev b.gen))

/-- SLACK_WATER_ESTIMATE_UPDATE (11 R223, R224). -/
def execSlackWaterEstimateUpdate (s : State) : Out := .next s.unfocus.settle

/-! ### Membership changes (20 R342, R343) -/

/-- A change begins, or begins anew with fewer members: BEGIN and the keys of the new generation go to every other member of the new set, and to
one that leaves, whose requests are to be answered; requests from now on are held. -/
def State.startChange (s : State) (members lost : List Nat) : State :=
  let gen := s.domGen + 1
  let set := sortNat members
  let lost := sortNat (lost ++ (s.change.map (·.lost)).getD [])
  let since := (s.change.map (·.since)).getD s.now
  let s : State := { s with
    change := some ⟨gen, set, [], false, lost, since, false⟩
    reqs := s.reqs.filter (fun r => !r.body.ofChange) }
  let s := s.takeKeys gen (keysFor gen s.pkgIdx set)
  (sortNat (set ++ s.peers.map (·.idx))).foldl (fun s i =>
    if i = s.pkgIdx ∨ lost.contains i then s else s.demand i 0 (.begin_ gen set lost (keysFor gen i set))) s

/-- What this package holds of such pages goes back as far as no line is in a transient state, and the grants that such members hold of its own
are recalled (20 R343, 12 R260). -/
def State.handBack (s : State) (c : Change) : State :=
  let s := s.drainLines (fun l => s.parted c (homePkg l))
  let back (g : Grant) : Bool := g.pkg == s.pkgIdx && s.parted c (pageHome g.page) && s.leftPage g.page
  let s := (s.grants.filter back).foldl (fun s g => (s.dropPage g.page).toPort (pageHome g.page) 0 none (.recalled g.page)) s
  s.recallGrants (fun g => s.parted c g.pkg)

/-- Is nothing left to hand back? -/
def State.handedBack (s : State) (c : Change) : Bool :=
  s.emptied (fun l => s.parted c (homePkg l)) && !s.grants.any (fun g => s.parted c g.pkg || (g.pkg == s.pkgIdx && s.parted c (pageHome g.page)))

/-- A record of a loss for a context (20 R343; its detail is open). -/
def State.lossRecord (s : State) (ctx : Nat) : State :=
  let d := (Config.freeWord s.free).toNat
  ({ s with free := s.free + 1 } : State).report (s.seenStamp 0 255) ctx 7 0 d

/-- Is a line homed on a member? -/
def homedOn (m line : Nat) : Bool := decide (line < 2 ^ 60) && homePkg line == m

/-- The contexts that lose something with a member's pages. -/
def State.losers (s : State) (m : Nat) : List Nat :=
  sortNat ((s.liveSquads.filter (fun q => q.pending.any (fun p => homedOn m p.line))).map (·.ctx) ++
    (s.msgs.filter (fun k => homedOn m k.line)).map (·.ctx) ++
    (s.l1.filter (fun e => homedOn m e.line && !e.written.isEmpty)).map (·.ctx) ++
    (s.manual.filter (fun k => homedOn m k.line && k.dirty != 0)).map (·.ctx) ++ (s.acopies.filter (fun k => homedOn m k.line)).map (·.ctx) ++
    (s.liveMccs.filter (fun c => c.epi.any (fun p => !p.scr && homedOn m p.line))).map (·.ctx))

/-- The cache that a request is for. -/
def HomeReq.cacheOf : HomeReq → Option Nat
  | .shared c => some c
  | .excl c => some c
  | .upd c _ _ _ => some c
  | .read c _ => some c
  | _ => none

/-- What the host gets for an access to a member that is one no more: ones, and HOSTERR (20 R336, R338). -/
def State.hostLoss (s : State) (r : FabReq) : State :=
  match r.body with
  | .window _ none _ => { s with hostErr := true, hostReads := s.hostReads ++ [List.replicate 4 0xFF] }
  | .window _ (some _) _ => { s with hostErr := true }
  | .aperture _ _ len => { s with hostErr := true, hostReads := s.hostReads ++ [List.replicate len 0xFF] }
  | _ => s

/-- What an evicted member held of our pages, and what we held of its pages, is dropped; requests to it complete as losses. -/
def State.dropMember (s : State) (m : Nat) : State :=
  let s := (s.reqs.filter (·.dst == m)).foldl State.hostLoss s
  let lost := s.losers m
  let gone := (s.msgs.filter (fun k => homedOn m k.line && !k.dep)).map (·.id)
  let s := gone.foldl State.ackMsg s
  let keep : Squad → Squad := fun q => { q with
    pending := q.pending.filter (fun p => !homedOn m p.line), own := q.own.filter (fun c => !homedOn m (lineOf c.1)) }
  let cut : Mcc → Mcc := fun c => { c with epi := c.epi.filter (fun p => p.scr || !homedOn m p.line) }
  let cutCtx : Ctx → Ctx := fun c => { c with saved := { c.saved with squads := c.saved.squads.map keep } }
  let s := (s.modSquads (fun _ => true) keep).modMccs (fun _ => true) cut
  let s : State := { s with
    ctxs := s.ctxs.map cutCtx
    msgs := s.msgs.filter (fun k => !homedOn m k.line)
    grants := s.grants.filter (fun g => g.pkg != m && pageHome g.page != m)
    grantWaits := s.grantWaits.filter (·.pkg != m)
    reqs := s.reqs.filter (·.dst != m)
    inbox := s.inbox.filter (·.src != m)
    pubs := s.pubs.filter (fun p => !homedOn m p.line)
    l1 := s.l1.filter (fun e => !homedOn m e.line)
    copies := s.copies.filter (fun c => !homedOn m c.line)
    manual := s.manual.filter (fun k => !homedOn m k.line)
    acopies := s.acopies.filter (fun c => !homedOn m c.line)
    home := s.home.filter (fun h => !homedOn m h.line)
    filters := s.filters.filter (fun f => !homedOn m f.2.1)
    locks := s.locks.filter (fun l => !homedOn m l.line) }
  let waits := s.home.flatMap (fun h => (h.acks.filter (·.1 == m)).map (fun a => (h.line, a)))
  let s := waits.foldl (fun s w => s.takeAck w.1 w.2) s
  let notes := s.notes.filter (fun n => n.pkgs.contains m)
  let s := notes.foldl (fun s n => s.farAnswer n.line m) s
  let far (r : HomeReq) : Bool := r.cacheOf.any (fun c => decide (20000 ≤ c) && (c - 20000) % 64 == m)
  let trim : Home → Home := fun h => { h with
    acks := h.acks.filter (·.1 != m), pkgs := h.pkgs.filter (· != m), waits := h.waits.filter (fun r => !far r)
    serving := if h.serving.any far && (h.st == .hs || h.st == .ho || h.st == .ha) then none else h.serving }
  let s : State := { s with home := s.home.map trim }
  lost.foldl State.lossRecord s

/-- An eviction begins; during a change the change begins anew without the member (20 R330). -/
def State.evictMember (s : State) (m : Nat) : State :=
  (s.dropMember m).startChange (((s.change.map (·.members)).getD s.members).filter (· != m)) [m]

/-- May a silent member be evicted: it is not already so? -/
def State.silentOk (s : State) (idx : Nat) : Bool := !s.change.any (fun c => c.lost.contains idx)

/-- BEACON_SILENCE_EVICT: 16 periods without a beacon; the coordinator evicts the member. -/
def execBeaconSilenceEvict (idx : Nat) (s : State) : Out :=
  let s := s.unfocus
  if s.coordinates ∧ s.silentOk idx ∧ s.peers.any (fun p => p.idx == idx && decide (p.seen + 16 * s.beaconTicks ≤ s.now)) then
    .next (s.evictMember idx)
  else .next s

/-- BRIDGE_SILENCE_TAKEOVER: the remaining member of lowest index evicts a silent bridge member (20 R331). -/
def execBridgeSilenceTakeover (s : State) : Out :=
  let s := s.unfocus
  if !s.bridge ∧ s.silentOk 0 ∧ s.peers.any (fun p => p.idx == 0 && decide (p.seen + 16 * s.beaconTicks ≤ s.now)) ∧
      (s.members.filter (· != 0)).head? = some s.pkgIdx then .next (s.evictMember 0)
  else .next s

/-- Is this the package that joins, whose session with the bridge member carries the messages of the change (20 R341)? -/
def State.joining (s : State) : Bool := s.spdm.active && !s.bridge

/-- MEMBERSHIP_BEGIN: from now on new fabric requests are held at their source; what is homed on members evicted is dropped and what the change ends
else goes back. A package that joins knows no earlier generation. A second BEGIN of the generation leaves out a member evicted meanwhile. -/
def execMembershipBegin (gen : Nat) (set : NewSet) (s : State) : Out :=
  let s := s.unfocus
  if s.change.all (fun c => c.gen == gen) ∧ (s.joining ∨ gen = s.domGen + 1) then
    .next (s.accepted set.sealing s.joining (fun s =>
      let s := (set.lost.filter (fun i => s.peers.any (·.idx == i))).foldl State.dropMember s
      let c : Change := ⟨gen, sortNat set.members, [], false, set.lost, (s.change.map (·.since)).getD s.now, false⟩
      (({ s with change := some c, reqs := s.reqs.filter (fun r => !r.body.ofChange) } : State).takeKeys gen set.keys).handBack c))
  else .next s

/-- Is every request of this package to other members that is not held answered? -/
def State.drained (s : State) : Bool := s.reqs.all (fun r => r.held || r.body.ofChange)

/-- MEMBERSHIP_READY of a member: this package, when it is the source, with nothing outstanding accepts both generations and says so; the
coordinator counts the others. -/
def execMembershipReady (m : Seal) (s : State) : Out :=
  let s := s.unfocus
  match s.change with
  | none => .next s
  | some c =>
    if m.src = s.pkgIdx then
      (if c.localReady then .next s
       else
         let s := s.handBack c
         if s.drained ∧ s.handedBack c then
           let t := if s.coordinates then s else s.demand s.coordinator 0 (.ready c.gen)
           .next { t with change := some { c with localReady := true }, gens := sortNat (c.gen :: s.gens) }
         else .next s)
    else if s.coordinates ∧ c.members.contains m.src ∧ !c.ready.contains m.src then
      .next (s.accepted m (!s.peers.any (·.idx == m.src)) (fun s => { s with
        change := some { c with ready := c.ready ++ [m.src] }
        reqs := s.reqs.filter (fun r => !(r.dst == m.src && r.body.ofChange)) }))
    else .next s

/-- A line under a new package index. -/
def reLine (old new line : Nat) : Nat := if homedOn old line then line - old * 2 ^ 33 + new * 2 ^ 33 else line

/-- A package that joins a domain takes its index: what it held of its own memory follows it, translations are walked again (20
R341; log 29). -/
def State.rehome (s : State) (new : Nat) : State :=
  let r := reLine s.pkgIdx new
  let k (a : Nat) : Nat := r (lineOf a) * 128 + a % 128
  if s.pkgIdx = new then s
  else
    let pl : PLine → PLine := fun p => if p.scr then p else { p with line := r p.line }
    let sq : Squad → Squad := fun q => { q with got := [], pending := q.pending.map pl, own := q.own.map (fun c => (k c.1, c.2)) }
    let mc : Mcc → Mcc := fun m => { m with got := [], epi := m.epi.map pl }
    let s := (s.modSquads (fun _ => true) sq).modMccs (fun _ => true) mc
    let mem : List Host.Cell := s.mem.map (fun c => (k c.1, c.2))
    { s with
      pkgIdx := new
      mem := mem.foldl (fun m c => put 0 m c.1 c.2) []
      pubs := s.pubs.map (fun p => { p with line := r p.line })
      msgs := s.msgs.map (fun m => { m with line := r m.line })
      poison := s.poison.map (fun p => if p.gran < 2 ^ 60 then { p with gran := r (p.gran / 4) * 4 + p.gran % 4 } else p)
      l1 := s.l1.map (fun e => { e with line := r e.line })
      copies := s.copies.map (fun c => { c with line := r c.line })
      manual := s.manual.map (fun m => { m with line := r m.line })
      acopies := s.acopies.map (fun c => { c with line := r c.line })
      home := s.home.map (fun h => { h with line := r h.line })
      locks := s.locks.map (fun l => { l with line := r l.line })
      relstamps := s.relstamps.foldl (fun m c => ins m (r c.1) c.2) []
      filters := s.filters.map (fun f => (f.1, r f.2.1, f.2.2))
      tlb := []
      walkCache := [] }

/-- A grant to another package that its home waited for: every member has answered its requests by now, so it has been taken. -/
def Home.settled (h : Home) : Home :=
  if (h.serving.bind HomeReq.cacheOf).any (fun c => decide (20000 ≤ c)) && (h.st == .hs || h.st == .ho || h.st == .ha) then { h with serving := none } else h

/-- The domain after the switch: the members of the new set, one generation, windows and numbers afresh; held requests are released. -/
def State.switchTo (s : State) (c : Change) : State :=
  let own := if s.spdm.active && !s.bridge then s.spdm.idx else s.pkgIdx
  let inside := c.members.contains own
  let others := if inside then c.members.filter (· != own) else []
  let now := s.now
  let w := s.floor
  let fresh (i : Nat) : Peer := ⟨i, now, w, w, w, none, c.gen⟩
  let peers := others.map (fun i => match s.peers.find? (·.idx == i) with | some p => { p with gen := c.gen } | none => fresh i)
  let s := s.rehome (if inside then own else 0)
  let s : State := { s with
    peers := peers, gens := [c.gen], change := none, sendSeq := [], performed := s.performed.filter (fun p => p.1 / 64 == c.gen)
    keys := s.keys.filter (·.1 == c.gen)
    reqs := s.reqs.filter (fun r => r.body != .ready c.gen && others.contains r.dst)
    inbox := s.inbox.filter (fun m => others.contains m.src || m.src == s.pkgIdx)
    home := s.home.map Home.settled
    windows := s.windows.filter (fun w => w.gen == c.gen && others.contains w.src)
    grants := s.grants.filter (fun g => c.members.contains g.pkg)
    links := if s.bridge && s.spdm.via == s.pkgIdx && others.contains s.spdm.idx && !s.peers.any (·.idx == s.spdm.idx) then
        modAll (·.1 == s.spdm.port) (fun l => (l.1, s.spdm.idx, l.2.2)) s.links
      else s.links
    spdm := { s.spdm with active := false } }
  let s := (s.setCsr 0 0x8241 (w32 c.gen)).showPorts
  let s := (s.reqs.filter (fun r => r.held && !r.body.isWindow)).foldl State.sendReq s
  let s := others.foldl (fun s i => (s.reqs.find? (fun r => r.dst == i && r.body.isWindow)).elim s s.sendReq) s
  if s.coordinates && s.bridge then s.raiseHirq 3 else s

/-- MEMBERSHIP_SWITCH: the coordinator sends it once every member is ready, the others act on it once it has come; in the session of an
admission it needs no further test. -/
def execMembershipSwitch (s : State) : Out :=
  let s := s.unfocus
  match s.change with
  | none => .next s
  | some c =>
    let all := c.members.all (fun i => i == s.pkgIdx || c.ready.contains i)
    if !c.localReady then .next s
    else if s.coordinates then (if all then .next ((s.peers.foldl (fun s p => s.demand p.idx 0 .switch) s).switchTo c) else .next s)
    else if s.joining ∨ c.called then .next (s.switchTo c)
    else .next s

/-! ### Level barriers across members (20 R334) -/

/-- LBAR_MEMBER_REPORT: this member's unit sends its count, of teams that have arrived or exited, and its greatest stamp to the member of lowest
index among those that hold teams of the instance; that member tests its own. -/
def execLbarMemberReport (launch level inst : Nat) (s : State) : Out :=
  let s := s.unfocus
  match s.launchOf launch with
  | some l =>
    let b := s.lvlOf launch level inst
    let m := s.levelLead l b
    if s.levelHere l b = 0 then .next s
    else if m = s.pkgIdx then .next (s.testLevels l)
    else .next (s.demandOnce m 0 (.bar launch level inst b.bar.phase (s.levelHere l b) b.bar.gather))
  | none => .next s

/-- LBAR_MEMBER_COMPLETE: the phase is complete with the greatest stamp gathered, as an accepted message says. -/
def execLbarMemberComplete (launch level inst : Nat) (g : Stamp) (s : State) : Out :=
  let s := s.unfocus
  match s.inbox.find? (fun m => m.body == .barDone launch level inst (s.lvlOf launch level inst).bar.phase g) with
  | some m => .next ((({ s with inbox := s.inbox.erase m } : State).toPort m.src m.req none .ack).farComplete launch level inst g)
  | none => .next s

/-! ### Domain commands (20 R341, R343) -/

/-- Is a change or an admission in progress? -/
def State.changing (s : State) : Bool := s.change.isSome || s.spdm.active

/-- DOMCMD_ADMIT: the SPDM session with the package behind a port begins. -/
def execDomcmdAdmit (member port : Nat) (s : State) : Out :=
  let s := s.unfocus
  if !s.bridge ∨ !s.running then .next s
  else if s.changing then .next (s.domResult 4)
  else if 64 ≤ s.members.length then .next (s.domResult 3)
  else
    let idx := ((List.range 64).find? (fun i => !s.members.contains i)).getD 0
    .next { s.domResult 0 with spdm := ⟨true, port, 0, 0, idx, [], member⟩ }

/-- DOMCMD_REMOVE: grants go back, then the barrier runs. -/
def execDomcmdRemove (idx : Nat) (s : State) : Out :=
  let s := s.unfocus
  if !s.bridge ∨ !s.running then .next s
  else if s.changing then .next (s.domResult 4)
  else if s.peers.any (·.idx == idx) then
    let s := (s.domResult 0).startChange (s.members.filter (· != idx)) []
    .next (match s.change with | some c => s.handBack c | none => s)
  else .next s

/-- DOMCMD_EVICT. -/
def execDomcmdEvict (idx : Nat) (s : State) : Out :=
  let s := s.unfocus
  if !s.bridge ∨ !s.running then .next s
  else if s.changing then .next (s.domResult 4)
  else if s.peers.any (·.idx == idx) then .next ((s.domResult 0).evictMember idx)
  else .next s

/-! ### The parts of an image (24 R370) -/

/-- A component of a manifest: offset, length, digest. -/
structure FwComp where
  off : Nat
  len : Nat
  dig : BitVec 512
deriving DecidableEq, Repr

/-- Component i of an image. -/
def fwComp (m : List Byte) (i : Nat) : FwComp :=
  let n (o k : Nat) : Nat := natLE ((m.drop (0x50 + 72 * i + o)).take k)
  ⟨n 0 4, n 4 4, BitVec.ofNat 512 (n 8 64)⟩

/-- The bytes of a component. -/
def FwComp.bytes (c : FwComp) (m : List Byte) : List Byte := (m.drop c.off).take c.len

/-- The manifest of an image. -/
def manifest (m : List Byte) : List Byte := m.take 0x172

/-! ### Admission by SPDM (20 R340, R341) -/

/-- The session advances from one step to the next. On the bridge member the arguments of an event are what the response held; on the
joining package the event is the request, and `answer` holds the code of its response (log 30). -/
def State.spdmStep (s : State) (from_ code : Nat) : State :=
  if s.bridge then (if s.spdm.active ∧ s.spdm.step = from_ then { s with spdm := { s.spdm with step := from_ + 1 } } else s)
  else if from_ = 0 ∧ s.peers.isEmpty then { s with spdm := ⟨true, 0, 1, 0, 0, bytesLE 1 code, 0⟩ }
  else if s.spdm.active ∧ s.spdm.step = from_ then { s with spdm := { s.spdm with step := from_ + 1, answer := bytesLE 1 code } }
  else s

/-- The admission fails: 1 AUTHFAIL, 2 MEASFAIL. -/
def State.spdmFail (s : State) (r : Nat) : State :=
  let s : State := { s with spdm := { s.spdm with active := false, verdict := r } }
  if s.bridge then (s.domResult r).raiseHirq 3 else s

/-- A step that fails the admission when a test of it fails. -/
def State.spdmTest (s : State) (from_ code r : Nat) (ok : Bool) : Out :=
  if s.spdm.active ∧ s.spdm.step = from_ ∧ !ok then .next (s.spdmFail r) else .next (s.spdmStep from_ code)

/-- GET_VERSION, GET_CAPABILITIES. -/
def execGetVersion (s : State) : Out := .next (s.unfocus.spdmStep 0 0x04)
def execGetCapabilities (s : State) : Out := .next (s.unfocus.spdmStep 1 0x61)

/-- NEGOTIATE_ALGORITHMS: the session goes on when the choices of 20 Table 20.6, numbered 0 to 4, are what is offered; no other algorithm is. -/
def execNegotiateAlgorithms (offered : List Nat) (s : State) : Out :=
  let s := s.unfocus
  if sortNat offered = List.range 5 then .next (s.spdmStep 2 0x63) else .next s

/-- GET_DIGESTS. -/
def execGetDigests (s : State) : Out := .next (s.unfocus.spdmStep 3 0x01)

/-- GET_CERTIFICATE: the chain ends at the maker's identity. -/
def execGetCertificate (chainOk : Bool) (s : State) : Out := s.unfocus.spdmTest 4 0x02 1 chainOk

/-- The allow-list at DOMPOL: a count and that many digests of 48 bytes. -/
def State.allowList (s : State) : List (BitVec 384) :=
  let pa := s.csr2 0 0x8245
  (List.range (natLE (s.phys pa 8))).map (fun i => BitVec.ofNat 384 (natLE (s.phys (pa + 8 + 48 * i) 48)))

/-- The four measurements (24 R372): index and SHA3-384 digest of the boot ROM, the manifest, the runtime and the configuration block. SPDM
lays each out as a block of its own; the model keeps the index and the digest (log 30). -/
def State.measurements (s : State) : List Byte :=
  let part (i : Nat) : List Byte := (fwComp s.image i).bytes s.image
  let block (i : Nat) (b : List Byte) : List Byte := bytesLE 1 i ++ bytesLE 48 (sha384 b).toNat
  block 1 Config.bootRom ++ block 2 (manifest s.image) ++ block 3 (part 0) ++
    block 4 (if natLE ((s.image.drop 12).take 4) = 2 then part 1 else [])

/-- GET_MEASUREMENTS, signed: every digest must be in the allow-list. The joining package answers with its four measurements (24 R372). -/
def execGetMeasurements (digests : List (BitVec 384)) (sigOk : Bool) (s : State) : Out :=
  let s := s.unfocus
  if s.bridge ∧ s.spdm.active ∧ s.spdm.step = 5 ∧ sigOk ∧ !digests.all s.allowList.contains then .next (s.spdmFail 2)
  else if !s.bridge ∧ s.spdm.active ∧ s.spdm.step = 5 then
    .next { s.spdmStep 5 0x60 with spdm := { (s.spdmStep 5 0x60).spdm with answer := bytesLE 1 0x60 ++ s.measurements } }
  else s.spdmTest 5 0x60 1 (!s.bridge || sigOk)

/-- KEY_EXCHANGE: the bridge member sets MutAuthRequested, and the request that the joining package gets must have it set; the signature holds. -/
def execKeyExchange (mutAuth : Bool) (sigOk : Bool) (s : State) : Out := s.unfocus.spdmTest 6 0x64 1 ((s.bridge || mutAuth) && sigOk)

/-- FINISH. -/
def execFinish (macOk : Bool) (s : State) : Out := s.unfocus.spdmTest 7 0x65 1 macOk

/-- VENDOR_DEFINED_REQUEST: the index and the GTS offset of the admitted package, and its keys with every member for the next generation, which
the bridge member sends; its clock goes forward only (20 R332). The keys come to the joining package with BEGIN too, where the model keeps them
(log 30). -/
def execVendorDefinedRequest (idx offset : Nat) (s : State) : Out :=
  let s := s.unfocus
  if !s.bridge ∧ s.spdm.active ∧ s.spdm.step = 8 then
    .next { s.spdmStep 8 0x7E with spdm := { (s.spdmStep 8 0x7E).spdm with idx := idx }, now := s.now + offset }
  else if s.bridge ∧ s.spdm.active ∧ s.spdm.step = 8 then
    .next ((s.spdmStep 8 0x7E).toPort s.spdm.idx 0 none (.vendor s.spdm.idx offset (keysFor (s.domGen + 1) s.spdm.idx (sortNat (s.spdm.idx :: s.members)))))
  else .next s

/-- END_SESSION: the membership change follows. -/
def execEndSession (s : State) : Out :=
  let s := s.unfocus
  if s.spdm.active ∧ s.spdm.step = 9 then
    (if s.bridge then .next ((s.spdmStep 9 0x6C).startChange (s.spdm.idx :: s.members) [] |> fun t =>
        { t with spdm := { t.spdm with active := false } })
     else .next (s.spdmStep 9 0x6C))
  else .next s

/-- SPDM_UNSUPPORTED_REQUEST: any other request is answered with ERROR UnsupportedRequest. -/
def execSpdmUnsupportedRequest (code : Nat) (s : State) : Out :=
  let s := s.unfocus
  .next { s with spdm := { s.spdm with answer := [0x7F, 0x07, BitVec.ofNat 8 code] } }

end Sys2Proof.Machine
end

