-- ==== Sys2Proof/Machine/EvRepair.lean ====
section
/-! DEFINITION. Errors, spares and repair (22 R348 to R357; 12 R262): what a check of an array finds, the counts of units, their
records, and the retirement of clusters, slices, rows, channels and lanes. A unit's place is 64 die + physical cluster (classes 1 to
3), 128 die + slice (4), 2^23 (4 die + stack) + row or channel (5, 6), 128 pair + lane (7), 8 port + lane (8), 2^23 die + group (9) or
the die (10). -/

namespace Sys2Proof.Machine

/-! ### Units and their records (22 R353, R354) -/

/-- `where` of a unit (22 Table 22.2). -/
def unitWhere (cls place : Nat) : Nat :=
  if cls ≤ 3 then wherePack (place / 64) (place % 64) 0
  else if cls = 4 then wherePack (place / 128) (place % 128) 0
  else if cls ≤ 6 then wherePack (place / 2 ^ 25) (place / 2 ^ 23 % 4) place
  else if cls = 7 then wherePack 0 (place / 128) (place % 128)
  else if cls = 8 then wherePack 0 (place / 8) (place % 8)
  else if cls = 9 then wherePack (place / 2 ^ 23) 0 place
  else wherePack place 0 0

/-- The die of a unit, zero for one of no die. -/
def unitDie (cls place : Nat) : Nat :=
  if cls ≤ 3 then place / 64 else if cls = 4 then place / 128 else if cls ≤ 6 then place / 2 ^ 25
  else if cls ≤ 8 then 0 else if cls = 9 then place / 2 ^ 23 else place

/-- A record about a unit. The agent of a unit that takes no stamps, and what `detail` holds beside a count, are free (log 17). -/
def State.unitRecord (s : State) (kind ctx cls place addr : Nat) (count : Option Nat) : State :=
  let f (i : Nat) : Nat := (Config.freeWord (s.free + i)).toNat
  ({ s with free := s.free + 2 } : State).error
    ⟨s.seenStamp (unitDie cls place) (f 0 % 256), ctx, kind, cls, unitWhere cls place, addr, count.getD (f 1)⟩

/-- When the counts of a unit without errors were last cleared: every ERWINDOW hours from the reset on (22 R353). -/
def State.windowStart (s : State) : Nat :=
  let w := (s.csr 0 0x8307).toNat * 3600000000000
  s.now - s.now % w

/-- The counts of a unit. -/
def State.unitOf (s : State) (cls place : Nat) : UnitRec :=
  (s.units.find? (fun u => u.cls == cls && u.place == place)).getD ⟨cls, place, 0, 0, s.windowStart, false, false⟩

/-- Set them. -/
def State.setUnit (s : State) (u : UnitRec) : State :=
  { s with units := upsert (fun v => v.cls == u.cls && v.place == u.place) u s.units }

/-- A unit without marks and with its counts. -/
def State.unmark (s : State) (cls place : Nat) : State := s.setUnit { s.unitOf cls place with worn := false, failed := false }

/-- A repaired unit is new: its counts begin now. -/
def State.renewUnit (s : State) (cls place : Nat) : State :=
  if s.units.any (fun u => u.cls == cls && u.place == place) then s.setUnit ⟨cls, place, 0, 0, s.now, false, false⟩ else s

/-- A corrected or a transient error of a unit counts; a count that reaches ERTHRESH marks the unit worn and writes a record, be the unit worn
already or not (22 R353, R354). -/
def State.countError (s : State) (cls place : Nat) (corr : Bool) : State :=
  let u := s.unitOf cls place
  let v := if corr then { u with corrected := u.corrected + 1 } else { u with transient := u.transient + 1 }
  let n := if corr then v.corrected else v.transient
  let t := (s.csr 0 0x8306).toNat
  if t = n ∨ (!u.worn ∧ t ≤ n) then (s.setUnit { v with worn := true }).unitRecord 1 0x8000 cls place 0 (some n)
  else s.setUnit v

/-- A lasting error marks its unit failed and is charged to a context, or to the device with 0x8000 (22 R352). -/
def State.lastError (s : State) (cls place ctx addr : Nat) : State :=
  (s.setUnit { s.unitOf cls place with failed := true }).unitRecord 2 ctx cls place addr none

/-- Is a unit worn or failed? -/
def State.unitBad (s : State) (cls place : Nat) : Bool := (s.unitOf cls place).worn || (s.unitOf cls place).failed

/-- ERROR_WINDOW_EXPIRE: ERWINDOW hours after they were last cleared, a unit's counts clear. -/
def execErrorWindowExpire (unit : Nat) (s : State) : Out :=
  let s := s.unfocus
  match s.units[unit]? with
  | none => .next s
  | some u =>
    if u.since + (s.csr 0 0x8307).toNat * 3600000000000 ≤ s.now then
      .next (s.setUnit { u with corrected := 0, transient := 0, since := s.now })
    else .next s

/-! ### What a check finds (22 R349 to R352) -/

/-- The place of a cluster's arrays. -/
def State.clusterUnit (s : State) (cl : Nat) : Nat := 64 * (cl / 32) + s.physCluster cl

/-- The slice of a die that serves a line, 128 die + physical slice (12 R248, R249), and that of its home die. -/
def State.sliceAt (s : State) (die line : Nat) : Nat := 128 * die + nth 0 (nth [] s.sliceMap die) (bucketOf line)
def State.sliceUnit (s : State) (line : Nat) : Nat := 128 * (s.sliceOf line).1 + (s.sliceOf line).2

/-- The place and tag of the data of a line that a place holds (22 R352): class and place of the unit, and the tag that the line carries when
it is dirty, else 0x8000. A version is charged to its tag while a slice holds it, and to the device when the HBM does; which of the two, and
which row, is open (log 17). -/
def State.granUnit (s : State) (line : Nat) (a : PoisonAt) (st : Stamp) : Option (Nat × Nat × Nat) :=
  match a with
  | .home =>
    let row := (5, homeDie line * 2 ^ 25 + (Config.freeWord s.free).toNat % 2 ^ 25, 0x8000)
    match s.pubs.find? (fun p => p.line == line && p.st == st) with
    | some p => some (if (Config.freeWord (s.free + 1)).getLsbD 0 then (4, s.sliceUnit line, p.ctx) else row)
    | none => if st == Stamp.zero then some row else none
  | .man place =>
    (s.manual.find? (fun m => m.place == place && m.line == line && m.dirty != 0)).map (fun m =>
      (if place < 512 then (2, s.clusterUnit (place / 4), m.ctx) else (4, s.sliceAt (place - 600) line, m.ctx)))
  | .own cache =>
    (s.l1.find? (fun e => e.cache == cache && e.line == line && !e.written.isEmpty)).map (fun e => (2, s.clusterUnit (cache / 4), e.ctx))
  | .upd cache =>
    (s.acopies.find? (fun e => e.cache == cache && e.line == line)).map (fun e => (2, s.clusterUnit (cache / 4), e.ctx))
  | .pend squad =>
    (s.squads.find? (fun q => q.id == squad && q.pending.any (·.line == line))).map (fun q => (2, s.clusterUnit (q.cache / 4), q.ctx))
  | .msg _ => none

/-- A granule becomes poisoned: at its home in the version of a stamp, and in no other that is there already. -/
def State.spoil (s : State) (g : Nat) (a : PoisonAt) (st : Stamp) : State :=
  let next := match a with
    | .home => minStamp ((s.pubs.filter (fun p => p.line == g / 4 && st.lt p.st)).map (·.st))
    | _ => none
  { s with poison := s.poison ++ [⟨g, next, st, a⟩] }

/-- An error in a granule of memory or of a scratchpad that no correction covers. -/
def State.granError (s : State) (g : Nat) (a : PoisonAt) (st : Stamp) (lasting : Bool) : State :=
  if g < 2 ^ 60 then
    match s.granUnit (g / 4) a st with
    | none => s
    | some u =>
      let s : State := { s with free := s.free + 2 }
      if lasting then (s.spoil g a st).lastError u.1 u.2.1 u.2.2 (g * 32 % 2 ^ 40) else s.countError u.1 u.2.1 false
  else
    let key := (g - 2 ^ 60) * 32
    let place := s.clusterUnit (key / 2 ^ 19 / 4)
    match s.teams.find? (fun t => t.holds key) with
    | none => s
    | some t => if lasting then (s.spoil g .home Stamp.zero).lastError 2 place t.ctx 0 else s.countError 2 place false

/-- A register of a squad or MCC that fails its second read is poisoned (22 R350). -/
def State.regError (s : State) (id : Nat) (isV : Bool) (reg lane : Nat) : State :=
  match s.squads.find? (·.id == id) with
  | none =>
    match s.mccs.find? (·.id == id) with
    | none => s
    | some m =>
      let bad : Mcc → Mcc := fun m => { m with badRegs := m.badRegs ++ [reg] }
      if isV then s else (s.modMccs (·.id == id) bad).lastError 1 (s.clusterUnit m.cl) m.ctx 0
  | some q =>
    let bad : Squad → Squad := fun q => { q with badRegs := q.badRegs ++ [(isV, reg, if isV then lane else 0)] }
    (s.modSquads (·.id == id) bad).lastError 1 (s.clusterUnit (q.cache / 4)) q.ctx 0

/-- An MCC that starts again as after a pre-emption; an mfence whose publication is stamped completes first (08 R176). -/
def Mcc.restarted (gran : Nat) (k : Mcc) : Mcc :=
  let p : Mcc := { k.preempted with running := true, matErr := gran :: k.matErr }
  if k.stamped then { p with st := k.st, wake := k.wake, todo := k.todo.filter (· != .mccEnd), due := k.due } else p

/-- Matrix storage fails: the MCC starts again as after a pre-emption; the same granule again before its next mfence halts it and
marks its cluster (22 R351). -/
def State.matrixError (s : State) (cl gran : Nat) : State :=
  match s.mccs.find? (fun m => m.cl == cl && m.running && !m.halted && m.st != .exiting) with
  | none => s
  | some m =>
    if m.matErr.contains gran then
      let s := s.lastError 3 (s.clusterUnit cl) m.ctx 0
      let s := s.focusOn m.id
      (s.takeTrap ⟨.poisonedData, 0, 0, 0⟩ ⟨s.pcNow, 0, 0⟩).unfocus
    else
      let s := if m.stamped then s else s.dropWaits m
      (s.modMccs (·.id == m.id) (Mcc.restarted gran)).countError 3 (s.clusterUnit cl) false

/-- A damaged clean copy is dropped and filled again from its home (22 R349, R352). -/
def State.copyError (s : State) (cache line : Nat) (lasting : Bool) : State :=
  let u := if cache < 512 then (2, s.clusterUnit (cache / 4)) else (4, s.sliceAt (cache - 600) line)
  if lasting then
    let s : State := { s with
      copies := s.copies.filter (fun c => !(c.cache == cache && c.line == line))
      manual := s.manual.filter (fun m => !(m.place == cache && m.line == line && m.dirty == 0))
      l1 := s.l1.filter (fun e => !(e.cache == cache && e.line == line && (e.st == .s || e.st == .e))) }
    s.lastError u.1 u.2 0x8000 (line * 128 % 2 ^ 40)
  else s.countError u.1 u.2 false

/-- The MGC reads the sensors of the dies into THERM (24 R367). -/
def State.readTherm (s : State) (temps : List Nat) : State :=
  if s.heldReset then s else s.setCsr 0 0x8507 (w32 (natLE (temps.map (BitVec.ofNat 8))))

/-- What a check has found takes effect. An entry of an instruction cache or a filter with wrong parity is fetched or made again as it was
(22 Table 22.1). -/
def State.upset (s : State) (u : Upset) : State :=
  match u with
  | .reg squad isV reg lane => s.regError squad isV reg lane
  | .gran g a st lasting => s.granError g a st lasting
  | .matrix cl gran => s.matrixError cl gran
  | .copy cache line lasting => s.copyError cache line lasting
  | .corrected cls place => if 1 ≤ cls ∧ cls ≤ 9 then s.countError cls place true else s
  | .transient cls place => if 1 ≤ cls ∧ cls ≤ 9 then s.countError cls place false else s
  | .unit cls place => if cls = 4 ∨ cls = 6 then s.lastError cls place 0x8000 0 else s
  | .tlbParity i place => { s with tlb := s.tlb.eraseIdx i }.countError 2 place false
  | .walkParity i place => { s with walkCache := s.walkCache.eraseIdx i }.countError 4 place false
  | .therm temps => s.readTherm temps

/-- SCRUBBING: a scrub of stored data reads a granule of the newest version again; an error that stays in data of the HBM is a device record (22
R352). -/
def execScrubbing (addr : Nat) (again : Bool) (s : State) : Out :=
  let s := s.unfocus
  let g := memKey s.pkgIdx (addr % 2 ^ 40) / 32
  .next (if s.pubs.any (·.line == g / 4) then s.granError g .home (s.newest (g / 4)) again else s.granError g .home Stamp.zero again)

/-! ### Repairs (22 R356, R357) -/

/-- A repair, its begun and done records and its entry in the persistent store. -/
def State.repaired (s : State) (cls place : Nat) (r : Repair) : State :=
  let s := (s.unitRecord 8 0x8000 cls place 0 none).unitRecord 9 0x8000 cls place 0 none
  { s.renewUnit cls place with repair := s.repair ++ [r] }

/-- No spare is left. -/
def State.noSpare (s : State) (cls place : Nat) : State := (s.unmark cls place).unitRecord 10 0x8000 cls place 0 none

/-- The rows of a channel of a stack that spare rows have replaced (22 Table 22.4; which channel holds a row: log 31). -/
def State.rowsReplaced (s : State) (die stack channel : Nat) : Nat :=
  (s.repair.filter (fun r => r.cls == 5 && r.die == die && r.place / 2 ^ 23 == stack &&
    Config.rowChannel (r.place % 2 ^ 23) == channel)).length

/-- The spares that SPARE of a die counts: clusters, slices, channels, and the rows that its most used channel has left (22 Tables
22.3, 22.4; log 31). -/
def State.spareWord (s : State) (die : Nat) : W :=
  let used (cls : Nat) : Nat := (s.repair.filter (fun r => r.cls == cls && r.die == die && decide (r.spare < 2 ^ 23))).length
  let rows := s.repair.filter (fun r => r.cls == 5 && r.die == die)
  let most := rows.foldl (fun n r => max n (s.rowsReplaced die (r.place / 2 ^ 23) (Config.rowChannel (r.place % 2 ^ 23)))) 0
  w32 ((2 - used 2) + (4 - used 4) * 2 ^ 4 + (4 - used 6) * 2 ^ 12 + (2048 - most) / 256 * 2 ^ 16)

/-- The spare counts follow the repairs. -/
def State.recountSpares (s : State) : State := { s with spareLeft := (List.range 4).map s.spareWord }

/-- The caches of a cluster are emptied as departing ways are (12 R241), as far as their lines may leave now. -/
def State.emptyCache (s : State) (cache : Nat) : State := s.squeeze cache 0

/-- Holds a first-level cache nothing? -/
def State.cacheEmpty (s : State) (cache : Nat) : Bool :=
  (List.range 64).all (fun set => s.occupied cache set == 0) && !s.l1.any (·.cache == cache)

/-- Does anything occupy a cluster? -/
def State.inUse (s : State) (cl : Nat) : Bool :=
  s.teams.any (·.cache / 4 == cl) || s.mccs.any (·.cl == cl) || s.huddles.any (·.cl == cl)

/-- CLUSTER_RETIRE: a marked cluster that nothing occupies gives its logical number to a spare of its die. -/
def execClusterRetire (die cl : Nat) (s : State) : Out :=
  let s := s.unfocus
  let n := 32 * die + cl
  let place := s.clusterUnit n
  let bad := s.units.filter (fun u => decide (u.cls ≤ 3) && u.place == place && (u.worn || u.failed))
  if 4 ≤ die ∨ 32 ≤ cl ∨ s.withdrawn.contains n ∨ bad.isEmpty ∨ s.inUse n then .next s
  else
    let cls := match bad with | u :: _ => u.cls | [] => 2
    let inUse (p : Nat) : Bool := s.repair.any (fun r => r.cls == 2 && r.die == die && r.spare == p)
    let clear (s : State) : State := [1, 2, 3].foldl (fun s c => s.renewUnit c place) s
    let caches := (List.range 4).map (4 * n + ·)
    match [32, 33].find? (fun p => !inUse p) with
    | some p =>
      if !caches.all s.cacheEmpty then .next (caches.foldl State.emptyCache s)
      else
      let s := s.unitRecord 8 0x8000 cls place 0 none
      let s : State := { s with clusterMap := ins s.clusterMap n p, repair := s.repair ++ [⟨2, die, cl, p⟩] }
      .next (clear (s.unitRecord 9 0x8000 cls place 0 none)).recountSpares
    | none =>
      let s' := s.unitRecord 10 0x8000 cls place 0 none
      if bad.any (·.failed) then
        .next { s' with withdrawn := s'.withdrawn ++ [n], repair := s'.repair ++ [⟨2, die, cl, 2 ^ 23⟩] }
      else .next (clear s')

/-- The sets of a die's bucket that hold a line in a transient state. -/
def State.busySets (s : State) (die bucket : Nat) : List Nat :=
  ((s.home.map (·.line)).filter (fun l => homePkg l == s.pkgIdx && homeDie l == die && bucketOf l == bucket && s.transient l)).map l2Set

/-- SLICE_RETIRE: the walk of a worn or failed slice's bucket into a spare slice begins, or goes on: each set in ascending order, with versions,
directory entries, filter entries and locks of its lines, up to a set with a line in a transient state, which moves once it is stable. At the
end the map names the spare (12 R262). -/
def execSliceRetire (die bucket : Nat) (s : State) : Out :=
  let s := s.unfocus
  let row := nth [] s.sliceMap die
  let old := nth 0 row bucket
  let place := 128 * die + old
  let mine (m : Nat × Nat × Nat × Nat) : Bool := m.1 == die && m.2.1 == bucket
  if 4 ≤ die ∨ 64 ≤ bucket then .next s
  else
    match s.migrating.find? mine with
    | some (_, _, spare, next) =>
      match argMin id ((s.busySets die bucket).filter (fun k => decide (next ≤ k))) with
      | some k => .next { s with migrating := modAll mine (fun _ => (die, bucket, spare, k)) s.migrating }
      | none =>
        let s : State := { s with
          sliceMap := s.sliceMap.set die (row.set bucket spare)
          migrating := s.migrating.filter (fun m => !mine m)
          repair := s.repair ++ [⟨4, die, bucket, spare⟩] }
        .next ((s.unitRecord 9 0x8000 4 place 0 none).renewUnit 4 place).recountSpares
    | none =>
      if !s.unitBad 4 place then .next s
      else
        let used (p : Nat) : Bool := s.repair.any (fun r => r.cls == 4 && r.die == die && r.spare == p) ||
          s.migrating.any (fun m => m.1 == die && m.2.2.1 == p)
        match [64, 65, 66, 67].find? (fun p => !used p) with
        | some p => .next (({ s with migrating := s.migrating ++ [(die, bucket, p, 0)] } : State).unitRecord 8 0x8000 4 place 0 none)
        | none => .next (s.noSpare 4 place)

/-- HBM_ROW_REPAIR: a worn or failed row is copied into one of the 2,048 spare rows of its channel. -/
def execHbmRowRepair (die stack row : Nat) (s : State) : Out :=
  let s := s.unfocus
  let place := (4 * die + stack) * 2 ^ 23 + row
  if 4 ≤ die ∨ 4 ≤ stack ∨ 2 ^ 23 ≤ row ∨ !s.unitBad 5 place then .next s
  else
    let used := s.rowsReplaced die stack (Config.rowChannel row)
    if 2048 ≤ used then .next (s.noSpare 5 place)
    else .next (s.repaired 5 place ⟨5, die, stack * 2 ^ 23 + row, used⟩).recountSpares

/-- HBM_CHANNEL_REPAIR: a failed channel, or one with three failed rows, is walked into its stack's spare. -/
def execHbmChannelRepair (die stack channel : Nat) (s : State) : Out :=
  let s := s.unfocus
  let place := (4 * die + stack) * 2 ^ 23 + channel
  let rows := s.rowsReplaced die stack channel +
    (s.units.filter (fun u => u.cls == 5 && u.failed && u.place / 2 ^ 23 == 4 * die + stack &&
      Config.rowChannel (u.place % 2 ^ 23) == channel)).length
  if 4 ≤ die ∨ 4 ≤ stack ∨ 2 ^ 23 ≤ channel ∨ (!s.unitBad 6 place ∧ rows < 3) ∨
      s.repair.any (fun r => r.cls == 6 && r.die == die && r.place == stack * 2 ^ 23 + channel) then .next s
  else if s.repair.any (fun r => r.cls == 6 && r.die == die && r.place / 2 ^ 23 == stack) then .next (s.noSpare 6 place)
  else
    let s := (s.repaired 6 place ⟨6, die, stack * 2 ^ 23 + channel, 0⟩).recountSpares
    let here (p : Nat) : Bool := p / 2 ^ 23 == 4 * die + stack && Config.rowChannel (p % 2 ^ 23) == channel
    .next { s with units := s.units.filter (fun u => !(u.cls == 5 && here u.place)) }

/-- Has a Faing port its spare lane: lane 4 idle, not used before and not failed (22 Table 22.4)? -/
def State.spareLane (s : State) (port lanes : Nat) : Bool :=
  !bit lanes 4 && !(s.unitOf 8 (8 * port + 4)).failed && !s.repair.any (fun r => r.cls == 8 && r.place / 8 == port)

/-- A port goes on with some of its lanes. -/
def State.setLanes (s : State) (port l : Nat) (sparing : Bool) : State :=
  let w := (s.csr 0 (0x8200 + port)).toNat
  { s.setCsr 0 (0x8200 + port) (if popc l 5 < 2 then 8 * w32 (bits w 3 3) else fpstat (bits w 21 16) l (bit w 3) sparing (bit w 0)) with
    links := modAll (·.1 == port) (fun k => (k.1, k.2.1, l)) s.links }

/-- A Faing port loses a lane: lane 4 takes its place, or the port runs degraded, or it goes down; an idle spare lane that fails is no
spare any more. -/
def State.loseLane (s : State) (port lane : Nat) : State :=
  let w := (s.csr 0 (0x8200 + port)).toNat
  let lanes := bits w 12 8
  let place := 8 * port + lane
  if (s.unitOf 8 place).failed ∨ !s.links.any (·.1 == port) then s
  else
    let spare := s.spareLane port lanes
    let t := s.lastError 8 place 0x8000 0
    if !bit lanes lane then (if lane = 4 then t else s)
    else if lane < 4 ∧ spare then (t.setLanes port (lanes - 2 ^ lane + 16) true).repaired 8 place ⟨8, 0, place, 4⟩
    else (t.setLanes port (lanes - 2 ^ lane) (bit w 1 && decide (lane < 4))).unitRecord 10 0x8000 8 place 0 none

/-- A die-to-die link loses a lane: one of its two spares takes its place, or it runs degraded. -/
def State.losePair (s : State) (pair lane : Nat) : State :=
  let place := 128 * pair + lane
  let s := s.lastError 7 place 0x8000 0
  let used := (s.repair.filter (fun r => r.cls == 7 && r.place / 128 == pair)).length
  if used < 2 then s.repaired 7 place ⟨7, 0, place, used⟩ else s.noSpare 7 place

/-- LINK_LANE_SPARE: a lasting fault of a lane. -/
def execLinkLaneSpare (d2d : Bool) (port lane : Nat) (s : State) : Out :=
  let s := s.unfocus
  if d2d then (if port < 6 ∧ lane < 66 then .next (s.losePair port lane) else .next s)
  else if port < 18 ∧ lane < 5 then .next (s.loseLane port lane)
  else .next s

end Sys2Proof.Machine
end

