-- ==== Sys2Proof/Machine/EvReset.lean ====
section
/-! DEFINITION. Resets, bring-up, firmware and the thermal trip (24 R367 to R371). -/

namespace Sys2Proof.Machine

/-! ### Cold reset (24 R368, R369) -/

/-- Worn bond groups, which the next cold reset repairs with the one via that each has to spare (22 Table 22.4), and has it one? -/
def State.wornBonds (s : State) : List UnitRec := s.units.filter (fun u => u.cls == 9 && u.worn)
def State.viaLeft (s : State) (u : UnitRec) : Bool := !s.repair.any (fun r => r.cls == 9 && r.die * 2 ^ 23 + r.place == u.place)

/-- Everything at its Reset value but fuses, persistent store, and the model's own fields. -/
def State.cold (s : State) : State :=
  let t : State :=
    { State.reset with
      bridge := s.bridge
      csrs := [((0, 0x8506), s.csr 0 0x8506)]
      repair := s.repair ++ (s.wornBonds.filter s.viaLeft).map (fun u => ⟨9, u.place / 2 ^ 23, u.place % 2 ^ 23, 0⟩)
      thermal := s.thermal
      heldReset := s.heldReset
      free := s.free
      agenda := s.agenda }
  s.wornBonds.foldl (fun t u =>
    if s.viaLeft u then (t.unitRecord 8 0x8000 9 u.place 0 none).unitRecord 9 0x8000 9 u.place 0 none
    else t.unitRecord 10 0x8000 9 u.place 0 none) t

/-- The spares that the repair map names come into use; those of ports as they train (`State.goodLanes`), those of rows, channels and die-to-die
lanes by the map alone. -/
def State.applyRepairs (s : State) : State :=
  let one (s : State) (r : Repair) : State :=
    if r.cls = 2 then
      (if r.spare < 2 ^ 23 then { s with clusterMap := ins s.clusterMap (32 * r.die + r.place) r.spare }
       else { s with withdrawn := s.withdrawn ++ [32 * r.die + r.place] })
    else if r.cls = 4 then { s with sliceMap := s.sliceMap.set r.die ((nth [] s.sliceMap r.die).set r.place r.spare) }
    else s
  (s.repair.foldl one s).recountSpares

/-- MGCSTAT and FWRESULT. -/
def State.mgc (s : State) (state result : Nat) : State := (s.setCsr 0 0x8500 (w32 state)).setCsr 0 0x8505 (w32 result)

/-- The boot ROM up to the wait for an image: fuses, the repair map, training. -/
def State.boot (s : State) (trained fused : Bool) : State :=
  if !fused then s.mgc 7 8
  else if !trained then s.applyRepairs.mgc 7 7
  else s.applyRepairs.mgc 1 0

/-- A cold reset; a thermal trip that still holds the package keeps it in reset. -/
def State.coldReset (s : State) (trained fused : Bool) : State :=
  let t := s.cold
  if t.heldReset then t else t.boot trained fused

/-- A cold reset whose fuses and training turn out one way or the other. -/
def State.coldResetFree (s : State) : State :=
  let b (i : Nat) : Bool := (Config.freeWord (s.free + i)).getLsbD 0
  ({ s with free := s.free + 2 } : State).coldReset (b 0) (b 1)

/-- POWER_ON. -/
def execPowerOn (trained fused : Bool) (s : State) : Out := .next (s.coldReset trained fused)

/-- PCIE_FUNDAMENTAL_RESET of the bridge member. -/
def execPcieFundamentalReset (trained fused : Bool) (s : State) : Out :=
  if s.bridge then .next (s.coldReset trained fused) else .next s.unfocus

/-- FWCMD_COLD_RESET. -/
def execFwcmdColdReset (trained fused : Bool) (s : State) : Out := .next (s.coldReset trained fused)

/-- FWCMD_WARM_RESET: the MGC's CSRs take their Reset values and its runtime restarts from the verified image; without one nothing starts
(log 76). -/
def State.warmReset (s : State) : State :=
  if s.heldReset then s
  else
    let run := s.csr 0 0x8500 == 3
    let s : State := [0x8500, 0x8502, 0x8503, 0x8504, 0x8505, 0x8507].foldl (fun (s : State) n => s.setCsr 0 n (csrReset n)) s
    let s : State := { s with fwCopy := none }
    if run then s.mgc 3 0 else s
def execFwcmdWarmReset (s : State) : Out := .next s.unfocus.warmReset

/-! ### Firmware (24 R370, R371) -/

/-- The configuration block: version-cache ways and GiB of each version store (24 R371). -/
def fwConfig (b : List Byte) : Option (Nat × Nat) :=
  let ways := natLE (b.take 1)
  let gib := natLE ((b.drop 4).take 4)
  if b.length = 64 ∧ ways ≤ 8 ∧ 1 ≤ gib ∧ gib ≤ 16 ∧ natLE ((b.drop 1).take 3) = 0 ∧ natLE (b.drop 8) = 0 then some (ways, gib) else none

/-- The verification of a copy: the failing check's FWRESULT, or the security version and the configuration (24 R370). An image of
one component has no configuration block: `conf` stands for what it would say (log 32). -/
def fwVerify (m : List Byte) (svnMin : Nat) (conf : Nat × Nat) : Except Nat (Nat × Nat × Nat) :=
  let n (o k : Nat) : Nat := natLE ((m.drop o).take k)
  let ncomp := n 12 4
  let comps := (List.range ncomp).map (fwComp m)
  if n 0 4 ≠ 0x54465759 ∨ n 8 4 ≠ m.length ∨ m.length < 0x172 ∨ !(ncomp == 1 || ncomp == 2) ∨ n 0x49 7 ≠ 0 ∨ n 0xE0 32 ≠ 0 ∨
      comps.any (fun c => decide (m.length < c.off + c.len)) then .error 1
  else if shake512 ((m.drop 0x10).take 57) ≠ Config.rootDigest then .error 2
  else if !ed448Verify ((m.drop 0x10).take 57) (m.take 0x100) ((m.drop 0x100).take 114) then .error 3
  else if n 4 4 < svnMin then .error 4
  else if comps.any (fun c => decide (shake512 (c.bytes m) ≠ c.dig)) then .error 5
  else if ncomp = 1 then .ok (n 4 4, conf)
  else
    match fwConfig ((fwComp m 1).bytes m) with
    | some c => .ok (n 4 4, c)
    | none => .error 1

/-- The bytes of HBM of a die, and where its version store and, below it, its merge port's region begin there (24 R371, 12 R257). A physical
address names a die and a bucket and no place in the HBM (12 R248), so that no access reaches these by address. -/
def hbmBytes : Nat := 192 * 2 ^ 30
def State.storeBase (s : State) : Nat := hbmBytes - s.vsGiB * 2 ^ 30
def State.portBase (s : State) : Nat := s.storeBase - 32 * 2 ^ 20

/-- The device identity key's secret, derived by SHAKE256 from the fused one (24 R372). -/
def identitySeed : List Byte := shake256 57 Config.deviceSecret

/-- The alias key of a boot, and its certificate signed with the identity key (24 R372). -/
def State.deriveAlias (s : State) : State :=
  let key := ed448Public (Config.aliasSeed identitySeed (shake512 (manifest s.image)))
  { s with aliasKey := key, aliasCert := ed448Sign identitySeed (Config.aliasBody key) }

/-- The runtime starts: SVNMIN rises, the version stores are reserved, the alias key is derived, the compute dies are enabled. -/
def State.startRuntime (s : State) (image : List Byte) (svn ways gib : Nat) : State :=
  let s := s.setCsr 0 0x8506 (w32 (max svn (s.csr 0 0x8506).toNat))
  let s := s.setCsr 0 0x8098 (Config.vsCap gib)
  let s : State := { s with image := image, vcWays := ways, vsGiB := gib, fwCopy := none }
  s.deriveAlias.mgc 3 0

/-- FWCMD_LOAD: in state 1 the copy of the image begins, in state 2; in state 2 or 3 the command is discarded. -/
def State.fwLoad (s : State) : State :=
  let st := (s.csr 0 0x8500).toNat
  if s.heldReset then s
  else if st = 2 ∨ st = 3 then s.setCsr 0 0x8505 6
  else if st ≠ 1 then s
  else { s.setCsr 0 0x8500 2 with fwCopy := some (s.csr2 0 0x8502, (s.csr 0 0x8504).toNat, []) }

/-- The copy is whole: it is verified, and the runtime starts or the MGC waits for another command. -/
def State.fwEnd (s : State) (m : List Byte) : State :=
  let f (i : Nat) : Nat := (Config.freeWord (s.free + i)).toNat
  let t : State := { s with free := s.free + 2 }
  match fwVerify m (s.csr 0 0x8506).toNat (f 0 % 9, 1 + f 1 % 16) with
  | .error r => { t.mgc 1 r with fwCopy := none }
  | .ok v => t.startRuntime m v.1 v.2.1 v.2.2

/-- The MGC copies up to `n` more bytes, as they stand now; a whole copy is verified (log 76). -/
def State.fwStep (s : State) (n : Nat) : State :=
  match s.fwCopy with
  | none => s
  | some (base, len, got) =>
    let m := got ++ s.phys (base + got.length) (min n (len - got.length))
    if m.length < len then { s with fwCopy := some (base, len, m) } else s.fwEnd m
def execFwcmdLoad (s : State) : Out := .next s.unfocus.fwLoad

/-! ### Temperature (24 R367) -/

/-- THERMAL_TRIP: a die at 110 °C; its record goes to the persistent store and the package is held in cold reset. -/
def execThermalTrip (die temp : Nat) (s : State) : Out :=
  let s := s.unfocus
  if temp < 110 ∨ 4 ≤ die ∨ s.heldReset then .next s
  else
    let e : ErrRec :=
      { st := s.seenStamp die ((Config.freeWord s.free).toNat % 256), ctx := 0x8000, kind := 2, unit_ := 10, place := unitWhere 10 die
        addr := 0, detail := temp }
    .next ({ s with free := s.free + 1, thermal := s.thermal ++ [e], heldReset := true } : State).cold

/-- THERMAL_RELEASE: every die reads below 85 °C. -/
def execThermalRelease (temps : List Nat) (s : State) : Out :=
  let s := s.unfocus
  if s.heldReset ∧ temps.length = 4 ∧ temps.all (fun t => decide (t < 85)) then
    .next (({ s with heldReset := false } : State).coldResetFree.setCsr 0 0x8507 (w32 (natLE (temps.map (BitVec.ofNat 8)))))
  else .next s

end Sys2Proof.Machine
end

