-- ==== Sys2Proof/Machine/Csr.lean ====
section
/-! DEFINITION. Reading and writing CSRs (09 Table 9.7; the maps of 17, 18, 19, 20, 22, 23 and 24; 00 R5 to R7): what each register
shows, which bits a write sets, what a command register does, and the rules of device rings (22 R355). -/

namespace Sys2Proof.Machine

/-! ### Reading -/

/-- Does a CSR answer: until the runtime of the MGC runs only its own CSRs and the apertures do (24 Table 24.2)? -/
def State.csrOpen (s : State) (n : Nat) : Bool :=
  !s.heldReset && (s.csr 0 0x8500 == 3 || decide (0x8500 ≤ n ∧ n ≤ 0x8507) || decide (0x8280 ≤ n ∧ n ≤ 0x82BF))

/-- Write-only CSRs. -/
def csrWriteOnly (n : Nat) : Bool := [0x8041, 0x808A, 0x8097, 0x8244, 0x8407, 0x8501].contains n

/-- CSRs that only the bridge member has (20 Table 20.7). -/
def csrBridge (n : Nat) : Bool := n == 0x8245 || n == 0x8246 || decide (0x8280 ≤ n ∧ n ≤ 0x82BF)

/-- CTXSTAT (18 Table 18.2). -/
def State.ctxStat (s : State) (tag : Nat) : W :=
  match s.ctxOf tag with
  | some c => w32 (c.st + 16 * c.result)
  | none => 0

/-- DOMSTAT (20 Table 20.7). -/
def State.domStat (s : State) : W :=
  let n := if s.peers.isEmpty then 0 else s.peers.length + 1
  let st := if s.change.isSome then (if s.peers.isEmpty && !s.bridge then 1 else 3) else if s.spdm.active then (if s.bridge then 3 else 1)
    else if s.peers.isEmpty then 0 else 2
  w32 (s.pkgIdx % 64 * 2 ^ 16 + n * 2 ^ 8 + bits (s.csr 0 0x8240).toNat 7 4 * 16 + b2n s.bridge * 8 + st)

/-- The member mask (20 Table 20.7): nothing when alone. -/
def State.memberMask (s : State) : Nat :=
  if s.peers.isEmpty then 0 else s.members.foldl (fun m i => m ||| 2 ^ i) 0

/-- STOPSTAT (23 Table 23.3). -/
def State.stopStat (s : State) (tag : Nat) : W :=
  let us := s.teams.filter (·.ctx == tag)
  w32 (b2n (us.any (·.stopping)) + 2 * b2n ((s.ctxOf tag).any (·.badstate)) + (us.filter (·.halted)).length % 65536 * 256)

/-- A CSR of the package, or of the context that CTXSEL names. -/
def State.csrGet (s : State) (tag n : Nat) : W :=
  if !s.csrOpen n || csrWriteOnly n || (csrBridge n && !s.bridge) then 0
  else if n = 0x8042 then s.ctxStat tag
  else if n = 0x8046 then (if (s.ctxOf tag).any (fun c => c.st == 1) then w32 (s.ctxNeed tag) else 0)
  else if n = 0x8099 then w32 ((s.spilled + 1023) / 1024)
  else if n = 0x809A then w32 s.fullMark.tick
  else if n = 0x809B then w32 (s.fullMark.tick / 2 ^ 32)
  else if n = 0x809C then w32 (s.fullMark.src % 65536)
  else if n = 0x8240 then s.domStat
  else if n = 0x8242 then w32 s.memberMask
  else if n = 0x8243 then w32 (s.memberMask / 2 ^ 32)
  else if 0x8308 ≤ n ∧ n ≤ 0x830B then nth 0 s.spareLeft (n - 0x8308)
  else if n = 0x8408 then s.stopStat tag
  else s.csr (if csrScoped n then 1 + tag else 0) n

/-- The unprivileged CSRs of the issuer (09 Table 9.7); the MCC, which has no team, reads the Reset values. -/
def State.csrPlain (s : State) (n : Nat) : W :=
  match (if s.isM then none else s.teamNow) with
  | none => if n = 1 then 32 else if n = 3 then 0xFFFFFFFF else 0
  | some u =>
    let armed (i : Nat) : Bool := (nth none u.range i).isSome
    if n = 1 then w32 ((List.range 32).filter (fun i => !armed i)).length
    else if n = 2 then maskOf armed
    else if n = 3 then (match u.shoal with | some k => w32 k | none => 0xFFFFFFFF)
    else if n = 4 then u.engFault
    else 0

/-- What csrrd of the issuer delivers. -/
def State.csrRead (s : State) (n : Nat) : W :=
  if !s.csrOpen n then 0
  else if n < 0x8000 then s.csrPlain n
  else if n ≤ 0x801F then (if s.isM then Squad.blank else s.sq).frameWord (n - 0x8000)
  else if n = 0x8040 then w32 (if s.isM then s.mcc.ctxsel else s.sq.ctxsel)
  else s.csrGet (if s.isM then s.mcc.ctxsel else s.sq.ctxsel) n

/-! ### Writing fields -/

/-- The value of a plain read-write CSR after a write; none for one that a write does not set. A value out of a field's range leaves the
field (18 R300). -/
def csrField (n : Nat) (v old : W) : Option W :=
  let k := v.toNat
  let keep (ok : Bool) : Option W := some (if ok then v else old)
  if n = 0x8043 ∨ n = 0x8502 then keep (k % 4096 == 0)
  else if n = 0x8044 ∨ n = 0x8081 ∨ n = 0x8246 ∨ n = 0x8503 then keep (decide (k < 256))
  else if n = 0x8045 ∨ n = 0x8049 ∨ n = 0x8088 ∨ n = 0x8089 ∨ n = 0x8095 ∨ n = 0x8096 ∨ n = 0x8405 ∨ n = 0x8406 then some v
  else if n = 0x8047 then keep (decide (10 ≤ k ∧ k ≤ 10000))
  else if n = 0x8048 then some (w32 (k / 4 * 4))
  else if n = 0x8080 then some (w32 (k / 65536 * 65536))
  else if n = 0x8082 then some (w32 (k % 2))
  else if n = 0x8245 then keep (k % 8 == 0)
  else if n = 0x8247 then some (if k % 256 = 0 then old else w32 (k % 256))
  else if 0x8280 ≤ n ∧ n ≤ 0x82BF then some (v &&& 0xC0003FFF)
  else if n = 0x8306 then keep (decide (1 ≤ k ∧ k ≤ 65535))
  else if n = 0x8307 then keep (decide (1 ≤ k ∧ k ≤ 8760))
  else if n = 0x8410 then
    some (w32 (k % 2 + 256 * (if 4 ≤ bits k 12 8 ∧ bits k 12 8 ≤ 20 then bits k 12 8 else bits old.toNat 12 8)))
  else if n = 0x8417 then keep (k != 0)
  else if 0x8420 ≤ n ∧ n ≤ 0x842B then some v
  else if n = 0x8504 then keep (decide (k ≤ 2 ^ 24))
  else none

/-- REGISTER_WRITE's part of a write (00 R5): a register without behaviour of its own. A new seed starts every idle sampler afresh
(23 R361). -/
def State.csrSet (s : State) (tag n : Nat) (v : W) : State :=
  let scope := if csrScoped n then 1 + tag else 0
  match csrField n v (s.csr scope n) with
  | none => s
  | some w =>
    let s := s.setCsr scope n w
    if n = 0x8417 ∧ v ≠ 0 then { s with samplers := s.samplers.filter (·.tag.isSome) } else s

/-! ### Rings (22 R354, R355) -/

/-- The ring that a CSR belongs to: base, size, head and tail CSRs. -/
def ringOf (n : Nat) : Option (Nat × Nat × Nat × Nat) :=
  [(0x8090, 0x8092, 0x8093, 0x8094), (0x8300, 0x8302, 0x8303, 0x8304), (0x8411, 0x8413, 0x8414, 0x8415),
   (0x8400, 0x8402, 0x8403, 0x8404), (0x8418, 0x841A, 0x841C, 0x841B)].find?
    (fun r => n == r.1 || n == r.1 + 1 || n == r.2.1 || n == r.2.2.1)

/-- Records that wait are written as far as the ring takes them. -/
def State.flushRing (s : State) (tag base : Nat) : State :=
  if base = 0x8090 then State.flushFq s.fqWait.length s
  else if base = 0x8300 then State.flushErr (s.thermal.length + s.erWait.length) s
  else if base = 0x8400 then s.flushStop tag s.stopWait.length
  else s

/-- Is a value in the range of a base or size CSR? -/
def ringValue (base n : Nat) (v : W) : Bool :=
  let k := v.toNat
  if n = base then (if base = 0x8400 then k % 16384 == 0 else k % 4096 == 0)
  else if n = base + 1 then decide (k < 256)
  else if base = 0x8400 then decide (k ≤ 8)
  else decide (6 ≤ k ∧ k ≤ 16)

/-- A write to a ring's base or size: discarded while its head and tail differ. -/
def State.ringBase (s : State) (tag n : Nat) (v : W) : State :=
  match ringOf n with
  | none => s
  | some (b, _, h, t) =>
    let scope := if csrScoped n then 1 + tag else 0
    if n = h ∨ !s.csrOpen n ∨ s.csr scope h ≠ s.csr scope t ∨ !ringValue b n v then s
    else (s.setCsr scope n v).flushRing tag b

/-- A head write: discarded when it would place the head beyond the tail. -/
def State.ringHead (s : State) (tag n : Nat) (v : W) : State :=
  match ringOf n with
  | none => s
  | some (b, _, h, t) =>
    let scope := if csrScoped n then 1 + tag else 0
    let past := (v - s.csr scope t).toNat
    if n ≠ h ∨ !s.csrOpen n ∨ (0 < past ∧ past < 2 ^ 31) then s
    else (s.setCsr scope n v).flushRing tag b

/-! ### Commands -/

/-- The state that a meaning answers. -/
def outState (o : Out) (s : State) : State :=
  match o with
  | .next t => t
  | _ => s

/-- CTXCMD (18 Table 18.2). -/
def State.ctxCmd (s : State) (tag : Nat) (v : W) : State :=
  if v = 1 then outState (execCtxcmdSave tag s) s
  else if v = 2 then outState (execCtxcmdRestore tag s) s
  else if v = 3 then outState (execCtxcmdKill tag s) s
  else s

/-- STOPCMD (23 Table 23.3). -/
def State.stopCmd (s : State) (tag : Nat) (v : W) : State :=
  let team := s.csr2 (1 + tag) 0x8405
  if v = 1 then outState (execStopcmdStop tag team s) s
  else if v = 2 then outState (execStopcmdResume tag team s) s
  else if v = 3 then outState (execStopcmdResumeAll tag s) s
  else s

/-- TLBINVCMD (19 Table 19.4). -/
def State.tlbCmd (s : State) (v : W) : State :=
  let ctx := v.toNat % 4096
  let va := s.csr2 0 0x8088
  match bits v.toNat 13 12 with
  | 0 => if v.getLsbD 14 then outState (execTlbinvDrain ctx va s) s else outState (execTlbinvScopeAddress ctx va s) s
  | 1 => outState (execTlbinvScopeContext ctx s) s
  | 2 => outState (execTlbinvScopeAll s) s
  | _ => s.tlbStat 1

/-- TKCMD (19 Table 19.4). -/
def State.tkCmd (s : State) (v : W) : State :=
  let t := s.csr2 0 0x8095
  if v = 1 then outState (execTkcmdMapped t s) s
  else if v = 2 then outState (execTkcmdDenied t s) s
  else s.tlbStat 2

/-- DOMCMD (20 Table 20.7). -/
def State.domCmd (s : State) (v : W) : State :=
  let i := bits v.toNat 21 16
  match bits v.toNat 7 0 with
  | 1 => outState (execDomcmdAdmit i (bits v.toNat 12 8) s) s
  | 2 => outState (execDomcmdRemove i s) s
  | 3 => outState (execDomcmdEvict i s) s
  | _ => s

/-- FWCMD (24 Table 24.2). -/
def State.fwCmd (s : State) (v : W) : State :=
  if v = 1 then s.fwLoad else if v = 2 then s.coldResetFree else if v = 3 then s.warmReset else s

/-- A write of a CSR from 0x8041 up by the supervisor or the host, with nobody in focus. -/
def State.csrPut (s : State) (tag n : Nat) (v : W) : State :=
  if !s.csrOpen n || (csrBridge n && !s.bridge) then s
  else if n = 0x8041 then s.ctxCmd tag v
  else if n = 0x8407 then s.stopCmd tag v
  else if n = 0x808A then s.tlbCmd v
  else if n = 0x808B then s.setCsr 0 n (s.csr 0 n &&& ~~~(v &&& 6))
  else if n = 0x8097 then s.tkCmd v
  else if n = 0x8244 then s.domCmd v
  else if n = 0x8501 then s.fwCmd v
  else if n = 0x8100 ∨ n = 0x8101 then outState (execQtbaseWrite (n == 0x8101) v s) s
  else
    match ringOf n with
    | some (_, _, h, _) => if n = h then s.ringHead tag n v else s.ringBase tag n v
    | none => s.csrSet tag n v

/-- A write of a frame CSR by the squad in focus (18 Table 18.3). -/
def Frame.write (f : Frame) (n : Nat) (v : W) : Frame :=
  if n = 0x8001 then { f with tpc := pair (hiW f.tpc) (w32 (v.toNat / 4 * 4)) }
  else if n = 0x8002 then { f with tpc := pair v (loW f.tpc) }
  else if 0x800A ≤ n ∧ n ≤ 0x800D then { f with ts := f.ts.set (n - 0x800A) v }
  else if n = 0x800E then { f with tscc := v.getLsbD 0 }
  else if n = 0x800F then (if fmtA v ≤ 0x14 ∧ fmtB v ≤ 0x14 then { f with tfmt := w32 (v.toNat % 65536) } else f)
  else f

/-! ### Events -/

/-- RING_BASE_WRITE, RING_HEAD_WRITE. -/
def execRingBaseWrite (ctx num : Nat) (v : W) (s : State) : Out := .next (s.unfocus.ringBase ctx num v)
def execRingHeadWrite (ctx num : Nat) (v : W) (s : State) : Out := .next (s.unfocus.ringHead ctx num v)

/-- REGISTER_WRITE. -/
def execRegisterWrite (ctx num : Nat) (v : W) (s : State) : Out :=
  let s := s.unfocus
  if s.csrOpen num && !(csrBridge num && !s.bridge) then .next (s.csrSet ctx num v) else .next s

end Sys2Proof.Machine
end

