-- ==== Sys2Proof/Machine/System.lean ====
section
/-! DEFINITION. System instructions (09 R199): rfe, csrrd, csrwr and rdenergy. -/

namespace Sys2Proof.Machine

/-- rfe (18 R298). -/
def execRfe (w : Short) (s : State) : Out := s.issueShort true 0x180 w (fun s => .jump (s.modSq Squad.leaveHandler))

/-- rdenergy (23 R365): the sum without its own weight. -/
def execRdenergy (w : Short) (s : State) : Out :=
  s.issueShort true 0x183 w (fun s => .done (s.setS2 w.d.toNat (BitVec.ofNat 64 s.sq.energy)))

/-- csrrd (09 R199). -/
def execCsrrd (w : Long) (s : State) : Out :=
  s.issueLong true 0x181 w (fun s => .done (s.setS w.d.toNat (s.csrRead w.x.toNat)))

/-- Set CTXSEL of the issuer (18 R300). -/
def State.setCtxsel (s : State) (n : Nat) : State :=
  if s.isM then s.modMcc (fun m => { m with ctxsel := n }) else s.modSq (fun q => { q with ctxsel := n })

/-- The effect of a write by the issuer: a CSR of its own, or one of the package after the instruction itself is over, because the
write may take the issuer off the package. -/
def State.csrWrite (s : State) (n : Nat) (v : W) : Res :=
  if !s.csrOpen n ∨ n < 0x8000 then .done s
  else if n ≤ 0x801F then .done (if s.isM then s else s.modSq (fun q => { q with frame := q.frame.write n v }))
  else if n = 0x8040 then .done (s.setCtxsel (v.toNat % 4096))
  else
    let tag := if s.isM then s.mcc.ctxsel else s.sq.ctxsel
    .over ((((s.setTurn s.sq.sp.num).advance 8).runTodo.unfocus).csrPut tag n v)

/-- csrwr (09 R199). -/
def execCsrwr (w : Long) (s : State) : Out :=
  s.issueLong true 0x182 w (fun s => s.csrWrite w.x.toNat (s.sreg w.a.toNat))

end Sys2Proof.Machine
end

