-- ==== Sys2Proof/Machine/EvHost.lean ====
section
/-! DEFINITION. The host (20 R335 to R339): windows in BAR0, apertures in BAR2, unsupported requests. -/

namespace Sys2Proof.Machine

/-! ### Windows (20 R336, Table 20.3) -/

/-- A word of a queue's register block (17 Table 17.2). -/
def Queue.word (r : Queue) (o : Nat) : W :=
  if o = 0 then w32 r.tail else if o = 4 then w32 (r.tail / 2 ^ 32)
  else if o = 8 then w32 r.done else if o = 12 then w32 (r.done / 2 ^ 32)
  else if o = 16 then w32 r.head else if o = 20 then w32 (r.head / 2 ^ 32)
  else if o = 24 then w32 (r.fcode * 65536 + 2 * b2n r.qovf + b2n r.qfault)
  else 0

/-- A word of this member's window. -/
def State.windowRead (s : State) (off : Nat) : W :=
  if off < 0x20000 then (s.queueOf (off / 32)).word (off % 32)
  else if off = 0x20000 then s.hirq
  else if off = 0x20004 then s.hirqMask
  else if off = 0x20008 then w32 (b2n s.hostErr)
  else if off < 0x40000 then 0
  else
    let n := (off - 0x40000) / 4
    if n = 0x8040 then (if s.csrOpen n then w32 s.hostCtxsel else 0)
    else if n ≤ 0x801F ∨ !csrKnown n then 0
    else s.csrGet s.hostCtxsel n

/-- A write to HIRQMASK: a bit of HIRQ that is set loses its mask and sends its vector (20 R337). -/
def State.setMask (s : State) (v : Nat) : State :=
  let new := (List.range 4).filter (fun k => s.hirq.getLsbD k && s.hirqMask.getLsbD k && !bit v k)
  { s with hirqMask := w32 (v % 16), msix := s.msix ++ new.map (fun k => 4 * s.pkgIdx + k) }

/-- A write to a word of a queue's register block. -/
def State.queueWord (s : State) (q o : Nat) (v : W) (st : Option Stamp) : State :=
  let r := s.queueOf q
  if o = 0 then s.qtailWrite q (r.tail / 2 ^ 32 * 2 ^ 32 + v.toNat) st
  else if o = 4 then s.qtailWrite q (v.toNat * 2 ^ 32 + r.tail % 2 ^ 32) st
  else if o = 24 then
    let s := if v.getLsbD 1 && r.qovf then s.setQueue { r with qovf := false } else s
    if v.getLsbD 0 then outState (execQfaultClear q s) s else s
  else s

/-- A write to a word of this member's window, with the stamp that the bridge member gave a write of QTAIL. -/
def State.windowWrite (s : State) (off : Nat) (v : W) (st : Option Stamp := none) : State :=
  if off < 0x20000 then s.queueWord (off / 32) (off % 32) v st
  else if off = 0x20000 then { s with hirq := s.hirq &&& ~~~v }
  else if off = 0x20004 then s.setMask v.toNat
  else if off = 0x20008 then { s with hostErr := s.hostErr && !v.getLsbD 0 }
  else if off < 0x40000 then s
  else
    let n := (off - 0x40000) / 4
    if n = 0x8040 then (if s.csrOpen n then { s with hostCtxsel := v.toNat % 4096 } else s)
    else if n ≤ 0x801F ∨ !csrKnown n then s
    else s.csrPut s.hostCtxsel n v

/-- What the host reads. -/
def State.toHost (s : State) (b : List Byte) : State := { s with hostReads := s.hostReads ++ [b] }

/-- An access that names no member or a disabled aperture. -/
def State.noMember (s : State) (rd : Option Nat) : State :=
  match rd with
  | some n => { s with hostErr := true }.toHost (List.replicate n 0xFF)
  | none => { s with hostErr := true }

/-- Is a word of a window a half of a QTAIL? -/
def isQtail (off : Nat) : Bool := decide (off < 0x20000) && decide (off % 32 < 8)

/-- The bridge member forwards an access to another member's window; a write of QTAIL gets its stamp on receipt (20 R339). -/
def State.forward (s : State) (member off : Nat) (wr : Option W) : State :=
  if wr.isSome && isQtail off then (s.takeStamp 0 255).2.demand member 0 (.window off wr (s.takeStamp 0 255).1)
  else s.demand member 0 (.window off wr Stamp.zero)

/-- A forwarded access takes effect at its member, which answers. -/
def State.windowDue (s : State) (m : FabIn) (off : Nat) (wr : Option W) (st : Stamp) : State :=
  let s : State := { s with inbox := s.inbox.erase m }
  match wr with
  | some v => (s.windowWrite off v (some st)).toPort m.src m.req none .ack
  | none => s.toPort m.src m.req none (.windowData (s.windowRead off))

/-- HOST_WINDOW_ACCESS: an aligned word of the window of a member. The bridge member serves its own and forwards those of others, which serve
them as the accepted messages come (20 R336). -/
def execHostWindowAccess (member off : Nat) (wr : Option W) (s : State) : Out :=
  let s := s.unfocus
  if s.heldReset ∨ 0x80000 ≤ off ∨ off % 4 ≠ 0 ∨ 64 ≤ member then .next s
  else if !s.bridge then
    (match s.inbox.find? (fun m => match m.body with | .window o w _ => member == s.pkgIdx && o == off && w == wr | _ => false) with
     | some m => .next (match m.body with | .window _ _ st => s.windowDue m off wr st | _ => s)
     | none => .next s)
  else if member = s.pkgIdx then
    (match wr with
     | some v => .next (s.windowWrite off v)
     | none => .next (s.toHost (bytesLE 4 (s.windowRead off).toNat)))
  else if s.peers.any (·.idx == member) then .next (s.forward member off wr)
  else .next (s.noMember (if wr.isSome then none else some 4))

/-! ### Apertures (20 R338, R339) -/

/-- Bytes of an access, line by line. -/
def byLine (key : Nat) (b : List Byte) : List (Nat × List (Nat × Byte)) :=
  (sortNat ((List.range b.length).map (fun i => lineOf (key + i)))).map (fun l =>
    (l, (List.range 128).filterMap (fun o =>
      if key ≤ l * 128 + o then (b[l * 128 + o - key]?).map (fun x => (o, x)) else none)))

/-- The aperture's word when the access reaches a member through it. -/
def State.aperture (s : State) (ap : Nat) : Option Nat :=
  let w := (s.csr 0 (0x8280 + ap)).toNat
  if bit w 31 ∧ (bits w 13 8 = s.pkgIdx ∨ s.peers.any (·.idx == bits w 13 8)) then some w else none

/-- The key that an offset of an aperture reaches. -/
def apKey (w off : Nat) : Nat := memKey (bits w 13 8) (bits w 7 0 * 2 ^ 32 + off)

/-- Must the lines of a host's write have a stamp below its own for the collapse of an epoch: one holds a line here, or may hold one at another
member (20 R338)? -/
def State.hostPre (s : State) (ls : List Nat) : Option Stamp × State :=
  if ls.any (fun l => homePkg l != s.pkgIdx || (s.epoch l).isSome) then (some (s.takeStamp 0 255).1, (s.takeStamp 0 255).2) else (none, s)

/-- HOST_APERTURE_WRITE: one publication event on the lines it covers, epochs collapsed below it, or a merge at their home. A payload of more than
512 bytes is no request of the endpoint's (20 R335). -/
def execHostApertureWrite (ap off : Nat) (bytes : List Byte) (s : State) : Out :=
  let s := s.unfocus
  if s.heldReset ∨ !s.bridge ∨ 64 ≤ ap ∨ 2 ^ 32 < off + bytes.length ∨ 512 < bytes.length then .next s
  else
    match s.aperture ap with
    | none => .next (s.noMember none)
    | some w =>
      let ls := byLine (apKey w off) bytes
      if bit w 30 then
        .next (ls.foldl (fun s l =>
          if homePkg l.1 = s.pkgIdx then s.mergeHome l.1 l.2 else s.send l.1 Stamp.zero l.2 true 0x8000 none none none) s)
      else
        let p := s.hostPre (ls.map (·.1))
        let c := p.2.takeStamp 0 255
        .next (ls.foldl (fun s l => s.send l.1 c.1 l.2 false 0x8000 none none none p.1) c.2)

/-- A read of an aperture at the member that it reaches: on lines of class 0 an epoch collapses first, with the stamp of agent 255 of die 0 (20
R338, R339), and the read waits here until none is left; then the newest landed bytes answer. -/
def State.apertureDue (s : State) (m : FabIn) (manual : Bool) (pa len : Nat) : State :=
  let key := memKey s.pkgIdx pa
  let ls := if manual then [] else (sortNat ((List.range len).map (fun i => lineOf (key + i)))).filter (fun l => (s.epoch l).isSome)
  if !ls.isEmpty then ls.foldl (fun s l => s.arrive l (.collapse 255)) s
  else
    let s : State := { s with inbox := s.inbox.erase m }
    if m.src = s.pkgIdx then s.toHost (s.bytesAt none key len) else s.toPort m.src m.req none (.apertureData (s.bytesAt none key len))

/-- A read that waits here goes on. -/
def State.apertureWaits (s : State) (pa len : Nat) : State :=
  match s.inbox.find? (fun m => match m.body with | .aperture _ a n => a == pa && n == len | _ => false) with
  | some m => (match m.body with | .aperture manual _ _ => s.apertureDue m manual pa len | _ => s)
  | none => s

/-- HOST_APERTURE_READ at the bridge member, which serves what it holds itself and sends for the rest. Numbered 64, and on another member whatever
its number, it is a read of this member's memory that waits, `off` being its physical address. -/
def execHostApertureRead (ap off len : Nat) (s : State) : Out :=
  let s := s.unfocus
  if s.heldReset ∨ 64 < ap ∨ 4096 < len ∨ (ap < 64 ∧ 2 ^ 32 < off + len) then .next s
  else if !s.bridge ∨ ap = 64 then .next (s.apertureWaits off len)
  else
    match s.aperture ap with
    | none => .next (s.noMember (some len))
    | some w =>
      let pa := bits w 7 0 * 2 ^ 32 + off
      if bits w 13 8 ≠ s.pkgIdx then .next (s.demand (bits w 13 8) 0 (.aperture (bit w 30) pa len))
      else
        let m : FabIn := ⟨s.pkgIdx, s.nextId, .aperture (bit w 30) pa len⟩
        .next (({ s with inbox := s.inbox ++ [m], nextId := s.nextId + 1 } : State).apertureDue m (bit w 30) pa len)

/-- HOST_UNSUPPORTED_REQUEST completes as Unsupported Request and does nothing else (20 R335). -/
def execHostUnsupportedRequest (s : State) : Out := .next { s.unfocus with hostUr := s.unfocus.hostUr + 1 }

end Sys2Proof.Machine
end

