-- ==== Sys2Proof/Machine/Agenda.lean ====
section
/-! DEFINITION. The plan of a step: the head of the agenda, or the package's own choice when the agenda is empty (log 3). -/

namespace Sys2Proof.Machine

/-! ### What the package may do next by itself -/

/-- What the package may do next by itself: a turn of the agenda, or an event of the context scheduler, the homes, the fabric or
the management controller. -/
inductive Own where
  | turn (t : Turn)
  | saveRecord (team : Nat)
  | stopDone (team : Nat)
  | graceEnd (ctx : Nat)
  | restore (ctx : Nat)
  | resend (req : Nat)
  | due (m : FabIn)
  | report (launch level inst : Nat)
  | collect (line : Nat)
  | versionsFull
  | snapshotAge
  | estimate
  | beacon
  | ready
  | switch
  | cluster (die cl : Nat)
  | slice (die bucket : Nat)
  | row (die stack row : Nat)
  | channel (die stack channel : Nat)
deriving DecidableEq, Repr

/-- An agent issues. -/
def Own.agent (id : Nat) : Own := .turn (.issue id)

/-- An event happens. -/
def Own.ev (i : Instr) : Own := .turn (.event i)

/-- Turns of agents: issue, wake, asynchronous events, retirement. -/
def State.agentTurns (s : State) : List Own :=
  let sq := s.squads.flatMap (fun q =>
    (if q.mayIssue || q.goesOn then [Own.agent q.id] else []) ++
    (if q.st == .blocked then [Own.ev (.squadWake q.id)] else []) ++
    (if q.stopReq || q.engFault || (s.ctxOf q.ctx).any (fun c => c.st == 2) then [Own.ev (.asyncEventTake q.id)] else []) ++
    (if q.st == .exiting then [Own.ev (.squadRetire q.id)] else []))
  let mc := s.mccs.flatMap (fun m =>
    (if m.mayIssue || m.goesOn then [Own.agent m.id] else []) ++
    (if m.st == .blocked then [Own.ev (.squadWake m.id)] else []) ++
    (if m.queue.isEmpty then [] else [Own.ev (.matrixPassRetire m.cl)]) ++
    (if m.exiting then [Own.ev (.mccProgramEnd m.cl)] else []))
  sq ++ mc ++ s.sfu.map (fun e => Own.ev (.sfuRetire e.cache e.sub))

/-- Turns of teams, engines, huddles, queues, launches and contexts. -/
def State.workTurns (s : State) : List Own :=
  s.teams.flatMap (fun u =>
    (if u.alive.isEmpty && !u.exited then [Own.ev (.teamExit u.id)] else []) ++
    (if u.stopping then [Own.stopDone u.id] else []) ++
    (if (s.ctxOf u.ctx).any (fun c => c.st == 2) then [Own.saveRecord u.id] else [])) ++
  s.cmds.map (fun c => Own.ev (.engineCommandRun c.id)) ++
  s.huddles.flatMap (fun h => [Own.ev (.huddleTimerExpire h.cl h.num), Own.ev (.huddlePlace h.cl h.num)]) ++
  (if s.queues.isEmpty then [] else [Own.ev .arbiterTakeEntry]) ++
  s.launches.flatMap (fun l => [Own.ev (.placeTeam l.id), Own.ev (.launchComplete l.id)]) ++
  (if s.launches.isEmpty then [] else [Own.ev .placerOldestWaitExpire]) ++
  (s.lvls.filter (fun b => s.launches.any (fun l => l.id == b.launch && !l.away.isEmpty))).map (fun b => Own.report b.launch b.level b.part) ++
  s.ctxs.flatMap (fun c =>
    if c.st = 2 then [Own.graceEnd c.tag] else if c.st = 4 then [Own.restore c.tag] else [])

/-- Turns of homes, caches and translation. -/
def State.memTurns (s : State) : List Own :=
  s.walks.map (fun w => Own.ev (.translationWalkEnd w.id)) ++
  (if s.tlbBusy then [Own.ev .tlbinvComplete] else []) ++
  (s.msgs.filter (fun m => m.dep || homePkg m.line == s.pkgIdx)).map (fun m =>
    if m.dep then Own.ev (.homeOwnerBytes m.line) else Own.ev (.homePublicationEvent m.id)) ++
  (s.l1.filter (fun e => e.st == .mi)).map (fun e => Own.ev (.l1PutAck e.cache e.line)) ++
  s.home.flatMap (fun h =>
    let dies := h.acks.map (·.2)
    match h.st with
    | .hv => dies.map (fun d => Own.ev (if d < 4 then .snoopFilterMessage d h.line else .homeInvalidationAck h.line (d - 4)))
    | .hsx => dies.map (fun d => Own.ev (if d < 4 then .snoopFilterMessage d h.line else .homeInvalidationAck h.line (d - 4)))
    | .hor => [Own.ev (.l1Recall h.owner h.line)]
    | .hac => (List.range 4).map (fun d => Own.ev (.snoopFilterMessage d h.line)) ++
        h.acks.map (fun a => Own.ev (if a.2 < 4 then .mergePortCollapse a.2 h.line else .homeDiePartial h.line a.1 (a.2 - 4))) ++
        [Own.ev (.homeDiePartial h.line s.pkgIdx 0)]
    | _ => if h.serving.isSome && decide (h.requester < 512) then [Own.ev (.l1Grant h.requester h.line)] else []) ++
  (sortNat (s.pubs.map (·.line))).map (fun l => Own.collect l) ++
  (s.reqs.filter (fun r => !r.held)).map (fun r => Own.resend r.id) ++
  s.inbox.map Own.due ++
  (if s.vsFullSince.isSome then [Own.versionsFull] else [])

/-- Turns of the management controller and of the domain. -/
def State.upkeepTurns (s : State) : List Own :=
  [Own.estimate, Own.snapshotAge] ++ (if s.fwCopy.isSome then [Own.turn (.mgc (Config.freeWord s.free).toNat)] else []) ++
  (if s.peers.isEmpty then [] else [Own.beacon]) ++
  (if s.change.isSome then Own.ready :: (if s.coordinates || s.change.any (·.called) then [Own.switch] else []) else []) ++
  (s.units.filter (fun u => u.worn || u.failed)).flatMap (fun u =>
    if u.cls ≤ 3 then
      ((List.range 32).filter (fun c => s.clusterUnit (32 * (u.place / 64) + c) == u.place)).map (fun c =>
        Own.cluster (u.place / 64) c)
    else if u.cls = 4 then
      ((List.range 64).filter (fun b => nth 0 (nth [] s.sliceMap (u.place / 128)) b == u.place % 128)).map (fun b =>
        Own.slice (u.place / 128) b)
    else if u.cls = 5 then [Own.row (u.place / 2 ^ 25) (u.place / 2 ^ 23 % 4) (u.place % 2 ^ 23)]
    else if u.cls = 6 then [Own.channel (u.place / 2 ^ 25) (u.place / 2 ^ 23 % 4) (u.place % 2 ^ 23)]
    else [])

/-- Every turn that the package may take without an input from outside, or that only lets time pass. -/
def State.choices (s : State) : List Own := s.agentTurns ++ s.workTurns ++ s.memTurns ++ s.upkeepTurns

/-! ### The step's plan -/

/-- The plan of one turn. -/
def State.turn (s : State) : Turn → Plan
  | .issue id => s.issueTurn id
  | .event i => .run i s
  | .upset u => .done (s.upset u)
  | .idle n => .done (s.tick n)
  | .mgc n => .done (s.fwStep n)

/-- The state that an event leaves; an event never stops the machine. -/
def State.after (s : State) : Host.Outcome State Fault Refusal → Plan
  | .next t => .done t
  | _ => .done s

/-- The event of an accepted request. -/
def State.due (s : State) (m : FabIn) : Plan :=
  match m.body with
  | .upd line op ty fa => s.after (execHomeUpdateOnlyRequest line 0 op ty fa s)
  | .grant page kind op ty => s.after (execPageGrantRequest m.src page kind op ty s)
  | .part line die _ _ _ => s.after (execHomeDiePartial line m.src die s)
  | .recall page => s.after (execPageGrantRecall s.pkgIdx page s)
  | .recalled page => s.after (execPageGrantRecallAck m.src page s)
  | .invalDone line => s.after (execHomeInvalidationAck line (m.src + 4) s)
  | .revoke st => s.after (execSnapshotRevocation st s)
  | .barDone launch level inst _ st => s.after (execLbarMemberComplete launch level inst st s)
  | .window off wr _ => s.after (execHostWindowAccess s.pkgIdx off wr s)
  | .aperture _ pa len => s.after (execHostApertureRead 64 pa len s)
  | _ => .done s

/-- The plan of what the package does by itself. -/
def State.own (s : State) : Own → Plan
  | .turn t => s.turn t
  | .saveRecord u => s.after (execTeamSaveRecord u s)
  | .stopDone u => s.after (execStopComplete u s)
  | .graceEnd c => s.after (execGraceWindowClose c s)
  | .restore c => s.after (execContextRestorePlace c s)
  | .resend r => s.after (execFabricRetransmitTimeout r s)
  | .due m => s.due m
  | .report l v i => s.after (execLbarMemberReport l v i s)
  | .collect l => s.after (execEbbCollectorPass l s)
  | .versionsFull => s.after (execVersionStoreFullTimeout s)
  | .snapshotAge => s.after (execSnapshotAgeLimit s)
  | .estimate => s.after (execSlackWaterEstimateUpdate s)
  | .beacon => s.after (execSettleBeaconSend s)
  | .ready => s.after (execMembershipReady ⟨s.pkgIdx, 0, 0, 0, true⟩ s)
  | .switch => s.after (execMembershipSwitch s)
  | .cluster d c => s.after (execClusterRetire d c s)
  | .slice d b => s.after (execSliceRetire d b s)
  | .row d p r => s.after (execHbmRowRepair d p r s)
  | .channel d p c => s.after (execHbmChannelRepair d p c s)

/-- The plan of a step: time passes, nobody is in focus, what lasts is noted, and the head of the agenda is taken; with an empty agenda the package
takes its choices in rotation. -/
def State.plan (s : State) : Plan :=
  let s := (s.tick 1).unfocus.noteFull.notePasses
  match s.agenda with
  | t :: r => ({ s with agenda := r } : State).turn t
  | [] =>
    if s.heldReset then .done s
    else
      match s.choices with
      | [] => .done s
      | t :: r => s.own (nth t (t :: r) (s.now % (r.length + 1)))

end Sys2Proof.Machine
end

