-- ==== Sys2Proof/Machine/Convert.lean ====
section
/-! DEFINITION. Conversion and narrow packing (05 R110 to R113). -/

namespace Sys2Proof.Machine

/-- The integer that cvt reads from a lane, with its conditions: of an integer type, or of an .fm source under an integer
afmt, whose decoded integer the modifiers change (05 R110); none for a float source. -/
def State.cvtWhole (s : State) (w : Long) (l : Nat) : Option (Int × Nat) :=
  let t := xSub w.x % 32
  let v := s.vn t w.a.toNat l
  if t = tFM then
    (if fcInt (fmtA s.fmtNow) then
      (let c := fcWhole (fmtA s.fmtNow) v
       let x := if w.m.getLsbD 2 then (c.1.natAbs : Int) else c.1
       some (if w.m.getLsbD 0 then -x else x, c.2))
     else none)
  else if cvtFl t then none
  else some (tyVal t v, 0)

/-- The float value that cvt reads from a lane, modified, with its conditions (05 R110). -/
def State.cvtFloat (s : State) (w : Long) (l : Nat) : FV × Nat :=
  let t := xSub w.x % 32
  let v := s.vn t w.a.toNat l
  let r := if t = tFM then fcDecode (fmtA s.fmtNow) (fmtInf s.fmtNow) (v % 2 ^ fcWidth (fmtA s.fmtNow)) else (floatEl t 0 v, 0)
  (modA w.m r.1, r.2)

/-- Conversion of an exact value to afmt with fmt's fields (05 Table 5.3). -/
def State.toFm (s : State) (x : FV) : Nat × Nat :=
  fcEncode (fmtA s.fmtNow) (fmtInf s.fmtNow) (fmtSat s.fmtNow) (fmtRnd s.fmtNow) x

/-- The result of cvt in a lane (05 Table 5.3). A narrow integer is extended to 32 bits. -/
def State.cvtOut (s : State) (w : Long) (l : Nat) : Nat × Nat :=
  let t := xType w.x
  let n := if is64 t then 64 else 32
  let place (r : FV × Nat) : Nat × Nat :=
    withFlags r.2 (
      if cvtFl t then (fmtOfTy t).round (s.mode (xRnd w.x)) (satOf w.m) r.1
      else if t = tFM then s.toFm r.1
      else
        let i := toIntR (s.mode (xRnd w.x)) (tyLo t) (tyHi t) r.1
        (wrapI i.1 n, i.2))
  match s.cvtWhole w l with
  | some (x, f) =>
    if t = tFM ∨ cvtFl t then place (FV.ofInt x, f)
    else (wrapI (if satOf w.m then clampI x (tyLo t) (tyHi t) else tyVal t (wrapI x (tyWidth t))) n, f)
  | none => place (s.cvtFloat w l)

/-- cvt (05 R110). -/
def execCvt (w : Long) (s : State) : Out :=
  s.issueLong false 0x080 w (fun s => .done (s.laneOp (xType w.x) w.d.toNat (s.cvtOut w)))

/-- Elements i and i + 1 of width wd of a register replaced. -/
def putPair (wd i old c0 c1 : Nat) : Nat :=
  let e (k : Nat) : Nat := if k = i then c0 % 2 ^ wd else if k = i + 1 then c1 % 2 ^ wd else bits old (wd * k + wd - 1) (wd * k)
  (List.range (if wd = 6 then 4 else 32 / wd)).foldl (fun r k => r + e k * 2 ^ (wd * k)) 0

/-- npack (05 R111). -/
def execNpack (w : Long) (s : State) : Out :=
  s.issueLong false 0x081 w (fun s => .done (s.laneOp tB32 w.d.toNat (fun l =>
    let c0 := s.toFm (modA w.m (f32 (s.sq.v w.a.toNat l)))
    let c1 := s.toFm (modB w.m (f32 (s.bw w l)))
    (putPair (fcWidth (fmtA s.fmtNow)) (2 * xSub w.x) (s.sq.v w.d.toNat l).toNat c0.1 c1.1, c0.2 ||| c1.2))))

/-- nunpack (05 R111): the widening is exact. -/
def execNunpack (w : Long) (s : State) : Out :=
  s.issueLong false 0x082 w (fun s => .done (s.laneOp tB32 w.d.toNat (fun l =>
    let e := element (s.sq.v w.a.toNat l).toNat (fcWidth (fmtA s.fmtNow)) (xSub w.x)
    let r := fcDecode (fmtA s.fmtNow) (fmtInf s.fmtNow) e
    withFlags r.2 (fp32.round .rne false r.1))))

/-- ipack4 (05 R112). -/
def execIpack4 (w : Long) (s : State) : Out :=
  s.issueLong false 0x083 w (fun s => .done (s.laneOp tB32 w.d.toNat (fun l =>
    let a := (s.sq.v w.a.toNat l).toInt
    let b := (s.bw w l).toInt
    (putPair 4 (2 * xSub w.x) (s.sq.v w.d.toNat l).toNat (wrapI (clampI a (-7) 7) 4) (wrapI (clampI b (-7) 7) 4),
      clampFlag a (-7) 7 ||| clampFlag b (-7) 7))))

/-- iunpack4 (05 R112): code 0x8 gives 0 and nvx. -/
def execIunpack4 (w : Long) (s : State) : Out :=
  s.issueLong false 0x084 w (fun s => .done (s.laneOp tB32 w.d.toNat (fun l =>
    let e := element (s.sq.v w.a.toNat l).toNat 4 (xSub w.x)
    if e = 8 then (0, fNVX) else (wrapI (sext e 4) 32, 0))))

/-- The E8M0 scale of sclcalc (05 R113). -/
def scaleOf (fm : W) (x : FV) : Nat × Nat :=
  match x with
  | .nan _ => (255, fNV)
  | .inf _ => (255, fNV)
  | .fin _ m e =>
    if m = 0 then (127, 0)
    else ((clampI (e + (blen m : Int) - 1 - fcEmax (fmtA fm) (fmtInf fm) + 127) 0 254).toNat, 0)

/-- sclcalc (05 R113). -/
def execSclcalc (w : Long) (s : State) : Out :=
  s.issueLong false 0x085 w (fun s => .done (s.laneOp tB32 w.d.toNat (fun l =>
    scaleOf s.fmtNow (f32 (s.sq.v w.a.toNat l)))))

end Sys2Proof.Machine
end

