-- ==== Sys2Proof/Machine/Exchange.lean ====
section
/-! DEFINITION. Moving data between lanes (06 R121 to R129). -/

namespace Sys2Proof.Machine

/-- The tile size T (06 R121). -/
def State.tile (s : State) : Nat := 2 ^ s.sq.tsize

/-- The tile base of a lane. -/
def State.tileBase (s : State) (l : Nat) : Nat := l - l % s.tile

/-- Does a lane take part (06 R121)? -/
def State.part (s : State) (l : Nat) : Bool := s.lanes.getLsbD l

/-- The participants of a lane's tile, in ascending order. -/
def State.tileLanes (s : State) (l : Nat) : List Nat :=
  ((List.range s.tile).map (s.tileBase l + ·)).filter s.part

/-- A mask relative to the tile of a lane: the participants that satisfy f (06 R126). -/
def State.tileMask (s : State) (l : Nat) (f : Nat → Bool) : Nat :=
  (s.tileLanes l).foldl (fun r p => if f p then r + 2 ^ (p - s.tileBase l) else r) 0

/-- A shuffle: `j` gives the tile index a lane reads (06 R124). -/
def State.shuffle (s : State) (w : Long) (j : Nat → Int) : State :=
  let t := xType w.x
  let ok (l : Nat) : Bool := decide (0 ≤ j l ∧ j l < (s.tile : Int)) && s.part (s.tileBase l + (j l).toNat)
  let u := s.laneOp t w.d.toNat (fun l => (s.vn t w.a.toNat (if ok l then s.tileBase l + (j l).toNat else l), 0))
  if w.c = 0 then u else u.laneK w.c.toNat (fun l => (ok l, 0))

/-- xlane (06 R124). -/
def execXlane (w : Long) (s : State) : Out :=
  s.issueLong false 0x0E0 w (fun s => .done (s.shuffle w (fun l => ((s.bw w l).toNat : Int))))

/-- xlane.lo (06 R124). -/
def execXlaneLo (w : Long) (s : State) : Out :=
  s.issueLong false 0x0E1 w (fun s => .done (s.shuffle w (fun l => ((l % s.tile : Nat) : Int) - (xSub w.x : Int))))

/-- xlane.hi (06 R124). -/
def execXlaneHi (w : Long) (s : State) : Out :=
  s.issueLong false 0x0E2 w (fun s => .done (s.shuffle w (fun l => ((l % s.tile : Nat) : Int) + (xSub w.x : Int))))

/-- xlane.flip (06 R124). -/
def execXlaneFlip (w : Long) (s : State) : Out :=
  s.issueLong false 0x0E3 w (fun s => .done (s.shuffle w (fun l => ((Nat.xor (l % s.tile) (xSub w.x) : Nat) : Int))))

/-- poll.any (06 R125). -/
def execPollAny (w : Long) (s : State) : Out :=
  s.issueLong false 0x0E4 w (fun s => .done (s.laneK w.d.toNat (fun l =>
    ((s.tileLanes l).any (fun p => (s.sq.k w.a.toNat).getLsbD p), 0))))

/-- poll.all (06 R125). -/
def execPollAll (w : Long) (s : State) : Out :=
  s.issueLong false 0x0E5 w (fun s => .done (s.laneK w.d.toNat (fun l =>
    ((s.tileLanes l).all (fun p => (s.sq.k w.a.toNat).getLsbD p), 0))))

/-- poll.mask (06 R126). -/
def execPollMask (w : Long) (s : State) : Out :=
  s.issueLong false 0x0E6 w (fun s => .done (s.laneOp tB32 w.d.toNat (fun l =>
    (s.tileMask l (fun p => (s.sq.k w.a.toNat).getLsbD p), 0))))

/-- same (06 R126). -/
def execSame (w : Long) (s : State) : Out :=
  s.issueLong false 0x0E7 w (fun s => .done (s.laneOp tB32 w.d.toNat (fun l =>
    (s.tileMask l (fun p => s.vn (xType w.x) w.a.toNat p == s.vn (xType w.x) w.a.toNat l), 0))))

/-- Do the participants of a lane's tile all hold its pattern? -/
def State.allSame (s : State) (w : Long) (l : Nat) : Bool :=
  (s.tileLanes l).all (fun p => s.vn (xType w.x) w.a.toNat p == s.vn (xType w.x) w.a.toNat l)

/-- same.all (06 R126). -/
def execSameAll (w : Long) (s : State) : Out :=
  s.issueLong false 0x0E8 w (fun s =>
    let u := s.laneOp tB32 w.d.toNat (fun l => (if s.allSame w l then s.tileMask l (fun _ => true) else 0, 0))
    .done (if w.c = 0 then u else u.laneK w.c.toNat (fun l => (s.allSame w l, 0))))

/-- An operator of 06 Table 6.2 on exact integers of a type; bit operators act on patterns. -/
def redOp (op t : Nat) (a b : Int) : Int :=
  if op = 0 then a + b
  else if op = 1 then (if b < a then b else a)
  else if op = 2 then (if a < b then b else a)
  else
    let n := tyWidth t
    let x := wrapI a n
    let y := wrapI b n
    ((if op = 3 then Nat.land x y else if op = 4 then Nat.lor x y else Nat.xor x y : Nat) : Int)

/-- The identity of an operator under a type (06 Table 6.2). -/
def redIdentity (op t : Nat) : Int :=
  if op = 1 then tyHi t else if op = 2 then tyLo t else if op = 3 then tyHi t else 0

/-- Combine a list of integers. -/
def redList (op t : Nat) : List Int → Int
  | [] => redIdentity op t
  | x :: r => r.foldl (redOp op t) x

/-- redx (06 R127). -/
def execRedx (w : Long) (s : State) : Out :=
  s.issueLong false 0x0E9 w (fun s =>
    let t := xType w.x
    .done (s.laneOp t w.d.toNat (fun l =>
      (tyOut t (satOf w.m) (redList (xSub w.x) t ((s.tileLanes l).map (s.ai w))), 0))))

/-- An operator of 06 Table 6.3. -/
def redfOp (op : Nat) (mode : Rnd) (a b : W) : W × Nat :=
  let r := if op = 0 then fp32.addR mode (f32 a) (f32 b)
    else fp32.minmaxR (op == 2 || op == 4) (op == 3 || op == 4) (f32 a) (f32 b)
  (w32 r.1, r.2)

/-- Comb of 06 R128, with the conditions so far. -/
def redfComb (op : Nat) (mode : Rnd) (x y : Option W) : Option W × Nat :=
  match x, y with
  | none, y => (y, 0)
  | some a, none => (some a, 0)
  | some a, some b =>
    let r := redfOp op mode a b
    (some r.1, r.2)

/-- One level of the tree: neighbours are combined. -/
def redfLevel (op : Nat) (mode : Rnd) : List (Option W) → List (Option W) × Nat
  | x :: y :: r =>
    let c := redfComb op mode x y
    let l := redfLevel op mode r
    (c.1 :: l.1, c.2 ||| l.2)
  | l => (l, 0)

/-- The tree of n levels over the leaves. -/
def redfTree (op : Nat) (mode : Rnd) : Nat → List (Option W) → List (Option W) × Nat
  | 0, l => (l, 0)
  | n + 1, l =>
    let r := redfLevel op mode l
    let t := redfTree op mode n r.1
    (t.1, r.2 ||| t.2)

/-- The leaf of a value after the modifiers: a NaN is canonical (06 R128). -/
def redfLeaf (x : FV) : W × Nat := (w32 (fp32.round .rne false x).1, sigFlag [x])

/-- The result of a tile and its conditions (06 R128). -/
def State.redfTile (s : State) (w : Long) (base : Nat) : W × Nat :=
  let at_ (t : Nat) : Option FV :=
    if s.part (base + t) then some (modA w.m (f32 (s.sq.v w.a.toNat (base + t)))) else none
  let leaves := (List.range s.tile).map at_
  let fl := leaves.foldl (fun a x => a ||| (match x with | some v => (redfLeaf v).2 | none => 0)) 0
  let r := redfTree (xSub w.x) (s.mode (xRnd w.x)) s.sq.tsize (leaves.map (Option.map (fun v => (redfLeaf v).1)))
  ((nth none r.1 0).getD 0, fl ||| r.2)

/-- redf (06 R128). -/
def execRedf (w : Long) (s : State) : Out :=
  s.issueLong false 0x0EA w (fun s => .done (s.laneOp tB32 w.d.toNat (fun l =>
    let r := s.redfTile w (s.tileBase l)
    (r.1.toNat, r.2))))

/-- scanx (06 R127): the participants of the tile below the lane, itself too without .excl. -/
def execScanx (w : Long) (s : State) : Out :=
  s.issueLong false 0x0EB w (fun s =>
    let t := xType w.x
    let excl := bit (xSub w.x) 3
    .done (s.laneOp t w.d.toNat (fun l =>
      let ps := (s.tileLanes l).filter (fun p => decide (p < l) || (!excl && p == l))
      (wrapI (redList (xSub w.x % 8) t (ps.map (s.ai w))) (tyWidth t), 0))))

/-- rank (06 R126). -/
def execRank (w : Long) (s : State) : Out :=
  s.issueLong false 0x0EC w (fun s => .done (s.laneOp tB32 w.d.toNat (fun l =>
    (((s.tileLanes l).filter (fun p =>
      (s.sq.k w.a.toNat).getLsbD p && (decide (p < l) || (xSub w.x == 1 && p == l)))).length, 0))))

/-- Is a candidate value preferred to another (06 R129)? -/
def selBetter (t : Nat) (isMin : Bool) (m : BitVec 5) (a b : W) : Bool :=
  if t = tF32 then
    let x := modA m (f32 a)
    let y := modA m (f32 b)
    if x.isNaN then false
    else if y.isNaN then true
    else if isMin then FV.below x y else FV.below y x
  else
    let x := tyVal t a.toNat
    let y := tyVal t b.toNat
    if isMin then decide (x < y) else decide (y < x)

/-- The candidates of a tile: candidate number, column, lane, value. -/
def State.selCands (s : State) (w : Long) (base : Nat) : List (Nat × Nat × Nat × W) :=
  (List.range w.b.toNat).flatMap (fun j =>
    ((List.range s.tile).filter (fun t => s.part (base + t))).map (fun t =>
      (j * s.tile + t, j, base + t, s.sq.v (w.a.toNat + j) (base + t))))

/-- Is a candidate among the n best of its tile: fewer than n come before it? -/
def selChosen (t : Nat) (isMin : Bool) (m : BitVec 5) (n : Nat) (cs : List (Nat × Nat × Nat × W))
    (c : Nat × Nat × Nat × W) : Bool :=
  decide ((cs.filter (fun e => selBetter t isMin m e.2.2.2 c.2.2.2 ||
    (!selBetter t isMin m c.2.2.2 e.2.2.2 && decide (e.1 < c.1)))).length < n)

/-- selk (06 R129). -/
def execSelk (w : Long) (s : State) : Out :=
  s.issueLong false 0x0ED w (fun s =>
    let t := xType w.x
    let sigs := if t = tF32 then flagsOver s.lanes (fun l =>
        sigFlag ((List.range w.b.toNat).map (fun j => f32 (s.sq.v (w.a.toNat + j) l)))) else 0
    .done (((List.range w.b.toNat).foldl (fun u j =>
      u.laneK (w.d.toNat + j) (fun l =>
        let cs := s.selCands w (s.tileBase l)
        (cs.any (fun c => c.2.1 == j && c.2.2.1 == l && selChosen t (xSub w.x == 1) w.m w.c.toNat cs c), 0))) s).orFlags sigs))

end Sys2Proof.Machine
end

