-- ==== Sys2Proof/Machine/LaneFloat.lean ====
section
/-! DEFINITION. The floating-point instructions of the lane set (05 R106 to R109). -/

namespace Sys2Proof.Machine

/-- A float instruction per lane and element: its result and conditions. -/
def State.floatOp (s : State) (w : Long) (f : IFmt → Nat → Nat → Nat × Nat) : State :=
  s.laneOp tB32 w.d.toNat (fun l => floatEach (xType w.x) (f (fmtOfTy (xType w.x)) l))

/-- A float literal form: FP32 with RNE (05 R109). -/
def State.floatLit (s : State) (w : Lit) (f : FV → FV → Nat × Nat) : State :=
  s.laneOp tB32 w.d.toNat (fun l => f (modA w.m (f32 (s.sq.v w.a.toNat l))) (f32 w.lit))

/-- The negation of a value. -/
def FV.negate (x : FV) : FV := x.mods false true

/-- fadd (05 R107). -/
def execFadd (w : Long) (s : State) : Out :=
  s.issueLong false 0x040 w (fun s => .done (s.floatOp w (fun f l i =>
    f.addR (s.mode (xRnd w.x)) (s.fa w l i) (s.fb w l i))))

/-- fadd of literal form (05 R109). -/
def execFaddLit (w : Lit) (s : State) : Out := s.issueLit false 0x050 w (fun s => .done (s.floatLit w (fp32.addR .rne)))

/-- fsub (05 R107). -/
def execFsub (w : Long) (s : State) : Out :=
  s.issueLong false 0x041 w (fun s => .done (s.floatOp w (fun f l i =>
    f.addR (s.mode (xRnd w.x)) (s.fa w l i) (s.fb w l i).negate)))

/-- fsub of literal form (05 R109). -/
def execFsubLit (w : Lit) (s : State) : Out :=
  s.issueLit false 0x051 w (fun s => .done (s.floatLit w (fun a b => fp32.addR .rne a b.negate)))

/-- fmul (05 R107). -/
def execFmul (w : Long) (s : State) : Out :=
  s.issueLong false 0x042 w (fun s => .done (s.floatOp w (fun f l i =>
    f.mulR (s.mode (xRnd w.x)) (s.fa w l i) (s.fb w l i))))

/-- fmul of literal form (05 R109). -/
def execFmulLit (w : Lit) (s : State) : Out := s.issueLit false 0x052 w (fun s => .done (s.floatLit w (fp32.mulR .rne)))

/-- ffma: one rounding (05 R107). -/
def execFfma (w : Long) (s : State) : Out :=
  s.issueLong false 0x043 w (fun s => .done (s.floatOp w (fun f l i =>
    f.fma (s.mode (xRnd w.x)) (s.fa w l i) (s.fb w l i) (s.fc w l i))))

/-- fmin: .nan with sub 0, .num with sub 1 (05 R108). -/
def execFmin (w : Long) (s : State) : Out :=
  s.issueLong false 0x044 w (fun s => .done (s.floatOp w (fun f l i =>
    f.minmaxR false (xSub w.x == 1) (s.fa w l i) (s.fb w l i))))

/-- fmin of literal form: .nan (05 R109). -/
def execFminLit (w : Lit) (s : State) : Out :=
  s.issueLit false 0x053 w (fun s => .done (s.floatLit w (fp32.minmaxR false false)))

/-- fmax (05 R108). -/
def execFmax (w : Long) (s : State) : Out :=
  s.issueLong false 0x045 w (fun s => .done (s.floatOp w (fun f l i =>
    f.minmaxR true (xSub w.x == 1) (s.fa w l i) (s.fb w l i))))

/-- fmax of literal form: .nan (05 R109). -/
def execFmaxLit (w : Lit) (s : State) : Out :=
  s.issueLit false 0x054 w (fun s => .done (s.floatLit w (fp32.minmaxR true false)))

/-- The condition of fcmp on two values (05 R108): 6 unordered, 7 ordered; with a NaN only .ne and .un hold. -/
def floatCond (code : Nat) (a b : FV) : Bool :=
  let un := a.isNaN || b.isNaN
  if code = 6 then un
  else if code = 7 then !un
  else if un then code == 1
  else condHolds code (FV.lt a b) (FV.eqv a b)

/-- fcmp (05 R108). -/
def execFcmp (w : Long) (s : State) : Out :=
  s.issueLong false 0x046 w (fun s => .done (s.laneK w.d.toNat (fun l =>
    (floatCond (xSub w.x) (s.fa w l 0) (s.fb w l 0), sigFlag [s.fa w l 0, s.fb w l 0]))))

/-- fclass (05 R108). -/
def execFclass (w : Long) (s : State) : Out :=
  s.issueLong false 0x047 w (fun s => .done (s.laneOp tB32 w.d.toNat (fun l =>
    ((fmtOfTy (xType w.x)).classOf (s.fa w l 0), 0))))

/-- frnd (05 R108). -/
def execFrnd (w : Long) (s : State) : Out :=
  s.issueLong false 0x048 w (fun s => .done (s.floatOp w (fun f l i => f.rint (s.mode (xRnd w.x)) (s.fa w l i))))

end Sys2Proof.Machine
end

