-- ==== Sys2Proof/Machine/LaneInt.lean ====
section
/-! DEFINITION. The integer instructions of the lane set (05 R102 to R105). -/

namespace Sys2Proof.Machine

/-- An exact integer per lane, written under the type of x (05 R102). -/
def State.intOp (s : State) (w : Long) (f : Nat → Int) : State :=
  s.laneOp (xType w.x) w.d.toNat (fun l => (tyOut (xType w.x) (satOf w.m) (f l), 0))

/-- A pattern per lane, written under the type of x. -/
def State.patOp (s : State) (w : Long) (f : Nat → Nat) : State := s.laneOp (xType w.x) w.d.toNat (fun l => (f l, 0))

/-- A literal form: a and the literal under a type, the exact result (05 R105). -/
def State.litOp (s : State) (w : Lit) (t : Nat) (f : Int → Int → Int) : State :=
  s.laneOp t w.d.toNat (fun l =>
    (tyOut t (satOf w.m) (f (tyVal t (s.sq.v w.a.toNat l).toNat) (tyVal t w.lit.toNat)), 0))

/-- A short form on one register of each operand. -/
def State.shortOp (s : State) (w : Short) (f : W → W → W) : State :=
  s.laneOp tB32 w.d.toNat (fun l => ((f (s.sq.v w.a.toNat l) (s.sq.v w.b.toNat l)).toNat, 0))

/-- Shifts of an n-bit pattern by an unsigned amount (05 R103). -/
def shiftL (n v k : Nat) : Nat := if n ≤ k then 0 else v * 2 ^ k % 2 ^ n
def shiftR (n v k : Nat) : Nat := if n ≤ k then 0 else v % 2 ^ n / 2 ^ k
def shiftA (n v k : Nat) : Nat := wrapI (sext v n / ((2 ^ min k n : Nat) : Int)) n

/-- Lesser and greater of exact integers. -/
def lesser (a b : Int) : Int := if b < a then b else a
def greater (a b : Int) : Int := if a < b then b else a

/-- vperm's byte of a selector nibble (05 R103). -/
def permByte (sel ab : Nat) : Nat := if bit sel 3 then 0 else bits ab (8 * (sel % 8) + 7) (8 * (sel % 8))

/-- vperm of v[b], v[a] concatenated under selectors. -/
def permWord (c ab : Nat) : Nat :=
  (List.range 4).foldl (fun r i => r + permByte (bits c (4 * i + 3) (4 * i)) ab * 2 ^ (8 * i)) 0

/-- The bit field of R83: `len` bits from `pos`, sign-extended with bit 13 of x. -/
def fieldX (x : BitVec 16) (a : Nat) : Nat :=
  let v := bits a (bfPos x + bfLen x - 1) (bfPos x)
  if bit x.toNat 13 then wrapI (sext v (bfLen x)) 32 else v

/-- a with its field replaced by the low bits of b (R83). -/
def fieldI (x : BitVec 16) (a b : Nat) : Nat :=
  let f := 2 ^ bfLen x
  let v := bits a (bfPos x + bfLen x - 1) (bfPos x)
  a + (b % f) * 2 ^ bfPos x - v * 2 ^ bfPos x

/-- vadd (05 R102). -/
def execVadd (w : Long) (s : State) : Out :=
  s.issueLong false 0x001 w (fun s => .done (s.intOp w (fun l => s.ai w l + s.bi w l)))

/-- vadd of literal form (05 R105). -/
def execVaddLit (w : Lit) (s : State) : Out := s.issueLit false 0x020 w (fun s => .done (s.litOp w tS32 (· + ·)))

/-- vsub (05 R102). -/
def execVsub (w : Long) (s : State) : Out :=
  s.issueLong false 0x002 w (fun s => .done (s.intOp w (fun l => s.ai w l - s.bi w l)))

/-- vsub of literal form (05 R105). -/
def execVsubLit (w : Lit) (s : State) : Out := s.issueLit false 0x021 w (fun s => .done (s.litOp w tS32 (· - ·)))

/-- The exact sum of vaddc in a lane, carry in included (05 R103). -/
def State.addcSum (s : State) (w : Long) (l : Nat) : Nat :=
  (s.sq.v w.a.toNat l).toNat + (s.bw w l).toNat + b2n ((s.sq.k w.c.toNat).getLsbD l)

/-- vaddc: the sum, and the carry into mask sub when sub is not 0 (05 R103). -/
def execVaddc (w : Long) (s : State) : Out :=
  s.issueLong false 0x003 w (fun s =>
    let t := s.laneOp tN32 w.d.toNat (fun l => (s.addcSum w l, 0))
    .done (if xSub w.x = 0 then t else t.laneK (xSub w.x) (fun l => (bit (s.addcSum w l) 32, 0))))

/-- vmul (05 R102). -/
def execVmul (w : Long) (s : State) : Out :=
  s.issueLong false 0x004 w (fun s => .done (s.intOp w (fun l => s.ai w l * s.bi w l)))

/-- vmul of literal form (05 R105). -/
def execVmulLit (w : Lit) (s : State) : Out := s.issueLit false 0x022 w (fun s => .done (s.litOp w tS32 (· * ·)))

/-- vmulh: bits [63:32] of the product (05 R102). -/
def execVmulh (w : Long) (s : State) : Out :=
  s.issueLong false 0x005 w (fun s => .done (s.intOp w (fun l => s.ai w l * s.bi w l / 4294967296)))

/-- vmad and vmad.wide (05 R103). -/
def execVmad (w : Long) (s : State) : Out :=
  s.issueLong false 0x006 w (fun s =>
    let t := if xSub w.x = 1 then tB64 else tB32
    .done (s.laneOp t w.d.toNat (fun l =>
      (wrapI (s.ai w l * s.bi w l + (s.vn t w.c.toNat l : Int)) (tyWidth t), 0))))

/-- vabs (05 R102). -/
def execVabs (w : Long) (s : State) : Out :=
  s.issueLong false 0x007 w (fun s => .done (s.intOp w (fun l => ((s.ai w l).natAbs : Int))))

/-- vperm (05 R103). -/
def execVperm (w : Long) (s : State) : Out :=
  s.issueLong false 0x00F w (fun s => .done (s.patOp w (fun l =>
    permWord (s.sq.v w.c.toNat l).toNat ((s.sq.v w.a.toNat l).toNat + 4294967296 * (s.bw w l).toNat))))

/-- A shift of a lane by the one-register amount b. -/
def State.shiftOp (s : State) (w : Long) (f : Nat → Nat → Nat → Nat) : State :=
  s.patOp w (fun l => f (tyWidth (xType w.x)) (s.vn (xType w.x) w.a.toNat l) (s.bw w l).toNat)

/-- A shift of a lane by a literal. -/
def State.shiftLit (s : State) (w : Lit) (f : Nat → Nat → Nat → Nat) : State :=
  s.laneOp tB32 w.d.toNat (fun l => (f 32 (s.sq.v w.a.toNat l).toNat w.lit.toNat, 0))

/-- vshl (05 R102, R103). -/
def execVshl (w : Long) (s : State) : Out := s.issueLong false 0x010 w (fun s => .done (s.shiftOp w shiftL))

/-- vshl of literal form (05 R105). -/
def execVshlLit (w : Lit) (s : State) : Out := s.issueLit false 0x026 w (fun s => .done (s.shiftLit w shiftL))

/-- vshr (05 R102, R103). -/
def execVshr (w : Long) (s : State) : Out := s.issueLong false 0x011 w (fun s => .done (s.shiftOp w shiftR))

/-- vshr of literal form (05 R105). -/
def execVshrLit (w : Lit) (s : State) : Out := s.issueLit false 0x027 w (fun s => .done (s.shiftLit w shiftR))

/-- vsra (05 R102, R103). -/
def execVsra (w : Long) (s : State) : Out := s.issueLong false 0x012 w (fun s => .done (s.shiftOp w shiftA))

/-- vsra of literal form (05 R105). -/
def execVsraLit (w : Lit) (s : State) : Out := s.issueLit false 0x028 w (fun s => .done (s.shiftLit w shiftA))

/-- vmin (05 R102). -/
def execVmin (w : Long) (s : State) : Out :=
  s.issueLong false 0x013 w (fun s => .done (s.intOp w (fun l => lesser (s.ai w l) (s.bi w l))))

/-- vmin of literal form (05 R105). -/
def execVminLit (w : Lit) (s : State) : Out := s.issueLit false 0x029 w (fun s => .done (s.litOp w tS32 lesser))

/-- vmax (05 R102). -/
def execVmax (w : Long) (s : State) : Out :=
  s.issueLong false 0x014 w (fun s => .done (s.intOp w (fun l => greater (s.ai w l) (s.bi w l))))

/-- vmax of literal form (05 R105). -/
def execVmaxLit (w : Lit) (s : State) : Out := s.issueLit false 0x02A w (fun s => .done (s.litOp w tS32 greater))

/-- vsel (05 R102). -/
def execVsel (w : Long) (s : State) : Out :=
  s.issueLong false 0x015 w (fun s => .done (s.patOp w (fun l =>
    if (s.sq.k w.c.toNat).getLsbD l then (s.sq.v w.a.toNat l).toNat else (s.bw w l).toNat)))

/-- vcmp (05 R102). -/
def execVcmp (w : Long) (s : State) : Out :=
  s.issueLong false 0x016 w (fun s => .done (s.laneK w.d.toNat (fun l =>
    (condHolds (xSub w.x) (decide (s.ai w l < s.bi w l)) (decide (s.ai w l = s.bi w l)), 0))))

/-- vbfx (05 R102, 04 R83). -/
def execVbfx (w : Long) (s : State) : Out :=
  s.issueLong false 0x017 w (fun s => .done (s.laneOp tB32 w.d.toNat (fun l => (fieldX w.x (s.sq.v w.a.toNat l).toNat, 0))))

/-- vbfi (05 R102, 04 R83). -/
def execVbfi (w : Long) (s : State) : Out :=
  s.issueLong false 0x018 w (fun s => .done (s.laneOp tB32 w.d.toNat (fun l =>
    (fieldI w.x (s.sq.v w.a.toNat l).toNat (s.sq.v w.b.toNat l).toNat, 0))))

/-- vand (05 R104). -/
def execVand (w : Short) (s : State) : Out := s.issueShort false 0x008 w (fun s => .done (s.shortOp w (· &&& ·)))

/-- A bitwise literal form (05 R105). -/
def State.litBits (s : State) (w : Lit) (f : W → W → W) : State :=
  s.laneOp tB32 w.d.toNat (fun l => ((f (s.sq.v w.a.toNat l) w.lit).toNat, 0))

/-- vand of literal form (05 R105). -/
def execVandLit (w : Lit) (s : State) : Out := s.issueLit false 0x023 w (fun s => .done (s.litBits w (· &&& ·)))

/-- vor (05 R104). -/
def execVor (w : Short) (s : State) : Out := s.issueShort false 0x009 w (fun s => .done (s.shortOp w (· ||| ·)))

/-- vor of literal form (05 R105). -/
def execVorLit (w : Lit) (s : State) : Out := s.issueLit false 0x024 w (fun s => .done (s.litBits w (· ||| ·)))

/-- vxor (05 R104). -/
def execVxor (w : Short) (s : State) : Out := s.issueShort false 0x00A w (fun s => .done (s.shortOp w (· ^^^ ·)))

/-- vxor of literal form (05 R105). -/
def execVxorLit (w : Lit) (s : State) : Out := s.issueLit false 0x025 w (fun s => .done (s.litBits w (· ^^^ ·)))

/-- vnot (05 R104). -/
def execVnot (w : Short) (s : State) : Out := s.issueShort false 0x00B w (fun s => .done (s.shortOp w (fun a _ => ~~~a)))

/-- vpopc (05 R104). -/
def execVpopc (w : Short) (s : State) : Out :=
  s.issueShort false 0x00C w (fun s => .done (s.shortOp w (fun a _ => w32 (popc a.toNat 32))))

/-- vclz (05 R104). -/
def execVclz (w : Short) (s : State) : Out :=
  s.issueShort false 0x00D w (fun s => .done (s.shortOp w (fun a _ => w32 (clz a.toNat 32))))

/-- vbrev (05 R104). -/
def execVbrev (w : Short) (s : State) : Out :=
  s.issueShort false 0x00E w (fun s => .done (s.shortOp w (fun a _ => w32 (brev a.toNat 32))))

end Sys2Proof.Machine
end

