-- ==== Sys2Proof/Machine/Phase.lean ====
section
/-! DEFINITION. Phases, transactions, ring queues and range cache operations (07 R148 to R157). -/

namespace Sys2Proof.Machine

/-! ### Phases (07 R151) -/

/-- pub. -/
def execPub (w : Short) (s : State) : Out := s.issueShort true 0x0A0 w (fun s => s.andThen [.publish, .waitAck])

/-- snap. -/
def execSnap (w : Short) (s : State) : Out := s.issueShort true 0x0A1 w (fun s => s.andThen [.snap])

/-- phase. -/
def execPhase (w : Short) (s : State) : Out := s.issueShort true 0x0A2 w (fun s => s.andThen [.publish, .waitAck, .snap])

/-! ### Transactions (07 R152 to R155) -/

/-- txbeg (07 R152). -/
def execTxbeg (w : Short) (s : State) : Out :=
  s.issueShort true 0x0A3 w (fun s => s.andThen [.publish, .waitAck, .snap, .txEnter])

/-- The written lines of the transaction, in ascending address. -/
def State.txLines (s : State) : List Nat := sortNat ((s.sq.pending.filter (·.tx)).map (·.line))

/-- txend (07 R154): a doomed transaction, and one that wrote nothing, end at once. -/
def execTxend (w : Short) (s : State) : Out :=
  s.issueShort true 0x0A4 w (fun s =>
    match s.sq.doomed, s.txLines with
    | some cause, _ => .done (s.leaveTx cause false)
    | none, [] => .done ((s.cuStamp s.sq.cache).2.leaveTx 0 true |>.observe (s.cuStamp s.sq.cache).1)
    | none, ls =>
      let c := s.cuStamp s.sq.cache
      c.2.andThen [.txLock c.1 ls])

/-- txabort (07 R155). -/
def execTxabort (w : Short) (s : State) : Out :=
  s.issueShort true 0x0A5 w (fun s =>
    .done (s.leaveTx (match s.sq.doomed with | some c => c | none => txExplicit + 256 * w.b.toNat) false))

/-! ### Ring queues (07 R156, R157) -/

/-- The accesses to the slots from entry i on, one for each lane of a list. -/
def RingBlk.slots (r : RingBlk) (i : Nat) (lanes : List Nat) : List Acc :=
  (List.range lanes.length).map (fun j => ⟨nth 0 lanes j, (r.slot (i + j) : Int), 8⟩)

/-- Epochs of lines collapse and their owners depart before the home acts on them. -/
def State.homeReady (s : State) (lines : List Nat) : State :=
  lines.foldl (fun s l => ((s.collapseCu s.sq.cache l).2).recallOthers 10000 l false) s

/-- The checks that enq and deq share: the control block, its format, then the slots that `slots` names, which `k` says are read or
only written; `go` acts at the home once no line waits there. A ring of which no slot is touched is not checked (log 111). -/
def State.ringOp (s : State) (va : Nat) (k : AKind) (slots : RingBlk → List Acc) (go : State → Res) : Res :=
  let blk : List Acc := [⟨0, (va : Int), 64⟩]
  s.checked .ring 64 blk (fun _ =>
    s.whenOpen .event (s.accLines blk) (fun _ =>
      let s := s.homeReady (s.accLines blk)
      let r := s.ringBlk va
      if !r.ok then .trap ⟨.ringfmt, 0, 0, 0⟩
      else
        s.checked k 8 (slots r) (fun _ =>
          let ls := s.accLines (blk ++ slots r)
          s.whenOpen .event ls (fun _ => go (s.homeReady ls)))))

/-- enq (07 R157): it publishes first, then acts at the home of the block. -/
def execEnq (w : Long) (s : State) : Out :=
  s.issueLong true 0x0A6 w (fun s =>
    let va := (s.spair w.b.toNat).toNat
    let ls := lanesOf s.lanes
    s.ringOp va .slot (fun r => if r.tail - r.head + ls.length ≤ 2 ^ r.cap then r.slots r.tail ls else []) (fun t =>
      if s.published then .done (t.enqAt va (ls.map (fun l => t.sq.v2 w.d.toNat l)))
      else .park ((s.setTodo [.publish, .waitAck, .reissue]).runTodo)))

/-- deq (07 R157). -/
def execDeq (w : Long) (s : State) : Out :=
  s.issueLong true 0x0A7 w (fun s =>
    let va := (s.spair w.b.toNat).toNat
    let ls := lanesOf s.lanes
    s.ringOp va .ring (fun r => r.slots r.head (ls.take (r.tail - r.head))) (fun t =>
      (t.deqAt va w.d.toNat w.c.toNat s.lanes).andThen [.snap]))

/-! ### Range cache operations (07 R148 to R150) -/

/-- The lines of a range that are mapped for the issuer, whether or not a TLB holds their translations (19 R312). -/
def State.touched (s : State) (lo len : Nat) : List Nat :=
  if len = 0 then []
  else
    (List.range ((lo + len - 1) / 128 - lo / 128 + 1)).filterMap (fun i =>
      (s.leafFor s.ctxNow ((lo / 128 + i) * 128)).map (fun l => lineOf (l.key ((lo / 128 + i) * 128))))

/-- A range instruction: op 0 cwb, 1 cinv, 2 cwbinv. The MCC's cinv publishes nothing (07 R149). -/
def State.rangeOp (s : State) (op : Nat) (w : Long) : Res :=
  let lo := (s.spair w.a.toNat).toNat
  let len := (s.sreg w.b.toNat).toNat
  let ls := s.touched lo len
  if !s.ackRoom s.sending then .hold
  else s.whenOpen .shared s.preEpochs (fun _ =>
  let t := if s.isM then (if op = 1 then s else s.publishEpi (fun l => !l.scr && ls.contains l.line))
    else s.publishSome (fun p => ls.contains p.line) false
  t.andThen [.waitAck, .walkLines op lo len, .walkAck])

/-- cwb (07 R149). -/
def execCwb (w : Long) (s : State) : Out := s.issueLong true 0x0A8 w (fun s => s.rangeOp 0 w)

/-- cinv (07 R149). -/
def execCinv (w : Long) (s : State) : Out := s.issueLong true 0x0A9 w (fun s => s.rangeOp 1 w)

/-- cwbinv (07 R149). -/
def execCwbinv (w : Long) (s : State) : Out := s.issueLong true 0x0AA w (fun s => s.rangeOp 2 w)

end Sys2Proof.Machine
end

