-- ==== Sys2Proof/Machine/Sfu.lean ====
section
/-! DEFINITION. The special-function unit and the activation table (05 R114 to R120). -/

namespace Sys2Proof.Machine

/-- The modifiers of a on an FP32 pattern (05 R114, R120). -/
def modW (m : BitVec 5) (x : W) : W :=
  let y := if m.getLsbD 2 then x &&& 0x7FFFFFFF else x
  if m.getLsbD 0 then y ^^^ 0x80000000 else y

/-- The entries of the issuing squad's SFU pipe. -/
def State.pipeLen (s : State) : Nat := (s.sfu.filter (fun e => e.cache == s.sq.cache && e.sub == s.sq.sub)).length

/-- An instruction enters the SFU pipe with its results computed from the operands at issue; while all 8 entries are held
it does not issue (05 R115). -/
def State.sfuOp (s : State) (d : Nat) (lut : Option (Nat × Bool)) (f : Nat → W × Nat) : Res :=
  if 8 ≤ s.pipeLen then .hold
  else
    let q := s.sq
    let vals := (List.range 32).map (fun l => if s.lanes.getLsbD l then (f l).1 else 0)
    let rep : Replay :=
      { cur := q.cur, handler := q.handler, lanes := s.lanes, writes := [⟨d, s.lanes, vals⟩]
        flags := w32 (flagsOver s.lanes (fun l => (f l).2)), energy := q.due }
    let e : SfuEnt := ⟨q.cache, q.sub, q.id, rep, lut⟩
    .piped (({ s with sfu := s.sfu ++ [e] } : State).modSq (fun q => { q with due := 0 }))

/-- A special function of the operand a. -/
def State.specialOp (s : State) (fn : Nat) (w : Long) : Res :=
  s.sfuOp w.d.toNat none (fun l => sfuFn fn (modW w.m (s.sq.v w.a.toNat l)))

/-- frcp (05 R114). -/
def execFrcp (w : Long) (s : State) : Out := s.issueLong false 0x0C0 w (fun s => s.specialOp 0 w)

/-- frsq (05 R114). -/
def execFrsq (w : Long) (s : State) : Out := s.issueLong false 0x0C1 w (fun s => s.specialOp 1 w)

/-- fsqrt (05 R114). -/
def execFsqrt (w : Long) (s : State) : Out := s.issueLong false 0x0C2 w (fun s => s.specialOp 2 w)

/-- fexp2 (05 R114). -/
def execFexp2 (w : Long) (s : State) : Out := s.issueLong false 0x0C3 w (fun s => s.specialOp 3 w)

/-- flog2 (05 R114). -/
def execFlog2 (w : Long) (s : State) : Out := s.issueLong false 0x0C4 w (fun s => s.specialOp 4 w)

/-- fsin (05 R114). -/
def execFsin (w : Long) (s : State) : Out := s.issueLong false 0x0C5 w (fun s => s.specialOp 5 w)

/-- fcos (05 R114). -/
def execFcos (w : Long) (s : State) : Out := s.issueLong false 0x0C6 w (fun s => s.specialOp 6 w)

/-- The pair that the issuing team holds. -/
def State.heldPair (s : State) : Option LutPair :=
  match s.teamNow with
  | some u => u.lut.bind (fun n => s.luts.find? (fun p => p.cache == u.cache && p.num == n))
  | none => none

/-- The evaluations of the team that captured a bank retire, each with those before it in its pipe (05 R118). -/
def State.drainLut (s : State) (sel : Bool) : State :=
  (List.range 4).foldl (fun s b =>
    (upToLast (fun e => e.lut == some (s.sq.team, sel)) (s.sfu.filter (fun e => e.cache == s.sq.cache && e.sub == b))).foldl
      State.retireSfu s) s

/-- lutld (05 R118). -/
def execLutld (w : Long) (s : State) : Out :=
  s.issueLong false 0x0C8 w (fun s =>
    let s := match s.heldPair with
      | some p => s.drainLut (!p.sel)
      | none => s
    let row (r : Nat) : List W := (List.range 32).map (fun l => s.sq.v r l)
    s.andThen [.lutDo false w.x.toNat s.lanes (row w.a.toNat) (row w.b.toNat)])

/-- lutsel (05 R119). -/
def execLutsel (w : Long) (s : State) : Out :=
  s.issueLong false 0x0C9 w (fun s => s.andThen [.lutDo true 0 0 [] []])

/-- One evaluation against a bank (05 R120). A fraction of exactly zero is +0: the model's choice for t = -0 (log 108). -/
def lutEval (bank : List (Nat × W)) (x : W) : W × Nat :=
  let v (e : Nat) : W := look 0 bank (2 * e)
  let sl (e : Nat) : W := look 0 bank (2 * e + 1)
  let t := fma32 x (v 128) (sl 128)
  let ft := f32 t.1
  if ft.isNaN then (w32 fp32.nanPat, t.2)
  else
    let i : Nat := match ft with
      | .inf n => if n then 0 else 127
      | .fin n m e => (clampI (roundInt .rd n m e).1 0 127).toNat
      | .nan _ => 0
    let f := fp32.addR .rne ft (FV.ofInt (-(i : Int)))
    let r := fma32 (w32 f.1) (sl i) (v i)
    (r.1, t.2 ||| f.2 ||| r.2)

/-- luteval (05 R120). -/
def execLuteval (w : Long) (s : State) : Out :=
  s.issueLong false 0x0CA w (fun s =>
    match s.heldPair with
    | some p => s.sfuOp w.d.toNat (some (s.sq.team, p.sel)) (fun l =>
        lutEval (if p.sel then p.bank1 else p.bank0) (modW w.m (s.sq.v w.a.toNat l)))
    | none => s.sfuOp w.d.toNat none (fun _ => (w32 fp32.nanPat, fNV)))

end Sys2Proof.Machine
end

