-- ==== Sys2Proof/Machine/Uniform.lean ====
section
/-! DEFINITION. Scalar arithmetic and mask instructions of the uniform set (04 R79 to R86). -/

namespace Sys2Proof.Machine

/-- A short scalar instruction (04 R79). -/
def State.scalarOp (s : State) (w : Short) (f : W → W → W) : State := s.setS w.d.toNat (f (s.sreg w.a.toNat) (s.sreg w.b.toNat))

/-- A literal scalar instruction (04 R80). -/
def State.scalarLit (s : State) (w : Lit) (f : W → W → W) : State := s.setS w.d.toNat (f (s.sreg w.a.toNat) w.lit)

/-- The scalar shifts (04 R79). -/
def sShl (a b : W) : W := w32 (shiftL 32 a.toNat b.toNat)
def sShr (a b : W) : W := w32 (shiftR 32 a.toNat b.toNat)
def sSra (a b : W) : W := w32 (shiftA 32 a.toNat b.toNat)

/-- The high half of the unsigned product. -/
def sMulh (a b : W) : W := w32 (a.toNat * b.toNat / 4294967296)

/-- Write the uniform register of a type. -/
def State.putS (s : State) (t d v : Nat) : State :=
  if is64 t then s.setS2 d (BitVec.ofNat 64 v) else s.setS d (w32 v)

/-- Operands a and b of a typed uniform instruction as integers (04 R81). -/
def State.sai (s : State) (w : Long) : Int := tyVal (xType w.x) (s.sn (xType w.x) w.a.toNat)
def State.sbi (s : State) (w : Long) : Int := tyVal (xType w.x) (s.sn (xType w.x) w.b.toNat)

/-- sadd (04 R79). -/
def execSadd (w : Short) (s : State) : Out := s.issueShort true 0x000 w (fun s => .done (s.scalarOp w (· + ·)))

/-- ssub (04 R79). -/
def execSsub (w : Short) (s : State) : Out := s.issueShort true 0x001 w (fun s => .done (s.scalarOp w (· - ·)))

/-- smul (04 R79). -/
def execSmul (w : Short) (s : State) : Out := s.issueShort true 0x002 w (fun s => .done (s.scalarOp w (· * ·)))

/-- smulh (04 R79). -/
def execSmulh (w : Short) (s : State) : Out := s.issueShort true 0x003 w (fun s => .done (s.scalarOp w sMulh))

/-- sand (04 R79). -/
def execSand (w : Short) (s : State) : Out := s.issueShort true 0x004 w (fun s => .done (s.scalarOp w (· &&& ·)))

/-- sor (04 R79). -/
def execSor (w : Short) (s : State) : Out := s.issueShort true 0x005 w (fun s => .done (s.scalarOp w (· ||| ·)))

/-- sxor (04 R79). -/
def execSxor (w : Short) (s : State) : Out := s.issueShort true 0x006 w (fun s => .done (s.scalarOp w (· ^^^ ·)))

/-- snot (04 R79). -/
def execSnot (w : Short) (s : State) : Out := s.issueShort true 0x007 w (fun s => .done (s.scalarOp w (fun a _ => ~~~a)))

/-- sshl (04 R79). -/
def execSshl (w : Short) (s : State) : Out := s.issueShort true 0x008 w (fun s => .done (s.scalarOp w sShl))

/-- sshr (04 R79). -/
def execSshr (w : Short) (s : State) : Out := s.issueShort true 0x009 w (fun s => .done (s.scalarOp w sShr))

/-- ssra (04 R79). -/
def execSsra (w : Short) (s : State) : Out := s.issueShort true 0x00A w (fun s => .done (s.scalarOp w sSra))

/-- smov (04 R79). -/
def execSmov (w : Short) (s : State) : Out := s.issueShort true 0x00E w (fun s => .done (s.scalarOp w (fun a _ => a)))

/-- spopc (04 R79). -/
def execSpopc (w : Short) (s : State) : Out := s.issueShort true 0x013 w (fun s => .done (s.scalarOp w (fun a _ => w32 (popc a.toNat 32))))

/-- sclz (04 R79). -/
def execSclz (w : Short) (s : State) : Out := s.issueShort true 0x014 w (fun s => .done (s.scalarOp w (fun a _ => w32 (clz a.toNat 32))))

/-- sadd of literal form (04 R80). -/
def execSaddLit (w : Lit) (s : State) : Out := s.issueLit true 0x018 w (fun s => .done (s.scalarLit w (· + ·)))

/-- smul of literal form (04 R80). -/
def execSmulLit (w : Lit) (s : State) : Out := s.issueLit true 0x019 w (fun s => .done (s.scalarLit w (· * ·)))

/-- sand of literal form (04 R80). -/
def execSandLit (w : Lit) (s : State) : Out := s.issueLit true 0x01A w (fun s => .done (s.scalarLit w (· &&& ·)))

/-- sor of literal form (04 R80). -/
def execSorLit (w : Lit) (s : State) : Out := s.issueLit true 0x01B w (fun s => .done (s.scalarLit w (· ||| ·)))

/-- sxor of literal form (04 R80). -/
def execSxorLit (w : Lit) (s : State) : Out := s.issueLit true 0x01C w (fun s => .done (s.scalarLit w (· ^^^ ·)))

/-- sshl of literal form (04 R80). -/
def execSshlLit (w : Lit) (s : State) : Out := s.issueLit true 0x01D w (fun s => .done (s.scalarLit w sShl))

/-- sshr of literal form (04 R80). -/
def execSshrLit (w : Lit) (s : State) : Out := s.issueLit true 0x01E w (fun s => .done (s.scalarLit w sShr))

/-- ssra of literal form (04 R80). -/
def execSsraLit (w : Lit) (s : State) : Out := s.issueLit true 0x01F w (fun s => .done (s.scalarLit w sSra))

/-- smovi (04 R80). -/
def execSmovi (w : Lit) (s : State) : Out := s.issueLit true 0x00F w (fun s => .done (s.scalarLit w (fun _ b => b)))

/-- smin (04 R81). -/
def execSmin (w : Long) (s : State) : Out :=
  s.issueLong true 0x00B w (fun s => .done (s.putS (xType w.x) w.d.toNat (tyOut (xType w.x) false (lesser (s.sai w) (s.sbi w)))))

/-- smax (04 R81). -/
def execSmax (w : Long) (s : State) : Out :=
  s.issueLong true 0x00C w (fun s => .done (s.putS (xType w.x) w.d.toNat (tyOut (xType w.x) false (greater (s.sai w) (s.sbi w)))))

/-- ssel (04 R82). -/
def execSsel (w : Long) (s : State) : Out :=
  s.issueLong true 0x00D w (fun s => .done (s.setS w.d.toNat (if s.scc then s.sreg w.a.toNat else s.sreg w.b.toNat)))

/-- scmp (04 R81). -/
def execScmp (w : Long) (s : State) : Out :=
  s.issueLong true 0x010 w (fun s => .done (s.setScc
    (condHolds (xSub w.x) (decide (s.sai w < s.sbi w)) (decide (s.sai w = s.sbi w)))))

/-- sbfx (04 R83). -/
def execSbfx (w : Long) (s : State) : Out :=
  s.issueLong true 0x011 w (fun s => .done (s.setS w.d.toNat (w32 (fieldX w.x (s.sreg w.a.toNat).toNat))))

/-- sbfi (04 R83). -/
def execSbfi (w : Long) (s : State) : Out :=
  s.issueLong true 0x012 w (fun s => .done (s.setS w.d.toNat
    (w32 (fieldI w.x (s.sreg w.a.toNat).toNat (s.sreg w.b.toNat).toNat))))

/-- slea (04 R84). -/
def execSlea (w : Long) (s : State) : Out :=
  s.issueLong true 0x015 w (fun s => .done (s.setS2 w.d.toNat
    (BitVec.ofInt 64 (((s.spair w.a.toNat).toNat : Int) + s.sbi w * ((2 ^ xSub w.x : Nat) : Int)))))

/-! ### Masks (04 R85, R86) -/

/-- Write a mask register of the issuing squad. -/
def State.setKReg (s : State) (n : Nat) (v : Mask) : State := s.modSq (fun q => q.setK n v)

/-- kand (04 R85). -/
def execKand (w : Short) (s : State) : Out :=
  s.issueShort true 0x040 w (fun s => .done (s.setKReg w.d.toNat (s.sq.k w.a.toNat &&& s.sq.k w.b.toNat)))

/-- kor (04 R85). -/
def execKor (w : Short) (s : State) : Out :=
  s.issueShort true 0x041 w (fun s => .done (s.setKReg w.d.toNat (s.sq.k w.a.toNat ||| s.sq.k w.b.toNat)))

/-- kxor (04 R85). -/
def execKxor (w : Short) (s : State) : Out :=
  s.issueShort true 0x042 w (fun s => .done (s.setKReg w.d.toNat (s.sq.k w.a.toNat ^^^ s.sq.k w.b.toNat)))

/-- knot (04 R85). -/
def execKnot (w : Short) (s : State) : Out :=
  s.issueShort true 0x043 w (fun s => .done (s.setKReg w.d.toNat (~~~(s.sq.k w.a.toNat))))

/-- kmov kd, ka (04 R86). -/
def execKmovKFromK (w : Short) (s : State) : Out :=
  s.issueShort true 0x044 w (fun s => .done (s.setKReg w.d.toNat (s.sq.k w.a.toNat)))

/-- kmov kd, sa (04 R86). -/
def execKmovKFromS (w : Short) (s : State) : Out :=
  s.issueShort true 0x044 w (fun s => .done (s.setKReg w.d.toNat (s.sreg w.a.toNat)))

/-- kmov sd, ka (04 R86). -/
def execKmovSFromK (w : Short) (s : State) : Out :=
  s.issueShort true 0x044 w (fun s => .done (s.setS w.d.toNat (s.sq.k w.a.toNat)))

/-- kset (04 R85). -/
def execKset (w : Lit) (s : State) : Out :=
  s.issueLit true 0x045 w (fun s => .done (s.setKReg w.d.toNat w.lit))

/-- kpopc (04 R85). -/
def execKpopc (w : Short) (s : State) : Out :=
  s.issueShort true 0x046 w (fun s => .done (s.setS w.d.toNat (w32 (popc (s.sq.k w.a.toNat).toNat 32))))

/-- kfirst (04 R85). -/
def execKfirst (w : Short) (s : State) : Out :=
  s.issueShort true 0x047 w (fun s => .done (s.setS w.d.toNat (w32 (lowBit (s.sq.k w.a.toNat).toNat 32))))

end Sys2Proof.Machine
end

