-- ==== Sys2Proof/Machine/Dispatch.lean ====
section
/-! DEFINITION. The dispatcher: one arm per constructor of `Instr`, each a direct call of its meaning. -/

namespace Sys2Proof.Machine

/-- The meaning of an instruction or event. -/
def exec (i : Instr) (s : State) : Host.Outcome State Fault Refusal :=
  match i with
  | .vadd w => Sys2Proof.Machine.execVadd w s
  | .vaddLit w => Sys2Proof.Machine.execVaddLit w s
  | .vsub w => Sys2Proof.Machine.execVsub w s
  | .vsubLit w => Sys2Proof.Machine.execVsubLit w s
  | .vaddc w => Sys2Proof.Machine.execVaddc w s
  | .vmul w => Sys2Proof.Machine.execVmul w s
  | .vmulLit w => Sys2Proof.Machine.execVmulLit w s
  | .vmulh w => Sys2Proof.Machine.execVmulh w s
  | .vmad w => Sys2Proof.Machine.execVmad w s
  | .vabs w => Sys2Proof.Machine.execVabs w s
  | .vperm w => Sys2Proof.Machine.execVperm w s
  | .vshl w => Sys2Proof.Machine.execVshl w s
  | .vshlLit w => Sys2Proof.Machine.execVshlLit w s
  | .vshr w => Sys2Proof.Machine.execVshr w s
  | .vshrLit w => Sys2Proof.Machine.execVshrLit w s
  | .vsra w => Sys2Proof.Machine.execVsra w s
  | .vsraLit w => Sys2Proof.Machine.execVsraLit w s
  | .vmin w => Sys2Proof.Machine.execVmin w s
  | .vminLit w => Sys2Proof.Machine.execVminLit w s
  | .vmax w => Sys2Proof.Machine.execVmax w s
  | .vmaxLit w => Sys2Proof.Machine.execVmaxLit w s
  | .vsel w => Sys2Proof.Machine.execVsel w s
  | .vcmp w => Sys2Proof.Machine.execVcmp w s
  | .vbfx w => Sys2Proof.Machine.execVbfx w s
  | .vbfi w => Sys2Proof.Machine.execVbfi w s
  | .vand w => Sys2Proof.Machine.execVand w s
  | .vandLit w => Sys2Proof.Machine.execVandLit w s
  | .vor w => Sys2Proof.Machine.execVor w s
  | .vorLit w => Sys2Proof.Machine.execVorLit w s
  | .vxor w => Sys2Proof.Machine.execVxor w s
  | .vxorLit w => Sys2Proof.Machine.execVxorLit w s
  | .vnot w => Sys2Proof.Machine.execVnot w s
  | .vpopc w => Sys2Proof.Machine.execVpopc w s
  | .vclz w => Sys2Proof.Machine.execVclz w s
  | .vbrev w => Sys2Proof.Machine.execVbrev w s
  | .fadd w => Sys2Proof.Machine.execFadd w s
  | .faddLit w => Sys2Proof.Machine.execFaddLit w s
  | .fsub w => Sys2Proof.Machine.execFsub w s
  | .fsubLit w => Sys2Proof.Machine.execFsubLit w s
  | .fmul w => Sys2Proof.Machine.execFmul w s
  | .fmulLit w => Sys2Proof.Machine.execFmulLit w s
  | .ffma w => Sys2Proof.Machine.execFfma w s
  | .fmin w => Sys2Proof.Machine.execFmin w s
  | .fminLit w => Sys2Proof.Machine.execFminLit w s
  | .fmax w => Sys2Proof.Machine.execFmax w s
  | .fmaxLit w => Sys2Proof.Machine.execFmaxLit w s
  | .fcmp w => Sys2Proof.Machine.execFcmp w s
  | .fclass w => Sys2Proof.Machine.execFclass w s
  | .frnd w => Sys2Proof.Machine.execFrnd w s
  | .cvt w => Sys2Proof.Machine.execCvt w s
  | .npack w => Sys2Proof.Machine.execNpack w s
  | .nunpack w => Sys2Proof.Machine.execNunpack w s
  | .ipack4 w => Sys2Proof.Machine.execIpack4 w s
  | .iunpack4 w => Sys2Proof.Machine.execIunpack4 w s
  | .sclcalc w => Sys2Proof.Machine.execSclcalc w s
  | .frcp w => Sys2Proof.Machine.execFrcp w s
  | .frsq w => Sys2Proof.Machine.execFrsq w s
  | .fsqrt w => Sys2Proof.Machine.execFsqrt w s
  | .fexp2 w => Sys2Proof.Machine.execFexp2 w s
  | .flog2 w => Sys2Proof.Machine.execFlog2 w s
  | .fsin w => Sys2Proof.Machine.execFsin w s
  | .fcos w => Sys2Proof.Machine.execFcos w s
  | .lutld w => Sys2Proof.Machine.execLutld w s
  | .lutsel w => Sys2Proof.Machine.execLutsel w s
  | .luteval w => Sys2Proof.Machine.execLuteval w s
  | .xlane w => Sys2Proof.Machine.execXlane w s
  | .xlaneLo w => Sys2Proof.Machine.execXlaneLo w s
  | .xlaneHi w => Sys2Proof.Machine.execXlaneHi w s
  | .xlaneFlip w => Sys2Proof.Machine.execXlaneFlip w s
  | .pollAny w => Sys2Proof.Machine.execPollAny w s
  | .pollAll w => Sys2Proof.Machine.execPollAll w s
  | .pollMask w => Sys2Proof.Machine.execPollMask w s
  | .same w => Sys2Proof.Machine.execSame w s
  | .sameAll w => Sys2Proof.Machine.execSameAll w s
  | .redx w => Sys2Proof.Machine.execRedx w s
  | .redf w => Sys2Proof.Machine.execRedf w s
  | .scanx w => Sys2Proof.Machine.execScanx w s
  | .rank w => Sys2Proof.Machine.execRank w s
  | .selk w => Sys2Proof.Machine.execSelk w s
  | .ld w => Sys2Proof.Machine.execLd w s
  | .st w => Sys2Proof.Machine.execSt w s
  | .lds w => Sys2Proof.Machine.execLds w s
  | .sts w => Sys2Proof.Machine.execSts w s
  | .ldsm w => Sys2Proof.Machine.execLdsm w s
  | .ldsmT w => Sys2Proof.Machine.execLdsmT w s
  | .ldblk w => Sys2Proof.Machine.execLdblk w s
  | .ldAcq w => Sys2Proof.Machine.execLdAcq w s
  | .stRel w => Sys2Proof.Machine.execStRel w s
  | .atom w => Sys2Proof.Machine.execAtom w s
  | .upd w => Sys2Proof.Machine.execUpd w s
  | .pfch w => Sys2Proof.Machine.execPfch w s
  | .sadd w => Sys2Proof.Machine.execSadd w s
  | .saddLit w => Sys2Proof.Machine.execSaddLit w s
  | .ssub w => Sys2Proof.Machine.execSsub w s
  | .smul w => Sys2Proof.Machine.execSmul w s
  | .smulLit w => Sys2Proof.Machine.execSmulLit w s
  | .smulh w => Sys2Proof.Machine.execSmulh w s
  | .sand w => Sys2Proof.Machine.execSand w s
  | .sandLit w => Sys2Proof.Machine.execSandLit w s
  | .sor w => Sys2Proof.Machine.execSor w s
  | .sorLit w => Sys2Proof.Machine.execSorLit w s
  | .sxor w => Sys2Proof.Machine.execSxor w s
  | .sxorLit w => Sys2Proof.Machine.execSxorLit w s
  | .snot w => Sys2Proof.Machine.execSnot w s
  | .sshl w => Sys2Proof.Machine.execSshl w s
  | .sshlLit w => Sys2Proof.Machine.execSshlLit w s
  | .sshr w => Sys2Proof.Machine.execSshr w s
  | .sshrLit w => Sys2Proof.Machine.execSshrLit w s
  | .ssra w => Sys2Proof.Machine.execSsra w s
  | .ssraLit w => Sys2Proof.Machine.execSsraLit w s
  | .smin w => Sys2Proof.Machine.execSmin w s
  | .smax w => Sys2Proof.Machine.execSmax w s
  | .ssel w => Sys2Proof.Machine.execSsel w s
  | .smov w => Sys2Proof.Machine.execSmov w s
  | .smovi w => Sys2Proof.Machine.execSmovi w s
  | .scmp w => Sys2Proof.Machine.execScmp w s
  | .sbfx w => Sys2Proof.Machine.execSbfx w s
  | .sbfi w => Sys2Proof.Machine.execSbfi w s
  | .spopc w => Sys2Proof.Machine.execSpopc w s
  | .sclz w => Sys2Proof.Machine.execSclz w s
  | .slea w => Sys2Proof.Machine.execSlea w s
  | .kand w => Sys2Proof.Machine.execKand w s
  | .kor w => Sys2Proof.Machine.execKor w s
  | .kxor w => Sys2Proof.Machine.execKxor w s
  | .knot w => Sys2Proof.Machine.execKnot w s
  | .kmovKFromK w => Sys2Proof.Machine.execKmovKFromK w s
  | .kmovKFromS w => Sys2Proof.Machine.execKmovKFromS w s
  | .kmovSFromK w => Sys2Proof.Machine.execKmovSFromK w s
  | .kset w => Sys2Proof.Machine.execKset w s
  | .kpopc w => Sys2Proof.Machine.execKpopc w s
  | .kfirst w => Sys2Proof.Machine.execKfirst w s
  | .bra w => Sys2Proof.Machine.execBra w s
  | .brz w => Sys2Proof.Machine.execBrz w s
  | .brnz w => Sys2Proof.Machine.execBrnz w s
  | .jmp w => Sys2Proof.Machine.execJmp w s
  | .call w => Sys2Proof.Machine.execCall w s
  | .ret w => Sys2Proof.Machine.execRet w s
  | .bany w => Sys2Proof.Machine.execBany w s
  | .ball w => Sys2Proof.Machine.execBall w s
  | .bnone w => Sys2Proof.Machine.execBnone w s
  | .bdiv w => Sys2Proof.Machine.execBdiv w s
  | .converge w => Sys2Proof.Machine.execConverge w s
  | .pblk w => Sys2Proof.Machine.execPblk w s
  | .setfmt w => Sys2Proof.Machine.execSetfmt w s
  | .setfmtFlags w => Sys2Proof.Machine.execSetfmtFlags w s
  | .setfmtImm w => Sys2Proof.Machine.execSetfmtImm w s
  | .setpart w => Sys2Proof.Machine.execSetpart w s
  | .rdspec w => Sys2Proof.Machine.execRdspec w s
  | .role w => Sys2Proof.Machine.execRole w s
  | .exit w => Sys2Proof.Machine.execExit w s
  | .trap w => Sys2Proof.Machine.execTrap w s
  | .brkpt w => Sys2Proof.Machine.execBrkpt w s
  | .nop w => Sys2Proof.Machine.execNop w s
  | .pub w => Sys2Proof.Machine.execPub w s
  | .snap w => Sys2Proof.Machine.execSnap w s
  | .phase w => Sys2Proof.Machine.execPhase w s
  | .txbeg w => Sys2Proof.Machine.execTxbeg w s
  | .txend w => Sys2Proof.Machine.execTxend w s
  | .txabort w => Sys2Proof.Machine.execTxabort w s
  | .enq w => Sys2Proof.Machine.execEnq w s
  | .deq w => Sys2Proof.Machine.execDeq w s
  | .cwb w => Sys2Proof.Machine.execCwb w s
  | .cinv w => Sys2Proof.Machine.execCinv w s
  | .cwbinv w => Sys2Proof.Machine.execCwbinv w s
  | .cpy w => Sys2Proof.Machine.execCpy w s
  | .cpy2d w => Sys2Proof.Machine.execCpy2d w s
  | .gath w => Sys2Proof.Machine.execGath w s
  | .rcpy w => Sys2Proof.Machine.execRcpy w s
  | .rsig w => Sys2Proof.Machine.execRsig w s
  | .tlget w => Sys2Proof.Machine.execTlget w s
  | .tlwait w => Sys2Proof.Machine.execTlwait w s
  | .tlsig w => Sys2Proof.Machine.execTlsig w s
  | .waitc w => Sys2Proof.Machine.execWaitc w s
  | .waitcG w => Sys2Proof.Machine.execWaitcG w s
  | .barInit w => Sys2Proof.Machine.execBarInit w s
  | .barInitFree w => Sys2Proof.Machine.execBarInitFree w s
  | .barArr w => Sys2Proof.Machine.execBarArr w s
  | .barWait w => Sys2Proof.Machine.execBarWait w s
  | .barArrw w => Sys2Proof.Machine.execBarArrw w s
  | .barSync w => Sys2Proof.Machine.execBarSync w s
  | .lbar w => Sys2Proof.Machine.execLbar w s
  | .spawn w => Sys2Proof.Machine.execSpawn w s
  | .post w => Sys2Proof.Machine.execPost w s
  | .join w => Sys2Proof.Machine.execJoin w s
  | .leave w => Sys2Proof.Machine.execLeave w s
  | .msend w => Sys2Proof.Machine.execMsend w s
  | .mrecv w => Sys2Proof.Machine.execMrecv w s
  | .mrec w => Sys2Proof.Machine.execMrec w s
  | .wld w => Sys2Proof.Machine.execWld w s
  | .mmaz w => Sys2Proof.Machine.execMmaz w s
  | .mma w => Sys2Proof.Machine.execMma w s
  | .mepi w => Sys2Proof.Machine.execMepi w s
  | .mclrZ w => Sys2Proof.Machine.execMclrZ w s
  | .mclrLd w => Sys2Proof.Machine.execMclrLd w s
  | .mrestart w => Sys2Proof.Machine.execMrestart w s
  | .mfence w => Sys2Proof.Machine.execMfence w s
  | .rfe w => Sys2Proof.Machine.execRfe w s
  | .csrrd w => Sys2Proof.Machine.execCsrrd w s
  | .csrwr w => Sys2Proof.Machine.execCsrwr w s
  | .rdenergy w => Sys2Proof.Machine.execRdenergy w s
  | .sfuRetire cu sub => Sys2Proof.Machine.execSfuRetire cu sub s
  | .matrixPassRetire cl => Sys2Proof.Machine.execMatrixPassRetire cl s
  | .asyncEventTake id => Sys2Proof.Machine.execAsyncEventTake id s
  | .squadWake id => Sys2Proof.Machine.execSquadWake id s
  | .squadRetire id => Sys2Proof.Machine.execSquadRetire id s
  | .teamExit team => Sys2Proof.Machine.execTeamExit team s
  | .mccProgramEnd cl => Sys2Proof.Machine.execMccProgramEnd cl s
  | .engineCommandRun cmd => Sys2Proof.Machine.execEngineCommandRun cmd s
  | .huddleTimerExpire cl h => Sys2Proof.Machine.execHuddleTimerExpire cl h s
  | .huddlePlace cl h => Sys2Proof.Machine.execHuddlePlace cl h s
  | .arbiterTakeEntry => Sys2Proof.Machine.execArbiterTakeEntry s
  | .entryClassAge q => Sys2Proof.Machine.execEntryClassAge q s
  | .placeTeam launch => Sys2Proof.Machine.execPlaceTeam launch s
  | .placerOldestWaitExpire => Sys2Proof.Machine.execPlacerOldestWaitExpire s
  | .launchComplete launch => Sys2Proof.Machine.execLaunchComplete launch s
  | .qtailWrite q v => Sys2Proof.Machine.execQtailWrite q v s
  | .qfaultClear q => Sys2Proof.Machine.execQfaultClear q s
  | .qtbaseWrite hi v => Sys2Proof.Machine.execQtbaseWrite hi v s
  | .ringBaseWrite ctx num v => Sys2Proof.Machine.execRingBaseWrite ctx num v s
  | .ringHeadWrite ctx num v => Sys2Proof.Machine.execRingHeadWrite ctx num v s
  | .registerWrite ctx num v => Sys2Proof.Machine.execRegisterWrite ctx num v s
  | .homeSharedRequest line cache => Sys2Proof.Machine.execHomeSharedRequest line cache s
  | .homeExclusiveRequest line cache => Sys2Proof.Machine.execHomeExclusiveRequest line cache s
  | .homeUpdateOnlyRequest line cache op ty firstA => Sys2Proof.Machine.execHomeUpdateOnlyRequest line cache op ty firstA s
  | .homePublicationEvent msg => Sys2Proof.Machine.execHomePublicationEvent msg s
  | .homePlainRead line cache t => Sys2Proof.Machine.execHomePlainRead line cache t s
  | .homeCollapseRequest line agent => Sys2Proof.Machine.execHomeCollapseRequest line agent s
  | .homeInvalidationAck line die => Sys2Proof.Machine.execHomeInvalidationAck line die s
  | .homeOwnerBytes line => Sys2Proof.Machine.execHomeOwnerBytes line s
  | .homeDiePartial line pkg die => Sys2Proof.Machine.execHomeDiePartial line pkg die s
  | .l1Grant cache line => Sys2Proof.Machine.execL1Grant cache line s
  | .l1Invalidate cache line => Sys2Proof.Machine.execL1Invalidate cache line s
  | .l1Recall cache line => Sys2Proof.Machine.execL1Recall cache line s
  | .l1CollapseRecall cache line => Sys2Proof.Machine.execL1CollapseRecall cache line s
  | .l1PutAck cache line => Sys2Proof.Machine.execL1PutAck cache line s
  | .snoopFilterMessage die line => Sys2Proof.Machine.execSnoopFilterMessage die line s
  | .mergePortCollapse die line => Sys2Proof.Machine.execMergePortCollapse die line s
  | .pageGrantRequest pkg page kind op ty => Sys2Proof.Machine.execPageGrantRequest pkg page kind op ty s
  | .pageGrantRecall pkg page => Sys2Proof.Machine.execPageGrantRecall pkg page s
  | .pageGrantRecallAck pkg page => Sys2Proof.Machine.execPageGrantRecallAck pkg page s
  | .translationWalkEnd walk => Sys2Proof.Machine.execTranslationWalkEnd walk s
  | .tlbinvScopeAddress ctx va => Sys2Proof.Machine.execTlbinvScopeAddress ctx va s
  | .tlbinvScopeContext ctx => Sys2Proof.Machine.execTlbinvScopeContext ctx s
  | .tlbinvScopeAll => Sys2Proof.Machine.execTlbinvScopeAll s
  | .tlbinvDrain ctx va => Sys2Proof.Machine.execTlbinvDrain ctx va s
  | .tlbinvComplete => Sys2Proof.Machine.execTlbinvComplete s
  | .tkcmdMapped ticket => Sys2Proof.Machine.execTkcmdMapped ticket s
  | .tkcmdDenied ticket => Sys2Proof.Machine.execTkcmdDenied ticket s
  | .ebbCollectorPass line => Sys2Proof.Machine.execEbbCollectorPass line s
  | .versionStoreFullTimeout => Sys2Proof.Machine.execVersionStoreFullTimeout s
  | .snapshotAgeLimit => Sys2Proof.Machine.execSnapshotAgeLimit s
  | .snapshotRevocation st => Sys2Proof.Machine.execSnapshotRevocation st s
  | .ctxcmdSave ctx => Sys2Proof.Machine.execCtxcmdSave ctx s
  | .ctxcmdRestore ctx => Sys2Proof.Machine.execCtxcmdRestore ctx s
  | .ctxcmdKill ctx => Sys2Proof.Machine.execCtxcmdKill ctx s
  | .graceWindowClose ctx => Sys2Proof.Machine.execGraceWindowClose ctx s
  | .teamSaveRecord team => Sys2Proof.Machine.execTeamSaveRecord team s
  | .contextRestorePlace ctx => Sys2Proof.Machine.execContextRestorePlace ctx s
  | .stopcmdStop ctx team => Sys2Proof.Machine.execStopcmdStop ctx team s
  | .stopcmdResume ctx team => Sys2Proof.Machine.execStopcmdResume ctx team s
  | .stopcmdResumeAll ctx => Sys2Proof.Machine.execStopcmdResumeAll ctx s
  | .stopComplete team => Sys2Proof.Machine.execStopComplete team s
  | .samplerCountZero cu sub => Sys2Proof.Machine.execSamplerCountZero cu sub s
  | .fabricMessageReceive src vc gen seq req tagOk body => Sys2Proof.Machine.execFabricMessageReceive src vc gen seq req tagOk body s
  | .fabricRetransmitTimeout req => Sys2Proof.Machine.execFabricRetransmitTimeout req s
  | .flitCrcReplay port => Sys2Proof.Machine.execFlitCrcReplay port s
  | .settleBeaconSend => Sys2Proof.Machine.execSettleBeaconSend s
  | .settleBeaconReceive b => Sys2Proof.Machine.execSettleBeaconReceive b s
  | .beaconSilenceEvict idx => Sys2Proof.Machine.execBeaconSilenceEvict idx s
  | .bridgeSilenceTakeover => Sys2Proof.Machine.execBridgeSilenceTakeover s
  | .membershipBegin gen set => Sys2Proof.Machine.execMembershipBegin gen set s
  | .membershipReady m => Sys2Proof.Machine.execMembershipReady m s
  | .membershipSwitch => Sys2Proof.Machine.execMembershipSwitch s
  | .lbarMemberReport launch level inst => Sys2Proof.Machine.execLbarMemberReport launch level inst s
  | .lbarMemberComplete launch level inst g => Sys2Proof.Machine.execLbarMemberComplete launch level inst g s
  | .domcmdAdmit member port => Sys2Proof.Machine.execDomcmdAdmit member port s
  | .domcmdRemove idx => Sys2Proof.Machine.execDomcmdRemove idx s
  | .domcmdEvict idx => Sys2Proof.Machine.execDomcmdEvict idx s
  | .getVersion => Sys2Proof.Machine.execGetVersion s
  | .getCapabilities => Sys2Proof.Machine.execGetCapabilities s
  | .negotiateAlgorithms offered => Sys2Proof.Machine.execNegotiateAlgorithms offered s
  | .getDigests => Sys2Proof.Machine.execGetDigests s
  | .getCertificate chainOk => Sys2Proof.Machine.execGetCertificate chainOk s
  | .getMeasurements digests sigOk => Sys2Proof.Machine.execGetMeasurements digests sigOk s
  | .keyExchange mutAuth sigOk => Sys2Proof.Machine.execKeyExchange mutAuth sigOk s
  | .finish macOk => Sys2Proof.Machine.execFinish macOk s
  | .vendorDefinedRequest idx offset => Sys2Proof.Machine.execVendorDefinedRequest idx offset s
  | .endSession => Sys2Proof.Machine.execEndSession s
  | .hostWindowAccess member off wr => Sys2Proof.Machine.execHostWindowAccess member off wr s
  | .hostApertureWrite ap off bytes => Sys2Proof.Machine.execHostApertureWrite ap off bytes s
  | .hostApertureRead ap off len => Sys2Proof.Machine.execHostApertureRead ap off len s
  | .hostUnsupportedRequest => Sys2Proof.Machine.execHostUnsupportedRequest s
  | .errorWindowExpire unit => Sys2Proof.Machine.execErrorWindowExpire unit s
  | .clusterRetire die cl => Sys2Proof.Machine.execClusterRetire die cl s
  | .sliceRetire die bucket => Sys2Proof.Machine.execSliceRetire die bucket s
  | .hbmRowRepair die stack row => Sys2Proof.Machine.execHbmRowRepair die stack row s
  | .hbmChannelRepair die stack channel => Sys2Proof.Machine.execHbmChannelRepair die stack channel s
  | .linkLaneSpare d2d port lane => Sys2Proof.Machine.execLinkLaneSpare d2d port lane s
  | .thermalTrip die temp => Sys2Proof.Machine.execThermalTrip die temp s
  | .thermalRelease temps => Sys2Proof.Machine.execThermalRelease temps s
  | .powerOn trained fused => Sys2Proof.Machine.execPowerOn trained fused s
  | .pcieFundamentalReset trained fused => Sys2Proof.Machine.execPcieFundamentalReset trained fused s
  | .fwcmdLoad => Sys2Proof.Machine.execFwcmdLoad s
  | .fwcmdColdReset trained fused => Sys2Proof.Machine.execFwcmdColdReset trained fused s
  | .fwcmdWarmReset => Sys2Proof.Machine.execFwcmdWarmReset s
  | .slackWaterEstimateUpdate => Sys2Proof.Machine.execSlackWaterEstimateUpdate s
  | .scrubbing addr again => Sys2Proof.Machine.execScrubbing addr again s
  | .spdmUnsupportedRequest code => Sys2Proof.Machine.execSpdmUnsupportedRequest code s
  | .portLinkTrained port peer lanes => Sys2Proof.Machine.execPortLinkTrained port peer lanes s
  | .portLinkDown port => Sys2Proof.Machine.execPortLinkDown port s

end Sys2Proof.Machine
end

