-- ==== Sys2Proof/Machine/Step.lean ====
section
/-! DEFINITION. One step of the package: the agenda's turn is planned (Sched.lean, Agenda.lean) and its instruction or event
runs; `withFetchWord` places one instruction for the next step (log 15). -/

namespace Sys2Proof.Machine

/-- One step. -/
def step (s : State) : Host.Outcome State Fault Refusal :=
  match s.plan with
  | .done t => .next t
  | .run i t => exec i t

/-- The state with the instruction of a table word stored where the next step fetches. -/
def State.withFetchWord (s : State) (nbits w : Nat) : State :=
  s.place (bytesLE 8 (w % 2 ^ nbits)) (matrixWord (w32 (w % 2 ^ nbits)))

end Sys2Proof.Machine
end

