-- ==== Sys2Proof/Safety.lean ====
section
/-! DEFINITION. The terms in which claims speak: when an instruction issues with its own effect (03 Table 3.7), the state in
which it acts, what its end adds, what an instruction of registers leaves alone, and the invariants of a run. -/

namespace Sys2Proof.Machine

/-! ### Issue -/

/-- An instruction of a form issues with its own effect: a squad or MCC is in focus with nothing left of an earlier instruction,
every check of 03 Table 3.7 passes, its lane set is not empty if it is one of the lane set, no register that it reads is
poisoned once the scoreboard's wait is over (02 R35, 22 R350), no earlier instruction of a handler holds its rfe (18 R298), and no
matrix instruction waits for its publication before an instruction that waits for all (08 R173). -/
structure State.Goes (s : State) (f : Form) : Prop where
  focus : s.focus ≠ .idle
  rest  : (s.ready f).todoNow = []
  legal : s.refusal f = none
  lanes : f.uni = true ∨ s.lanes ≠ 0
  mode  : s.modeBad f = none
  clean : (s.ready f).badLane f = none
  free  : s.holdsRfe f = false
  queue : s.queueHolds f = false

/-- The state in which the instruction acts: results of earlier instructions that the scoreboard waits for have been written
(02 R35), and its own words are the current ones. -/
def State.atIssue (s : State) (f : Form) : State := (s.ready f).started f

/-- From the state u that its effect left: the PC moves past its `len` bytes, and an open block with it (03 R55, R66). -/
def State.moved (s : State) (len : Nat) (u : State) : State := (u.setTurn s.sq.sp.num).advance len

/-- And it ends: its energy is charged, a sampler that tagged it writes its record (23 R361, R365). -/
def State.ended (s : State) (len : Nat) (u : State) : State := (s.moved len u).complete

/-- The end of an instruction that set the PC itself. -/
def State.endedAt (s : State) (u : State) : State := (u.setTurn s.sq.sp.num).complete

/-- Every instruction `i w` of a long form that issues where `ok` holds of its words and of the state r in which it acts has the
effect `e` there, and ends. -/
def LongRuns (i : Long → Instr) (uni : Bool) (op9 : Nat) (ok : Long → State → Prop) (e : Long → State → State) : Prop :=
  ∀ (w : Long) (s : State), s.Goes (s.formLong uni op9 w) → ok w (s.atIssue (s.formLong uni op9 w)) →
    exec (i w) s = .next (s.ended 8 (e w (s.atIssue (s.formLong uni op9 w))))

/-- The same of a short form. -/
def ShortRuns (i : Short → Instr) (uni : Bool) (op9 : Nat) (ok : Short → State → Prop) (e : Short → State → State) : Prop :=
  ∀ (w : Short) (s : State), s.Goes (s.formShort uni op9 w) → ok w (s.atIssue (s.formShort uni op9 w)) →
    exec (i w) s = .next (s.ended 4 (e w (s.atIssue (s.formShort uni op9 w))))

/-- The same of a literal form. -/
def LitRuns (i : Lit → Instr) (uni : Bool) (op9 : Nat) (ok : Lit → State → Prop) (e : Lit → State → State) : Prop :=
  ∀ (w : Lit) (s : State), s.Goes (s.formLit uni op9 w) → ok w (s.atIssue (s.formLit uni op9 w)) →
    exec (i w) s = .next (s.ended 8 (e w (s.atIssue (s.formLit uni op9 w))))

/-- Instructions that set the PC themselves. -/
def LongJumps (i : Long → Instr) (uni : Bool) (op9 : Nat) (ok : Long → State → Prop) (e : Long → State → State) : Prop :=
  ∀ (w : Long) (s : State), s.Goes (s.formLong uni op9 w) → ok w (s.atIssue (s.formLong uni op9 w)) →
    exec (i w) s = .next (s.endedAt (e w (s.atIssue (s.formLong uni op9 w))))
def ShortJumps (i : Short → Instr) (uni : Bool) (op9 : Nat) (ok : Short → State → Prop) (e : Short → State → State) : Prop :=
  ∀ (w : Short) (s : State), s.Goes (s.formShort uni op9 w) → ok w (s.atIssue (s.formShort uni op9 w)) →
    exec (i w) s = .next (s.endedAt (e w (s.atIssue (s.formShort uni op9 w))))
def LitJumps (i : Lit → Instr) (uni : Bool) (op9 : Nat) (ok : Lit → State → Prop) (e : Lit → State → State) : Prop :=
  ∀ (w : Lit) (s : State), s.Goes (s.formLit uni op9 w) → ok w (s.atIssue (s.formLit uni op9 w)) →
    exec (i w) s = .next (s.endedAt (e w (s.atIssue (s.formLit uni op9 w))))

/-- The parts of a list pass one after another without a wait, and leave a state. -/
def passTo : List MOp → State → Option State
  | [], t => some t
  | .reissue :: _, _ => none
  | m :: r, t =>
    match runOp m t with
    | .ok u => passTo r u
    | _ => none

/-- Instructions with parts that may wait: at the issue, where `ok` holds, `pre` happens and the PC moves on; then, where the parts
pass without a wait, the instruction ends in the state they leave. -/
def LongParts (i : Long → Instr) (uni : Bool) (op9 : Nat) (ok : Long → State → Prop) (pre : Long → State → State)
    (parts : Long → State → List MOp) : Prop :=
  ∀ (w : Long) (s r u : State), s.Goes (s.formLong uni op9 w) → r = s.atIssue (s.formLong uni op9 w) → ok w r →
    passTo (parts w r) (s.moved 8 ((pre w r).setTodo (parts w r))) = some u → exec (i w) s = .next u.complete
def ShortParts (i : Short → Instr) (uni : Bool) (op9 : Nat) (pre : Short → State → State)
    (parts : Short → State → List MOp) : Prop :=
  ∀ (w : Short) (s r u : State), s.Goes (s.formShort uni op9 w) → r = s.atIssue (s.formShort uni op9 w) →
    passTo (parts w r) (s.moved 4 ((pre w r).setTodo (parts w r))) = some u → exec (i w) s = .next u.complete

/-- Such an instruction completes in its issue where `ok` holds of the state u in which its parts begin: `pre` has happened and the PC
has moved on; its parts have the effect `e`, and it ends. -/
def LongEnds (i : Long → Instr) (uni : Bool) (op9 : Nat) (pre : Long → State → State) (parts : Long → State → List MOp)
    (ok : Long → State → State → Prop) (e : Long → State → State → State) : Prop :=
  ∀ (w : Long) (s r u : State), s.Goes (s.formLong uni op9 w) → r = s.atIssue (s.formLong uni op9 w) →
    u = s.moved 8 ((pre w r).setTodo (parts w r)) → ok w r u → exec (i w) s = .next (e w r u).complete
def ShortEnds (i : Short → Instr) (uni : Bool) (op9 : Nat) (parts : List MOp) (ok : State → Prop) (e : State → State) : Prop :=
  ∀ (w : Short) (s u : State), s.Goes (s.formShort uni op9 w) →
    u = s.moved 4 ((s.atIssue (s.formShort uni op9 w)).setTodo parts) → ok u → exec (i w) s = .next (e u).complete

/-- A Publish that is over at once: its operations find room in the counter, the epochs that it ends first are free at their homes, and
nothing is left to be acknowledged (07 R151, 02 R47). -/
structure State.PubsNow (s : State) : Prop where
  room : s.ackRoom s.sending = true
  free : s.barredOf .shared s.preEpochs = none
  done : s.publish.ackNow = 0

/-- A Snap that is over at once: the observed stamp is at or below the slack water (07 R151). -/
def State.SnapsNow (s : State) : Prop := s.settle.obsNow.le (s.settle.slackFor s.settle.ctxNow) = true

/-- And what it leaves. -/
def State.snapped (s : State) : State := s.settle.renew

/-- A fault of the instruction's own: where `t` gives a trap, exec takes it, the scoreboard's wait over (02 R35). -/
def LongTraps (i : Long → Instr) (uni : Bool) (op9 : Nat) (t : Long → State → Option TrapInfo) : Prop :=
  ∀ (w : Long) (s : State) (f : TrapInfo), s.Goes (s.formLong uni op9 w) → t w (s.atIssue (s.formLong uni op9 w)) = some f →
    exec (i w) s = .next ((s.ready (s.formLong uni op9 w)).takeTrap f ⟨s.pcNow, encHead uni op9 w.d w.a w.m, w.b ++ w.c ++ w.x⟩)

/-- The same where `ok` holds. -/
def LongTrapsAt (i : Long → Instr) (uni : Bool) (op9 : Nat) (ok : Long → State → Prop) (t : Long → State → TrapInfo) : Prop :=
  ∀ (w : Long) (s r : State), s.Goes (s.formLong uni op9 w) → r = s.atIssue (s.formLong uni op9 w) → ok w r →
    exec (i w) s = .next ((s.ready (s.formLong uni op9 w)).takeTrap (t w r) ⟨s.pcNow, encHead uni op9 w.d w.a w.m, w.b ++ w.c ++ w.x⟩)

/-- The fault that a check answers. -/
def Chk.fault : Chk → Option TrapInfo
  | .bad t => some t
  | _ => none

/-! ### The accesses of an instruction -/

/-- The global accesses of a load or store, of an atom or upd, of a block load (07 R132, R143 to R146). -/
def State.plainAccs (s : State) (w : Long) : List Acc := s.globalAccs w w.x.toInt (wBytes (acW w.c))
def State.wordAccs (s : State) (w : Long) : List Acc := s.globalAccs w 0 (wordBytes (xType w.x))
def State.blockAccs (s : State) (w : Long) : List Acc := s.globalAccs w w.x.toInt (4 * blkRegs s.fmtNow)

/-- The lines for which a store has no pending line yet. -/
def State.newOf (s : State) (w : Long) : List Nat := s.newLines s.inTx ((s.plainAccs w).flatMap (fun a => a.bytes.map s.keyNow))

/-- The scratchpad accesses of lds and sts, and the rows of ldsm (07 R139, R142). -/
def State.ldsAccs (s : State) (w : Long) : List Acc := s.scratchAccs w (lanesOf s.lanes) (wBytes (acW w.c))
def State.rowAccs (s : State) (w : Long) : List Acc := s.scratchAccs w (List.range (8 * 2 ^ (w.c.toNat % 4))) 16

/-- Every line of scratchpad bytes, given as lane, address and key, is present; none of their granules is poisoned (07 R140). -/
def State.Landed (s : State) (spans : List (Nat × Nat × Nat)) : Prop := s.absentWait (spans.map (·.2.2)) = none
def State.Sound (s : State) (spans : List (Nat × Nat × Nat)) : Prop := ∀ p ∈ spans, ∀ q ∈ s.poison, q.gran ≠ scrGran p.2.2

/-- Virtual addresses are mapped with the permission of the access, their pages granted, their lines free at their homes, with room in
the L1: an ordered access to them is made at once (07 R144, 12 R254, R257, R259, 19 R309). -/
structure State.Reaches (s : State) (k : AKind) (n : Need) (vas : List Nat) : Prop where
  mapped  : ∀ a ∈ vas, s.reachable k a = true
  granted : s.lacking n (sortNat (vas.map (fun a => lineOf (s.keyOf s.ctxNow a)))) = none
  free    : s.barredOf n (sortNat (vas.map (fun a => lineOf (s.keyOf s.ctxNow a)))) = none
  room    : s.roomEach (sortNat (vas.map (fun a => lineOf (s.keyOf s.ctxNow a)))) = true

/-- The fault of a cpy or cpy.2d at its issue, and its destination (09 R180, R181). -/
def State.copyDst (s : State) (w : Long) (two : Bool) : Rng :=
  let g := s.group w.a.toNat (if two then 10 else 7)
  sideRng (w.x.getLsbD 0) g 0 (grp g 4) (if two then grp g 7 else 1) (if two then grp g 8 else 0)
def State.copyFault (s : State) (w : Long) (two : Bool) : Option TrapInfo :=
  let g := s.group w.a.toNat (if two then 10 else 7)
  s.cmdCheck (s.copyDst w two) (sideRng (w.x.getLsbD 1) g 2 (grp g 4) (if two then grp g 7 else 1) (if two then grp g 9 else 0)) []
    (w.x.extractLsb' 2 2).toNat (grp g 5) (w.x.getLsbD 0 && w.x.getLsbD 1)

/-- The same of gath, and the fault of rcpy. -/
def State.gathDst (s : State) (w : Long) : Rng :=
  Rng.tidy ⟨true, grp (s.group w.a.toNat 7) 2, grp (s.group w.a.toNat 7) 4 * 2 ^ (w.x.extractLsb' 0 3).toNat, 1, 0⟩
def State.gathFault (s : State) (w : Long) : Option TrapInfo :=
  let g := s.group w.a.toNat 7
  s.cmdCheck (s.gathDst w) (Rng.tidy ⟨true, grp g 3, grp g 4 * (if (w.x.extractLsb' 3 2).toNat = 2 then 8 else 4), 1, 0⟩) []
    (w.x.extractLsb' 5 2).toNat (grp g 5) false
def State.rcpyFault (s : State) (w : Long) : Option TrapInfo :=
  let g := s.group w.a.toNat 7
  s.cmdCheck (sideRng false g 0 (grp g 4) 1 0) (sideRng false g 2 (grp g 4) 1 0) [] (w.x.extractLsb' 1 2).toNat (grp g 5) false

/-- The ranges of an armed copy find entries in the team's table, when it arms any (09 R185). -/
def State.ArmRoom (s : State) (x : Nat) (g : List W) : Prop :=
  x.testBit 0 = false ∨ (nth 0 g 4).toNat = 0 ∨ 2 ≤ (freeRanges ((s.teamNow.map (·.range)).getD [])).length

/-- The control block of a ring operation (07 R156), and what a range operation publishes of its range (07 R148 to R150). -/
def State.ringAcc (s : State) (w : Long) : List Acc := [⟨0, ((s.spair w.b.toNat).toNat : Int), 64⟩]
def State.rangePub (s : State) (op : Nat) (w : Long) : State :=
  let ls := s.touched (s.spair w.a.toNat).toNat (s.sreg w.b.toNat).toNat
  if s.isM then (if op = 1 then s else s.publishEpi (fun l => !l.scr && ls.contains l.line)) else s.publishSome (fun p => ls.contains p.line) false

/-- A barrier object o stands at the 16-aligned scratch address in s[a], with the key k (09 R190). -/
structure State.ObjHeld (s : State) (ea k : Nat) (o : BarObj) : Prop where
  placed  : s.checkPlace 1 false [⟨0, (ea : Int), 16⟩] = none
  aligned : ea % 16 = 0
  key     : s.scrAt (ea : Int) = .ok k
  held    : s.objOf k = some o

/-- The state in which lutld acts: evaluations that read the shadow bank of the team's pair have retired (05 R118). -/
def State.lutReady (s : State) : State :=
  match s.heldPair with
  | some p => s.drainLut (!p.sel)
  | none => s

/-- What lutld then hands to the pair. -/
def State.lutRows (s : State) (w : Long) : MOp :=
  .lutDo false w.x.toNat s.lanes ((List.range 32).map (fun l => s.sq.v w.a.toNat l)) ((List.range 32).map (fun l => s.sq.v w.b.toNat l))

/-- The issuer's team u holds pair n of its CU; or it holds none, and n is the lowest that is free there (05 R117). -/
def State.HoldsPair (s : State) (u : Team) (n : Nat) : Prop := s.teamNow = some u ∧ u.lut = some n
structure State.FindsPair (s : State) (u : Team) (n : Nat) : Prop where
  team : s.teamNow = some u
  none : u.lut = none
  few  : n < 16
  free : s.luts.any (fun p => p.cache == u.cache && p.num == n) = false
  low  : ∀ k < n, s.luts.any (fun p => p.cache == u.cache && p.num == k) = true

/-- The team takes it. -/
def State.takePair (s : State) (u : Team) (n : Nat) : State :=
  { s.modTeam u.id (fun v => { v with lut := some n }) with luts := s.luts ++ [⟨u.cache, n, false, [], []⟩] }

/-- The records of a spawn land one after another, each in a huddle that takes it or in a free one (10 R207). -/
def State.landRecs (s : State) (l : Launch) (entry : D) : List (List W) → Option State
  | [] => some s
  | words :: r => (s.landRec s.clNow l entry words s.obsNow).bind (fun t => t.landRecs l entry r)

/-- The words of the record that a lane of spawn emits (09 R195). -/
def State.spawnWords (s : State) (w : Long) (l : Nat) : List W := (List.range 14).map (fun i => s.sq.v (w.b.toNat + i) l)

/-! ### Matrix operands -/

/-- An address record of a use stands at a scratch address, whole and well formed (08 R161 to R164). -/
structure State.RecHeld (s : State) (ea : Nat) (use : RecUse) (r : ARec) : Prop where
  placed  : s.checkPlace 64 false [⟨0, (ea : Int), 64⟩] = none
  sound   : s.scrPoison [⟨0, (ea : Int), 64⟩] = none
  present : s.absentWait [s.scrKeyAt (ea : Int), s.scrKeyAt (ea : Int) + 63] = none
  is      : ARec.ofBytes (s.scrBytes (s.scrKeyAt (ea : Int)) 64) = r
  formed  : r.bad = false
  suits   : r.suits use = true

/-- Operand bytes of the MCC pass their checks, their elements are aligned, they are present, the pages of other members granted and their lines'
data here, and every line whose epoch the read ends is homed here and free. -/
structure State.OperandsReady (s : State) (width : Nat) (els scr glob : List Span) : Prop where
  aligned : misaligned width els = none
  scratch : s.scrRows false scr = none
  global  : s.check .mread 1 (accsOf glob) = .ok
  present : s.absentWait (s.scrKeys scr) = none
  granted : s.lacking .read ((spanLines glob).map (fun a => lineOf (s.keyOf s.mcc.ctx a))) = none
  near    : (s.mccForced (spanLines glob)).filter (homePkg · != s.pkgIdx) = []
  free    : (s.lacking .shared (s.mccForced (spanLines glob))).or (s.barredOf .shared (s.mccForced (spanLines glob))) = none
  data    : s.farLack (600 + s.mcc.cl / 32) (s.mcc.cl / 32) (s.mccReads (spanLines glob)) = none

/-- The state in which the MCC reads its operands, after the collapses that they force, and the stamps of those. -/
def State.atRead (s : State) (glob : List Span) : State :=
  (s.engineCollapse (s.leafAt s.mcc.ctx) s.mcc.launch s.mcc.tide (s.mcc.cl / 32) (128 + s.mcc.cl % 32) (spanLines glob)).2
def State.stampsOf (s : State) (glob : List Span) : List (Nat × Stamp) :=
  forcedStamps s.mcc.forced ++
    (s.engineCollapse (s.leafAt s.mcc.ctx) s.mcc.launch s.mcc.tide (s.mcc.cl / 32) (128 + s.mcc.cl % 32) (spanLines glob)).1

/-- A pass enters the array queue, of `n` array cycles (08 R159, 23 R365). -/
def State.queued (s : State) (n : Nat) (p : MPass) : State :=
  s.modMcc (fun m => { m with queue := m.queue ++ [{ p with energy := m.due * n }], due := 0 })

/-- No condition. -/
def always {α : Type} (_ : α) (_ : State) : Prop := True

/-! ### What an instruction of registers leaves alone -/

/-- The squad record with what every issue keeps account of taken from b: PC and block position, the words that run, energy, ages,
run state, what is in flight, what an access waits for. -/
def Squad.book (q b : Squad) : Squad :=
  { q with
    sp := { q.sp with pc := b.sp.pc, blkPos := b.sp.blkPos }
    cur := b.cur, curPos := b.curPos, due := b.due, age := b.age, lastIssue := b.lastIssue, turn := b.turn
    st := b.st, wake := b.wake, todo := b.todo, energy := b.energy
    inLine := b.inLine, got := b.got, late := b.late, heldRfe := b.heldRfe }

/-- The MCC record likewise. -/
def Mcc.book (m b : Mcc) : Mcc :=
  { m with pc := b.pc, cur := b.cur, due := b.due, st := b.st, wake := b.wake, todo := b.todo, energy := b.energy
           inLine := b.inLine, got := b.got, forced := b.forced }

/-- From r to u nothing changed but the record of the squad or MCC in focus and the samplers: every byte of memory, pending or
scratch, every other squad and MCC, every CSR, team, queue, barrier, command and directory entry stands as it was. -/
structure State.Same (r u : State) : Prop where
  world : ({ u with sq := r.sq, mcc := r.mcc, samplers := r.samplers } : State) = r
  bytes : ∀ v k, u.byteAt v k = r.byteAt v k
  scr   : ∀ k, u.scrByte k = r.scrByte k

/-- What the sampler that tagged the instruction of the squad in focus adds (23 R361). -/
def State.sampled (s : State) : State := if s.isM then s else s.sampleEnd s.sq.id s.sq.cur false

/-- Only s-registers that `d` names have changed, in the squad or MCC in focus. -/
structure State.OnlyS (r u : State) (d : Nat → Prop) : Prop extends State.Same r u where
  squad : u.sq.book r.sq = { r.sq with sregs := u.sq.sregs, badRegs := u.sq.badRegs }
  mcc   : u.mcc.book r.mcc = { r.mcc with sregs := u.mcc.sregs }
  regs  : ∀ n, ¬ d n → u.sreg n = r.sreg n

/-- Only scc has changed. -/
structure State.OnlyScc (r u : State) : Prop extends State.Same r u where
  squad : u.sq.book r.sq = { r.sq with scc := u.sq.scc }
  mcc   : u.mcc.book r.mcc = { r.mcc with scc := u.mcc.scc }

/-- Only mask register n has changed. -/
structure State.OnlyK (r u : State) (n : Nat) : Prop extends State.Same r u where
  squad : u.sq.book r.sq = { r.sq with kregs := u.sq.kregs }
  mcc   : u.mcc.book r.mcc = r.mcc
  masks : ∀ m, m ≠ n → u.sq.k m = r.sq.k m

/-- The flags that a squad and its instruction that issued last have raised: those of an instruction with a latency join the squad's when
it retires (01 R27). -/
def Squad.raised (q : Squad) : W :=
  match q.late.getLast? with
  | some e => if e.cur = q.cur then q.flags ||| e.flags else q.flags
  | none => q.flags

/-- Only v-registers that `d` names, in lanes of the lane set, have changed, and flags may have been raised. -/
structure State.OnlyV (r u : State) (d : Nat → Prop) : Prop extends State.Same r u where
  squad : u.sq.book r.sq = { r.sq with vregs := u.sq.vregs, badRegs := u.sq.badRegs, flags := u.sq.flags }
  mcc   : u.mcc.book r.mcc = r.mcc
  regs  : ∀ n l, l < 32 → (¬ d n ∨ r.lanes.getLsbD l = false) → u.sq.v n l = r.sq.v n l
  flags : r.sq.flags &&& u.sq.flags = r.sq.flags

/-- The instruction `i` of a form has an end state that differs from r, but for the sampler's record, as `p` says. -/
def Leaves (i : Instr) (s : State) (f : Form) (p : State → State → Prop) : Prop :=
  s.Goes f → ∃ u : State, exec i s = .next u.sampled ∧ p (s.atIssue f) u

/-! ### Events -/

/-- The event `i` takes the package from s to t. -/
def Happens (i : Instr) (s t : State) : Prop := exec i s = .next t

/-! ### Invariants -/

/-- The memory of the package is in its canonical form. -/
def State.MemOk (s : State) : Prop := Memory.wf s.mem = true

end Sys2Proof.Machine
end

