-- ==== Sys2Proof/Certificates/Slice0/Obligations.lean ====
section
/-! DEFINITION. The statements for the provers. -/

open Sys2Proof Sys2Proof.Machine


/-! ### Reset, decoding, the step -/

/-- 00 R6, 24 R368, R369: after a cold reset no agent runs and nobody is in focus, the GTS is zero, HBM and every version read as zero, no
context, launch, team, queue or command exists, the repair map of the slices is the identity, the CSRs with a Reset value that is not zero
hold it, and the interrupt mask masks all. The form of the data: the memory and the scratchpads that a cold reset leaves are in the
canonical form, addresses strictly rising and no entry that an unlisted address reads as, and the operations that write bytes of memory,
at a home, at a physical address and at a landed event, and of scratchpads keep it. The model's own choices in this statement are log
entries 1, 7, 8 and 93. -/
def Obligations.ResetState : Prop :=
  State.reset.focus = .idle ∧ State.reset.squads = [] ∧ State.reset.mccs = [] ∧ State.reset.now = 0 ∧
  (∀ (t : Option Stamp) (key : Nat), State.reset.byteAt t key = 0) ∧ (∀ key, State.reset.scrByte key = 0) ∧
  State.reset.ctxs = [] ∧ State.reset.launches = [] ∧ State.reset.teams = [] ∧ State.reset.queues = [] ∧ State.reset.cmds = [] ∧
  State.reset.sliceMap = List.replicate 4 (List.range 64) ∧ State.reset.hirqMask = 0xF ∧ State.reset.hirq = 0 ∧
  (∀ scope : Nat, ∀ p ∈ [(0x8047, 100), (0x8092, 6), (0x8247, 4), (0x8302, 6), (0x8306, 64), (0x8307, 24), (0x8402, 2), (0x8413, 6), (0x8417, 1),
      (0x841A, 6), (0x8420, 300), (0x8421, 400), (0x8422, 700), (0x8423, 900), (0x8424, 500), (0x8425, 1800), (0x8426, 600), (0x8427, 900),
      (0x8428, 1500), (0x8429, 2400), (0x842A, 3000), (0x842B, 12000000), (0x8502, 0x01000000), (0x8500, 0), (0x8048, 0), (0x8100, 0), (0x8410, 0)],
    State.reset.csr scope p.1 = BitVec.ofNat 32 p.2) ∧
  State.reset.MemOk ∧ canon 0 State.reset.scratch = true ∧
  (∀ (m : List Host.Cell) (a : Nat) (x : Byte), canon 0 m = true → canon 0 (put 0 m a x) = true) ∧
  (∀ (s : State) (key : Nat) (b : List Byte), s.MemOk → (s.homeWrite key b).MemOk ∧ (s.physWrite key b).MemOk) ∧
  (∀ (s : State) (line ctx : Nat) (st : Stamp) (b : List (Nat × Byte)), s.MemOk → (s.land line st b ctx).MemOk) ∧
  (∀ (s : State) (key : Nat) (b : List Byte), canon 0 s.scratch = true → canon 0 (s.scrWrite key b).scratch = true)

/-- 03 R55 to R59, Tables 3.1, 3.8, 3.9: words written out from the encodings of the spec decode to what they stand for. -/
def Obligations.DecodeWords : Prop :=
  decodeWords 0x8EE00000 0 = .ok (.nop ⟨0, 0, 0⟩) 4 ∧
  decodeWords 0x8E800000 0 = .ok (.exit ⟨0, 0, 0⟩) 4 ∧
  decodeWords 0x01008001 0 = .ok (.vand ⟨2, 0, 1⟩) 4 ∧
  decodeWords 0xCE000000 0x68000200 = .ok (.setfmtImm ⟨0, 0, 0, 0x68, 0, 0x0200⟩) 8 ∧
  decodeWords 0xC8A02000 0x0000FFFF = .ok (.kset ⟨1, 0, 0, 0xFFFF⟩) 8 ∧
  decodeWords 0x6400C100 0x049C0040 = .ok (.ld ⟨6, 8, 0, 4, 0x9C, 0x40⟩) 8 ∧
  decodeWords 0xDC004200 0x00030005 = .ok (.cpy ⟨2, 16, 0, 0, 3, 5⟩) 8 ∧
  decodeWords 0xE8604100 0x05090000 = .ok (.mma ⟨2, 8, 0, 5, 9, 0⟩) 8 ∧
  decodeWords 0xDD600280 0x16000000 = .ok (.waitc ⟨0, 20, 0, 22, 0, 0⟩) 8 ∧
  decodeWords 0x94000000 0 = .ok (.pub ⟨0, 0, 0⟩) 4 ∧
  decodeWords 0xB0000000 0 = .ok (.rfe ⟨0, 0, 0⟩) 4 ∧
  decodeWords 0xF0204000 0x00008000 = .ok (.csrrd ⟨2, 0, 0, 0, 0, 0x8000⟩) 8 ∧
  decodeWords 0x5C60A080 0x00000100 = .ok (.xlaneFlip ⟨5, 4, 0, 0, 0, 0x0100⟩) 8

/-- 03 R55, R56, Tables 3.1, 3.8, 3.9: decoding and encoding agree. Every well-formed instruction comes back from its words, every operand at
every value; and words that decode are the words of what they decode to, so that no bit is dropped and no word has two meanings. -/
def Obligations.DecodeEncode : Prop :=
  (∀ i : Instr, encode i ≠ [] → wellFormed i = true →
    decodeWords ((encode i).getD 0 0) ((encode i).getD 1 0) = .ok i (4 * (encode i).length)) ∧
  (∀ (w0 w1 : W) (i : Instr) (n : Nat), decodeWords w0 w1 = .ok i n → encode i = if n = 8 then [w0, w1] else [w0])

/-- 03 R61, Table 3.7: words that are no instruction are refused in the table's order: a reserved op9 with reason 1, a form bit that
disagrees with the op9 with reason 2; whether word 1 is fetched depends on word 0 alone. -/
def Obligations.RefusedWords : Prop :=
  (∀ w0 w1 : W, w0.getLsbD 31 = true → op9Of w0 ∉ uniShorts ++ uniLongs ++ uniLits → decodeWords w0 w1 = .bad true (op9Of w0) 1 4) ∧
  (∀ w0 w1 : W, w0.getLsbD 31 = false → op9Of w0 ∉ laneShorts ++ laneLongs ++ laneLits → decodeWords w0 w1 = .bad false (op9Of w0) 1 4) ∧
  (∀ w0 w1 : W, w0.getLsbD 31 = true → w0.getLsbD 30 = true → op9Of w0 ∈ uniShorts → decodeWords w0 w1 = .bad true (op9Of w0) 2 4) ∧
  (∀ w0 w1 : W, w0.getLsbD 31 = true → w0.getLsbD 30 = false → op9Of w0 ∈ uniLongs ++ uniLits → decodeWords w0 w1 = .bad true (op9Of w0) 2 4) ∧
  (∀ w0 w1 : W, w0.getLsbD 31 = false → w0.getLsbD 30 = true → op9Of w0 ∈ laneShorts → decodeWords w0 w1 = .bad false (op9Of w0) 2 4) ∧
  (∀ w0 w1 : W, w0.getLsbD 31 = false → w0.getLsbD 30 = false → op9Of w0 ∈ laneLongs ++ laneLits →
    decodeWords w0 w1 = .bad false (op9Of w0) 2 4) ∧
  (∀ w0 w1 w2 : W, isLong w0 = false → decodeWords w0 w1 = decodeWords w0 w2)

/-- 03 R61, R63, 10 R218, log 3: a step whose agenda gives the turn to an agent runs the instruction that the words at its PC decode to: a
squad that its sub-partition chooses among those that can issue, at a boundary with nothing asynchronous to take, after its split is
picked and merged; an MCC with nothing to take. An agent in the middle of an instruction goes on with what is left of it. A turn given
to an event runs the event. Before each step the package notes whether its version store is full and what the A bytes of queued passes hold.
The model's own choices in this statement are log entries 3, 99, 105 and 110. -/
def Obligations.StepRunsDecoded : Prop :=
  (∀ (s a b t : State) (id n : Nat) (l : List Turn) (w0 w1 : W) (i : Instr), s.agenda = .issue id :: l →
    a = (({ (s.tick 1).unfocus.noteFull.notePasses with agenda := l } : State).focusOn id) →
    (a.focus = .squad ∧ a.sq.mayIssue = true ∧
        (a.mates = [] ∧ b = a ∨ ∃ q, a.mates ≠ [] ∧ issueChoice a.contenders = some q ∧
          b = ((({ a with free := a.free + 1 } : State).focusOn q.id).grow ((a.contenders.filter (·.id != q.id)).map (·.id)))) ∧
        b.saveTakes = false ∧ (b.sq.stopReq && b.sq.between) = false ∧ t = b.modSq (fun q => q.pick.mergeIn) ∧
        (t.sq.engFault && t.sq.got.isEmpty && !t.sq.handler) = false ∨
      a.focus = .mcc ∧ (a.savingMcc && a.mcc.running && !a.mcc.stamped) = false ∧ a.mcc.mayIssue = true ∧
        (a.mcc.engFault && a.mcc.got.isEmpty) = false ∧ t = a) →
    t.fetchWord t.pcNow.toNat = .word w0 → (isLong w0 = true → t.fetchWord (t.pcNow.toNat + 4) = .word w1) →
    decodeWords w0 w1 = .ok i n → step s = exec i t) ∧
  (∀ (s a : State) (id : Nat) (l : List Turn), s.agenda = .issue id :: l →
    a = (({ (s.tick 1).unfocus.noteFull.notePasses with agenda := l } : State).focusOn id) →
    a.focus = .squad ∧ a.sq.goesOn = true ∧ a.saveTakes = false ∨
      a.focus = .mcc ∧ a.mcc.goesOn = true ∧ (a.savingMcc && a.mcc.running && !a.mcc.stamped) = false →
    step s = .next a.runTodo) ∧
  (∀ (s : State) (i : Instr) (l : List Turn), s.agenda = .event i :: l → step s = exec i { (s.tick 1).unfocus.noteFull.notePasses with agenda := l })

/-- 03 R61 to R65, Table 3.7, 18 R295: the checks at issue, in order: an op9 the issuer may not run is reason 3, one that may not stand in
a pblk block 4, one without the privilege 5, then the fields; an empty lane set only moves on; then the modes; then, the
scoreboard's wait over (02 R35), a poisoned source, which is the trap poisoned_data.
The model's own choice in this statement is log entry 90. -/
def Obligations.IssueChecks : Prop :=
  (∀ (s : State) (f : Form) (body : State → Res), s.focus ≠ .idle →
    (s.whoBad f.uni f.op9 = true → s.issue f body = .next (s.illegal 3 ⟨s.pcNow, f.w0, f.w1⟩)) ∧
    (s.whoBad f.uni f.op9 = false → s.placeBad f.uni f.op9 = true → s.issue f body = .next (s.illegal 4 ⟨s.pcNow, f.w0, f.w1⟩)) ∧
    (s.whoBad f.uni f.op9 = false → s.placeBad f.uni f.op9 = false → s.privBad f = true →
      s.issue f body = .next (s.illegal 5 ⟨s.pcNow, f.w0, f.w1⟩)) ∧
    (∀ n, s.whoBad f.uni f.op9 = false → s.placeBad f.uni f.op9 = false → s.privBad f = false → f.bad = some n →
      s.issue f body = .next (s.illegal n ⟨s.pcNow, f.w0, f.w1⟩)) ∧
    (s.refusal f = none → f.uni = false → s.lanes = 0 → s.todoNow = [] → s.issue f body = .next (s.ended f.len (s.started f))) ∧
    (∀ n, s.refusal f = none → (f.uni = true ∨ s.lanes ≠ 0) → s.modeBad f = some n →
      s.issue f body = .next (s.illegal n ⟨s.pcNow, f.w0, f.w1⟩)) ∧
    (∀ l, s.refusal f = none → (f.uni = true ∨ s.lanes ≠ 0) → s.modeBad f = none → (s.ready f).badLane f = some l →
      s.issue f body = .next ((s.ready f).takeTrap ⟨.poisonedData, 0, 0, l⟩ ⟨s.pcNow, f.w0, f.w1⟩))) ∧
  (∀ (s : State) (op9 : Nat), s.isM = false → s.sq.sp.inBlock = true → 0x060 ≤ op9 → op9 ≠ 0x077 → s.placeBad true op9 = true) ∧
  (∀ (s : State) (f : Form), f.uni = true → f.op9 = 0x180 → s.sq.handler = false → s.privBad f = true) ∧
  (∀ (s : State) (f : Form) (n : Nat), f.csr = some n → 0x8020 ≤ n → s.supOf s.ctxNow = false → s.privBad f = true) ∧
  (∀ (s : State) (f : Form), s.isM = false → f.uni = true → s.sq.handler = true → f.op9 ∈ handlerNo → s.modeBad f = some 0x0B)

/-- 18 R293 to R295, R299, Tables 18.1, 18.3: taking a trap. Delivered, the frame saves cause, PC, words, address, lane, s0 to s3, scc,
fmt and tick, and the squad goes on at its context's vector in handler mode with no block open, its registers as they are but for results
still in flight; with no vector, or in a handler, it halts and its team stops; the MCC halts at the instruction. The model's own choice in
this statement is log entry 96. -/
def Obligations.TrapEntry : Prop :=
  (∀ (s u : State) (t : TrapInfo) (cur : Cur), s.isM = false → s.tvec s.sq.ctx ≠ 0 → s.sq.handler = false →
    u = s.takeTrap t cur →
    u.sq.handler = true ∧ u.sq.sp.pc = s.tvec s.sq.ctx ∧ u.sq.sp.blkPos = 0xF ∧ u.sq.sp.mask = s.sq.sp.mask ∧ u.sq.st = .ready ∧
    u.sq.sregs = s.sq.sregs ∧ (s.sq.late = [] → u.sq.vregs = s.sq.vregs ∧ u.sq.kregs = s.sq.kregs) ∧
    (t.cause ≠ .engineFault → u.sq.frame.tcause = BitVec.ofNat 32 (t.cause.code + t.sub * 256) ∧ u.sq.frame.tword0 = cur.w0 ∧
      u.sq.frame.tword1 = cur.w1) ∧
    (t.cause = .engineFault → u.sq.frame.tcause = BitVec.ofNat 32 (0x1F + t.sub * 256 + 65536) ∧ u.sq.frame.tword0 = 0) ∧
    u.sq.frame.tpc = (if t.cause = .softwareTrap then cur.pc + 4 else cur.pc) ∧ u.sq.frame.taddr = BitVec.ofNat 64 t.addr ∧
    u.sq.frame.tlane = BitVec.ofNat 32 t.lane ∧ u.sq.frame.ts = s.sq.sregs.take 4 ∧ u.sq.frame.tscc = s.sq.scc ∧
    u.sq.frame.tfmt = s.sq.sp.fmt ∧ u.sq.frame.tblkk = s.sq.sp.blkK ∧ u.sq.frame.tblka = s.sq.sp.blkA ∧
    u.sq.frame.ttick = BitVec.ofNat 64 s.now) ∧
  (∀ (s u : State) (t : TrapInfo) (cur : Cur), s.isM = false → (s.tvec s.sq.ctx = 0 ∨ s.sq.handler = true) → u = s.takeTrap t cur →
    u.sq.st = .halted ∧ u.sq.todo = [] ∧ (∀ m ∈ u.teams, m.id = s.sq.team → m.stopping = true ∨ m.halted = true)) ∧
  (∀ (s u : State) (t : TrapInfo) (cur : Cur), s.isM = true → u = s.takeTrap t cur →
    u.mcc.halted = true ∧ u.mcc.stopped = some t ∧ u.mcc.pc = cur.pc ∧ u.mcc.sregs = s.mcc.sregs)

/-- 02 R36 to R40, Table 2.1: the registers. A write of s[n], a pair, scc, a mask or fmt is what the next read gives and leaves the others
alone; k0 reads as the active mask; a write of fmt keeps 16 bits; each register file has its own home. -/
def Obligations.RegisterLaws : Prop :=
  (∀ (s : State) (n : Nat) (v : W), n < (if s.isM then s.mcc.sregs else s.sq.sregs).length → (s.setS n v).sreg n = v) ∧
  (∀ (s : State) (n m : Nat) (v : W), m ≠ n → (s.setS n v).sreg m = s.sreg m) ∧
  (∀ (s : State) (n : Nat) (v : D), n + 1 < (if s.isM then s.mcc.sregs else s.sq.sregs).length → (s.setS2 n v).spair n = v) ∧
  (∀ (s : State) (n : Nat) (v : W), (s.setS n v).scc = s.scc ∧ (s.setS n v).fmtNow = s.fmtNow ∧ (s.setS n v).pcNow = s.pcNow ∧
    (s.setS n v).flagsNow = s.flagsNow ∧ (s.setS n v).mem = s.mem) ∧
  (∀ (s : State) (b : Bool), (s.setScc b).scc = b) ∧
  (∀ (s : State) (n : Nat), (s.setFmt n).fmtNow = BitVec.ofNat 32 (n % 65536)) ∧
  (∀ q : Squad, q.k 0 = q.sp.mask) ∧
  (∀ (s : State) (n : Nat) (v : Mask), 1 ≤ n → n ≤ s.sq.kregs.length → (s.setKReg n v).sq.k n = v) ∧
  (∀ (s : State) (n m : Nat) (v : Mask), 1 ≤ n → m ≠ n → (s.setKReg n v).sq.k m = s.sq.k m) ∧
  (∀ (s : State) (f : Nat), ∀ i < 32, s.flagsNow.getLsbD i = true → (s.orFlags f).flagsNow.getLsbD i = true)

/-- 11 R222, R225: memory by version. A landed event is what a reader at its stamp or later sees on the bytes it writes, unless a later
one is there too; a reader below its stamp, and every other line and byte, reads as before. 07 R139, 00 R3: bytes of memory and
scratchpad. A write of consecutive scratchpad bytes that no object covers is what they read as and leaves every other byte alone; a write
at a home of a line without versions likewise; a number is stored least byte first. -/
def Obligations.BytesByVersion : Prop :=
  (∀ (s : State) (line ctx key : Nat) (st t : Stamp) (bytes : List (Nat × Byte)) (b : Byte), lineOf key = line →
    get? bytes (key % 128) = some b → st.le t = true → (∀ p ∈ s.pubs, p.line = line → p.st.le t = true → p.st.lt st = true) →
    (s.land line st bytes ctx).byteAt (some t) key = b) ∧
  (∀ (s : State) (line ctx key : Nat) (st t : Stamp) (bytes : List (Nat × Byte)), st.le t = false →
    (s.land line st bytes ctx).byteAt (some t) key = s.byteAt (some t) key) ∧
  (∀ (s : State) (line ctx key : Nat) (st : Stamp) (t : Option Stamp) (bytes : List (Nat × Byte)), lineOf key ≠ line ∨ get? bytes (key % 128) = none →
    (s.land line st bytes ctx).byteAt t key = s.byteAt t key) ∧
  (∀ (s : State) (line ctx : Nat) (st : Stamp) (bytes : List (Nat × Byte)), (s.land line st bytes ctx).mem = s.mem) ∧
  (∀ (s : State) (key k : Nat) (b : List Byte), canon 0 s.scratch = true → s.objAt k = none →
    (s.scrWrite key b).scrByte k = if key ≤ k ∧ k < key + b.length then nth 0 b (k - key) else s.scrByte k) ∧
  (∀ (s : State) (key k : Nat) (b : List Byte) (t : Option Stamp), s.MemOk → (∀ p ∈ s.pubs, ∀ i < b.length, p.line ≠ lineOf (key + i)) →
    (s.homeWrite key b).byteAt t k = if key ≤ k ∧ k < key + b.length then nth 0 b (k - key) else s.byteAt t k) ∧
  (∀ n v : Nat, (bytesLE n v).length = n ∧ natLE (bytesLE n v) = v % 2 ^ (8 * n))

/-- The memory of the package and its scratchpads stay in their canonical form under every step. -/
def Obligations.MemOkStep : Prop :=
  (∀ s t : State, s.MemOk → step s = .next t → t.MemOk) ∧
  (∀ s t : State, canon 0 s.scratch = true → step s = .next t → canon 0 t.scratch = true)
/-! ### Uniform instructions (04) -/

/-- 04 R79, Table 4.2: what each short scalar instruction writes to s[d], on a squad and on the MCC. A shift by 32 or more gives 0, of
ssra 32 copies of the sign. 04 R80: the literal forms of the scalar instructions, word 1 in the place of s[b]; smovi writes the literal. -/
def Obligations.ScalarResults : Prop :=
  ShortRuns .sadd true 0x000 always (fun w r => r.setS w.d.toNat (r.sreg w.a.toNat + r.sreg w.b.toNat)) ∧
  ShortRuns .ssub true 0x001 always (fun w r => r.setS w.d.toNat (r.sreg w.a.toNat - r.sreg w.b.toNat)) ∧
  ShortRuns .smul true 0x002 always (fun w r => r.setS w.d.toNat (r.sreg w.a.toNat * r.sreg w.b.toNat)) ∧
  ShortRuns .smulh true 0x003 always (fun w r =>
    r.setS w.d.toNat (((r.sreg w.a.toNat).setWidth 64 * (r.sreg w.b.toNat).setWidth 64).extractLsb' 32 32)) ∧
  ShortRuns .sand true 0x004 always (fun w r => r.setS w.d.toNat (r.sreg w.a.toNat &&& r.sreg w.b.toNat)) ∧
  ShortRuns .sor true 0x005 always (fun w r => r.setS w.d.toNat (r.sreg w.a.toNat ||| r.sreg w.b.toNat)) ∧
  ShortRuns .sxor true 0x006 always (fun w r => r.setS w.d.toNat (r.sreg w.a.toNat ^^^ r.sreg w.b.toNat)) ∧
  ShortRuns .snot true 0x007 always (fun w r => r.setS w.d.toNat (~~~(r.sreg w.a.toNat))) ∧
  ShortRuns .sshl true 0x008 always (fun w r => r.setS w.d.toNat (r.sreg w.a.toNat <<< (r.sreg w.b.toNat).toNat)) ∧
  ShortRuns .sshr true 0x009 always (fun w r => r.setS w.d.toNat (r.sreg w.a.toNat >>> (r.sreg w.b.toNat).toNat)) ∧
  ShortRuns .ssra true 0x00A always (fun w r => r.setS w.d.toNat ((r.sreg w.a.toNat).sshiftRight (r.sreg w.b.toNat).toNat)) ∧
  ShortRuns .smov true 0x00E always (fun w r => r.setS w.d.toNat (r.sreg w.a.toNat)) ∧
  ShortRuns .spopc true 0x013 always (fun w r =>
    r.setS w.d.toNat (BitVec.ofNat 32 ((List.range 32).filter (fun i => (r.sreg w.a.toNat).getLsbD i)).length)) ∧
  ShortRuns .sclz true 0x014 always (fun w r => r.setS w.d.toNat
    (BitVec.ofNat 32 (if r.sreg w.a.toNat = 0 then 32 else 31 - Nat.log2 (r.sreg w.a.toNat).toNat))) ∧
  LitRuns .saddLit true 0x018 always (fun w r => r.setS w.d.toNat (r.sreg w.a.toNat + w.lit)) ∧
  LitRuns .smulLit true 0x019 always (fun w r => r.setS w.d.toNat (r.sreg w.a.toNat * w.lit)) ∧
  LitRuns .sandLit true 0x01A always (fun w r => r.setS w.d.toNat (r.sreg w.a.toNat &&& w.lit)) ∧
  LitRuns .sorLit true 0x01B always (fun w r => r.setS w.d.toNat (r.sreg w.a.toNat ||| w.lit)) ∧
  LitRuns .sxorLit true 0x01C always (fun w r => r.setS w.d.toNat (r.sreg w.a.toNat ^^^ w.lit)) ∧
  LitRuns .sshlLit true 0x01D always (fun w r => r.setS w.d.toNat (r.sreg w.a.toNat <<< w.lit.toNat)) ∧
  LitRuns .sshrLit true 0x01E always (fun w r => r.setS w.d.toNat (r.sreg w.a.toNat >>> w.lit.toNat)) ∧
  LitRuns .ssraLit true 0x01F always (fun w r => r.setS w.d.toNat ((r.sreg w.a.toNat).sshiftRight w.lit.toNat)) ∧
  LitRuns .smovi true 0x00F always (fun w r => r.setS w.d.toNat w.lit)

/-- 04 R81, R83: smin and smax write the lesser and the greater under the type, a pair under .s64 and .n64; scmp writes scc alone;
sbfx takes a field, sign-extended with x[13], and sbfi replaces one. -/
def Obligations.TypedScalarResults : Prop :=
  (∀ i ∈ [(Instr.smin, 0x00B, true), (Instr.smax, 0x00C, false)],
    LongRuns i.1 true i.2.1 (fun w _ => xType w.x = tS32) (fun w r =>
      r.setS w.d.toNat (if (r.sreg w.a.toNat).sle (r.sreg w.b.toNat) = i.2.2 then r.sreg w.a.toNat else r.sreg w.b.toNat)) ∧
    LongRuns i.1 true i.2.1 (fun w _ => xType w.x = tN32) (fun w r =>
      r.setS w.d.toNat (if (r.sreg w.a.toNat).ule (r.sreg w.b.toNat) = i.2.2 then r.sreg w.a.toNat else r.sreg w.b.toNat)) ∧
    LongRuns i.1 true i.2.1 (fun w _ => xType w.x = tS64) (fun w r =>
      r.setS2 w.d.toNat (if (r.spair w.a.toNat).sle (r.spair w.b.toNat) = i.2.2 then r.spair w.a.toNat else r.spair w.b.toNat)) ∧
    LongRuns i.1 true i.2.1 (fun w _ => xType w.x = tN64) (fun w r =>
      r.setS2 w.d.toNat (if (r.spair w.a.toNat).ule (r.spair w.b.toNat) = i.2.2 then r.spair w.a.toNat else r.spair w.b.toNat))) ∧
  LongRuns .scmp true 0x010 (fun w _ => xType w.x = tS32) (fun w r => r.setScc
    (match xSub w.x with
     | 0 => r.sreg w.a.toNat == r.sreg w.b.toNat
     | 1 => r.sreg w.a.toNat != r.sreg w.b.toNat
     | 2 => (r.sreg w.a.toNat).slt (r.sreg w.b.toNat)
     | 3 => (r.sreg w.a.toNat).sle (r.sreg w.b.toNat)
     | 4 => (r.sreg w.b.toNat).slt (r.sreg w.a.toNat)
     | _ => (r.sreg w.b.toNat).sle (r.sreg w.a.toNat))) ∧
  LongRuns .scmp true 0x010 (fun w _ => xType w.x = tN32) (fun w r => r.setScc
    (match xSub w.x with
     | 0 => r.sreg w.a.toNat == r.sreg w.b.toNat
     | 1 => r.sreg w.a.toNat != r.sreg w.b.toNat
     | 2 => (r.sreg w.a.toNat).ult (r.sreg w.b.toNat)
     | 3 => (r.sreg w.a.toNat).ule (r.sreg w.b.toNat)
     | 4 => (r.sreg w.b.toNat).ult (r.sreg w.a.toNat)
     | _ => (r.sreg w.b.toNat).ule (r.sreg w.a.toNat))) ∧
  LongRuns .scmp true 0x010 (fun w _ => xType w.x = tS64) (fun w r => r.setScc
    (match xSub w.x with
     | 0 => r.spair w.a.toNat == r.spair w.b.toNat
     | 1 => r.spair w.a.toNat != r.spair w.b.toNat
     | 2 => (r.spair w.a.toNat).slt (r.spair w.b.toNat)
     | 3 => (r.spair w.a.toNat).sle (r.spair w.b.toNat)
     | 4 => (r.spair w.b.toNat).slt (r.spair w.a.toNat)
     | _ => (r.spair w.b.toNat).sle (r.spair w.a.toNat))) ∧
  LongRuns .scmp true 0x010 (fun w _ => xType w.x = tN64) (fun w r => r.setScc
    (match xSub w.x with
     | 0 => r.spair w.a.toNat == r.spair w.b.toNat
     | 1 => r.spair w.a.toNat != r.spair w.b.toNat
     | 2 => (r.spair w.a.toNat).ult (r.spair w.b.toNat)
     | 3 => (r.spair w.a.toNat).ule (r.spair w.b.toNat)
     | 4 => (r.spair w.b.toNat).ult (r.spair w.a.toNat)
     | _ => (r.spair w.b.toNat).ule (r.spair w.a.toNat))) ∧
  (∀ pos len : Nat, 1 ≤ len → pos + len ≤ 32 →
    LongRuns .sbfx true 0x011 (fun w _ => bfPos w.x = pos ∧ bfLen w.x = len) (fun w r => r.setS w.d.toNat
      (if w.x.getLsbD 13 then ((r.sreg w.a.toNat).extractLsb' pos len).signExtend 32
       else ((r.sreg w.a.toNat).extractLsb' pos len).setWidth 32)) ∧
    LongRuns .sbfi true 0x012 (fun w _ => bfPos w.x = pos ∧ bfLen w.x = len) (fun w r => r.setS w.d.toNat
      (BitVec.ofNat 32 ((r.sreg w.a.toNat).toNat % 2 ^ pos + (r.sreg w.b.toNat).toNat % 2 ^ len * 2 ^ pos +
        (r.sreg w.a.toNat).toNat / 2 ^ (pos + len) * 2 ^ (pos + len)))))

/-- 04 R82: the encoding of ssel, its result under either value of scc, and the refusal, reason 6, of a c or an x that is not zero. -/
def Obligations.SselByScc : Prop :=
  (∀ w : Long, w.m = 0 → w.c = 0 → w.x = 0 →
    encode (.ssel w) = [0xC1A00000 + BitVec.ofNat 32 (w.d.toNat * 8192 + w.a.toNat * 32), BitVec.ofNat 32 (w.b.toNat * 2 ^ 24)]) ∧
  LongRuns .ssel true 0x00D (fun _ r => r.scc = true) (fun w r => r.setS w.d.toNat (r.sreg w.a.toNat)) ∧
  LongRuns .ssel true 0x00D (fun _ r => r.scc = false) (fun w r => r.setS w.d.toNat (r.sreg w.b.toNat)) ∧
  (∀ (w : Long) (s : State), s.focus ≠ .idle → w.c ≠ 0 ∨ w.x ≠ 0 →
    exec (.ssel w) s = .next (s.illegal 6 ⟨s.pcNow, encHead true 0x00D w.d w.a w.m, w.b ++ w.c ++ w.x⟩))

/-- 04 R84: slea in its form UL 0x015 adds an index, scaled by 2 to the power sub and read under its type, to a 64-bit base, modulo
2^64; a sub of 4 or more, another type, or a c that is not zero, is refused with reason 6, an odd pair, or a b above the allotment, with reason 7. -/
def Obligations.SleaAddress : Prop :=
  (∀ w : Long, w.m = 0 → w.c = 0 → encode (.slea w) =
    [0xC2A00000 + BitVec.ofNat 32 (w.d.toNat * 8192 + w.a.toNat * 32), BitVec.ofNat 32 (w.b.toNat * 2 ^ 24 + w.x.toNat)]) ∧
  LongRuns .slea true 0x015 (fun w _ => xType w.x = tN32) (fun w r => r.setS2 w.d.toNat
    (r.spair w.a.toNat + ((r.sreg w.b.toNat).setWidth 64 <<< xSub w.x))) ∧
  LongRuns .slea true 0x015 (fun w _ => xType w.x = tS32) (fun w r => r.setS2 w.d.toNat
    (r.spair w.a.toNat + ((r.sreg w.b.toNat).signExtend 64 <<< xSub w.x))) ∧
  LongRuns .slea true 0x015 (fun w _ => xType w.x = tS64) (fun w r => r.setS2 w.d.toNat
    (r.spair w.a.toNat + (r.spair w.b.toNat <<< xSub w.x))) ∧
  (∀ (w : Long) (s : State), s.focus ≠ .idle → 4 ≤ xSub w.x ∨ xType w.x ∉ [tS32, tN32, tS64] ∨ w.c ≠ 0 →
    exec (.slea w) s = .next (s.illegal 6 ⟨s.pcNow, encHead true 0x015 w.d w.a w.m, w.b ++ w.c ++ w.x⟩)) ∧
  (∀ (w : Long) (s : State), s.focus ≠ .idle → w.m = 0 → w.c = 0 → xSub w.x < 4 → xType w.x ∈ [tS32, tN32, tS64] → xBsel w.x = false →
    xRnd w.x = 0 → w.d.toNat % 2 = 1 ∨ w.a.toNat % 2 = 1 ∨ xType w.x = tS64 ∧ w.b.toNat % 2 = 1 ∨ s.fenv.sallot ≤ w.b.toNat →
    exec (.slea w) s = .next (s.illegal 7 ⟨s.pcNow, encHead true 0x015 w.d w.a w.m, w.b ++ w.c ++ w.x⟩))

/-- 04 R85, R86, Table 4.4: the mask instructions; k0 reads as the active mask of the issuing split. -/
def Obligations.MaskResults : Prop :=
  ShortRuns .kand true 0x040 always (fun w r => r.setKReg w.d.toNat (r.sq.k w.a.toNat &&& r.sq.k w.b.toNat)) ∧
  ShortRuns .kor true 0x041 always (fun w r => r.setKReg w.d.toNat (r.sq.k w.a.toNat ||| r.sq.k w.b.toNat)) ∧
  ShortRuns .kxor true 0x042 always (fun w r => r.setKReg w.d.toNat (r.sq.k w.a.toNat ^^^ r.sq.k w.b.toNat)) ∧
  ShortRuns .knot true 0x043 always (fun w r => r.setKReg w.d.toNat (~~~(r.sq.k w.a.toNat))) ∧
  ShortRuns .kmovKFromK true 0x044 (fun w _ => w.b = 0) (fun w r => r.setKReg w.d.toNat (r.sq.k w.a.toNat)) ∧
  ShortRuns .kmovKFromS true 0x044 (fun w _ => w.b = 1) (fun w r => r.setKReg w.d.toNat (r.sreg w.a.toNat)) ∧
  ShortRuns .kmovSFromK true 0x044 (fun w _ => w.b = 2) (fun w r => r.setS w.d.toNat (r.sq.k w.a.toNat)) ∧
  LitRuns .kset true 0x045 always (fun w r => r.setKReg w.d.toNat w.lit) ∧
  ShortRuns .kpopc true 0x046 always (fun w r =>
    r.setS w.d.toNat (BitVec.ofNat 32 ((List.range 32).filter (fun i => (r.sq.k w.a.toNat).getLsbD i)).length)) ∧
  (∀ n : Nat, n ≤ 32 → ShortRuns .kfirst true 0x047
    (fun w r => (∀ i < n, (r.sq.k w.a.toNat).getLsbD i = false) ∧ (n = 32 ∨ (r.sq.k w.a.toNat).getLsbD n = true))
    (fun w r => r.setS w.d.toNat (BitVec.ofNat 32 n)))

/-- 04 R87, R88, Table 4.5: every branch of literal form goes to its own address plus the offset where its condition holds, and on to
its address + 8 where not; jmp and ret go to the pair; call first writes its address + 8 to its pair. -/
def Obligations.BranchTargets : Prop :=
  LitJumps .bra true 0x060 always (fun w r => r.setPc (r.pcNow + w.lit.signExtend 64)) ∧
  LitJumps .brz true 0x061 (fun _ r => r.scc = false) (fun w r => r.setPc (r.pcNow + w.lit.signExtend 64)) ∧
  LitRuns .brz true 0x061 (fun _ r => r.scc = true) (fun _ r => r) ∧
  LitJumps .brnz true 0x062 (fun _ r => r.scc = true) (fun w r => r.setPc (r.pcNow + w.lit.signExtend 64)) ∧
  LitRuns .brnz true 0x062 (fun _ r => r.scc = false) (fun _ r => r) ∧
  (∀ i ∈ [(Instr.jmp, 0x063), (Instr.ret, 0x065)],
    ShortJumps i.1 true i.2 (fun w r => (r.spair w.a.toNat).extractLsb' 0 2 = 0) (fun w r => r.setPc (r.spair w.a.toNat)) ∧
    (∀ (w : Short) (s : State), s.Goes (s.formShort true i.2 w) →
      ((s.atIssue (s.formShort true i.2 w)).spair w.a.toNat).extractLsb' 0 2 ≠ 0 →
      exec (i.1 w) s = .next ((s.ready (s.formShort true i.2 w)).illegal 8 ⟨s.pcNow, encShort true i.2 w, 0⟩))) ∧
  LitJumps .call true 0x064 always (fun w r => (r.setS2 w.d.toNat (r.pcNow + 8)).setPc (r.pcNow + w.lit.signExtend 64)) ∧
  (∀ i ∈ [(Instr.bany, 0x066, fun (k m : Mask) => decide (k &&& m ≠ 0)), (Instr.ball, 0x067, fun (k m : Mask) => decide (k &&& m = m)),
      (Instr.bnone, 0x068, fun (k m : Mask) => decide (k &&& m = 0))],
    LitJumps i.1 true i.2.1 (fun w r => i.2.2 (r.sq.k w.a.toNat) r.sq.sp.mask = true) (fun w r => r.setPc (r.pcNow + w.lit.signExtend 64)) ∧
    LitRuns i.1 true i.2.1 (fun w r => i.2.2 (r.sq.k w.a.toNat) r.sq.sp.mask = false) (fun _ r => r))

/-- 04 R89, Table 4.6: bdiv with no taken lane falls through, with none left jumps whole, with both divides: the taken lanes become a
split of their own while the squad has fewer than four; then the other lanes are deferred on the stack, whose seventeenth entry is the
trap split_overflow. 04 R92, R93: converge with a deferred entry on top runs the deferred lanes next and parks its own; with an empty
stack it waits for the squad's other splits, or with none goes on; a parked entry of its own address and format joins it. exit retires the
issuing split, or the squad once that is the last, publishing first; a parked or deferred entry runs on in its place. -/
def Obligations.Divergence : Prop :=
  LitRuns .bdiv true 0x069 (fun w r => r.sq.k w.a.toNat &&& r.sq.sp.mask = 0) (fun _ r => r) ∧
  LitJumps .bdiv true 0x069 (fun w r => r.sq.sp.mask ≠ 0 ∧ r.sq.k w.a.toNat &&& r.sq.sp.mask = r.sq.sp.mask)
    (fun w r => r.setPc (r.pcNow + w.lit.signExtend 64)) ∧
  LitRuns .bdiv true 0x069
    (fun w r => r.sq.k w.a.toNat &&& r.sq.sp.mask ≠ 0 ∧ r.sq.k w.a.toNat &&& r.sq.sp.mask ≠ r.sq.sp.mask ∧ r.sq.rest.length < 3)
    (fun w r => r.modSq (fun q => { q with
      rest := q.rest ++ [{ Split.blank with
        num := q.freeSplit, pc := r.pcNow + w.lit.signExtend 64, mask := q.k w.a.toNat &&& q.sp.mask, fmt := q.sp.fmt }]
      sp := { q.sp with mask := q.sp.mask &&& ~~~(q.k w.a.toNat) } })) ∧
  LitJumps .bdiv true 0x069
    (fun w r => r.sq.k w.a.toNat &&& r.sq.sp.mask ≠ 0 ∧ r.sq.k w.a.toNat &&& r.sq.sp.mask ≠ r.sq.sp.mask ∧
      3 ≤ r.sq.rest.length ∧ r.sq.sp.stack.length ≠ 16)
    (fun w r => r.modSq (fun q => { q with sp := { q.sp with
      stack := ⟨q.sp.pc + 8, .deferred, q.sp.mask &&& ~~~(q.k w.a.toNat), q.sp.fmt⟩ :: q.sp.stack
      mask := q.k w.a.toNat &&& q.sp.mask
      pc := r.pcNow + w.lit.signExtend 64 } })) ∧
  (∀ (w : Lit) (s r : State), s.Goes (s.formLit true 0x069 w) → r = s.atIssue (s.formLit true 0x069 w) →
    r.sq.k w.a.toNat &&& r.sq.sp.mask ≠ 0 → r.sq.k w.a.toNat &&& r.sq.sp.mask ≠ r.sq.sp.mask → 3 ≤ r.sq.rest.length →
    r.sq.sp.stack.length = 16 →
    exec (.bdiv w) s = .next ((s.ready (s.formLit true 0x069 w)).takeTrap ⟨.splitOverflow, 0, 0, 0⟩ ⟨s.pcNow, encHead true 0x069 w.d w.a w.m, w.lit⟩)) ∧
  (∀ (e : StackEntry) (l : List StackEntry),
    ShortJumps .converge true 0x06A (fun _ r => r.sq.sp.waiting = false ∧ r.sq.sp.stack = e :: l ∧ e.kind = .deferred)
      (fun _ r => r.modSq (fun q => { q with sp := { q.sp with
        stack := ⟨q.sp.pc, .parked, q.sp.mask, q.sp.fmt⟩ :: l, pc := e.pc, mask := e.mask, fmt := e.fmt } })) ∧
    ShortJumps .converge true 0x06A
      (fun _ r => r.sq.sp.waiting = false ∧ r.sq.sp.stack = e :: l ∧ e.kind = .parked ∧ (e.pc ≠ r.sq.sp.pc ∨ e.fmt ≠ r.sq.sp.fmt))
      (fun _ r => r.modSq (fun q => { q with sp := { q.sp with pc := q.sp.pc + 4 } })) ∧
    ShortJumps .converge true 0x06A
      (fun _ r => r.sq.rest = [] ∧ r.sq.sp.stack = [e] ∧ e.kind = .parked ∧ e.pc = r.sq.sp.pc ∧ e.fmt = r.sq.sp.fmt)
      (fun _ r => r.modSq (fun q => { q with sp := { q.sp with
        stack := [], mask := q.sp.mask ||| e.mask, pc := q.sp.pc + 4, waiting := false } }))) ∧
  ShortJumps .converge true 0x06A (fun _ r => r.sq.sp.stack = [] ∧ r.sq.rest.any (fun p => !p.waiting))
    (fun _ r => r.modSq (fun q => { q with sp := { q.sp with waiting := true } })) ∧
  ShortJumps .converge true 0x06A (fun _ r => r.sq.sp.stack = [] ∧ r.sq.rest = [])
    (fun _ r => r.modSq (fun q => { q with sp := { q.sp with pc := q.sp.pc + 4, waiting := false } })) ∧
  (∀ (e : StackEntry) (l : List StackEntry),
    ShortJumps .exit true 0x074 (fun _ r => r.isM = false ∧ r.sq.sp.stack = e :: l)
      (fun _ r => r.modSq (fun q => { q with sp := { q.sp with stack := l, mask := e.mask, fmt := e.fmt, pc := e.pc } }))) ∧
  (∀ (p : Split) (l : List Split),
    ShortJumps .exit true 0x074 (fun _ r => r.isM = false ∧ r.sq.sp.stack = [] ∧ r.sq.rest = p :: l ∧ p.waiting = false)
      (fun _ r => r.modSq (fun q => { q with sp := p, rest := l }))) ∧
  (∀ (w : Short) (s r u : State), s.Goes (s.formShort true 0x074 w) → r = s.atIssue (s.formShort true 0x074 w) → r.isM = false →
    r.sq.sp.stack = [] → r.sq.rest = [] → u = (r.setTodo [.exitDo]).setTurn s.sq.sp.num → u.ackRoom u.sending = true →
    u.barredOf .shared u.preEpochs = none →
    exec (.exit w) s = .next ((u.publish.modLaunch u.publish.sq.launch (fun l => { l with doneSt := l.doneSt.max u.publish.sq.obs })).modSq
      (fun q => { q with st := .exiting, sp := { q.sp with mask := 0 } })).complete) ∧
  (∀ (w : Short) (s : State), s.isM = true → s.Goes (s.formShort true 0x074 w) →
    exec (.exit w) s = .next (s.moved 4 (s.atIssue (s.formShort true 0x074 w)).drainQueue.mccExit).runTodo)

/-- 04 R94, 02 R42: setfmt takes the low 16 bits of s[a] as the format and refuses, reason 8, a code above 0x14; setfmt.flags writes the
flags; setfmt.imm writes b and c as the format. 04 R95: setpart writes the tile size. 03 R64, R66: pblk opens a block with the captured
masks. 02 R48, R49, Table 2.8, 04 R96: rdspec of a squad writes the special register of x[7:0] to s[d], GTSLO latching GTSHI, and with
x[8] the lane number, whole or in its tile, to v[d] of every active lane; the MCC reads those of 02 R53 alone, from its own registers. 04 R97, R212: role takes the role's registers and entry once
they fit, and waits with wake kind 9 until they do. -/
def Obligations.StateAndSpecials : Prop :=
  LongRuns .setfmt true 0x070 (fun w r => fmtOk ((r.sreg w.a.toNat).toNat % 65536) = true)
    (fun w r => r.setFmt ((r.sreg w.a.toNat).toNat % 65536)) ∧
  (∀ (w : Long) (s : State), s.Goes (s.formLong true 0x070 w) →
    fmtOk (((s.atIssue (s.formLong true 0x070 w)).sreg w.a.toNat).toNat % 65536) = false →
    exec (.setfmt w) s = .next ((s.ready (s.formLong true 0x070 w)).illegal 8 ⟨s.pcNow, encHead true 0x070 w.d w.a w.m, w.b ++ w.c ++ w.x⟩)) ∧
  LongRuns .setfmtFlags true 0x070 always (fun w r => r.setFlags (r.sreg w.a.toNat).toNat) ∧
  LongRuns .setfmtImm true 0x070 always (fun w r => r.setFmt (w.b ++ w.c).toNat) ∧
  ShortRuns .setpart true 0x071 always (fun w r => r.modSq (fun q => { q with part := BitVec.ofNat 32 w.b.toNat })) ∧
  LongJumps .pblk true 0x06B always (fun w r => r.modSq (fun q => { q with sp := { q.sp with
    pc := q.sp.pc + 8, blkPos := 0, blkPat := w.x.extractLsb' 0 8, blkN := (w.x.extractLsb' 8 3).toNat + 1
    blkK := q.k w.a.toNat, blkA := q.sp.mask } })) ∧
  (∀ p ∈ [(0x02, fun (r : State) => BitVec.ofNat 32 r.sq.idx), (0x06, fun r => BitVec.ofNat 32 r.sq.cache), (0x07, fun r => BitVec.ofNat 32 r.sq.sub),
      (0x0A, fun r => BitVec.ofNat 32 r.sq.role), (0x0B, fun r => BitVec.ofNat 32 r.sq.prio), (0x0C, fun r => BitVec.ofNat 32 r.sq.vallot),
      (0x0D, fun r => BitVec.ofNat 32 r.sq.sallot), (0x0E, fun r => BitVec.ofNat 32 (r.sq.rest.length + 1)),
      (0x0F, fun r => BitVec.ofNat 32 r.sq.sp.stack.length), (0x10, fun r => r.fmtNow), (0x11, fun r => r.sq.part),
      (0x03, fun r => match r.teamNow with | some u => BitVec.ofNat 32 u.nsq | none => 0),
      (0x04, fun r => match r.teamNow with | some u => BitVec.ofNat 32 u.num | none => 0),
      (0x05, fun r => match r.teamNow with | some u => BitVec.ofNat 32 (u.num / 2 ^ 32) | none => 0),
      (0x08, fun r => BitVec.ofNat 32 r.clNow), (0x09, fun r => BitVec.ofNat 32 r.pkgIdx),
      (0x17, fun r => BitVec.ofNat 32 (r.sq.tide.src % 65536)), (0x1A, fun r => BitVec.ofNat 32 (r.sq.obs.src % 65536)),
      (0x1E, fun r => if r.sq.huddle then 1 else 0),
      (0x12, fun r => r.flagsNow), (0x13, fun r => r.sq.txcode), (0x14, fun r => if r.scc then 1 else 0),
      (0x15, fun r => BitVec.ofNat 32 r.sq.tide.tick), (0x16, fun r => BitVec.ofNat 32 (r.sq.tide.tick / 2 ^ 32)),
      (0x18, fun r => BitVec.ofNat 32 r.sq.obs.tick), (0x19, fun r => BitVec.ofNat 32 (r.sq.obs.tick / 2 ^ 32)),
      (0x1B, fun r => BitVec.ofNat 32 (r.sq.ack % 65536)), (0x1D, fun r => if r.isM then r.mcc.gtsHi else r.sq.gtsHi),
      (0x1F, fun r => r.sq.filled)],
    LongRuns .rdspec true 0x072 (fun w _ => w.x.extractLsb' 0 8 = BitVec.ofNat 8 p.1 ∧ w.x.getLsbD 8 = false)
      (fun w r => r.setS w.d.toNat (p.2 r))) ∧
  (∀ (i : Nat) (u : Team) (a : Launch), i < 5 →
    LongRuns .rdspec true 0x072 (fun w r => w.x = BitVec.ofNat 16 (0x20 + i) ∧ r.teamNow = some u ∧ r.launchOf r.sq.launch = some a)
      (fun w r => r.setS w.d.toNat (match a.hdr.levelTeams (3 + i) with | some (_, t) => BitVec.ofNat 32 (u.num % t) | none => 0)) ∧
    LongRuns .rdspec true 0x072 (fun w r => w.x = BitVec.ofNat 16 (0x28 + i) ∧ r.launchOf r.sq.launch = some a)
      (fun w r => r.setS w.d.toNat (match a.hdr.levelTeams (3 + i) with | some (_, t) => BitVec.ofNat 32 t | none => 1))) ∧
  (∀ p ∈ [(0x10, fun (r : State) => r.mcc.fmt), (0x12, fun r => r.mcc.flags), (0x14, fun r => if r.mcc.scc then 1 else 0),
      (0x08, fun r => BitVec.ofNat 32 r.mcc.cl), (0x09, fun r => BitVec.ofNat 32 r.pkgIdx), (0x1D, fun r => r.mcc.gtsHi)],
    LongRuns .rdspec true 0x072 (fun w r => r.isM = true ∧ w.x = BitVec.ofNat 16 p.1) (fun w r => r.setS w.d.toNat (p.2 r))) ∧
  (∀ (w : Long) (s : State), s.focus = .mcc → (s.formLong true 0x072 w).bad = none →
    w.x.toNat % 256 ∈ [0x08, 0x09, 0x10, 0x12, 0x14, 0x1C, 0x1D]) ∧
  LongRuns .rdspec true 0x072 (fun w _ => w.x = 0x001C)
    (fun w r => r.latchGts.setS w.d.toNat (BitVec.ofNat 32 r.now)) ∧
  LongRuns .rdspec true 0x072 (fun w _ => w.x = 0x0100)
    (fun w r => r.modSq (fun q => q.setV q.sp.mask w.d.toNat (fun l => BitVec.ofNat 32 l))) ∧
  LongRuns .rdspec true 0x072 (fun w _ => w.x = 0x0101)
    (fun w r => r.modSq (fun q => q.setV q.sp.mask w.d.toNat (fun l => BitVec.ofNat 32 (l % 2 ^ q.tsize)))) ∧
  (∀ (w : Short) (s r : State), s.isM = false → s.Goes (s.formShort true 0x073 w) → r = s.atIssue (s.formShort true 0x073 w) →
    let t := ((r.modSq (fun q => { q with waitSince := r.now })).setTodo [.roleDo w.b.toNat]).setTurn s.sq.sp.num
    (t.roleFits (t.roleRec w.b.toNat) = true → exec (.role w) s = .next (t.takeRole w.b.toNat).complete) ∧
    (t.roleFits (t.roleRec w.b.toNat) = false → exec (.role w) s = .next (t.block ⟨9, w.b.toNat, 0⟩ [.roleDo w.b.toNat])))

/-- 04 R98, R99: the software trap and the breakpoint, in their one form, are taken with their own frames and saved PCs; nop, whose one encoding is 0x8EE00000, moves
the PC alone, inside a pblk block too. -/
def Obligations.TrapAndNop : Prop :=
  (∀ (w : Short) (s : State), s.Goes (s.formShort true 0x075 w) →
    exec (.trap w) s = .next ((s.ready (s.formShort true 0x075 w)).takeTrap ⟨.softwareTrap, w.b.toNat, 0, 0⟩ ⟨s.pcNow, encShort true 0x075 w, 0⟩)) ∧
  (∀ (w : Short) (s : State), s.Goes (s.formShort true 0x076 w) →
    exec (.brkpt w) s = .next ((s.ready (s.formShort true 0x076 w)).takeTrap ⟨.breakpoint, 0, 0, 0⟩ ⟨s.pcNow, encShort true 0x076 w, 0⟩)) ∧
  (∀ pc : D, savedPc .softwareTrap pc = pc + 4 ∧ savedPc .breakpoint pc = pc) ∧
  (∀ n : BitVec 7, encode (.trap ⟨0, 0, n⟩) = [0x8EA00000 + n.setWidth 32]) ∧ encode (.brkpt ⟨0, 0, 0⟩) = [0x8EC00000] ∧
  (∀ (w : Short) (s : State), s.focus ≠ .idle → s.placeBad true 0x075 = false → w.d ≠ 0 ∨ w.a ≠ 0 →
    exec (.trap w) s = .next (s.illegal 6 ⟨s.pcNow, encShort true 0x075 w, 0⟩)) ∧
  (∀ (w : Short) (s : State), s.focus ≠ .idle → s.placeBad true 0x076 = false → w ≠ ⟨0, 0, 0⟩ →
    exec (.brkpt w) s = .next (s.illegal 6 ⟨s.pcNow, encShort true 0x076 w, 0⟩)) ∧
  ShortRuns .nop true 0x077 always (fun _ r => r) ∧
  encode (.nop ⟨0, 0, 0⟩) = [0x8EE00000] ∧
  (∀ w : Short, w ≠ ⟨0, 0, 0⟩ → ∀ s : State, s.focus ≠ .idle → exec (.nop w) s = .next (s.illegal 6 ⟨s.pcNow, encShort true 0x077 w, 0⟩)) ∧
  (∀ s : State, s.placeBad true 0x077 = false)

/-- 18 R297, R298: rfe returns to the interrupted program: its replay entries go, in order of issue, into their registers and flags; s0 to
s3, scc, fmt and the PC come back from the frame, and the block too where the handler did not move the PC, else none is open. 23 R365:
rdenergy reads the squad's sum. 09 R199: csrrd and csrwr read and write, and csrrd reads the frame of Table 18.3; a CSR below 0x8000
ignores a write; a write of the issuer's own CTXSEL keeps 12 bits; another acts after the instruction is over.
The model's own choice in this statement is log entry 72. -/
def Obligations.SystemInstructions : Prop :=
  ShortJumps .rfe true 0x180 always (fun _ r => r.modSq Squad.leaveHandler) ∧
  (∀ q : Squad, q.leaveHandler.handler = false ∧ q.leaveHandler.sp.pc = q.frame.tpc ∧ q.leaveHandler.scc = q.frame.tscc ∧
    q.leaveHandler.sp.fmt = q.frame.tfmt ∧ (q.frame.tpc ≠ q.frame.tpc0 → q.leaveHandler.sp.blkPos = 0xF) ∧
    (q.frame.tpc = q.frame.tpc0 → q.leaveHandler.sp.blkPos = q.frame.tsplit.extractLsb' 4 4 ∧
      q.leaveHandler.sp.blkPat = q.frame.tsplit.extractLsb' 8 8 ∧ q.leaveHandler.sp.blkN = (q.frame.tsplit.extractLsb' 16 3).toNat + 1 ∧
      q.leaveHandler.sp.blkK = q.frame.tblkk ∧ q.leaveHandler.sp.blkA = q.frame.tblka) ∧
    (q.frame.ts.length = 4 → q.leaveHandler.sregs.take 4 = q.frame.ts) ∧
    (∀ n, 4 ≤ n → q.frame.ts.length = 4 → 4 ≤ q.sregs.length → nth 0 q.leaveHandler.sregs n = nth 0 (q.inject (q.replay.filter (fun e => !e.handler))).sregs n) ∧
    q.leaveHandler.replay = (q.inject (q.replay.filter (fun e => !e.handler))).replay.filter (·.handler) ∧
    q.leaveHandler.vregs = (q.inject (q.replay.filter (fun e => !e.handler))).vregs ∧
    q.leaveHandler.kregs = (q.inject (q.replay.filter (fun e => !e.handler))).kregs ∧
    q.leaveHandler.flags = (q.inject (q.replay.filter (fun e => !e.handler))).flags) ∧
  (∀ (q : Squad) (e : Replay) (l : List Replay), q.inject [] = q ∧
    q.inject (e :: l) = Squad.inject { e.writes.foldl Squad.put q with flags := (e.writes.foldl Squad.put q).flags ||| e.flags } l) ∧
  ShortRuns .rdenergy true 0x183 always (fun w r => r.setS2 w.d.toNat (BitVec.ofNat 64 r.sq.energy)) ∧
  LongRuns .csrrd true 0x181 always (fun w r => r.setS w.d.toNat (r.csrRead w.x.toNat)) ∧
  (∀ p ∈ [(0x8000, fun (f : Frame) => f.tcause), (0x8001, fun f => f.tpc.setWidth 32), (0x8002, fun f => f.tpc.extractLsb' 32 32),
      (0x8003, fun f => f.tword0), (0x8004, fun f => f.tword1), (0x8005, fun f => f.taddr.setWidth 32),
      (0x8006, fun f => f.taddr.extractLsb' 32 32), (0x8007, fun f => f.tsplit), (0x8008, fun f => f.tblkk), (0x8009, fun f => f.tblka),
      (0x800A, fun f => nth 0 f.ts 0), (0x800B, fun f => nth 0 f.ts 1), (0x800C, fun f => nth 0 f.ts 2), (0x800D, fun f => nth 0 f.ts 3),
      (0x800F, fun f => f.tfmt), (0x8010, fun f => f.ttick.setWidth 32), (0x8011, fun f => f.ttick.extractLsb' 32 32), (0x8012, fun f => f.tlane)],
    ∀ r : State, r.isM = false → r.csrOpen p.1 = true → r.csrRead p.1 = p.2 r.sq.frame) ∧
  (∀ r : State, r.isM = false → r.csrOpen 0x800E = true →
    (r.csrRead 0x800E).getLsbD 0 = r.sq.frame.tscc ∧ (r.csrRead 0x800E).getLsbD 1 = r.sq.frame.ttx ∧
    (r.csrRead 0x800E).getLsbD 2 = r.sq.frame.tdoom) ∧
  LongRuns .csrwr true 0x182 (fun w _ => w.x.toNat < 0x8000) (fun _ r => r) ∧
  LongRuns .csrwr true 0x182 (fun w r => w.x.toNat = 0x8040 ∧ r.csrOpen 0x8040 = true)
    (fun w r => r.setCtxsel ((r.sreg w.a.toNat).toNat % 4096)) ∧
  LongRuns .csrwr true 0x182 (fun w r => 0x8000 ≤ w.x.toNat ∧ w.x.toNat ≤ 0x801F ∧ r.isM = false ∧ r.csrOpen w.x.toNat = true)
    (fun w r => r.modSq (fun q => { q with frame := q.frame.write w.x.toNat (r.sreg w.a.toNat) })) ∧
  (∀ (w : Long) (s r : State), s.Goes (s.formLong true 0x182 w) → r = s.atIssue (s.formLong true 0x182 w) →
    0x8020 ≤ w.x.toNat → w.x.toNat ≠ 0x8040 → r.csrOpen w.x.toNat = true →
    exec (.csrwr w) s = .next (State.csrPut (r.ended 8 r).unfocus
      (if r.isM then r.mcc.ctxsel else r.sq.ctxsel) w.x.toNat (r.sreg w.a.toNat)))

/-! ### Lane arithmetic (05) -/

/-- 05 R102, R103, R105: in every lane of the lane set the typed integer instructions write the exact result of the operands under the
type, clamped with .sat and else wrapped; vmulh bits [63:32] of the product; vmad the wrapped sum, of 64 bits with .wide; the literal
forms compute under .s32. 05 R102 to R105: carries, selections, comparisons, permutations, fields, shifts and bit patterns of the lane
set. vaddc takes its carry from mask c and with sub not 0 leaves the carry out in mask sub. -/
def Obligations.LaneIntegerResults : Prop :=
  LongRuns .vadd false 0x001 always (fun w r =>
    r.laneOp (xType w.x) w.d.toNat (fun l => (tyOut (xType w.x) (satOf w.m) (r.ai w l + r.bi w l), 0))) ∧
  LongRuns .vsub false 0x002 always (fun w r =>
    r.laneOp (xType w.x) w.d.toNat (fun l => (tyOut (xType w.x) (satOf w.m) (r.ai w l - r.bi w l), 0))) ∧
  LongRuns .vmul false 0x004 always (fun w r =>
    r.laneOp (xType w.x) w.d.toNat (fun l => (tyOut (xType w.x) (satOf w.m) (r.ai w l * r.bi w l), 0))) ∧
  LongRuns .vmulh false 0x005 always (fun w r =>
    r.laneOp (xType w.x) w.d.toNat (fun l => (tyOut (xType w.x) (satOf w.m) (r.ai w l * r.bi w l / 2 ^ 32), 0))) ∧
  LongRuns .vabs false 0x007 always (fun w r =>
    r.laneOp (xType w.x) w.d.toNat (fun l => (tyOut (xType w.x) (satOf w.m) |r.ai w l|, 0))) ∧
  LongRuns .vmin false 0x013 always (fun w r =>
    r.laneOp (xType w.x) w.d.toNat (fun l => (tyOut (xType w.x) (satOf w.m) (min (r.ai w l) (r.bi w l)), 0))) ∧
  LongRuns .vmax false 0x014 always (fun w r =>
    r.laneOp (xType w.x) w.d.toNat (fun l => (tyOut (xType w.x) (satOf w.m) (max (r.ai w l) (r.bi w l)), 0))) ∧
  LongRuns .vmad false 0x006 (fun w _ => xSub w.x = 0) (fun w r => r.laneOp tB32 w.d.toNat (fun l =>
    (wrapI (r.ai w l * r.bi w l + ((r.sq.v w.c.toNat l).toNat : Int)) 32, 0))) ∧
  LongRuns .vmad false 0x006 (fun w _ => xSub w.x = 1) (fun w r => r.laneOp tB64 w.d.toNat (fun l =>
    (wrapI (r.ai w l * r.bi w l + ((r.sq.v2 w.c.toNat l).toNat : Int)) 64, 0))) ∧
  (∀ i ∈ [(Instr.vaddLit, 0x020, fun (a b : Int) => a + b), (Instr.vsubLit, 0x021, fun a b => a - b),
      (Instr.vmulLit, 0x022, fun a b => a * b), (Instr.vminLit, 0x029, fun a b => min a b), (Instr.vmaxLit, 0x02A, fun a b => max a b)],
    LitRuns i.1 false i.2.1 always (fun w r => r.laneOp tS32 w.d.toNat (fun l =>
      (tyOut tS32 (satOf w.m) (i.2.2 (r.sq.v w.a.toNat l).toInt w.lit.toInt), 0)))) ∧
  LongRuns .vaddc false 0x003 (fun w _ => xSub w.x = 0) (fun w r => r.laneOp tN32 w.d.toNat (fun l =>
    ((r.sq.v w.a.toNat l).toNat + (r.bw w l).toNat + (if (r.sq.k w.c.toNat).getLsbD l then 1 else 0), 0))) ∧
  LongRuns .vaddc false 0x003 (fun w _ => xSub w.x ≠ 0) (fun w r =>
    (r.laneOp tN32 w.d.toNat (fun l =>
      ((r.sq.v w.a.toNat l).toNat + (r.bw w l).toNat + (if (r.sq.k w.c.toNat).getLsbD l then 1 else 0), 0))).laneK (xSub w.x)
        (fun l => (decide (2 ^ 32 ≤ (r.sq.v w.a.toNat l).toNat + (r.bw w l).toNat +
          (if (r.sq.k w.c.toNat).getLsbD l then 1 else 0)), 0))) ∧
  LongRuns .vsel false 0x015 always (fun w r => r.laneOp (xType w.x) w.d.toNat (fun l =>
    (if (r.sq.k w.c.toNat).getLsbD l then (r.sq.v w.a.toNat l).toNat else (r.bw w l).toNat, 0))) ∧
  LongRuns .vcmp false 0x016 always (fun w r => r.laneK w.d.toNat (fun l =>
    (match xSub w.x with
     | 0 => decide (r.ai w l = r.bi w l)
     | 1 => decide (r.ai w l ≠ r.bi w l)
     | 2 => decide (r.ai w l < r.bi w l)
     | 3 => decide (r.ai w l ≤ r.bi w l)
     | 4 => decide (r.bi w l < r.ai w l)
     | _ => decide (r.bi w l ≤ r.ai w l), 0))) ∧
  LongRuns .vperm false 0x00F always (fun w r => r.laneOp (xType w.x) w.d.toNat (fun l =>
    (permWord (r.sq.v w.c.toNat l).toNat (pair (r.bw w l) (r.sq.v w.a.toNat l)).toNat, 0))) ∧
  LongRuns .vbfx false 0x017 always (fun w r => r.laneOp tB32 w.d.toNat (fun l => (fieldX w.x (r.sq.v w.a.toNat l).toNat, 0))) ∧
  LongRuns .vbfi false 0x018 always (fun w r => r.laneOp tB32 w.d.toNat (fun l =>
    (fieldI w.x (r.sq.v w.a.toNat l).toNat (r.sq.v w.b.toNat l).toNat, 0))) ∧
  (∀ i ∈ [(Instr.vshl, 0x010, shiftL), (Instr.vshr, 0x011, shiftR), (Instr.vsra, 0x012, shiftA)],
    LongRuns i.1 false i.2.1 always (fun w r => r.laneOp (xType w.x) w.d.toNat (fun l =>
      (i.2.2 (tyWidth (xType w.x)) (r.vn (xType w.x) w.a.toNat l) (r.bw w l).toNat, 0)))) ∧
  (∀ i ∈ [(Instr.vshlLit, 0x026, shiftL), (Instr.vshrLit, 0x027, shiftR), (Instr.vsraLit, 0x028, shiftA)],
    LitRuns i.1 false i.2.1 always (fun w r => r.laneOp tB32 w.d.toNat (fun l =>
      (i.2.2 32 (r.sq.v w.a.toNat l).toNat w.lit.toNat, 0)))) ∧
  (∀ i ∈ [(Instr.vand, 0x008, fun (a b : W) => a &&& b), (Instr.vor, 0x009, fun a b => a ||| b), (Instr.vxor, 0x00A, fun a b => a ^^^ b),
      (Instr.vnot, 0x00B, fun a _ => ~~~a), (Instr.vpopc, 0x00C, fun a _ => BitVec.ofNat 32 (popc a.toNat 32)),
      (Instr.vclz, 0x00D, fun a _ => BitVec.ofNat 32 (clz a.toNat 32)), (Instr.vbrev, 0x00E, fun a _ => a.reverse)],
    ShortRuns i.1 false i.2.1 always (fun w r => r.laneOp tB32 w.d.toNat (fun l =>
      ((i.2.2 (r.sq.v w.a.toNat l) (r.sq.v w.b.toNat l)).toNat, 0)))) ∧
  (∀ i ∈ [(Instr.vandLit, 0x023, fun (a b : W) => a &&& b), (Instr.vorLit, 0x024, fun a b => a ||| b), (Instr.vxorLit, 0x025, fun a b => a ^^^ b)],
    LitRuns i.1 false i.2.1 always (fun w r => r.laneOp tB32 w.d.toNat (fun l => ((i.2.2 (r.sq.v w.a.toNat l) w.lit).toNat, 0))))

/-- 02 R39, R40, 05 R100: what a lane result does. Lane l of v[d] takes the value in the lanes of the lane set and stays in the others,
other registers stay, the flags of all lanes of the lane set join those that the squad and the instruction have raised, and none is
lost; a mask result likewise. A
register above the allotment is never named (03 R60). -/
def Obligations.LaneWrites : Prop :=
  (∀ (r : State) (t d : Nat) (f : Nat → Nat × Nat), is64 t = false → d < r.sq.vregs.length → (∀ g ∈ r.sq.vregs, g.length = 32) →
    (∀ l < 32, (r.laneOp t d f).sq.v d l = if r.lanes.getLsbD l then BitVec.ofNat 32 (f l).1 else r.sq.v d l) ∧
    (∀ n l, n ≠ d → (r.laneOp t d f).sq.v n l = r.sq.v n l)) ∧
  (∀ (r : State) (t d : Nat) (f : Nat → Nat × Nat), is64 t = true → d + 1 < r.sq.vregs.length → (∀ g ∈ r.sq.vregs, g.length = 32) →
    (∀ l < 32, (r.laneOp t d f).sq.v2 d l = if r.lanes.getLsbD l then BitVec.ofNat 64 (f l).1 else r.sq.v2 d l) ∧
    (∀ n l, n ≠ d → n ≠ d + 1 → (r.laneOp t d f).sq.v n l = r.sq.v n l)) ∧
  (∀ (r : State) (t d : Nat) (f : Nat → Nat × Nat), r.isM = false →
    (∀ b, (r.laneOp t d f).sq.raised.getLsbD b = true ↔
      r.sq.raised.getLsbD b = true ∨ (b < 32 ∧ ∃ l < 32, r.lanes.getLsbD l = true ∧ (f l).2.testBit b = true))) ∧
  (∀ (r : State) (d : Nat) (f : Nat → Bool × Nat), 1 ≤ d → d ≤ r.sq.kregs.length →
    (∀ l < 32, ((r.laneK d f).sq.k d).getLsbD l = if r.lanes.getLsbD l then (f l).1 else (r.sq.k d).getLsbD l) ∧
    (∀ n, n ≠ d → (r.laneK d f).sq.k n = r.sq.k n))

/-- 05 R102, R103, Table 3.5: the exact integers of the types. A register of .s32 or .n32 means its signed or unsigned number; a result
wraps to the register's width, or with .sat stops at the type's ends; shifts by the width or more give 0, vsra the sign. -/
def Obligations.IntegerTypes : Prop :=
  (∀ v : W, tyVal tS32 v.toNat = v.toInt ∧ tyVal tN32 v.toNat = (v.toNat : Int)) ∧
  (∀ v : D, tyVal tS64 v.toNat = v.toInt ∧ tyVal tN64 v.toNat = (v.toNat : Int)) ∧
  (∀ x : Int, tyOut tS32 false x = (BitVec.ofInt 32 x).toNat ∧ tyOut tN32 false x = (BitVec.ofInt 32 x).toNat ∧
    tyOut tS64 false x = (BitVec.ofInt 64 x).toNat ∧ tyOut tN64 false x = (BitVec.ofInt 64 x).toNat) ∧
  (∀ x : Int, tyOut tS32 true x = (BitVec.ofInt 32 (max (-(2 ^ 31)) (min x (2 ^ 31 - 1)))).toNat ∧
    tyOut tN32 true x = (BitVec.ofInt 32 (max 0 (min x (2 ^ 32 - 1)))).toNat ∧
    tyOut tS64 true x = (BitVec.ofInt 64 (max (-(2 ^ 63)) (min x (2 ^ 63 - 1)))).toNat) ∧
  (∀ (v : W) (k : Nat), shiftL 32 v.toNat k = (v <<< k).toNat ∧ shiftR 32 v.toNat k = (v >>> k).toNat ∧
    shiftA 32 v.toNat k = (v.sshiftRight k).toNat) ∧
  (∀ (v : D) (k : Nat), shiftL 64 v.toNat k = (v <<< k).toNat ∧ shiftR 64 v.toNat k = (v >>> k).toNat ∧
    shiftA 64 v.toNat k = (v.sshiftRight k).toNat)

/-- 05 R106 to R109: in every lane of the lane set, and in both elements of a packed type, the float instructions write the rounded
result in the instruction's rounding mode and raise its conditions; the literal forms compute in FP32 with RNE.
The model's own choice in this statement is log entry 13. -/
def Obligations.LaneFloatResults : Prop :=
  LongRuns .fadd false 0x040 always (fun w r => r.laneOp tB32 w.d.toNat (fun l => floatEach (xType w.x) (fun i =>
    (fmtOfTy (xType w.x)).addR (r.mode (xRnd w.x)) (r.fa w l i) (r.fb w l i)))) ∧
  LongRuns .fsub false 0x041 always (fun w r => r.laneOp tB32 w.d.toNat (fun l => floatEach (xType w.x) (fun i =>
    (fmtOfTy (xType w.x)).addR (r.mode (xRnd w.x)) (r.fa w l i) ((r.fb w l i).mods false true)))) ∧
  LongRuns .fmul false 0x042 always (fun w r => r.laneOp tB32 w.d.toNat (fun l => floatEach (xType w.x) (fun i =>
    (fmtOfTy (xType w.x)).mulR (r.mode (xRnd w.x)) (r.fa w l i) (r.fb w l i)))) ∧
  LongRuns .ffma false 0x043 always (fun w r => r.laneOp tB32 w.d.toNat (fun l => floatEach (xType w.x) (fun i =>
    (fmtOfTy (xType w.x)).fma (r.mode (xRnd w.x)) (r.fa w l i) (r.fb w l i) (r.fc w l i)))) ∧
  (∀ i ∈ [(Instr.fmin, 0x044, false), (Instr.fmax, 0x045, true)],
    LongRuns i.1 false i.2.1 always (fun w r => r.laneOp tB32 w.d.toNat (fun l => floatEach (xType w.x) (fun e =>
      (fmtOfTy (xType w.x)).minmaxR i.2.2 (xSub w.x == 1) (r.fa w l e) (r.fb w l e))))) ∧
  LongRuns .fcmp false 0x046 always (fun w r => r.laneK w.d.toNat (fun l =>
    (floatCond (xSub w.x) (r.fa w l 0) (r.fb w l 0), sigFlag [r.fa w l 0, r.fb w l 0]))) ∧
  LongRuns .fclass false 0x047 always (fun w r => r.laneOp tB32 w.d.toNat (fun l => ((fmtOfTy (xType w.x)).classOf (r.fa w l 0), 0))) ∧
  LongRuns .frnd false 0x048 always (fun w r => r.laneOp tB32 w.d.toNat (fun l => floatEach (xType w.x) (fun i =>
    (fmtOfTy (xType w.x)).rint (r.mode (xRnd w.x)) (r.fa w l i)))) ∧
  (∀ i ∈ [(Instr.faddLit, 0x050, fun (a b : FV) => fp32.addR .rne a b), (Instr.fsubLit, 0x051, fun a b => fp32.addR .rne a (b.mods false true)),
      (Instr.fmulLit, 0x052, fun a b => fp32.mulR .rne a b), (Instr.fminLit, 0x053, fun a b => fp32.minmaxR false false a b),
      (Instr.fmaxLit, 0x054, fun a b => fp32.minmaxR true false a b)],
    LitRuns i.1 false i.2.1 always (fun w r => r.laneOp tB32 w.d.toNat (fun l =>
      i.2.2 (modA w.m (f32 (r.sq.v w.a.toNat l))) (f32 w.lit))))

/-- 01 R24 to R28, 05 R108: NaN and infinity. A NaN operand gives the canonical NaN, 0x7FC00000, and nv when it signals; opposite
infinities and zero times infinity give it with nv; .num drops a NaN; with a NaN only .ne and .un hold; -0 is below +0 for fmin.
The model's own choice in this statement is log entry 89. -/
def Obligations.FloatSpecials : Prop :=
  (∀ (m : Rnd) (a b : W), ((f32 a).isNaN || (f32 b).isNaN) = true →
    (fp32.addR m (f32 a) (f32 b)).1 = 0x7FC00000 ∧ (fp32.mulR m (f32 a) (f32 b)).1 = 0x7FC00000 ∧
    (fp32.minmaxR false false (f32 a) (f32 b)).1 = 0x7FC00000 ∧ (fp32.minmaxR true false (f32 a) (f32 b)).1 = 0x7FC00000 ∧
    ((fp32.addR m (f32 a) (f32 b)).2 = if ((f32 a).isSig || (f32 b).isSig) = true then fNV else 0) ∧
    floatCond 1 (f32 a) (f32 b) = true ∧ floatCond 6 (f32 a) (f32 b) = true ∧
    ∀ c ∈ [0, 2, 3, 4, 5, 7], floatCond c (f32 a) (f32 b) = false) ∧
  (∀ (m : Rnd) (n : Bool), fp32.addR m (.inf n) (.inf (!n)) = (0x7FC00000, fNV) ∧ fp32.mulR m (.inf n) (.fin false 0 0) = (0x7FC00000, fNV) ∧
    fp32.mulR m (.fin n 0 0) (.inf n) = (0x7FC00000, fNV)) ∧
  (∀ (mx : Bool) (a : FV), a.isNaN = false → fp32.minmaxR mx true a (.nan false) = fp32.round .rne false a ∧
    fp32.minmaxR mx true (.nan false) a = fp32.round .rne false a) ∧
  fp32.minmaxR false false (f32 0) (f32 0x80000000) = (0x80000000, 0) ∧ fp32.minmaxR true false (f32 0x80000000) (f32 0) = (0, 0)

/-- 05 R110 to R113: conversion and packing write what the types, the modifiers and the fields of fmt give; 01 R29 to R31: the values of
Table 1.10, every narrow code back from the value that it means, integers with their ends and conditions. 05 R114, R115, R120: a special
function, and an evaluation of the activation table, takes a free entry of the SFU pipe with its results computed at issue, and moves on;
with all 8 entries held it does not issue. Zero, the infinities and the NaN have the results and conditions of Table 5.5. The model's own
choices in this statement are log entries 12 and 88. -/
def Obligations.ConversionsAndSfu : Prop :=
  LongRuns .cvt false 0x080 always (fun w r => r.laneOp (xType w.x) w.d.toNat (r.cvtOut w)) ∧
  LongRuns .npack false 0x081 always (fun w r => r.laneOp tB32 w.d.toNat (fun l =>
    (putPair (fcWidth (fmtA r.fmtNow)) (2 * xSub w.x) (r.sq.v w.d.toNat l).toNat
        (r.toFm (modA w.m (f32 (r.sq.v w.a.toNat l)))).1 (r.toFm (modB w.m (f32 (r.bw w l)))).1,
      (r.toFm (modA w.m (f32 (r.sq.v w.a.toNat l)))).2 ||| (r.toFm (modB w.m (f32 (r.bw w l)))).2))) ∧
  LongRuns .nunpack false 0x082 always (fun w r => r.laneOp tB32 w.d.toNat (fun l =>
    let c := fcDecode (fmtA r.fmtNow) (fmtInf r.fmtNow) (element (r.sq.v w.a.toNat l).toNat (fcWidth (fmtA r.fmtNow)) (xSub w.x))
    ((fp32.round .rne false c.1).1, c.2 ||| (fp32.round .rne false c.1).2))) ∧
  LongRuns .ipack4 false 0x083 always (fun w r => r.laneOp tB32 w.d.toNat (fun l =>
    (putPair 4 (2 * xSub w.x) (r.sq.v w.d.toNat l).toNat (BitVec.ofInt 4 (max (-7) (min (r.sq.v w.a.toNat l).toInt 7))).toNat
        (BitVec.ofInt 4 (max (-7) (min (r.bw w l).toInt 7))).toNat,
      (if 7 < |(r.sq.v w.a.toNat l).toInt| then fNV else 0) ||| (if 7 < |(r.bw w l).toInt| then fNV else 0)))) ∧
  LongRuns .iunpack4 false 0x084 (fun w _ => xSub w.x < 8) (fun w r => r.laneOp tB32 w.d.toNat (fun l =>
    if (r.sq.v w.a.toNat l).extractLsb' (4 * xSub w.x) 4 = 8 then (0, fNVX)
    else (((r.sq.v w.a.toNat l).extractLsb' (4 * xSub w.x) 4).signExtend 32 |>.toNat, 0))) ∧
  LongRuns .sclcalc false 0x085 always (fun w r => r.laneOp tB32 w.d.toNat (fun l => scaleOf r.fmtNow (f32 (r.sq.v w.a.toNat l)))) ∧
  (∀ (r : State) (x : FV), r.toFm x = fcEncode (fmtA r.fmtNow) (fmtInf r.fmtNow) (fmtSat r.fmtNow) (fmtRnd r.fmtNow) x) ∧
  (∀ c < 0x13, ∀ (inf : Bool) (m : Rnd), ∀ v < 2 ^ fcWidth c, (fcDecode c inf v).1.isNaN = false →
    fcEncode c inf false m (fcDecode c inf v).1 = (v, 0)) ∧
  (∀ p ∈ [(0x3E99999A, 0x39, 0x39, 0x39, 0x39, fNX, fNX), (0x47435000, 0x7E, 0x7E, 0x7E, 0x7E, fNX, fNX),
      (0x476A6000, 0x7F, 0x7E, 0x7F, 0x7F, fOF ||| fNX, fNX), (0xB58637BD, 0, 0, 0, 0, fUF ||| fNX, fUF ||| fNX), (0x80000000, 0, 0, 0, 0, 0, 0),
      (0x7F800000, 0x7F, 0x7E, 0x80, 0x7F, 0, fNV), (0x7FC00000, 0x80, 0x80, 0x80, 0x80, 0, 0)],
    fcEncode 4 true false .rne (fp32.decode p.1) = (p.2.1, p.2.2.2.2.2.1) ∧ fcEncode 4 true true .rne (fp32.decode p.1) = (p.2.2.1, p.2.2.2.2.2.1) ∧
    fcEncode 4 false false .rne (fp32.decode p.1) = (p.2.2.2.1, p.2.2.2.2.2.2) ∧
    (fcEncode 4 false true .rne (fp32.decode p.1)).1 = p.2.2.2.2.1) ∧
  (∀ (m : Rnd) (lo hi : Int) (b : Bool), toIntR m lo hi (.nan b) = (0, fNV) ∧ toIntR m lo hi (.inf b) = (if b then lo else hi, fNV)) ∧
  (∀ (m : Rnd) (lo hi k : Int), lo ≤ hi → toIntR m lo hi (FV.ofInt k) = (max lo (min k hi), if k < lo ∨ hi < k then fNV else 0)) ∧
  (∀ (w : Long) (r : State) (l : Nat), xType w.x = tF32 → xSub w.x % 32 = tS32 →
    r.cvtOut w l = fp32.round (r.mode (xRnd w.x)) (satOf w.m) (FV.ofInt (r.sq.v w.a.toNat l).toInt)) ∧
  (∀ (w : Long) (r : State) (l : Nat) (i : Int × Nat), xType w.x = tS32 → xSub w.x % 32 = tF32 →
    i = toIntR (r.mode (xRnd w.x)) (-(2 ^ 31)) (2 ^ 31 - 1) (modA w.m (f32 (r.sq.v w.a.toNat l))) →
    r.cvtOut w l = ((BitVec.ofInt 32 i.1).toNat, i.2)) ∧
  (∀ (w : Long) (r : State) (l : Nat), xType w.x = tS32 → xSub w.x % 32 = tN32 → satOf w.m = false →
    r.cvtOut w l = ((r.sq.v w.a.toNat l).toNat, 0)) ∧
  (∀ (w : Long) (r : State) (l : Nat), xType w.x = tFM → xSub w.x % 32 = tF32 →
    r.cvtOut w l = r.toFm (modA w.m (f32 (r.sq.v w.a.toNat l)))) ∧
  (∀ (fm : W) (s : Bool), scaleOf fm (.nan s) = (255, fNV) ∧ scaleOf fm (.inf s) = (255, fNV) ∧ scaleOf fm (.fin s 0 0) = (127, 0)) ∧
  (∀ i ∈ [(Instr.frcp, 0x0C0, 0), (Instr.frsq, 0x0C1, 1), (Instr.fsqrt, 0x0C2, 2), (Instr.fexp2, 0x0C3, 3), (Instr.flog2, 0x0C4, 4),
      (Instr.fsin, 0x0C5, 5), (Instr.fcos, 0x0C6, 6)],
    ∀ (w : Long) (s r : State), s.Goes (s.formLong false i.2.1 w) → r = s.atIssue (s.formLong false i.2.1 w) →
      (r.pipeLen < 8 → exec (i.1 w) s = .next (s.moved 8 (({ r with sfu := r.sfu ++ [⟨r.sq.cache, r.sq.sub, r.sq.id,
        ⟨r.sq.cur, r.sq.handler, r.lanes, [⟨w.d.toNat, r.lanes, (List.range 32).map (fun l =>
            if r.lanes.getLsbD l then (sfuFn i.2.2 (modW w.m (r.sq.v w.a.toNat l))).1 else 0)⟩],
          BitVec.ofNat 32 (flagsOver r.lanes (fun l => (sfuFn i.2.2 (modW w.m (r.sq.v w.a.toNat l))).2)), r.sq.due⟩, none⟩] } : State).modSq
        (fun q => { q with due := 0 })))) ∧
      (8 ≤ r.pipeLen → exec (i.1 w) s = .next (s.ready (s.formLong false i.2.1 w)))) ∧
  (∀ (w : Long) (s r : State) (p : LutPair), s.Goes (s.formLong false 0x0CA w) → r = s.atIssue (s.formLong false 0x0CA w) →
    r.heldPair = some p → r.pipeLen < 8 →
    exec (.luteval w) s = .next (s.moved 8 (({ r with sfu := r.sfu ++ [⟨r.sq.cache, r.sq.sub, r.sq.id,
        ⟨r.sq.cur, r.sq.handler, r.lanes, [⟨w.d.toNat, r.lanes, (List.range 32).map (fun l =>
            if r.lanes.getLsbD l then (lutEval (if p.sel then p.bank1 else p.bank0) (modW w.m (r.sq.v w.a.toNat l))).1 else 0)⟩],
          BitVec.ofNat 32 (flagsOver r.lanes (fun l => (lutEval (if p.sel then p.bank1 else p.bank0) (modW w.m (r.sq.v w.a.toNat l))).2)),
          r.sq.due⟩, some (r.sq.team, p.sel)⟩] } : State).modSq (fun q => { q with due := 0 })))) ∧
  sfuFn 0 0 = (0x7F800000, fDZ) ∧ sfuFn 0 0x80000000 = (0xFF800000, fDZ) ∧ sfuFn 0 0x7F800000 = (0, 0) ∧ sfuFn 1 0 = (0x7F800000, fDZ) ∧
  sfuFn 2 0x80000000 = (0x80000000, 0) ∧ sfuFn 2 0xBF800000 = (0x7FC00000, fNV) ∧ sfuFn 3 0 = (0x3F800000, 0) ∧
  sfuFn 4 0 = (0xFF800000, fDZ) ∧ sfuFn 4 0x3F800000 = (0, 0) ∧ sfuFn 5 0x7F800000 = (0x7FC00000, fNV) ∧ sfuFn 6 0 = (0x3F800000, 0) ∧
  sfuFn 2 0x40800000 = (0x40000000, 0)

/-- 05 R117 to R119: lutld writes entries of the shadow bank of the team's pair and lutsel flips its selector, a team without a pair
taking a free one; with none free, or behind an earlier one of another squad of the team that waits, they wait, wake kind 0x0F. -/
def Obligations.ActivationTables : Prop :=
  (∀ (w : Long) (s r p t : State), s.Goes (s.formLong false 0x0C8 w) → r = s.atIssue (s.formLong false 0x0C8 w) →
    p = (match r.heldPair with | some q => r.drainLut (!q.sel) | none => r) →
    t = s.moved 8 (p.setTodo [.lutDo false w.x.toNat p.lanes ((List.range 32).map (fun l => p.sq.v w.a.toNat l))
      ((List.range 32).map (fun l => p.sq.v w.b.toNat l))]) →
    (∀ (n : Nat) (u : State), t.lutEarlier = false → t.lutPair = some (n, u) → exec (.lutld w) s = .next (u.lutWrite n false w.x.toNat p.lanes
      ((List.range 32).map (fun l => p.sq.v w.a.toNat l)) ((List.range 32).map (fun l => p.sq.v w.b.toNat l))).complete) ∧
    (t.lutEarlier = true ∨ t.lutPair = none → exec (.lutld w) s = .next (t.block ⟨0x0F, 0, 0⟩ t.todoNow))) ∧
  (∀ (w : Long) (s r t : State), s.Goes (s.formLong false 0x0C9 w) → r = s.atIssue (s.formLong false 0x0C9 w) →
    t = s.moved 8 (r.setTodo [.lutDo true 0 0 [] []]) →
    (∀ (n : Nat) (u : State), t.lutEarlier = false → t.lutPair = some (n, u) → exec (.lutsel w) s = .next (u.lutWrite n true 0 0 [] []).complete) ∧
    (t.lutEarlier = true ∨ t.lutPair = none → exec (.lutsel w) s = .next (t.block ⟨0x0F, 0, 0⟩ t.todoNow))) ∧
  (∀ (s : State) (n b : Nat) (m : Mask) (x y : List W) (p : LutPair), s.luts = [p] → p.cache = s.sq.cache → p.num = n →
    (s.lutWrite n true b m x y).luts = [{ p with sel := !p.sel }])

/-! ### Lane exchange (06) -/

/-- 06 R121, R124 to R126: the shuffles read lane j of the tile where that lane takes part, else the lane itself, and mask c tells which;
the votes and comparisons speak of the participants of the lane's tile. 06 R126 to R129: rank counts the participants below the lane in
mask a, with .incl the lane itself; redx and scanx combine the participants of the tile, or those up to the lane; redf combines them in
its fixed tree; selk marks, column by column, the c best of the tile's candidates. The model's own choices in this statement are log
entries 84 and 85. -/
def Obligations.LaneExchange : Prop :=
  (∀ i ∈ [(Instr.xlane, 0x0E0, fun (w : Long) (r : State) (l : Nat) => ((r.bw w l).toNat : Int)),
      (Instr.xlaneLo, 0x0E1, fun w r l => ((l % r.tile : Nat) : Int) - (xSub w.x : Int)),
      (Instr.xlaneHi, 0x0E2, fun w r l => ((l % r.tile : Nat) : Int) + (xSub w.x : Int)),
      (Instr.xlaneFlip, 0x0E3, fun w r l => (((l % r.tile) ^^^ xSub w.x : Nat) : Int))],
    LongRuns i.1 false i.2.1 (fun w _ => w.c = 0) (fun w r => r.laneOp (xType w.x) w.d.toNat (fun l =>
      (r.vn (xType w.x) w.a.toNat (if 0 ≤ i.2.2 w r l ∧ i.2.2 w r l < r.tile ∧
          r.lanes.getLsbD (l - l % r.tile + (i.2.2 w r l).toNat) = true
        then l - l % r.tile + (i.2.2 w r l).toNat else l), 0))) ∧
    LongRuns i.1 false i.2.1 (fun w _ => w.c ≠ 0) (fun w r => (r.laneOp (xType w.x) w.d.toNat (fun l =>
      (r.vn (xType w.x) w.a.toNat (if 0 ≤ i.2.2 w r l ∧ i.2.2 w r l < r.tile ∧
          r.lanes.getLsbD (l - l % r.tile + (i.2.2 w r l).toNat) = true
        then l - l % r.tile + (i.2.2 w r l).toNat else l), 0))).laneK w.c.toNat (fun l =>
      (decide (0 ≤ i.2.2 w r l ∧ i.2.2 w r l < r.tile ∧ r.lanes.getLsbD (l - l % r.tile + (i.2.2 w r l).toNat) = true), 0)))) ∧
  LongRuns .pollAny false 0x0E4 always (fun w r => r.laneK w.d.toNat (fun l =>
    ((r.tileLanes l).any (fun p => (r.sq.k w.a.toNat).getLsbD p), 0))) ∧
  LongRuns .pollAll false 0x0E5 always (fun w r => r.laneK w.d.toNat (fun l =>
    ((r.tileLanes l).all (fun p => (r.sq.k w.a.toNat).getLsbD p), 0))) ∧
  LongRuns .pollMask false 0x0E6 always (fun w r => r.laneOp tB32 w.d.toNat (fun l =>
    (r.tileMask l (fun p => (r.sq.k w.a.toNat).getLsbD p), 0))) ∧
  LongRuns .same false 0x0E7 always (fun w r => r.laneOp tB32 w.d.toNat (fun l =>
    (r.tileMask l (fun p => r.vn (xType w.x) w.a.toNat p == r.vn (xType w.x) w.a.toNat l), 0))) ∧
  LongRuns .sameAll false 0x0E8 (fun w _ => w.c = 0) (fun w r => r.laneOp tB32 w.d.toNat (fun l =>
    (if r.allSame w l then r.tileMask l (fun _ => true) else 0, 0))) ∧
  LongRuns .sameAll false 0x0E8 (fun w _ => w.c ≠ 0) (fun w r => (r.laneOp tB32 w.d.toNat (fun l =>
    (if r.allSame w l then r.tileMask l (fun _ => true) else 0, 0))).laneK w.c.toNat (fun l => (r.allSame w l, 0))) ∧
  (∀ (r : State) (l p : Nat), p ∈ r.tileLanes l ↔ p / r.tile = l / r.tile ∧ r.lanes.getLsbD p = true) ∧
  LongRuns .rank false 0x0EC always (fun w r => r.laneOp tB32 w.d.toNat (fun l =>
    (((r.tileLanes l).filter (fun p => (r.sq.k w.a.toNat).getLsbD p && (decide (p < l) || (xSub w.x == 1 && p == l)))).length, 0))) ∧
  LongRuns .redx false 0x0E9 always (fun w r => r.laneOp (xType w.x) w.d.toNat (fun l =>
    (tyOut (xType w.x) (satOf w.m) (redList (xSub w.x) (xType w.x) ((r.tileLanes l).map (r.ai w))), 0))) ∧
  LongRuns .scanx false 0x0EB always (fun w r => r.laneOp (xType w.x) w.d.toNat (fun l =>
    (wrapI (redList (xSub w.x % 8) (xType w.x) (((r.tileLanes l).filter (fun p =>
      decide (p < l) || (!(xSub w.x).testBit 3 && p == l))).map (r.ai w))) (tyWidth (xType w.x)), 0))) ∧
  LongRuns .redf false 0x0EA always (fun w r => r.laneOp tB32 w.d.toNat (fun l =>
    ((r.redfTile w (r.tileBase l)).1.toNat, (r.redfTile w (r.tileBase l)).2))) ∧
  (∀ (w : Long) (s r u : State), s.Goes (s.formLong false 0x0ED w) → r = s.atIssue (s.formLong false 0x0ED w) →
    u = (List.range w.b.toNat).foldl (fun u j => u.laneK (w.d.toNat + j) (fun l =>
      ((r.selCands w (r.tileBase l)).any (fun c => c.2.1 == j && c.2.2.1 == l &&
        selChosen (xType w.x) (xSub w.x == 1) w.m w.c.toNat (r.selCands w (r.tileBase l)) c), 0))) r →
    (xType w.x ≠ tF32 → exec (.selk w) s = .next (s.ended 8 (u.orFlags 0))) ∧
    (xType w.x = tF32 → exec (.selk w) s = .next (s.ended 8 (u.orFlags (flagsOver r.lanes (fun l =>
      sigFlag ((List.range w.b.toNat).map (fun j => f32 (r.sq.v (w.a.toNat + j) l))))))))) ∧
  (∀ t ∈ [tS32, tN32], ∀ l : List Int, redList 0 t l = l.sum) ∧
  (∀ t x, ∀ l : List Int, (redList 1 t (x :: l) ∈ x :: l ∧ ∀ y ∈ x :: l, redList 1 t (x :: l) ≤ y) ∧
    (redList 2 t (x :: l) ∈ x :: l ∧ ∀ y ∈ x :: l, y ≤ redList 2 t (x :: l)))

/-! ### Memory instructions (07) -/

/-- 07 R132 to R138, R143, R153, Table 7.2: ld, ldblk and st where every check passes and the lines can be reached: a load writes to the
lanes of the lane set what each lane's bytes read as and brings the lines to the CU; a store writes its bytes into pending lines, lanes
ascending. With no room for its pending lines a store dooms its transaction; outside one it publishes first and issues again. In a
doomed transaction loads give zero and stores nothing. A check that fails is the trap of the first row.
The model's own choices in this statement are log entries 14, 20, 21 and 51. -/
def Obligations.LoadsAndStores : Prop :=
  LongRuns .ld false 0x120 (fun w r => (r.inTx && r.sq.doomed.isSome) = false ∧ r.check .ld (wBytes (acW w.c)) (r.plainAccs w) = .ok ∧
      r.lacking .read (r.accLines (r.plainAccs w)) = none ∧ r.forcedLines (r.plainAccs w) = [] ∧
      r.farLack r.sq.cache (r.clNow / 32) (r.readsOf ((r.plainAccs w).flatMap Acc.bytes)) = none)
    (fun w r => (r.putWide w.d.toNat (acW w.c) (fun l => r.loadNat (laneEa (r.plainAccs w) l) (wBytes (acW w.c)))).fillAccs (r.plainAccs w)) ∧
  LongRuns .ld false 0x120 (fun _ r => (r.inTx && r.sq.doomed.isSome) = true) (fun w r => r.putWide w.d.toNat (acW w.c) (fun _ => 0)) ∧
  LongTraps .ld false 0x120 (fun w r => if r.inTx && r.sq.doomed.isSome then none
    else (r.check .ld (wBytes (acW w.c)) (r.plainAccs w)).fault) ∧
  LongRuns .ldblk false 0x126 (fun w r => (r.inTx && r.sq.doomed.isSome) = false ∧ r.check .ld 8 (r.blockAccs w) = .ok ∧
      r.lacking .read (r.accLines (r.blockAccs w)) = none ∧ r.forcedLines (r.blockAccs w) = [] ∧
      r.farLack r.sq.cache (r.clNow / 32) (r.readsOf ((r.blockAccs w).flatMap Acc.bytes)) = none)
    (fun w r => ((List.range (blkRegs r.fmtNow)).foldl (fun t i => t.modSq (fun q => q.setV r.lanes (w.d.toNat + i) (fun l =>
        BitVec.ofNat 32 (r.loadNat (laneEa (r.blockAccs w) l + 4 * i) 4)))) r).fillAccs (r.blockAccs w)) ∧
  LongRuns .ldblk false 0x126 (fun _ r => (r.inTx && r.sq.doomed.isSome) = true)
    (fun w r => (List.range (blkRegs r.fmtNow)).foldl (fun t i => t.modSq (fun q => q.setV r.lanes (w.d.toNat + i) (fun _ => 0))) r) ∧
  LongTraps .ldblk false 0x126 (fun w r => if r.inTx && r.sq.doomed.isSome then none else (r.check .ld 8 (r.blockAccs w)).fault) ∧
  LongRuns .st false 0x121 (fun w r => r.inTx = false ∧ r.check .st (wBytes (acW w.c)) (r.plainAccs w) = .ok ∧
      r.open_ .shared (r.ownA (r.accLines (r.plainAccs w))) = true ∧
      (r.canPend r.sq.cache (r.newOf w) = true ∨ r.setsClear (r.newOf w) = true))
    (fun w r => r.storeNow w.d.toNat (acW w.c) (r.plainAccs w) (r.accLines (r.plainAccs w)) (r.newOf w)) ∧
  (∀ fits : Bool,
    LongRuns .st false 0x121 (fun w r => r.inTx = true ∧ r.sq.doomed = none ∧ r.check .st (wBytes (acW w.c)) (r.plainAccs w) = .ok ∧
        r.open_ .shared (r.ownA (r.accLines (r.plainAccs w))) = true ∧
        fits = decide ((r.sq.pending.filter (·.tx)).length + (r.newOf w).length ≤ if r.canPend r.sq.cache (r.newOf w) then 256 else 16))
      (fun w r => if fits then r.storeNow w.d.toNat (acW w.c) (r.plainAccs w) (r.accLines (r.plainAccs w)) (r.newOf w)
        else r.modSq (fun q => q.doom 3))) ∧
  (∀ (w : Long) (s r : State), s.Goes (s.formLong false 0x121 w) → r = s.atIssue (s.formLong false 0x121 w) → r.inTx = false →
    r.check .st (wBytes (acW w.c)) (r.plainAccs w) = .ok → r.open_ .shared (r.ownA (r.accLines (r.plainAccs w))) = true →
    r.canPend r.sq.cache (r.newOf w) = false → r.setsClear (r.newOf w) = false →
    (r.published = true → exec (.st w) s = .next (s.ready (s.formLong false 0x121 w))) ∧
    (r.published = false → exec (.st w) s =
      .next ((r.setTodo [.publish, .waitAck, .reissue]).runTodo.unissued (s.ready (s.formLong false 0x121 w))))) ∧
  LongRuns .st false 0x121 (fun _ r => (r.inTx && r.sq.doomed.isSome) = true) (fun _ r => r) ∧
  LongTraps .st false 0x121 (fun w r => if r.inTx && r.sq.doomed.isSome then none
    else (r.check .st (wBytes (acW w.c)) (r.plainAccs w)).fault) ∧
  LongRuns .pfch false 0x12B always (fun w r => (r.globalAccs w w.x.toInt 1).foldl (State.prefetch (acW w.c)) r)

/-- 07 R134, Table 7.2: an address that is not a multiple of the access is mem_misaligned, before any other row; a negative one, or a byte
at 2^57 or above, addr_range; a byte without a cached translation waits for a walk before the rows that need its page. The model's own
choices in this statement are log entries 14 and 53. -/
def Obligations.AccessChecks : Prop :=
  (∀ (r : State) (k : AKind) (al : Nat) (a : Acc), 0 < al → a.ea % (al : Int) ≠ 0 →
    r.check k al [a] = .bad ⟨.memMisaligned, 0, (BitVec.ofInt 64 a.ea).toNat, a.lane⟩) ∧
  (∀ (r : State) (k : AKind) (al : Nat) (a : Acc), a.ea % (al : Int) = 0 → a.ea < 0 →
    r.check k al [a] = .bad ⟨.addrRange, 0, (BitVec.ofInt 64 a.ea).toNat, a.lane⟩) ∧
  (∀ (r : State) (k : AKind) (al : Nat) (a : Acc), a.ea % (al : Int) = 0 → 2 ^ 57 ≤ a.ea → 0 < a.n →
    r.check k al [a] = .bad ⟨.addrRange, 0, a.ea.toNat, a.lane⟩) ∧
  (∀ (r : State) (k : AKind) (al : Nat) (a : Acc), a.ea % (al : Int) = 0 → 0 ≤ a.ea → a.ea + a.n ≤ 2 ^ 57 → 0 < a.n →
    r.leafAt r.ctxNow a.ea.toNat = none → r.check k al [a] = .miss a.ea.toNat a.lane) ∧
  (∀ (r : State) (k : AKind) (al : Nat) (a : Acc) (l : Leaf), a.ea % (al : Int) = 0 → 0 ≤ a.ea → a.ea + a.n ≤ 2 ^ 57 → 0 < a.n →
    (∀ i < a.n, r.leafAt r.ctxNow (a.ea.toNat + i) = some l) → r.allowed k r.ctxNow l = false →
    r.check k al [a] = .bad ⟨.memProtect, 0, a.ea.toNat, a.lane⟩)

/-- 07 R137, 11 R225: what a byte reads as to a squad: its own pending byte first; then on a manual page the copy of its CU, else the home's byte; else its own
published bytes; else the newest version at or below its tidemark, or its launch's snapshot on a versioned page.
The model's own choice in this statement is log entry 18. -/
def Obligations.LoadOrder : Prop :=
  (∀ (s : State) (q : Squad) (l : Leaf) (key : Nat) (b : Byte), q.pendByte key = some b → s.loadByte q l key = b) ∧
  (∀ (s : State) (q : Squad) (l : Leaf) (key : Nat), q.pendByte key = none → l.cls = 2 →
    (∀ m, s.manual.find? (fun m => m.place == q.cache && m.line == lineOf key) = some m → s.loadByte q l key = nth 0 m.data (key % 128)) ∧
    (s.manual.find? (fun m => m.place == q.cache && m.line == lineOf key) = none →
      (homePkg (lineOf key) = s.pkgIdx → s.loadByte q l key = s.byteAt none key) ∧
      (∀ m, homePkg (lineOf key) ≠ s.pkgIdx → s.manual.find? (fun m => m.place == 600 + q.cache / 128 && m.line == lineOf key) = some m →
        q.cache < 512 → s.loadByte q l key = nth 0 m.data (key % 128)))) ∧
  (∀ (s : State) (q : Squad) (l : Leaf) (key : Nat) (b : Byte), q.pendByte key = none → l.cls ≠ 2 → get? q.own key = some b →
    s.loadByte q l key = b) ∧
  (∀ (s : State) (q : Squad) (l : Leaf) (key : Nat), q.pendByte key = none → l.cls = 0 → get? q.own key = none →
    s.loadByte q l key = s.byteAt (some q.tide) key) ∧
  (∀ (s : State) (q : Squad) (l : Leaf) (key : Nat) (a : Launch) (k : Stamp), q.pendByte key = none → l.cls = 1 → get? q.own key = none →
    s.launchOf q.launch = some a → a.snapOn = true → a.k = some k → s.loadByte q l key = s.byteAt (some k) key) ∧
  (∀ (q : Squad) (tx : Bool) (l : Leaf) (key : Nat) (b : Byte), q.tx = tx → q.handler = false →
    (q.pend tx l key b).pendByte key = some b)

/-- 07 R139 to R142, R153: lds, ldsm and ldsm.t read scratchpad bytes and sts writes them, once the checks pass and every line is present;
an access to a line that a copy has yet to fill waits with wake kind 7 for the rest of itself, and a read that then meets a poisoned
granule is poisoned_data. In a doomed transaction the loads give zero, and sts acts as ever.
The model's own choices in this statement are log entries 67 and 97. -/
def Obligations.ScratchAccesses : Prop :=
  LongEnds .lds false 0x122 (fun _ r => r) (fun w r => [.ldsDo w.d.toNat (acW w.c) ((r.ldsAccs w).map (fun a => (a.lane, r.aim a)))])
    (fun w r u => (r.inTx && r.sq.doomed.isSome) = false ∧ r.checkPlace (wBytes (acW w.c)) false (r.ldsAccs w) = none ∧
      u.Landed (spanKeys (wBytes (acW w.c)) ((r.ldsAccs w).map (fun a => (a.lane, r.aim a)))) ∧
      u.Sound (spanKeys (wBytes (acW w.c)) ((r.ldsAccs w).map (fun a => (a.lane, r.aim a)))))
    (fun w r u => u.ldsNow w.d.toNat (acW w.c) ((r.ldsAccs w).map (fun a => (a.lane, r.aim a)))) ∧
  LongRuns .lds false 0x122 (fun _ r => (r.inTx && r.sq.doomed.isSome) = true) (fun w r => r.putWide w.d.toNat (acW w.c) (fun _ => 0)) ∧
  LongTraps .lds false 0x122 (fun w r => if r.inTx && r.sq.doomed.isSome then none
    else r.checkPlace (wBytes (acW w.c)) false (r.ldsAccs w)) ∧
  LongEnds .sts false 0x123 (fun _ r => r)
    (fun w r => [.stsDo ((r.ldsAccs w).map (fun a => ((r.aim a).1, (r.aim a).2, a.n, r.storeVal w.d.toNat (acW w.c) a.lane)))])
    (fun w r u => r.checkPlace (wBytes (acW w.c)) true (r.ldsAccs w) = none ∧
      u.Landed ((r.ldsAccs w).flatMap (fun a => (List.range a.n).map (fun i => (0, (r.aim a).1 + i, (r.aim a).2 + i)))))
    (fun w r u => (r.ldsAccs w).foldl (fun v a => v.scrWrite (r.aim a).2 (bytesLE a.n (r.storeVal w.d.toNat (acW w.c) a.lane))) u) ∧
  LongTraps .sts false 0x123 (fun w r => r.checkPlace (wBytes (acW w.c)) true (r.ldsAccs w)) ∧
  (∀ i ∈ [(Instr.ldsm, 0x124), (Instr.ldsmT, 0x125)],
    LongEnds i.1 false i.2 (fun _ r => r) (fun w r => [.ldsmDo i.2 w.c.toNat w.d.toNat ((r.rowAccs w).map r.aim) r.lanes])
      (fun w r u => (r.inTx && r.sq.doomed.isSome) = false ∧ r.checkPlace 16 false (r.rowAccs w) = none ∧
        u.Landed (spanKeys 16 ((List.range (r.rowAccs w).length).map (fun j => (j, nth (0, 0) ((r.rowAccs w).map r.aim) j)))) ∧
        u.Sound (spanKeys 16 ((List.range (r.rowAccs w).length).map (fun j => (j, nth (0, 0) ((r.rowAccs w).map r.aim) j)))))
      (fun w r u => u.ldsmNow i.2 w.c.toNat w.d.toNat ((r.rowAccs w).map r.aim) r.lanes) ∧
    LongRuns i.1 false i.2 (fun _ r => (r.inTx && r.sq.doomed.isSome) = true) (fun w r =>
      r.modSq (fun q => (List.range (2 ^ (w.c.toNat % 4))).foldl (fun q f => q.setV r.lanes (w.d.toNat + f) (fun _ => 0)) q)) ∧
    LongTraps i.1 false i.2 (fun w r => if r.inTx && r.sq.doomed.isSome then none else r.checkPlace 16 false (r.rowAccs w))) ∧
  (∀ (w : Long) (s r u : State) (m : MOp) (spans : List (Nat × Nat × Nat)), s.Goes (s.formLong false 0x122 w) →
    r = s.atIssue (s.formLong false 0x122 w) → (r.inTx && r.sq.doomed.isSome) = false →
    r.checkPlace (wBytes (acW w.c)) false (r.ldsAccs w) = none → m = .ldsDo w.d.toNat (acW w.c) ((r.ldsAccs w).map (fun a => (a.lane, r.aim a))) →
    u = s.moved 8 (r.setTodo [m]) → spans = spanKeys (wBytes (acW w.c)) ((r.ldsAccs w).map (fun a => (a.lane, r.aim a))) →
    (∀ k, u.absentWait (spans.map (·.2.2)) = some k → k.kind = 7 ∧ exec (.lds w) s = .next (u.block k [m])) ∧
    (∀ p, u.Landed spans → spans.find? (fun p => u.poison.any (fun q => q.gran == scrGran p.2.2)) = some p →
      exec (.lds w) s = .next (u.rewind.takeTrap ⟨.poisonedData, 0, p.2.1, p.1⟩ u.curNow)))

/-- 07 R144 to R146: ld.acq reads at the home and snaps; st.rel publishes and waits for the acknowledgements before its write; atom does
both as its flags ask; upd folds into the CU's update-only copy once no line is busy. Each completes in its issue where its lines can be
reached, its Publish is acknowledged and its Snap finds the slack water high enough.
The model's own choice in this statement is log entry 25. -/
def Obligations.OrderedAccesses : Prop :=
  LongParts .ldAcq false 0x127 (fun w r => r.check .acq (wBytes (acW w.c)) (r.plainAccs w) = .ok) (fun _ r => r)
    (fun w r => [.acqRead w.d.toNat (acW w.c) ((r.plainAccs w).map (fun a => (a.lane, a.ea.toNat))), .snap]) ∧
  LongEnds .ldAcq false 0x127 (fun _ r => r)
    (fun w r => [.acqRead w.d.toNat (acW w.c) ((r.plainAccs w).map (fun a => (a.lane, a.ea.toNat))), .snap])
    (fun w r u => r.check .acq (wBytes (acW w.c)) (r.plainAccs w) = .ok ∧ u.Reaches .acq .shared ((r.plainAccs w).map (fun a => a.ea.toNat)) ∧
      (u.acqNow w.d.toNat (acW w.c) ((r.plainAccs w).map (fun a => (a.lane, a.ea.toNat)))).SnapsNow)
    (fun w r u => (u.acqNow w.d.toNat (acW w.c) ((r.plainAccs w).map (fun a => (a.lane, a.ea.toNat)))).snapped) ∧
  LongTraps .ldAcq false 0x127 (fun w r => (r.check .acq (wBytes (acW w.c)) (r.plainAccs w)).fault) ∧
  LongParts .stRel false 0x128 (fun w r => r.check .rel (wBytes (acW w.c)) (r.plainAccs w) = .ok) (fun _ r => r)
    (fun w r => [.publish, .waitAck, .relWrite ((r.plainAccs w).map (fun a =>
      (a.lane, a.ea.toNat, a.n, r.storeVal w.d.toNat (acW w.c) a.lane)))]) ∧
  LongEnds .stRel false 0x128 (fun _ r => r)
    (fun w r => [.publish, .waitAck, .relWrite ((r.plainAccs w).map (fun a =>
      (a.lane, a.ea.toNat, a.n, r.storeVal w.d.toNat (acW w.c) a.lane)))])
    (fun w r u => r.check .rel (wBytes (acW w.c)) (r.plainAccs w) = .ok ∧ u.PubsNow ∧
      u.publish.Reaches .rel .excl ((r.plainAccs w).map (fun a => a.ea.toNat)))
    (fun w r u => u.publish.relNow ((r.plainAccs w).map (fun a => (a.lane, a.ea.toNat, a.n, r.storeVal w.d.toNat (acW w.c) a.lane)))) ∧
  LongTraps .stRel false 0x128 (fun w r => (r.check .rel (wBytes (acW w.c)) (r.plainAccs w)).fault) ∧
  (∀ acq rel : Bool,
    LongParts .atom false 0x129 (fun w r => (xSub w.x).testBit 4 = acq ∧ (xSub w.x).testBit 5 = rel ∧
        r.check .atom (wordBytes (xType w.x)) (r.wordAccs w) = .ok) (fun _ r => r)
      (fun w r => (if rel then [.publish, .waitAck] else []) ++ [.atomDo (xSub w.x % 16) (xType w.x) w.d.toNat acq rel
        ((r.wordAccs w).map (fun a => (a.lane, a.ea.toNat)))] ++ (if acq then [.snap] else [])) ∧
    LongEnds .atom false 0x129 (fun _ r => r)
      (fun w r => (if rel then [.publish, .waitAck] else []) ++ [.atomDo (xSub w.x % 16) (xType w.x) w.d.toNat acq rel
        ((r.wordAccs w).map (fun a => (a.lane, a.ea.toNat)))] ++ (if acq then [.snap] else []))
      (fun w r u => (xSub w.x).testBit 4 = acq ∧ (xSub w.x).testBit 5 = rel ∧ r.check .atom (wordBytes (xType w.x)) (r.wordAccs w) = .ok ∧
        (rel = true → u.PubsNow) ∧ (if rel then u.publish else u).Reaches .atom .excl ((r.wordAccs w).map (fun a => a.ea.toNat)) ∧
        (acq = true → ((if rel then u.publish else u).atomNow (xSub w.x % 16) (xType w.x) w.d.toNat acq rel
          ((r.wordAccs w).map (fun a => (a.lane, a.ea.toNat)))).SnapsNow))
      (fun w r u =>
        let v := (if rel then u.publish else u).atomNow (xSub w.x % 16) (xType w.x) w.d.toNat acq rel
          ((r.wordAccs w).map (fun a => (a.lane, a.ea.toNat)))
        if acq then v.snapped else v)) ∧
  LongTraps .atom false 0x129 (fun w r => (r.check .atom (wordBytes (xType w.x)) (r.wordAccs w)).fault) ∧
  LongRuns .upd false 0x12A (fun w r => r.check .upd (wordBytes (xType w.x)) (r.wordAccs w) = .ok ∧
      r.open_ (.upd (xSub w.x) (xType w.x)) (r.accLines (r.wordAccs w)) = true ∧
      ∀ l ∈ r.accLines (r.wordAccs w), r.holdsA r.sq.cache l (xSub w.x) (xType w.x) = false → r.roomOne r.sq.cache l = true)
    (fun w r => (r.wordAccs w).foldl (fun s a => s.updLane (xSub w.x) (xType w.x) w.d.toNat a) r) ∧
  LongTraps .upd false 0x12A (fun w r => (r.check .upd (wordBytes (xType w.x)) (r.wordAccs w)).fault)

/-- 07 Tables 7.5, 7.6: the operators of atom and upd on 32-bit words: addition modulo 2^32, lesser and greater under the sign of the
type, bitwise, exchange, and compare-and-swap, which writes its second operand only where the old value equals the first. -/
def Obligations.AtomicOperators : Prop :=
  (∀ old v : W, ∀ w2 : Nat,
    (atomOp 0 tN32 old.toNat v.toNat w2).1 = (old + v).toNat ∧ (atomOp 3 tB32 old.toNat v.toNat w2).1 = (old &&& v).toNat ∧
    (atomOp 4 tB32 old.toNat v.toNat w2).1 = (old ||| v).toNat ∧ (atomOp 5 tB32 old.toNat v.toNat w2).1 = (old ^^^ v).toNat ∧
    (atomOp 6 tB32 old.toNat v.toNat w2).1 = v.toNat ∧ (atomOp 7 tB32 old.toNat v.toNat w2).1 = (if old = v then w2 else old.toNat) ∧
    (atomOp 1 tS32 old.toNat v.toNat w2).1 = (if v.slt old then v else old).toNat ∧
    (atomOp 2 tS32 old.toNat v.toNat w2).1 = (if old.slt v then v else old).toNat ∧
    (atomOp 1 tN32 old.toNat v.toNat w2).1 = (if v.ult old then v else old).toNat ∧
    (atomOp 2 tN32 old.toNat v.toNat w2).1 = (if old.ult v then v else old).toNat) ∧
  (∀ old v : D, ∀ w2 : Nat, (atomOp 0 tN64 old.toNat v.toNat w2).1 = (old + v).toNat ∧
    (atomOp 1 tS64 old.toNat v.toNat w2).1 = (if v.slt old then v else old).toNat ∧
    (atomOp 2 tS64 old.toNat v.toNat w2).1 = (if old.slt v then v else old).toNat ∧
    (atomOp 1 tN64 old.toNat v.toNat w2).1 = (if v.ult old then v else old).toNat ∧
    (atomOp 2 tN64 old.toNat v.toNat w2).1 = (if old.ult v then v else old).toNat ∧
    (atomOp 3 tB64 old.toNat v.toNat w2).1 = (old &&& v).toNat ∧ (atomOp 4 tB64 old.toNat v.toNat w2).1 = (old ||| v).toNat ∧
    (atomOp 5 tB64 old.toNat v.toNat w2).1 = (old ^^^ v).toNat ∧ (atomOp 6 tB64 old.toNat v.toNat w2).1 = v.toNat ∧
    (atomOp 7 tB64 old.toNat v.toNat w2).1 = (if old = v then w2 else old.toNat)) ∧
  (∀ old v : W, ∀ w2 : Nat, atomOp 0 tF32 old.toNat v.toNat w2 = fp32.addR .rne (f32 old) (f32 v) ∧
    atomOp 1 tF32 old.toNat v.toNat w2 = fp32.minmaxR false false (f32 old) (f32 v) ∧
    atomOp 2 tF32 old.toNat v.toNat w2 = fp32.minmaxR true false (f32 old) (f32 v)) ∧
  (∀ old v : W, fold 0 tS32 old.toNat v.toNat = ((old + v).toNat, 0) ∧ fold 3 tB32 old.toNat v.toNat = ((old ||| v).toNat, 0) ∧
    fold 1 tS32 old.toNat v.toNat = ((if v.slt old then v else old).toNat, 0) ∧
    fold 2 tS32 old.toNat v.toNat = ((if old.slt v then v else old).toNat, 0) ∧
    fold 1 tN32 old.toNat v.toNat = ((if v.ult old then v else old).toNat, 0) ∧
    fold 2 tN32 old.toNat v.toNat = ((if old.ult v then v else old).toNat, 0) ∧
    fold 0 tF32 old.toNat v.toNat = fp32.addR .rne (f32 old) (f32 v) ∧
    fold 1 tF32 old.toNat v.toNat = fp32.minmaxR false false (f32 old) (f32 v) ∧
    fold 2 tF32 old.toNat v.toNat = fp32.minmaxR true false (f32 old) (f32 v) ∧
    fold 4 tBF16 old.toNat v.toNat = fp32.addR .rne (f32 old) (f32 v)) ∧
  (∀ old v : D, fold 0 tS64 old.toNat v.toNat = ((old + v).toNat, 0) ∧ fold 3 tB64 old.toNat v.toNat = ((old ||| v).toNat, 0)) ∧
  (∀ op ∈ [0, 1, 2, 3], ∀ t ∈ [tS32, tN32], ∀ v : W, (fold op t (updIdentity op t) v.toNat).1 = v.toNat)

/-- 07 R151 to R155: pub publishes and waits for its acknowledgements, snap renews the tidemark, phase does both, txbeg does both and
enters transaction state; txend of a doomed or empty transaction, and txabort, leave it at once, with their outcome in txcode and
scc; txend of one that wrote takes the lock phase.
The model's own choice in this statement is log entry 92. -/
def Obligations.PhasesAndTransactions : Prop :=
  ShortParts .pub true 0x0A0 (fun _ r => r) (fun _ _ => [.publish, .waitAck]) ∧
  ShortParts .snap true 0x0A1 (fun _ r => r) (fun _ _ => [.snap]) ∧
  ShortParts .phase true 0x0A2 (fun _ r => r) (fun _ _ => [.publish, .waitAck, .snap]) ∧
  ShortParts .txbeg true 0x0A3 (fun _ r => r) (fun _ _ => [.publish, .waitAck, .snap, .txEnter]) ∧
  (∀ c : Nat, ShortRuns .txend true 0x0A4 (fun _ r => r.sq.doomed = some c) (fun _ r => r.leaveTx c false)) ∧
  ShortRuns .txend true 0x0A4 (fun _ r => r.sq.doomed = none ∧ r.txLines = [])
    (fun _ r => ((r.cuStamp r.sq.cache).2.leaveTx 0 true).observe (r.cuStamp r.sq.cache).1) ∧
  (∀ (w : Short) (s r u : State), s.Goes (s.formShort true 0x0A4 w) → r = s.atIssue (s.formShort true 0x0A4 w) →
    r.sq.doomed = none → r.txLines ≠ [] →
    passTo [.txLock (r.cuStamp r.sq.cache).1 r.txLines] (s.moved 4 ((r.cuStamp r.sq.cache).2.setTodo
      [.txLock (r.cuStamp r.sq.cache).1 r.txLines])) = some u → exec (.txend w) s = .next u.complete) ∧
  (∀ c : Nat, ShortRuns .txabort true 0x0A5 (fun _ r => r.sq.doomed = some c) (fun _ r => r.leaveTx c false)) ∧
  ShortRuns .txabort true 0x0A5 (fun _ r => r.sq.doomed = none) (fun w r => r.leaveTx (4 + 256 * w.b.toNat) false) ∧
  (∀ (r : State) (c : Nat) (ok : Bool), r.isM = false → (r.leaveTx c ok).sq.tx = false ∧ (r.leaveTx c ok).sq.doomed = none ∧
    (r.leaveTx c ok).sq.txcode = BitVec.ofNat 32 c ∧ (r.leaveTx c ok).scc = ok ∧
    ∀ p ∈ (r.leaveTx c ok).sq.pending, p.tx = false)

/-- 07 R151, R154, R145, 11 R222 to R232, 12 R254: the parts of an instruction. publish passes once the counter has room and the epochs
that it ends are free at their homes, and else its agent stays Ready; waitAck passes at zero outstanding acknowledgements and else waits,
kind 0x0B; snap passes once the observed stamp is at or below the slack water, raises the tidemark to it, in transaction state excepted,
and drops the own-view bytes, and else waits, kind 0x10; an ordered access takes its turn at a busy line, its agent Ready, and waits for a
line of another package, kind 0x0C; entering a transaction clears its outcome; the last line of a lock phase ends it in conflict where its
newest version is above the tidemark, else the commit follows, which leaves the transaction; a doomed one ends with its cause. The model's
own choices in this statement are log entries 38, 55, 62 and 91. -/
def Obligations.PartRules : Prop :=
  (∀ t : State, (t.ackNow = 0 → passTo [.waitAck] t = some t) ∧
    (t.ackNow ≠ 0 → runList [.waitAck] t = t.block ⟨0x0B, 0, 0⟩ [.waitAck])) ∧
  (∀ t : State, (t.SnapsNow → passTo [.snap] t = some t.snapped) ∧
    (¬ t.SnapsNow → runList [.snap] t = t.settle.block ⟨0x10, t.settle.obsNow.tick, t.settle.obsNow.src⟩ [.snap])) ∧
  (∀ t : State, t.isM = false → t.renew.sq.own = [] ∧
    t.renew.sq.tide = if t.sq.tx then t.sq.tide else t.sq.tide.max (t.slackFor t.ctxNow)) ∧
  (∀ t : State,
    (t.ackRoom t.sending = true → t.barredOf .shared t.preEpochs = none → passTo [.publish] t = some t.publish) ∧
    (t.ackRoom t.sending = false → runList [.publish, .waitAck] t = t.stay [.publish, .waitAck]) ∧
    (∀ l, t.ackRoom t.sending = true → t.barredOf .shared t.preEpochs = some l →
      runList [.publish, .waitAck] t = (t.await .shared l).stay [.publish, .waitAck]) ∧
    passTo [.txEnter] t = some (t.modSq (fun q => { q with tx := true, doomed := none, txcode := 0 }))) ∧
  (∀ (t : State) (acc : List (Nat × Nat × Nat × Nat)) (ls : List Nat) (l : Nat), t.linesOf .rel (acc.map (·.2.1)) = some ls →
    t.lacking .excl ls = none → t.barredOf .excl ls = some l → runList [.relWrite acc] t = (t.await .excl l).stay [.relWrite acc]) ∧
  (∀ (t : State) (d c : Nat) (acc : List (Nat × Nat)) (ls : List Nat) (l : Nat), t.linesOf .acq (acc.map (·.2)) = some ls →
    (t.lacking .shared ls = none → t.barredOf .shared ls = some l →
      runList [.acqRead d c acc, .snap] t = (t.await .shared l).stay [.acqRead d c acc, .snap]) ∧
    (t.lacking .shared ls = some l →
      runList [.acqRead d c acc, .snap] t = (t.ask .shared l).block ⟨0x0C, l * 128, 0⟩ [.reissue, .snap])) ∧
  (∀ (t u : State) (c : Stamp) (l : Nat), t.sq.doomed = none → t.granted .event l = true → t.held t.sq.id .event l = false →
    t.locks.find? (fun k => k.line == l && k.squad != t.sq.id) = none →
    u = (({ t with locks := t.locks ++ [⟨l, t.sq.id, c, false⟩] } : State).collapseCu t.sq.cache l).2 →
    (u.sq.tide.lt (u.newest l) = true → passTo [.txLock c [l]] t = some (u.leaveTx 1 false)) ∧
    (u.sq.tide.lt (u.newest l) = false → runList [.txLock c [l]] t =
      ({ u with locks := modAll (·.squad == u.sq.id) (fun k => { k with committing := true }) u.locks } : State).stay [.txCommit c])) ∧
  (∀ (t : State) (c : Stamp), t.sq.doomed = none → (∀ p ∈ t.sq.pending, p.tx = true → t.stalls p.line = false) →
    passTo [.txCommit c] t = some (t.txCommitNow c) ∧ (t.txCommitNow c).sq.tx = false ∧ (t.txCommitNow c).sq.doomed = none ∧
    (t.txCommitNow c).sq.txcode = 0) ∧
  (∀ (t : State) (c : Stamp) (cause : Nat) (ls : List Nat), t.sq.doomed = some cause →
    passTo [.txCommit c] t = some (t.leaveTx cause false) ∧ passTo [.txLock c ls] t = some (t.leaveTx cause false)) ∧
  (∀ (l l' : List MOp) (m m' : MOp) (t u v : State), passTo l t = some u → m ≠ .reissue →
    (∀ k, runOp m u = .wait k v m' → runList (l ++ m :: l') t = v.block k (m' :: l')) ∧
    (runOp m u = .more v m' → runList (l ++ m :: l') t = v.stay (m' :: l')) ∧
    (runOp m u = .redo v → runList (l ++ m :: l') t = v.sampleBack.rewind.again) ∧
    (∀ f, runOp m u = .trap f v → runList (l ++ m :: l') t = v.rewind.takeTrap f v.curNow))

/-- 07 R156, R157: enq appends the entries of the lane set at the home of the ring, once the squad has published, or with no room takes
its stamp, clears scc and leaves the ring alone; deq takes what stands there, up to one entry a lane, and snaps; a control block out of
form is ringfmt. 07 R148 to R150: the range operations publish the lines touched, wait, and walk the range. The model's own choices in this
statement are log entries 56 and 111. -/
def Obligations.RingsAndRanges : Prop :=
  (∀ (w : Long) (s r h t : State) (b : RingBlk) (sl : List Acc), s.Goes (s.formLong true 0x0A6 w) → r = s.atIssue (s.formLong true 0x0A6 w) →
    r.check .ring 64 (r.ringAcc w) = .ok → r.open_ .event (r.accLines (r.ringAcc w)) = true → h = r.homeReady (r.accLines (r.ringAcc w)) →
    b = h.ringBlk (r.spair w.b.toNat).toNat → b.ok = true →
    sl = (if b.tail - b.head + (lanesOf r.lanes).length ≤ 2 ^ b.cap then b.slots b.tail (lanesOf r.lanes) else []) →
    h.check .slot 8 sl = .ok → h.open_ .event (h.accLines (r.ringAcc w ++ sl)) = true → t = h.homeReady (h.accLines (r.ringAcc w ++ sl)) →
    (r.published = true →
      exec (.enq w) s = .next (s.ended 8 (t.enqAt (r.spair w.b.toNat).toNat ((lanesOf r.lanes).map (fun l => t.sq.v2 w.d.toNat l))))) ∧
    (r.published = false → exec (.enq w) s =
      .next ((r.setTodo [.publish, .waitAck, .reissue]).runTodo.unissued (s.ready (s.formLong true 0x0A6 w))))) ∧
  (∀ (w : Long) (s r h t : State) (b : RingBlk) (sl : List Acc), s.Goes (s.formLong true 0x0A7 w) → r = s.atIssue (s.formLong true 0x0A7 w) →
    r.check .ring 64 (r.ringAcc w) = .ok → r.open_ .event (r.accLines (r.ringAcc w)) = true → h = r.homeReady (r.accLines (r.ringAcc w)) →
    b = h.ringBlk (r.spair w.b.toNat).toNat → b.ok = true →
    sl = b.slots b.head ((lanesOf r.lanes).take (b.tail - b.head)) →
    h.check .ring 8 sl = .ok → h.open_ .event (h.accLines (r.ringAcc w ++ sl)) = true → t = h.homeReady (h.accLines (r.ringAcc w ++ sl)) →
    ∀ u : State, u = s.moved 8 ((t.deqAt (r.spair w.b.toNat).toNat w.d.toNat w.c.toNat r.lanes).setTodo [.snap]) →
    (u.SnapsNow → exec (.deq w) s = .next u.snapped.complete) ∧
    (¬ u.SnapsNow → exec (.deq w) s =
      .next (u.settle.block ⟨0x10, u.settle.obsNow.tick, u.settle.obsNow.src⟩ [.snap]))) ∧
  (∀ i ∈ [(Instr.enq, 0x0A6), (Instr.deq, 0x0A7)],
    LongTraps i.1 true i.2 (fun w r => (r.check .ring 64 (r.ringAcc w)).fault) ∧
    LongTraps i.1 true i.2 (fun w r => if r.check .ring 64 (r.ringAcc w) = .ok ∧ r.open_ .event (r.accLines (r.ringAcc w)) = true ∧
        ((r.homeReady (r.accLines (r.ringAcc w))).ringBlk (r.spair w.b.toNat).toNat).ok = false
      then some ⟨.ringfmt, 0, 0, 0⟩ else none)) ∧
  (∀ (t : State) (va : Nat) (es : List D), 2 ^ (t.ringBlk va).cap < (t.ringBlk va).tail - (t.ringBlk va).head + es.length →
    (t.enqAt va es).scc = false ∧ (t.enqAt va es).mem = t.mem ∧ (t.enqAt va es).pubs = t.pubs) ∧
  (∀ i ∈ [(Instr.cwb, 0x0A8, 0), (Instr.cinv, 0x0A9, 1), (Instr.cwbinv, 0x0AA, 2)],
    LongParts i.1 true i.2.1 (fun _ r => r.ackRoom r.sending = true ∧ r.open_ .shared r.preEpochs = true) (fun w r => r.rangePub i.2.2 w)
      (fun w r => [.waitAck, .walkLines i.2.2 (r.spair w.a.toNat).toNat (r.sreg w.b.toNat).toNat, .walkAck]) ∧
    LongEnds i.1 true i.2.1 (fun w r => r.rangePub i.2.2 w)
      (fun w r => [.waitAck, .walkLines i.2.2 (r.spair w.a.toNat).toNat (r.sreg w.b.toNat).toNat, .walkAck])
      (fun w r u => r.ackRoom r.sending = true ∧ r.open_ .shared r.preEpochs = true ∧ u.ackNow = 0 ∧
        (u.walkRange i.2.2 (r.spair w.a.toNat).toNat (r.sreg w.b.toNat).toNat).ackNow = 0)
      (fun w r u => u.walkRange i.2.2 (r.spair w.a.toNat).toNat (r.sreg w.b.toNat).toNat)) ∧
  (∀ (t : State) (op lo : Nat), t.walkRange op lo 0 = t) ∧
  (∀ t : State, t.ackNow ≠ 0 → runList [.walkAck] t = t.block ⟨0x0B, 0, 0⟩ [.walkAck])

/-! ### Engine commands (09) -/

/-- 09 R178 to R186: a copy, gather or remote copy whose ranges pass the checks of R181 takes the next number of its timeline, joins the
outstanding commands and leaves its number in s[d]; one that fails is the trap of the first check. 09 R186 to R189: rsig and tlsig issue
as commands; tlget reads a counter of a timeline; tlwait, waitc and waitc.g wait until their count is there, then snap: wake kinds 4, 5
and 6. The model's own choices in this statement are log entries 53 and 58. -/
def Obligations.CommandsAndSignals : Prop :=
  (∀ i ∈ [(Instr.cpy, 0x0E0, false), (Instr.cpy2d, 0x0E1, true)],
    LongRuns i.1 true i.2.1 (fun w r => r.copyFault w i.2.2 = none) (fun w r =>
      let g := r.group w.a.toNat (if i.2.2 then 10 else 7)
      r.sendCmd .cpy w.c.toNat w.d.toNat g w.x.toNat i.2.2 (w.x.extractLsb' 2 2).toNat (grp g 5) (nth 0 g 6) 0
        (segLines (r.segs (r.copyDst w i.2.2)))) ∧
    LongTraps i.1 true i.2.1 (fun w r => r.copyFault w i.2.2)) ∧
  LongRuns .gath true 0x0E2 (fun w r => r.gathFault w = none) (fun w r =>
    r.sendCmd .gath (16 + r.sq.cache % 4) w.d.toNat (r.group w.a.toNat 7) w.x.toNat false (w.x.extractLsb' 5 2).toNat
      (grp (r.group w.a.toNat 7) 5) (nth 0 (r.group w.a.toNat 7) 6) 0 (segLines (r.segs (r.gathDst w)))) ∧
  LongTraps .gath true 0x0E2 (fun w r => r.gathFault w) ∧
  LongParts .rcpy true 0x0E3 (fun w r => r.rcpyFault w = none) (fun _ r => r)
    (fun w r => [.rcpyDo w.d.toNat w.x.toNat (r.group w.a.toNat 7)]) ∧
  LongTraps .rcpy true 0x0E3 (fun w r => r.rcpyFault w) ∧
  (∀ (t : State) (d x : Nat) (g : List W),
    (t.ArmRoom x g → t.ackRoom 1 = true → passTo [.rcpyDo d x g] t = some (t.rcpyNow d x g)) ∧
    (t.ArmRoom x g → t.ackRoom 1 = false → runList [.rcpyDo d x g] t = t.stay [.rcpyDo d x g]) ∧
    (¬ t.ArmRoom x g → runList [.rcpyDo d x g] t = t.block ⟨0x0D, 0, 0⟩ [.rcpyDo d x g])) ∧
  LongRuns .rsig true 0x0E4 (fun w r => r.check .rsig 8 [⟨0, ((r.spair w.a.toNat).toNat : Int), 8⟩] = .ok ∧ r.ackRoom 1 = true) (fun w r =>
    (r.sendCmd .rsig (20 + r.sq.cache % 4) w.d.toNat [] 0 false 0 0 (r.sreg w.b.toNat) (r.keyNow (r.spair w.a.toNat).toNat) []).modSq
      (fun q => { q with ack := q.ack + 1 })) ∧
  LongTraps .rsig true 0x0E4 (fun w r => (r.check .rsig 8 [⟨0, ((r.spair w.a.toNat).toNat : Int), 8⟩]).fault) ∧
  LongRuns .tlget true 0x0E8 (fun w _ => w.x.getLsbD 0 = false) (fun w r => r.setS2 w.d.toNat
    (BitVec.ofNat 64 (r.timeline r.ctxNow r.clNow (tlPlace w.c.toNat r.posNow)).done)) ∧
  LongRuns .tlget true 0x0E8 (fun w _ => w.x.getLsbD 0 = true) (fun w r => r.setS2 w.d.toNat
    (BitVec.ofNat 64 (r.timeline r.ctxNow r.clNow (tlPlace w.c.toNat r.posNow)).issued)) ∧
  LongParts .tlwait true 0x0E9 always (fun _ r => r) (fun w r => [.waitTl w.c.toNat (r.spair w.a.toNat).toNat, .snap]) ∧
  LongRuns .tlsig true 0x0EA
    (fun w r => r.cmdCheck (compRng 0 0) (compRng 0 0) [] (w.x.extractLsb' 0 2).toNat (r.sreg w.a.toNat).toNat false = none)
    (fun w r => r.sendCmd .sig (tlPlace w.c.toNat r.posNow) w.d.toNat [] 0 false (w.x.extractLsb' 0 2).toNat (r.sreg w.a.toNat).toNat
      (r.sreg w.b.toNat) 0 []) ∧
  LongTraps .tlsig true 0x0EA (fun w r => r.cmdCheck (compRng 0 0) (compRng 0 0) [] (w.x.extractLsb' 0 2).toNat (r.sreg w.a.toNat).toNat false) ∧
  LongParts .waitc true 0x0EB (fun w r => r.checkPlace 8 true [⟨0, ((r.sreg w.a.toNat).toNat : Int), 8⟩] = none) (fun _ r => r)
    (fun w r => [.waitWord (r.sreg w.a.toNat).toNat (r.spair w.b.toNat).toNat, .snap]) ∧
  LongTraps .waitc true 0x0EB (fun w r => (r.checkPlace 8 true [⟨0, ((r.sreg w.a.toNat).toNat : Int), 8⟩]).map (fun f =>
    if f.cause = .barrierClobber then ⟨.barKind, 0, f.addr, 0⟩ else f)) ∧
  LongParts .waitcG true 0x0EB (fun w r => r.check .waitg 8 [⟨0, ((r.spair w.a.toNat).toNat : Int), 8⟩] = .ok) (fun _ r => r)
    (fun w r => [.waitWordG (r.spair w.a.toNat).toNat (r.spair w.b.toNat).toNat, .snap]) ∧
  LongTraps .waitcG true 0x0EB (fun w r => (r.check .waitg 8 [⟨0, ((r.spair w.a.toNat).toNat : Int), 8⟩]).fault) ∧
  (∀ (t : State) (sel n : Nat),
    (n ≤ (t.timeline t.ctxNow t.clNow (tlPlace sel t.posNow)).done →
      passTo [.waitTl sel n] t = some (t.observe (t.timeline t.ctxNow t.clNow (tlPlace sel t.posNow)).stamp)) ∧
    ((t.timeline t.ctxNow t.clNow (tlPlace sel t.posNow)).done < n →
      runList [.waitTl sel n, .snap] t = t.block ⟨4, sel, n⟩ [.waitTl sel n, .snap])) ∧
  (∀ (t : State) (ea n key : Nat), t.scrAt (ea : Int) = .ok key → t.scrPoison [⟨0, (ea : Int), 8⟩] = none →
    (n ≤ natLE (t.scrBytes key 8) → passTo [.waitWord ea n] t = some (t.observe ((get? t.arrival (key / 2 ^ 19)).getD Stamp.zero))) ∧
    (natLE (t.scrBytes key 8) < n → runList [.waitWord ea n, .snap] t = t.block ⟨5, ea, n⟩ [.waitWord ea n, .snap])) ∧
  (∀ (t : State) (va n : Nat), t.Reaches .waitg .shared [va] →
    (n ≤ (t.wordRead (lineOf (t.keyOf t.ctxNow va))).curNat (t.keyOf t.ctxNow va) 8 → passTo [.waitWordG va n] t =
      some ((t.wordRead (lineOf (t.keyOf t.ctxNow va))).observe ((t.wordRead (lineOf (t.keyOf t.ctxNow va))).relstamp (lineOf (t.keyOf t.ctxNow va))))) ∧
    ((t.wordRead (lineOf (t.keyOf t.ctxNow va))).curNat (t.keyOf t.ctxNow va) 8 < n → ∃ v : State, runList [.waitWordG va n, .snap] t =
      v.block ⟨6, va, n⟩ [.waitWordG va n, .snap]))

/-- 09 R190, R191: barrier objects. bar.init makes one of its count; on one that is busy, clobbered by another or out of its bounds it traps; a name of no object is bar_kind; .free ends its typing;
arrivals count, the last changes the phase and releases the waiters, each of which then observes that phase's stamp; bar.wait and bar.arrw
wait for that change, wake kind 1. 09 R192 to R194: bar.sync and lbar publish, arrive, wait and snap; the arrival that completes a
hardware barrier's phase raises the observed stamp to the arrivals' greatest, another waits with wake kind 2, at a level with kind 3; a
count that differs from the open phase's is bar_arg. The model's own choices in this statement are log entries 6, 57, 58 and 60. -/
def Obligations.Barriers : Prop :=
  (∀ key : Nat,
    LongRuns .barInit true 0x0F0 (fun w r => r.checkPlace 1 false [⟨0, ((r.sreg w.a.toNat).toNat : Int), 16⟩] = none ∧
        (r.sreg w.a.toNat).toNat % 16 = 0 ∧ r.scrAt ((r.sreg w.a.toNat).toNat : Int) = .ok key ∧
        (∀ o, r.objOf key = some o → o.idle = true) ∧
        r.objs.all (fun o => o.key == key || decide (o.key + 16 ≤ key) || decide (key + 16 ≤ o.key)) = true ∧
        1 ≤ (r.sreg w.b.toNat).toNat ∧ (r.sreg w.b.toNat).toNat ≤ 2 ^ 20 ∧
        (r.objOf key ≠ none ∨ (r.objs.filter (fun o => o.key / 2 ^ 19 == key / 2 ^ 19)).length < 256))
      (fun w r => r.setObj ⟨key, (r.sreg w.b.toNat).toNat, 0, 0, 0, Stamp.zero, Stamp.zero, r.ownerOf key⟩)) ∧
  LongTraps .barInit true 0x0F0 (fun w r => r.checkPlace 1 false [⟨0, ((r.sreg w.a.toNat).toNat : Int), 16⟩]) ∧
  LongTraps .barInit true 0x0F0 (fun w r => if r.checkPlace 1 false [⟨0, ((r.sreg w.a.toNat).toNat : Int), 16⟩] = none ∧
    (r.sreg w.a.toNat).toNat % 16 ≠ 0 then some ⟨.barKind, 0, (r.sreg w.a.toNat).toNat, 0⟩ else none) ∧
  (∀ k : Nat, LongTrapsAt .barInit true 0x0F0 (fun w r => r.checkPlace 1 false [⟨0, ((r.sreg w.a.toNat).toNat : Int), 16⟩] = none ∧
        (r.sreg w.a.toNat).toNat % 16 = 0 ∧ r.scrAt ((r.sreg w.a.toNat).toNat : Int) = .ok k ∧ (∀ o, r.objOf k = some o → o.idle = true) ∧
        (∃ o ∈ r.objs, o.key ≠ k ∧ o.key < k + 16 ∧ k < o.key + 16))
      (fun w r => ⟨.barrierClobber, 0, (r.sreg w.a.toNat).toNat, 0⟩) ∧
    LongTrapsAt .barInit true 0x0F0 (fun w r => r.checkPlace 1 false [⟨0, ((r.sreg w.a.toNat).toNat : Int), 16⟩] = none ∧
        (r.sreg w.a.toNat).toNat % 16 = 0 ∧ r.scrAt ((r.sreg w.a.toNat).toNat : Int) = .ok k ∧ (∀ o, r.objOf k = some o → o.idle = true) ∧
        (∀ o ∈ r.objs, o.key = k ∨ o.key + 16 ≤ k ∨ k + 16 ≤ o.key) ∧
        ((r.sreg w.b.toNat).toNat = 0 ∨ 2 ^ 20 < (r.sreg w.b.toNat).toNat ∨
          r.objOf k = none ∧ 256 ≤ (r.objs.filter (fun o => o.key / 2 ^ 19 == k / 2 ^ 19)).length))
      (fun w r => ⟨.barArg, 0, (r.sreg w.a.toNat).toNat, 0⟩) ∧
    (∀ i ∈ [(Instr.barInitFree, 0x0F0), (Instr.barArr, 0x0F1), (Instr.barWait, 0x0F2), (Instr.barArrw, 0x0F3)],
      LongTrapsAt i.1 true i.2 (fun w r => r.checkPlace 1 false [⟨0, ((r.sreg w.a.toNat).toNat : Int), 16⟩] = none ∧
          ((r.sreg w.a.toNat).toNat % 16 ≠ 0 ∨ r.scrAt ((r.sreg w.a.toNat).toNat : Int) = .ok k ∧ r.objOf k = none))
        (fun w r => ⟨.barKind, 0, (r.sreg w.a.toNat).toNat, 0⟩))) ∧
  (∀ (o : BarObj) (k : Nat),
    LongTrapsAt .barInit true 0x0F0 (fun w r => r.ObjHeld (r.sreg w.a.toNat).toNat k o ∧ o.idle = false)
      (fun w r => ⟨.barBusy, 0, (r.sreg w.a.toNat).toNat, 0⟩) ∧
    LongRuns .barInitFree true 0x0F0 (fun w r => r.ObjHeld (r.sreg w.a.toNat).toNat k o ∧ o.waiters = 0 ∧ o.arrived = 0)
      (fun _ r => r.untype o) ∧
    LongTrapsAt .barInitFree true 0x0F0 (fun w r => r.ObjHeld (r.sreg w.a.toNat).toNat k o ∧ (o.waiters ≠ 0 ∨ o.arrived ≠ 0))
      (fun w r => ⟨.barBusy, 0, (r.sreg w.a.toNat).toNat, 0⟩) ∧
    LongParts .barArr true 0x0F1 (fun w r => r.ObjHeld (r.sreg w.a.toNat).toNat k o) (fun _ r => r)
      (fun w r => [.publish, .waitAck, .arriveObj (r.sreg w.a.toNat).toNat (some w.d.toNat) false]) ∧
    LongParts .barWait true 0x0F2 (fun w r => r.ObjHeld (r.sreg w.a.toNat).toNat k o)
      (fun w r => if o.phase = r.sreg w.b.toNat then r.setObj { o with waiters := o.waiters + 1 } else r)
      (fun w r => [.waitObj (r.sreg w.a.toNat).toNat k (r.sreg w.b.toNat), .snap]) ∧
    LongParts .barArrw true 0x0F3 (fun w r => r.ObjHeld (r.sreg w.a.toNat).toNat k o) (fun _ r => r)
      (fun w r => [.publish, .waitAck, .arriveObj (r.sreg w.a.toNat).toNat none true, .snap])) ∧
  (∀ (o : BarObj) (st : Stamp), (o.arrived + 1 = o.expected → (o.arrive st).phase = o.phase + 1 ∧ (o.arrive st).arrived = 0 ∧
      (o.arrive st).waiters = 0 ∧ (o.arrive st).last = o.gather.max st) ∧
    (o.arrived + 1 ≠ o.expected → (o.arrive st).phase = o.phase ∧ (o.arrive st).arrived = o.arrived + 1 ∧ (o.arrive st).last = o.last)) ∧
  (∀ (t : State) (ea k : Nat) (ph : W) (o : BarObj), t.scrAt (ea : Int) = .ok k → t.objOf k = some o →
    (o.phase ≠ ph → passTo [.waitObj ea k ph] t = some (t.observe o.last)) ∧
    (o.phase = ph → runList [.waitObj ea k ph, .snap] t = t.block ⟨1, ea, ph.toNat⟩ [.waitObj ea k ph, .snap]) ∧
    (∀ d, passTo [.arriveObj ea (some d) false] t = some ((t.arriveAt o t.obsNow).setS d o.phase)) ∧
    (o.arrived + 1 = o.expected → passTo [.arriveObj ea none true] t = some ((t.arriveAt o t.obsNow).observe (o.gather.max t.obsNow))) ∧
    (o.arrived + 1 ≠ o.expected → ∃ v : State, v.objOf o.key = some { o.arrive t.obsNow with waiters := o.waiters + 1 } ∧
      runList [.arriveObj ea none true, .snap] t = v.block ⟨1, ea, o.phase.toNat⟩ [.waitObj ea k o.phase, .snap])) ∧
  (∀ (q : Squad) (p : MOp → Bool) (g : Stamp) (m : MOp) (l : List MOp), q.todo = m :: l →
    (p m = true → (q.letGo p g).todo = .observe g :: l) ∧ (p m = false → q.letGo p g = q)) ∧
  (∀ (t : State) (g : Stamp), passTo [.observe g] t = some (t.observe g)) ∧
  LongParts .barSync true 0x0F4 always (fun _ r => r) (fun w _ => [.publish, .waitAck, .arriveSync w.b.toNat w.c.toNat, .snap]) ∧
  LongParts .lbar true 0x0F5 always (fun _ r => r) (fun w _ => [.publish, .waitAck, .arriveLvl w.b.toNat, .snap]) ∧
  (∀ (t : State) (u : Team) (bid count : Nat) (b b2 : HwBar), t.teamNow = some u → b = nth HwBar.zero u.bars bid →
    b2 = { b with arrived := b.arrived + 1, count := count, gather := b.gather.max t.obsNow } →
    (b.arrived = 0 ∨ b.count = count) →
    (b2.full u.alive.length = true → passTo [.arriveSync bid count] t = some ((t.testBar u bid b2).observe b2.gather)) ∧
    (b2.full u.alive.length = false → t.testBar u bid b2 = t.modTeam u.id (fun v => { v with bars := v.bars.set bid b2 }) ∧
      runList [.arriveSync bid count, .snap] t = (t.testBar u bid b2).block ⟨2, bid, b.phase⟩ [.waitSync bid b.phase, .snap])) ∧
  (∀ (t : State) (u : Team) (bid count : Nat), t.teamNow = some u → (nth HwBar.zero u.bars bid).arrived ≠ 0 →
    (nth HwBar.zero u.bars bid).count ≠ count → runList [.arriveSync bid count, .snap] t = t.rewind.takeTrap ⟨.barArg, 0, 0, 0⟩ t.curNow) ∧
  (∀ (t v : State) (u : Team) (a : Launch) (level k n : Nat), t.teamNow = some u → t.launchOf t.sq.launch = some a →
    a.hdr.levelTeams level = some (k, n) → v = t.arriveLevel u (t.lvlOf a.id level (u.num / n)) →
    ((v.lvlOf a.id level (u.num / n)).bar.phase ≠ (t.lvlOf a.id level (u.num / n)).bar.phase →
      passTo [.arriveLvl level] t = some (v.observe (v.lvlOf a.id level (u.num / n)).bar.last)) ∧
    ((v.lvlOf a.id level (u.num / n)).bar.phase = (t.lvlOf a.id level (u.num / n)).bar.phase → runList [.arriveLvl level, .snap] t =
      v.block ⟨3, level, (t.lvlOf a.id level (u.num / n)).bar.phase⟩ [.waitLvl level (t.lvlOf a.id level (u.num / n)).bar.phase, .snap])) ∧
  (∀ (b : HwBar) (n : Nat), b.arrived ≠ 0 → b.count ≠ 0 → (b.full n = true ↔ b.count ≤ b.arrived)) ∧
  (∀ (b : HwBar) (n : Nat), b.arrived ≠ 0 → b.count = 0 → (b.full n = true ↔ n ≤ b.arrived)) ∧
  (∀ b : HwBar, b.next.phase = b.phase + 1 ∧ b.next.arrived = 0 ∧ b.next.last = b.gather)

/-- 09 R195 to R198: spawn publishes and lands one record for each lane of the lane set, lanes ascending, and refuses an entry that is no
multiple of 4; post hands 64 bytes of scratch to the ring of a queue of its own context, or is queue_denied; join takes a place of a
shoal and leave gives it up once no access to the window is still to be made; msend and mrecv pass a pair through a channel of 16, the
.try forms never wait. The model's own choices in this statement are log entries 59, 61 and 106. -/
def Obligations.WorkAndChannels : Prop :=
  LongParts .spawn true 0x0F8 (fun w r => (r.spair w.a.toNat).toNat % 4 = 0) (fun _ r => r)
    (fun w r => [.publish, .waitAck] ++ (lanesOf r.lanes).map (fun l =>
      .emit (r.spair w.a.toNat).toNat ((List.range 14).map (fun i => r.sq.v (w.b.toNat + i) l)))) ∧
  LongTraps .spawn true 0x0F8 (fun w r => if (r.spair w.a.toNat).toNat % 4 = 0 then none else some ⟨.spawnArg, 0, 0, 0⟩) ∧
  (∀ (t v : State) (a : Launch) (entry : Nat) (words : List W), t.launchOf t.sq.launch = some a →
    (t.landRec t.clNow a (BitVec.ofNat 64 entry) words t.obsNow = some v → passTo [.emit entry words] t = some v) ∧
    (t.landRec t.clNow a (BitVec.ofNat 64 entry) words t.obsNow = none →
      runList [.emit entry words] t = t.block ⟨0x0E, t.clNow, 0⟩ [.emit entry words])) ∧
  (∀ d : QDesc,
    LongParts .post true 0x0F9 (fun w r => r.checkPlace 64 false [⟨0, ((r.sreg w.a.toNat).toNat : Int), 64⟩] = none ∧
        r.qdesc (r.sreg w.b.toNat).toNat = some d ∧ (r.sreg w.b.toNat).toNat < 4096 ∧ d.enabled = true ∧ d.fed = true ∧ d.ctx = r.ctxNow)
      (fun _ r => r) (fun w r => [.publish, .waitAck, .postDo (r.sreg w.a.toNat).toNat (r.sreg w.b.toNat).toNat d.ring d.lsize]) ∧
    LongTraps .post true 0x0F9 (fun w r => if r.checkPlace 64 false [⟨0, ((r.sreg w.a.toNat).toNat : Int), 64⟩] = none ∧
        r.qdesc (r.sreg w.b.toNat).toNat = some d ∧ (4096 ≤ (r.sreg w.b.toNat).toNat ∨ d.enabled = false ∨ d.fed = false ∨ d.ctx ≠ r.ctxNow)
      then some ⟨.queueDenied, 0, 0, 0⟩ else none)) ∧
  LongTraps .post true 0x0F9 (fun w r => r.checkPlace 64 false [⟨0, ((r.sreg w.a.toNat).toNat : Int), 64⟩]) ∧
  LongTraps .post true 0x0F9 (fun w r => if r.checkPlace 64 false [⟨0, ((r.sreg w.a.toNat).toNat : Int), 64⟩] = none ∧
    r.qdesc (r.sreg w.b.toNat).toNat = none then some ⟨.queueDenied, 0, 0, 0⟩ else none) ∧
  (∀ (t : State) (ea q ring lsize : Nat), t.checkPlace 64 false [⟨0, (ea : Int), 64⟩] = none →
    t.absentWait ((List.range 64).map (fun i => t.scrKeyAt ((ea + i : Nat) : Int))) = none → t.scrPoison [⟨0, (ea : Int), 64⟩] = none →
    (t.ringFull q lsize = true → passTo [.postDo ea q ring lsize] t = some ((t.setQueue { t.queueOf q with qovf := true }).setScc false)) ∧
    (t.ringFull q lsize = false → t.barred t.sq.id .event (lineOf (t.entryKey q ring lsize)) = false →
      passTo [.postDo ea q ring lsize] t = some (t.postNow ea q ring lsize) ∧ (t.postNow ea q ring lsize).scc = true ∧
      ((t.postNow ea q ring lsize).queueOf q).tail = (t.queueOf q).tail + 1)) ∧
  (∀ u : Team,
    LongRuns .join true 0x0FA (fun w r => r.teamNow = some u ∧ u.shoal = some w.b.toNat) (fun _ r => r) ∧
    (∀ slot : Nat, LongRuns .join true 0x0FA (fun w r => r.teamNow = some u ∧ u.shoal = none ∧ r.shoalSlot u = some slot ∧
        r.teams.all (fun t => t.id == u.id || t.cache / 4 != u.cache / 4 || t.shoal != some w.b.toNat || t.shSlot != slot) = true)
      (fun w r => r.modTeam u.id (fun v => { v with shoal := some w.b.toNat, shSlot := slot }))) ∧
    LongTraps .join true 0x0FA (fun w r => if r.teamNow = some u ∧ u.shoal ≠ some w.b.toNat ∧ u.shoal.isSome
      then some ⟨.shoalState, 0, 0, 0⟩ else none)) ∧
  LongParts .leave true 0x0FB always (fun _ r => r) (fun _ _ => [.leaveDo]) ∧
  (∀ t : State, (t.windowIssued = false → passTo [.leaveDo] t = some (t.modTeam t.sq.team (fun u => { u with shoal := none }))) ∧
    (t.windowIssued = true → runList [.leaveDo] t = t.stay [.leaveDo])) ∧
  LongParts .msend true 0x0FC (fun w _ => w.x.getLsbD 0 = false) (fun _ r => r)
    (fun w r => [.publish, .waitAck, .sendDo w.b.toNat (r.spair w.a.toNat) false]) ∧
  LongParts .msend true 0x0FC (fun w r => w.x.getLsbD 0 = true ∧ (r.chan r.clNow w.b.toNat).room = true)
    (fun w r => (r.setChan { r.chan r.clNow w.b.toNat with reserved := (r.chan r.clNow w.b.toNat).reserved + 1 }).setScc true)
    (fun w r => [.publish, .waitAck, .sendDo w.b.toNat (r.spair w.a.toNat) true]) ∧
  LongRuns .msend true 0x0FC (fun w r => w.x.getLsbD 0 = true ∧ (r.chan r.clNow w.b.toNat).room = false) (fun _ r => r.setScc false) ∧
  LongParts .mrecv true 0x0FD (fun w _ => w.x.getLsbD 0 = false) (fun _ r => r) (fun w _ => [.recvDo w.b.toNat w.d.toNat, .snap]) ∧
  LongParts .mrecv true 0x0FD (fun w r => w.x.getLsbD 0 = true ∧ (r.chan r.clNow w.b.toNat).msgs ≠ []) (fun _ r => r.setScc true)
    (fun w _ => [.recvDo w.b.toNat w.d.toNat, .snap]) ∧
  LongRuns .mrecv true 0x0FD (fun w r => w.x.getLsbD 0 = true ∧ (r.chan r.clNow w.b.toNat).msgs = []) (fun _ r => r.setScc false) ∧
  (∀ (t : State) (ch d : Nat) (v : D) (st : Stamp) (l : List (D × Stamp)),
    ((t.chan t.clNow ch).msgs = (v, st) :: l → passTo [.recvDo ch d] t =
      some (((t.setChan { t.chan t.clNow ch with msgs := l }).setS2 d v).observe st)) ∧
    ((t.chan t.clNow ch).msgs = [] → runList [.recvDo ch d, .snap] t = t.block ⟨0x0A, ch, 1⟩ [.recvDo ch d, .snap]) ∧
    ((t.chan t.clNow ch).room = true → passTo [.sendDo ch v false] t =
      some (t.setChan { t.chan t.clNow ch with msgs := (t.chan t.clNow ch).msgs ++ [(v, t.obsNow)] })) ∧
    ((t.chan t.clNow ch).room = false → runList [.sendDo ch v false] t = t.block ⟨0x0A, ch, 0⟩ [.sendDo ch v false]))

/-! ### Matrix instructions (08) -/

/-- 08 R161, R167, R171, R174, R175: mrec writes a well-formed record, and refuses another with recfmt; mclr.z queues zeros for an
accumulator; mrestart records its label and a checkpoint; mfence retires the queue, publishes the epilogue and adds to its counter. 08
R170: what a pass reads of an A byte is one of what the byte has held since the issue. The model's own choices in this statement are log
entries 22 and 105. -/
def Obligations.MatrixControl : Prop :=
  LongParts .mrec true 0x140 (fun w r => r.checkScr 64 true [⟨0, ((r.sreg w.a.toNat).toNat : Int), 64⟩] = none ∧
      (ARec.ofBytes (((List.range 16).map (fun i => r.sreg (w.b.toNat + i))).flatMap (fun v => bytesLE 4 v.toNat))).bad = false) (fun _ r => r)
    (fun w r => [.mrecDo (r.sreg w.a.toNat).toNat ((List.range 16).map (fun i => r.sreg (w.b.toNat + i)))]) ∧
  LongEnds .mrec true 0x140 (fun _ r => r)
    (fun w r => [.mrecDo (r.sreg w.a.toNat).toNat ((List.range 16).map (fun i => r.sreg (w.b.toNat + i)))])
    (fun w r u => r.checkScr 64 true [⟨0, ((r.sreg w.a.toNat).toNat : Int), 64⟩] = none ∧
      (ARec.ofBytes (((List.range 16).map (fun i => r.sreg (w.b.toNat + i))).flatMap (fun v => bytesLE 4 v.toNat))).bad = false ∧
      u.absentWait ((List.range 64).map (u.scrKeyAt ((r.sreg w.a.toNat).toNat : Int) + ·)) = none)
    (fun w r u => u.scrWrite (u.scrKeyAt ((r.sreg w.a.toNat).toNat : Int))
      (((List.range 16).map (fun i => r.sreg (w.b.toNat + i))).flatMap (fun v => bytesLE 4 v.toNat))) ∧
  LongTraps .mrec true 0x140 (fun w r => (r.checkScr 64 true [⟨0, ((r.sreg w.a.toNat).toNat : Int), 64⟩]).map (fun t =>
    if t.cause.order < 8 then t
    else if (ARec.ofBytes (((List.range 16).map (fun i => r.sreg (w.b.toNat + i))).flatMap (fun v => bytesLE 4 v.toNat))).bad
    then ⟨.recfmt, 0, 0, 0⟩ else t)) ∧
  LongTraps .mrec true 0x140 (fun w r => if r.checkScr 64 true [⟨0, ((r.sreg w.a.toNat).toNat : Int), 64⟩] = none ∧
      (ARec.ofBytes (((List.range 16).map (fun i => r.sreg (w.b.toNat + i))).flatMap (fun v => bytesLE 4 v.toNat))).bad = true
    then some ⟨.recfmt, 0, 0, 0⟩ else none) ∧
  LongRuns .mclrZ true 0x145 (fun w r => (r.drainQ (·.usesAcc w.d.toNat)).mcc.queue.any (·.usesAcc w.d.toNat) = false) (fun w r =>
    (r.drainQ (·.usesAcc w.d.toNat)).queued 8 { MPass.none with acc := some (w.d.toNat, []) }) ∧
  LongRuns .mrestart true 0x146 always (fun w r => r.modMcc (fun m => { m with
    restart := m.pc + w.x.signExtend 64 * 4, hasRestart := true, ckptS := m.sregs, ckptScc := m.scc, ckptFmt := m.fmt })) ∧
  (∀ b : Bool,
    LongParts .mfence true 0x147 (fun w r => (xSub w.x).testBit 0 = b ∧
        (b = true → r.checkPlace 8 true [⟨0, ((r.sreg w.a.toNat).toNat : Int), 8⟩] = none) ∧ (r.drainQ (fun _ => true)).mcc.queue = [])
      (fun _ r => (r.drainQ (fun _ => true)).fenced)
      (fun w r => [.publish, .waitAck, .mfenceEnd (if b then some ((r.sreg w.a.toNat).toNat, (r.sreg w.b.toNat).toNat) else none)]) ∧
    LongEnds .mfence true 0x147 (fun _ r => (r.drainQ (fun _ => true)).fenced)
      (fun w r => [.publish, .waitAck, .mfenceEnd (if b then some ((r.sreg w.a.toNat).toNat, (r.sreg w.b.toNat).toNat) else none)])
      (fun w r u => (xSub w.x).testBit 0 = b ∧ (b = true → r.checkPlace 8 true [⟨0, ((r.sreg w.a.toNat).toNat : Int), 8⟩] = none) ∧
        (r.drainQ (fun _ => true)).mcc.queue = [] ∧ u.PubsNow)
      (fun w r u => u.publish.fenceOver (if b then some ((r.sreg w.a.toNat).toNat, (r.sreg w.b.toNat).toNat) else none))) ∧
  LongTraps .mfence true 0x147 (fun w r => if (xSub w.x).testBit 0 then
    r.checkPlace 8 true [⟨0, ((r.sreg w.a.toNat).toNat : Int), 8⟩] else none) ∧
  (∀ (t : State) (p : MPass) (l : List MPass), t.mcc.queue = p :: l → p.lines = [] → p.late = none →
    t.retirePass.mcc.queue = l ∧ t.retirePass.mcc.flags = t.mcc.flags ||| p.flags ∧
    (∀ i v, p.acc = some (i, v) → t.retirePass.mcc.acc = t.mcc.acc.set i v) ∧
    (∀ i v, p.slot = some (i, v) → t.retirePass.mcc.slots = t.mcc.slots.set i v)) ∧
  (∀ (t : State) (p : PassIn) (a i : Nat) (e : Nat × Nat × List Byte), p.old[i]? = some e → e.1 = a → (∀ j < i, ∀ d, p.old[j]? = some d → d.1 ≠ a) →
    t.passByte p a ∈ t.scrByte e.2.1 :: e.2.2) ∧
  (∀ (now : Nat → Byte) (p : PassIn) (e : Nat × Nat × List Byte), e ∈ (p.note now).old → now e.2.1 ∈ e.2.2)

/-- 08 R162 to R173: wld, mmaz, mma, mclr.ld and mepi, with their records and operands there, enter the array queue with what they will
write: the slot's elements and scales, the accumulator's words after the pass, loaded or converted words. 01 R32 to R34: the word of an
element after a pass is the chain of its steps, k ascending, from the start value or the word before; a float step is one fused
multiply-add rounded to nearest even, an integer step wraps and sets of; a scale multiplies exactly. The model's own choices in this
statement are log entries 63, 64, 98, 105, 108 and 112. -/
def Obligations.MatrixPasses : Prop :=
  (∀ (w : Long) (s r t : State) (a : ARec) (d : State) (sl : Slot) (z : Bool) (i : Instr) (k : Nat) (el : List Span),
    (i = if z then .mmaz w else .mma w) → s.Goes (s.formLong true (if z then 0x142 else 0x143) w) →
    r = s.atIssue (s.formLong true (if z then 0x142 else 0x143) w) → r.RecHeld (r.sreg w.a.toNat).toNat .a a →
    d = r.drainQ (fun p => p.slot.any (·.1 == w.b.toNat) || p.usesAcc w.d.toNat) →
    d.mcc.queue.any (fun p => p.slot.any (·.1 == w.b.toNat) || p.usesAcc w.d.toNat) = false → sl = nth Slot.empty d.mcc.slots w.b.toNat →
    sl.filled = true → a.fcode = fmtA d.fmtNow → sl.fcode = fmtB d.fmtNow → sl.bscale = fmtScale d.fmtNow →
    k = (d.sreg w.c.toNat).toNat → k % 32 = 0 → a.rows ≤ 128 → k + sl.krows ≤ a.cols →
    el = a.spans 0 a.rows k sl.krows ++ (if fmtScale d.fmtNow then a.scaleSpans 0 a.rows (k / 32) ((sl.krows + 31) / 32) else []) →
    d.OperandsReady a.w (a.spans 0 a.rows k sl.krows) el [] → t = d.atRead [] →
    ∀ p : List (Nat × W) × Nat, p = passOf d.fmtNow z a.rows sl.krows
      (fun i q => if fmtScale d.fmtNow then scaled (fcDecode a.fcode (fmtInf d.fmtNow) (a.elem (t.reader true []) i (k + q)))
          (t.reader true [] (a.sbase + i * a.sstride + (k + q) / 32)).toNat
        else fcDecode a.fcode (fmtInf d.fmtNow) (a.elem (t.reader true []) i (k + q)))
      (fun q j => if fmtScale d.fmtNow then scaled (fcDecode sl.fcode (fmtInf d.fmtNow) (look 0 sl.elems (256 * q + j)).toNat)
          (look 0x7F sl.scales (256 * (q / 32) + j)).toNat
        else fcDecode sl.fcode (fmtInf d.fmtNow) (look 0 sl.elems (256 * q + j)).toNat) (nth [] t.mcc.acc w.d.toNat) →
    exec i s = .next (s.ended 8 (t.queued ((a.rows + rowsPerCycle a.fcode sl.fcode - 1) / rowsPerCycle a.fcode sl.fcode)
      { MPass.none with
        acc := some (w.d.toNat, p.1)
        reads := if z then [] else [w.d.toNat]
        rslot := some w.b.toNat
        flags := BitVec.ofNat 32 p.2
        late := some (t.passIn w.d.toNat (t.sreg w.a.toNat).toNat k d.fmtNow z sl el) }))) ∧
  (∀ (w : Long) (s r t : State) (b m : ARec) (kst nst kk nn h g : Nat) (el ms : List Span) (sl : Slot), s.Goes (s.formLong true 0x141 w) →
    r = s.atIssue (s.formLong true 0x141 w) → r.RecHeld (r.sreg w.a.toNat).toNat .b b →
    (b.sparse = 0 ∧ m = b ∨ b.sparse ≠ 0 ∧ r.RecHeld b.mrec .meta_ m) → b.fcode = fmtB r.fmtNow →
    kst = (r.sreg w.b.toNat).toNat → nst = (r.sreg w.c.toNat).toNat → kst % 32 = 0 → kst < b.rows → nst < b.cols →
    kk = min 128 (b.rows - kst) → nn = min 256 (b.cols - nst) → h = sparseH b.sparse → g = sparseG b.sparse →
    el = b.spans (kst * h / g) (kk * h / g) nst nn ++ (if fmtScale r.fmtNow then b.scaleSpans (kst / 32) ((kk + 31) / 32) nst nn else []) →
    ms = (if b.sparse = 0 then [] else m.spans (kst * h / g) (kk * h / g) nst nn) →
    r.OperandsReady b.w (b.spans (kst * h / g) (kk * h / g) nst nn) (ofScr b.scr el ++ ofScr m.scr ms) (ofScr (!b.scr) el ++ ofScr (!m.scr) ms) →
    t = r.atRead (ofScr (!b.scr) el ++ ofScr (!m.scr) ms) →
    wldSlot b m (t.reader b.scr (r.stampsOf (ofScr (!b.scr) el ++ ofScr (!m.scr) ms)))
      (t.reader m.scr (r.stampsOf (ofScr (!b.scr) el ++ ofScr (!m.scr) ms))) (fmtScale r.fmtNow) kst nst kk nn = some sl → (t.drainQ (·.usesSlot w.d.toNat)).mcc.queue.any (·.usesSlot w.d.toNat) = false →
    exec (.wld w) s = .next (s.ended 8 ((t.drainQ (·.usesSlot w.d.toNat)).queued 1 { MPass.none with slot := some (w.d.toNat, sl) }))) ∧
  (∀ (w : Long) (s r t u : State) (c : ARec), s.Goes (s.formLong true 0x145 w) → r = s.atIssue (s.formLong true 0x145 w) →
    r.RecHeld (r.sreg w.a.toNat).toNat .ld c → (c.fcode = 0x19 ↔ fmtAcc r.fmtNow = true) → c.rows ≤ 128 → c.cols ≤ 256 →
    r.OperandsReady c.w (c.spans 0 c.rows 0 c.cols) (ofScr c.scr (c.spans 0 c.rows 0 c.cols)) (ofScr (!c.scr) (c.spans 0 c.rows 0 c.cols)) →
    t = r.atRead (ofScr (!c.scr) (c.spans 0 c.rows 0 c.cols)) → u = t.drainQ (·.usesAcc w.d.toNat) → u.mcc.queue.any (·.usesAcc w.d.toNat) = false →
    exec (.mclrLd w) s = .next (s.ended 8 (u.queued 8 { MPass.none with acc := some (w.d.toNat,
      (List.range c.rows).foldl (fun a i => (List.range c.cols).foldl (fun a j => put 0 a (256 * i + j) (BitVec.ofNat 32
        (c.elem (u.reader c.scr (r.stampsOf (ofScr (!c.scr) (c.spans 0 c.rows 0 c.cols)))) i j))) a) []) }))) ∧
  (∀ (w : Long) (s r u : State) (e : ARec) (out : Nat → Nat → Nat × Nat), s.Goes (s.formLong true 0x144 w) →
    r = s.atIssue (s.formLong true 0x144 w) → r.RecHeld (r.sreg w.d.toNat).toNat .dst e → e.rows ≤ 128 → e.cols ≤ 256 →
    misaligned e.w (e.spans 0 e.rows 0 e.cols) = none → r.scrRows true (ofScr e.scr (e.spans 0 e.rows 0 e.cols)) = none →
    r.check .mepi 1 (accsOf (ofScr (!e.scr) (e.spans 0 e.rows 0 e.cols))) = .ok → u = r.drainQ (·.writes w.a.toNat) →
    u.mcc.queue.any (·.writes w.a.toNat) = false →
    out = (fun i j => mepiWord u.fmtNow (u.mode (xRnd w.x)) e.fcode ((xSub w.x).testBit 0)
      (if (xSub w.x).testBit 1 then some (u.sreg w.b.toNat) else none) (look 0 (nth [] u.mcc.acc w.a.toNat) (256 * i + j))) →
    exec (.mepi w) s = .next (s.ended 8 (u.queued 8 { MPass.none with
      lines := u.outLines e.scr (e.outRows (fun i j => (out i j).1))
      reads := [w.a.toNat]
      flags := BitVec.ofNat 32 ((List.range e.rows).foldl (fun f i => (List.range e.cols).foldl (fun f j => f ||| (out i j).2) f) 0) }))) ∧
  (∀ (fm : W) (z : Bool) (m k i j : Nat) (ea eb : Nat → Nat → FV × Nat) (acc : List (Nat × W)), canon 0 acc = true → j < 256 →
    (i < m → look 0 (passOf fm z m k ea eb acc).1 (256 * i + j) = BitVec.ofNat 32 (macChain (fmtAcc fm)
      ((List.range k).map (fun q => (ea i q, eb q j)))
      (if z then (if fmtAcc fm then 0 else 0x80000000) else (look 0 acc (256 * i + j)).toNat) 0).1) ∧
    (m ≤ i → look 0 (passOf fm z m k ea eb acc).1 (256 * i + j) = look 0 acc (256 * i + j))) ∧
  (∀ (b : Bool) (l : List ((FV × Nat) × (FV × Nat))) (x y : FV × Nat) (t f : Nat), macChain b [] t f = (t, f) ∧
    macChain b (l ++ [(x, y)]) t f = ((macStep b (macChain b l t f).1 x y).1, (macChain b l t f).2 ||| (macStep b (macChain b l t f).1 x y).2)) ∧
  (∀ (t : Nat) (x y : FV × Nat), macStep false t x y =
    ((fp32.fma .rne x.1 y.1 (fp32.decode t)).1, (fp32.fma .rne x.1 y.1 (fp32.decode t)).2 ||| x.2 ||| y.2)) ∧
  (∀ (t : W) (x y : Int), macStep true t.toNat (FV.ofInt x, 0) (FV.ofInt y, 0) = ((t + BitVec.ofInt 32 (x * y)).toNat,
    if t.toInt + x * y < -(2 ^ 31) ∨ 2 ^ 31 ≤ t.toInt + x * y then fOF else 0)) ∧
  macChain false ([0x4B80, 0x3F80, 0x3F80, 0xCB80].map (fun a => ((bf16.decode a, 0), (bf16.decode 0x3F80, 0)))) 0x80000000 0 = (0, fNX) ∧
  (∀ (n : Bool) (m : Nat) (e : Int) (f g : Nat), g ≠ 255 → scaled (.fin n m e, f) g = (.fin n m (e + (g : Int) - 127), f)) ∧
  (∀ x : FV × Nat, scaled x 255 = (.nan false, x.2 ||| fNVX))

/-! ### Completion of the instructions with parts -/

/-- 05 R117 to R119, 07 R151 to R155, 08 R168 to R173, 09 R178 to R199, 18 R298, 23 R365: rfe, csrrd, csrwr and rdenergy, and the
instructions of the activation tables, phases, transactions, engine commands, barriers, spawn, queues, shoals and channels, and the matrix passes, complete. Every clause concludes that exec of the
instruction, issuing as Goes says, answers the next state that its own effect leaves, under conditions on the state and operands alone:
for LongRuns and ShortRuns on the state r in which it acts, for LongEnds and ShortEnds on r and on the state u in which its parts begin.
Those are: a Publish finds room, no epoch to wait for and nothing to be acknowledged (PubsNow); a Snap finds the slack water high enough
(SnapsNow); what is waited for is there (the count, the phase, the last arrival, room in a channel, a free pair). The model's own choices
in this statement are log entries 53, 55, 57, 59, 61, 62, 63, 92 and 105. -/
def Obligations.Completions : Prop :=
  (∀ (k : Team) (n : Nat),
    LongEnds .lutld false 0x0C8 (fun _ r => r.lutReady) (fun w r => [r.lutReady.lutRows w])
      (fun _ _ u => u.lutEarlier = false ∧ u.HoldsPair k n)
      (fun w r u => u.lutWrite n false w.x.toNat r.lutReady.lanes ((List.range 32).map (fun l => r.lutReady.sq.v w.a.toNat l))
        ((List.range 32).map (fun l => r.lutReady.sq.v w.b.toNat l))) ∧
    LongEnds .lutld false 0x0C8 (fun _ r => r.lutReady) (fun w r => [r.lutReady.lutRows w])
      (fun _ _ u => u.lutEarlier = false ∧ u.FindsPair k n)
      (fun w r u => (u.takePair k n).lutWrite n false w.x.toNat r.lutReady.lanes ((List.range 32).map (fun l => r.lutReady.sq.v w.a.toNat l))
        ((List.range 32).map (fun l => r.lutReady.sq.v w.b.toNat l))) ∧
    LongEnds .lutsel false 0x0C9 (fun _ r => r) (fun _ _ => [.lutDo true 0 0 [] []])
      (fun _ _ u => u.lutEarlier = false ∧ u.HoldsPair k n) (fun _ _ u => u.lutWrite n true 0 0 [] []) ∧
    LongEnds .lutsel false 0x0C9 (fun _ r => r) (fun _ _ => [.lutDo true 0 0 [] []])
      (fun _ _ u => u.lutEarlier = false ∧ u.FindsPair k n) (fun _ _ u => (u.takePair k n).lutWrite n true 0 0 [] [])) ∧
  ShortJumps .rfe true 0x180 (fun _ r => r.isM = false) (fun _ r => r.modSq Squad.leaveHandler) ∧
  ShortRuns .rdenergy true 0x183 (fun _ r => r.isM = false) (fun w r => r.setS2 w.d.toNat (BitVec.ofNat 64 r.sq.energy)) ∧
  LongRuns .csrrd true 0x181 always (fun w r => r.setS w.d.toNat (r.csrRead w.x.toNat)) ∧
  LongRuns .csrwr true 0x182 (fun w _ => w.x.toNat < 0x8000) (fun _ r => r) ∧
  LongRuns .csrwr true 0x182 (fun w r => 0x8000 ≤ w.x.toNat ∧ r.csrOpen w.x.toNat = false) (fun _ r => r) ∧
  (∀ (w : Long) (s r : State), s.Goes (s.formLong true 0x182 w) → r = s.atIssue (s.formLong true 0x182 w) →
    0x8000 ≤ w.x.toNat → r.csrOpen w.x.toNat = true → ∃ t : State, exec (.csrwr w) s = .next t) ∧
  ShortEnds .pub true 0x0A0 [.publish, .waitAck] State.PubsNow State.publish ∧
  ShortEnds .snap true 0x0A1 [.snap] State.SnapsNow State.snapped ∧
  ShortEnds .phase true 0x0A2 [.publish, .waitAck, .snap] (fun u => u.PubsNow ∧ u.publish.SnapsNow) (fun u => u.publish.snapped) ∧
  ShortEnds .txbeg true 0x0A3 [.publish, .waitAck, .snap, .txEnter] (fun u => u.PubsNow ∧ u.publish.SnapsNow)
    (fun u => u.publish.snapped.modSq (fun q => { q with tx := true, doomed := none, txcode := 0 })) ∧
  (∀ c : Nat, ShortRuns .txend true 0x0A4 (fun _ r => r.sq.doomed = some c) (fun _ r => r.leaveTx c false) ∧
    ShortRuns .txabort true 0x0A5 (fun _ r => r.sq.doomed = some c) (fun _ r => r.leaveTx c false)) ∧
  ShortRuns .txend true 0x0A4 (fun _ r => r.sq.doomed = none ∧ r.txLines = [])
    (fun _ r => ((r.cuStamp r.sq.cache).2.leaveTx 0 true).observe (r.cuStamp r.sq.cache).1) ∧
  ShortRuns .txabort true 0x0A5 (fun _ r => r.sq.doomed = none) (fun w r => r.leaveTx (4 + 256 * w.b.toNat) false) ∧
  LongRuns .cpy true 0x0E0 (fun w r => r.copyFault w false = none) (fun w r =>
    r.sendCmd .cpy w.c.toNat w.d.toNat (r.group w.a.toNat 7) w.x.toNat false (w.x.extractLsb' 2 2).toNat (grp (r.group w.a.toNat 7) 5)
      (nth 0 (r.group w.a.toNat 7) 6) 0 (segLines (r.segs (r.copyDst w false)))) ∧
  LongRuns .cpy2d true 0x0E1 (fun w r => r.copyFault w true = none) (fun w r =>
    r.sendCmd .cpy w.c.toNat w.d.toNat (r.group w.a.toNat 10) w.x.toNat true (w.x.extractLsb' 2 2).toNat (grp (r.group w.a.toNat 10) 5)
      (nth 0 (r.group w.a.toNat 10) 6) 0 (segLines (r.segs (r.copyDst w true)))) ∧
  LongRuns .gath true 0x0E2 (fun w r => r.gathFault w = none) (fun w r =>
    r.sendCmd .gath (16 + r.sq.cache % 4) w.d.toNat (r.group w.a.toNat 7) w.x.toNat false (w.x.extractLsb' 5 2).toNat
      (grp (r.group w.a.toNat 7) 5) (nth 0 (r.group w.a.toNat 7) 6) 0 (segLines (r.segs (r.gathDst w)))) ∧
  LongEnds .rcpy true 0x0E3 (fun _ r => r) (fun w r => [.rcpyDo w.d.toNat w.x.toNat (r.group w.a.toNat 7)])
    (fun w r u => r.rcpyFault w = none ∧ u.ArmRoom w.x.toNat (r.group w.a.toNat 7) ∧ u.ackRoom 1 = true)
    (fun w r u => u.rcpyNow w.d.toNat w.x.toNat (r.group w.a.toNat 7)) ∧
  LongRuns .rsig true 0x0E4 (fun w r => r.check .rsig 8 [⟨0, ((r.spair w.a.toNat).toNat : Int), 8⟩] = .ok ∧ r.ackRoom 1 = true) (fun w r =>
    (r.sendCmd .rsig (20 + r.sq.cache % 4) w.d.toNat [] 0 false 0 0 (r.sreg w.b.toNat) (r.keyNow (r.spair w.a.toNat).toNat) []).modSq
      (fun q => { q with ack := q.ack + 1 })) ∧
  LongRuns .tlget true 0x0E8 always (fun w r => r.setS2 w.d.toNat (BitVec.ofNat 64
    (if w.x.getLsbD 0 then (r.timeline r.ctxNow r.clNow (tlPlace w.c.toNat r.posNow)).issued
     else (r.timeline r.ctxNow r.clNow (tlPlace w.c.toNat r.posNow)).done))) ∧
  LongEnds .tlwait true 0x0E9 (fun _ r => r) (fun w r => [.waitTl w.c.toNat (r.spair w.a.toNat).toNat, .snap])
    (fun w r u => (r.spair w.a.toNat).toNat ≤ (u.timeline u.ctxNow u.clNow (tlPlace w.c.toNat u.posNow)).done ∧
      (u.observe (u.timeline u.ctxNow u.clNow (tlPlace w.c.toNat u.posNow)).stamp).SnapsNow)
    (fun w _ u => (u.observe (u.timeline u.ctxNow u.clNow (tlPlace w.c.toNat u.posNow)).stamp).snapped) ∧
  LongRuns .tlsig true 0x0EA
    (fun w r => r.cmdCheck (compRng 0 0) (compRng 0 0) [] (w.x.extractLsb' 0 2).toNat (r.sreg w.a.toNat).toNat false = none)
    (fun w r => r.sendCmd .sig (tlPlace w.c.toNat r.posNow) w.d.toNat [] 0 false (w.x.extractLsb' 0 2).toNat (r.sreg w.a.toNat).toNat
      (r.sreg w.b.toNat) 0 []) ∧
  (∀ key : Nat,
    LongEnds .waitc true 0x0EB (fun _ r => r) (fun w r => [.waitWord (r.sreg w.a.toNat).toNat (r.spair w.b.toNat).toNat, .snap])
      (fun w r u => r.checkPlace 8 true [⟨0, ((r.sreg w.a.toNat).toNat : Int), 8⟩] = none ∧
        u.scrAt ((r.sreg w.a.toNat).toNat : Int) = .ok key ∧ u.scrPoison [⟨0, ((r.sreg w.a.toNat).toNat : Int), 8⟩] = none ∧
        (r.spair w.b.toNat).toNat ≤ natLE (u.scrBytes key 8) ∧
        (u.observe ((get? u.arrival (key / 2 ^ 19)).getD Stamp.zero)).SnapsNow)
      (fun _ _ u => (u.observe ((get? u.arrival (key / 2 ^ 19)).getD Stamp.zero)).snapped) ∧
    LongEnds .waitcG true 0x0EB (fun _ r => r) (fun w r => [.waitWordG (r.spair w.a.toNat).toNat (r.spair w.b.toNat).toNat, .snap])
      (fun w r u => r.check .waitg 8 [⟨0, ((r.spair w.a.toNat).toNat : Int), 8⟩] = .ok ∧ u.Reaches .waitg .shared [(r.spair w.a.toNat).toNat] ∧
        key = u.keyOf u.ctxNow (r.spair w.a.toNat).toNat ∧ (r.spair w.b.toNat).toNat ≤ (u.wordRead (lineOf key)).curNat key 8 ∧
        ((u.wordRead (lineOf key)).observe ((u.wordRead (lineOf key)).relstamp (lineOf key))).SnapsNow)
      (fun _ _ u => ((u.wordRead (lineOf key)).observe ((u.wordRead (lineOf key)).relstamp (lineOf key))).snapped) ∧
    LongRuns .barInit true 0x0F0 (fun w r => r.checkPlace 1 false [⟨0, ((r.sreg w.a.toNat).toNat : Int), 16⟩] = none ∧
        (r.sreg w.a.toNat).toNat % 16 = 0 ∧ r.scrAt ((r.sreg w.a.toNat).toNat : Int) = .ok key ∧
        (∀ o, r.objOf key = some o → o.idle = true) ∧
        r.objs.all (fun o => o.key == key || decide (o.key + 16 ≤ key) || decide (key + 16 ≤ o.key)) = true ∧
        1 ≤ (r.sreg w.b.toNat).toNat ∧ (r.sreg w.b.toNat).toNat ≤ 2 ^ 20 ∧
        (r.objOf key ≠ none ∨ (r.objs.filter (fun o => o.key / 2 ^ 19 == key / 2 ^ 19)).length < 256))
      (fun w r => r.setObj ⟨key, (r.sreg w.b.toNat).toNat, 0, 0, 0, Stamp.zero, Stamp.zero, r.ownerOf key⟩)) ∧
  (∀ (o p : BarObj) (k j : Nat),
    LongRuns .barInitFree true 0x0F0 (fun w r => r.ObjHeld (r.sreg w.a.toNat).toNat k o ∧ o.waiters = 0 ∧ o.arrived = 0)
      (fun _ r => r.untype o) ∧
    LongEnds .barArr true 0x0F1 (fun _ r => r) (fun w r => [.publish, .waitAck, .arriveObj (r.sreg w.a.toNat).toNat (some w.d.toNat) false])
      (fun w r u => r.ObjHeld (r.sreg w.a.toNat).toNat k o ∧ u.PubsNow ∧ u.publish.scrAt ((r.sreg w.a.toNat).toNat : Int) = .ok j ∧
        u.publish.objOf j = some p)
      (fun w _ u => (u.publish.arriveAt p u.publish.obsNow).setS w.d.toNat p.phase) ∧
    LongEnds .barWait true 0x0F2 (fun _ r => r) (fun w r => [.waitObj (r.sreg w.a.toNat).toNat k (r.sreg w.b.toNat), .snap])
      (fun w r u => r.ObjHeld (r.sreg w.a.toNat).toNat k o ∧ o.phase ≠ r.sreg w.b.toNat ∧
        u.scrAt ((r.sreg w.a.toNat).toNat : Int) = .ok k ∧ u.objOf k = some o ∧ (u.observe o.last).SnapsNow)
      (fun _ _ u => (u.observe o.last).snapped) ∧
    LongEnds .barArrw true 0x0F3 (fun _ r => r) (fun w r => [.publish, .waitAck, .arriveObj (r.sreg w.a.toNat).toNat none true, .snap])
      (fun w r u => r.ObjHeld (r.sreg w.a.toNat).toNat k o ∧ u.PubsNow ∧ u.publish.scrAt ((r.sreg w.a.toNat).toNat : Int) = .ok j ∧
        u.publish.objOf j = some p ∧ p.arrived + 1 = p.expected ∧
        ((u.publish.arriveAt p u.publish.obsNow).observe (p.gather.max u.publish.obsNow)).SnapsNow)
      (fun _ _ u => ((u.publish.arriveAt p u.publish.obsNow).observe (p.gather.max u.publish.obsNow)).snapped)) ∧
  (∀ (k : Team) (b : HwBar),
    LongEnds .barSync true 0x0F4 (fun _ r => r) (fun w _ => [.publish, .waitAck, .arriveSync w.b.toNat w.c.toNat, .snap])
      (fun w _ u => u.PubsNow ∧ u.publish.teamNow = some k ∧
        ((nth HwBar.zero k.bars w.b.toNat).arrived = 0 ∨ (nth HwBar.zero k.bars w.b.toNat).count = w.c.toNat) ∧
        b = { nth HwBar.zero k.bars w.b.toNat with
          arrived := (nth HwBar.zero k.bars w.b.toNat).arrived + 1, count := w.c.toNat
          gather := (nth HwBar.zero k.bars w.b.toNat).gather.max u.publish.obsNow } ∧
        b.full k.alive.length = true ∧ ((u.publish.testBar k w.b.toNat b).observe b.gather).SnapsNow)
      (fun w _ u => ((u.publish.testBar k w.b.toNat b).observe b.gather).snapped)) ∧
  (∀ (k : Team) (a : Launch) (d n : Nat),
    LongEnds .lbar true 0x0F5 (fun _ r => r) (fun w _ => [.publish, .waitAck, .arriveLvl w.b.toNat, .snap])
      (fun w _ u => u.PubsNow ∧ u.publish.teamNow = some k ∧ u.publish.launchOf u.publish.sq.launch = some a ∧
        a.hdr.levelTeams w.b.toNat = some (d, n) ∧
        ((u.publish.arriveLevel k (u.publish.lvlOf a.id w.b.toNat (k.num / n))).lvlOf a.id w.b.toNat (k.num / n)).bar.phase ≠
          (u.publish.lvlOf a.id w.b.toNat (k.num / n)).bar.phase ∧
        ((u.publish.arriveLevel k (u.publish.lvlOf a.id w.b.toNat (k.num / n))).observe
          ((u.publish.arriveLevel k (u.publish.lvlOf a.id w.b.toNat (k.num / n))).lvlOf a.id w.b.toNat (k.num / n)).bar.last).SnapsNow)
      (fun w _ u => ((u.publish.arriveLevel k (u.publish.lvlOf a.id w.b.toNat (k.num / n))).observe
          ((u.publish.arriveLevel k (u.publish.lvlOf a.id w.b.toNat (k.num / n))).lvlOf a.id w.b.toNat (k.num / n)).bar.last).snapped)) ∧
  (∀ (a : Launch) (t : State),
    LongEnds .spawn true 0x0F8 (fun _ r => r) (fun w r => [.publish, .waitAck] ++
        (lanesOf r.lanes).map (fun l => .emit (r.spair w.a.toNat).toNat (r.spawnWords w l)))
      (fun w r u => (r.spair w.a.toNat).toNat % 4 = 0 ∧ u.PubsNow ∧ u.publish.launchOf u.publish.sq.launch = some a ∧
        u.publish.landRecs a (r.spair w.a.toNat) ((lanesOf r.lanes).map (r.spawnWords w)) = some t)
      (fun _ _ _ => t)) ∧
  (∀ d : QDesc,
    LongEnds .post true 0x0F9 (fun _ r => r)
      (fun w r => [.publish, .waitAck, .postDo (r.sreg w.a.toNat).toNat (r.sreg w.b.toNat).toNat d.ring d.lsize])
      (fun w r u => r.checkPlace 64 false [⟨0, ((r.sreg w.a.toNat).toNat : Int), 64⟩] = none ∧
        r.qdesc (r.sreg w.b.toNat).toNat = some d ∧ (r.sreg w.b.toNat).toNat < 4096 ∧ d.enabled = true ∧ d.fed = true ∧ d.ctx = r.ctxNow ∧
        u.PubsNow ∧ u.publish.checkPlace 64 false [⟨0, ((r.sreg w.a.toNat).toNat : Int), 64⟩] = none ∧
        u.publish.absentWait ((List.range 64).map (fun i => u.publish.scrKeyAt (((r.sreg w.a.toNat).toNat + i : Nat) : Int))) = none ∧
        u.publish.scrPoison [⟨0, ((r.sreg w.a.toNat).toNat : Int), 64⟩] = none ∧
        (u.publish.ringFull (r.sreg w.b.toNat).toNat d.lsize = true ∨ u.publish.barred u.publish.sq.id .event
          (lineOf (u.publish.entryKey (r.sreg w.b.toNat).toNat d.ring d.lsize)) = false))
      (fun w r u => if u.publish.ringFull (r.sreg w.b.toNat).toNat d.lsize
        then (u.publish.setQueue { u.publish.queueOf (r.sreg w.b.toNat).toNat with qovf := true }).setScc false
        else u.publish.postNow (r.sreg w.a.toNat).toNat (r.sreg w.b.toNat).toNat d.ring d.lsize)) ∧
  (∀ (u : Team) (slot : Nat),
    LongRuns .join true 0x0FA (fun w r => r.teamNow = some u ∧ u.shoal = some w.b.toNat) (fun _ r => r) ∧
    LongRuns .join true 0x0FA (fun w r => r.teamNow = some u ∧ u.shoal = none ∧ r.shoalSlot u = some slot ∧
        r.teams.all (fun t => t.id == u.id || t.cache / 4 != u.cache / 4 || t.shoal != some w.b.toNat || t.shSlot != slot) = true)
      (fun w r => r.modTeam u.id (fun v => { v with shoal := some w.b.toNat, shSlot := slot }))) ∧
  LongEnds .leave true 0x0FB (fun _ r => r) (fun _ _ => [.leaveDo]) (fun _ _ u => u.windowIssued = false)
    (fun _ _ u => u.modTeam u.sq.team (fun v => { v with shoal := none })) ∧
  LongEnds .msend true 0x0FC (fun _ r => r) (fun w r => [.publish, .waitAck, .sendDo w.b.toNat (r.spair w.a.toNat) false])
    (fun w _ u => w.x.getLsbD 0 = false ∧ u.PubsNow ∧ (u.publish.chan u.publish.clNow w.b.toNat).room = true)
    (fun w r u => u.publish.setChan { u.publish.chan u.publish.clNow w.b.toNat with
      msgs := (u.publish.chan u.publish.clNow w.b.toNat).msgs ++ [(r.spair w.a.toNat, u.publish.obsNow)] }) ∧
  LongEnds .msend true 0x0FC
    (fun w r => (r.setChan { r.chan r.clNow w.b.toNat with reserved := (r.chan r.clNow w.b.toNat).reserved + 1 }).setScc true)
    (fun w r => [.publish, .waitAck, .sendDo w.b.toNat (r.spair w.a.toNat) true])
    (fun w r u => w.x.getLsbD 0 = true ∧ (r.chan r.clNow w.b.toNat).room = true ∧ u.PubsNow)
    (fun w r u => u.publish.setChan { u.publish.chan u.publish.clNow w.b.toNat with
      msgs := (u.publish.chan u.publish.clNow w.b.toNat).msgs ++ [(r.spair w.a.toNat, u.publish.obsNow)]
      reserved := (u.publish.chan u.publish.clNow w.b.toNat).reserved - 1 }) ∧
  LongRuns .msend true 0x0FC (fun w r => w.x.getLsbD 0 = true ∧ (r.chan r.clNow w.b.toNat).room = false) (fun _ r => r.setScc false) ∧
  (∀ (v : D) (st : Stamp) (l : List (D × Stamp)),
    LongEnds .mrecv true 0x0FD (fun w r => if w.x.getLsbD 0 then r.setScc true else r) (fun w _ => [.recvDo w.b.toNat w.d.toNat, .snap])
      (fun w r u => (w.x.getLsbD 0 = true → (r.chan r.clNow w.b.toNat).msgs ≠ []) ∧ (u.chan u.clNow w.b.toNat).msgs = (v, st) :: l ∧
        (((u.setChan { u.chan u.clNow w.b.toNat with msgs := l }).setS2 w.d.toNat v).observe st).SnapsNow)
      (fun w _ u => (((u.setChan { u.chan u.clNow w.b.toNat with msgs := l }).setS2 w.d.toNat v).observe st).snapped)) ∧
  LongRuns .mrecv true 0x0FD (fun w r => w.x.getLsbD 0 = true ∧ (r.chan r.clNow w.b.toNat).msgs = []) (fun _ r => r.setScc false) ∧
  (∀ (w : Long) (s r d : State) (a : ARec) (sl : Slot) (z : Bool) (k : Nat),
    s.Goes (s.formLong true (if z then 0x142 else 0x143) w) → r = s.atIssue (s.formLong true (if z then 0x142 else 0x143) w) →
    r.RecHeld (r.sreg w.a.toNat).toNat .a a → d = r.drainQ (fun p => p.slot.any (·.1 == w.b.toNat) || p.usesAcc w.d.toNat) →
    d.mcc.queue.any (fun p => p.slot.any (·.1 == w.b.toNat) || p.usesAcc w.d.toNat) = false →
    sl = nth Slot.empty d.mcc.slots w.b.toNat → sl.filled = true → a.fcode = fmtA d.fmtNow → sl.fcode = fmtB d.fmtNow →
    sl.bscale = fmtScale d.fmtNow → k = (d.sreg w.c.toNat).toNat → k % 32 = 0 → a.rows ≤ 128 → k + sl.krows ≤ a.cols →
    d.OperandsReady a.w (a.spans 0 a.rows k sl.krows) (a.spans 0 a.rows k sl.krows ++
      (if fmtScale d.fmtNow then a.scaleSpans 0 a.rows (k / 32) ((sl.krows + 31) / 32) else [])) [] →
    ∃ (n : Nat) (p : MPass), exec (if z then .mmaz w else .mma w) s = .next (s.ended 8 ((d.atRead []).queued n p)) ∧
      p.acc.map (·.1) = some w.d.toNat ∧ p.rslot = some w.b.toNat) ∧
  (∀ (w : Long) (s r : State) (b : ARec) (kk nn kst nst : Nat) (el : List Span), s.Goes (s.formLong true 0x141 w) →
    r = s.atIssue (s.formLong true 0x141 w) → r.RecHeld (r.sreg w.a.toNat).toNat .b b → b.sparse = 0 → b.fcode = fmtB r.fmtNow →
    kst = (r.sreg w.b.toNat).toNat → nst = (r.sreg w.c.toNat).toNat → kst % 32 = 0 → kst < b.rows → nst < b.cols →
    kk = min 128 (b.rows - kst) → nn = min 256 (b.cols - nst) →
    el = b.spans kst kk nst nn ++ (if fmtScale r.fmtNow then b.scaleSpans (kst / 32) ((kk + 31) / 32) nst nn else []) →
    r.OperandsReady b.w (b.spans kst kk nst nn) (ofScr b.scr el) (ofScr (!b.scr) el) →
    ((r.atRead (ofScr (!b.scr) el)).drainQ (·.usesSlot w.d.toNat)).mcc.queue.any (·.usesSlot w.d.toNat) = false →
    ∃ p : MPass, exec (.wld w) s = .next (s.ended 8 (((r.atRead (ofScr (!b.scr) el)).drainQ (·.usesSlot w.d.toNat)).queued 1 p)) ∧
      p.slot.map (·.1) = some w.d.toNat) ∧
  (∀ (w : Long) (s r t : State) (c : ARec), s.Goes (s.formLong true 0x145 w) → r = s.atIssue (s.formLong true 0x145 w) →
    r.RecHeld (r.sreg w.a.toNat).toNat .ld c → (c.fcode = 0x19 ↔ fmtAcc r.fmtNow = true) → c.rows ≤ 128 → c.cols ≤ 256 →
    r.OperandsReady c.w (c.spans 0 c.rows 0 c.cols) (ofScr c.scr (c.spans 0 c.rows 0 c.cols)) (ofScr (!c.scr) (c.spans 0 c.rows 0 c.cols)) →
    t = r.atRead (ofScr (!c.scr) (c.spans 0 c.rows 0 c.cols)) →
    (t.drainQ (·.usesAcc w.d.toNat)).mcc.queue.any (·.usesAcc w.d.toNat) = false →
    ∃ p : MPass, exec (.mclrLd w) s = .next (s.ended 8 ((t.drainQ (·.usesAcc w.d.toNat)).queued 8 p)) ∧ p.acc.map (·.1) = some w.d.toNat) ∧
  (∀ (w : Long) (s r : State) (e : ARec), s.Goes (s.formLong true 0x144 w) →
    r = s.atIssue (s.formLong true 0x144 w) → r.RecHeld (r.sreg w.d.toNat).toNat .dst e → e.rows ≤ 128 → e.cols ≤ 256 →
    misaligned e.w (e.spans 0 e.rows 0 e.cols) = none → r.scrRows true (ofScr e.scr (e.spans 0 e.rows 0 e.cols)) = none →
    r.check .mepi 1 (accsOf (ofScr (!e.scr) (e.spans 0 e.rows 0 e.cols))) = .ok →
    (r.drainQ (·.writes w.a.toNat)).mcc.queue.any (·.writes w.a.toNat) = false →
    ∃ p : MPass, exec (.mepi w) s = .next (s.ended 8 ((r.drainQ (·.writes w.a.toNat)).queued 8 p)) ∧ p.reads = [w.a.toNat])

/-! ### Events of squads and teams (05, 08, 10, 18, 23) -/

/-- 05 R115, 08 R159, 10 R213 to R215, 18 R293, R302, 23 R361, R362: the oldest entry of a pipe or array queue retires; a team stop halts
a squad at a boundary, else engine_fault is taken, and a save takes a squad where it stands; a blocked squad or MCC tests its condition
again and goes on with the parts that it has left. 04 R93, 08 R174, 10 R217, 23 R366: a squad that has exited retires once its last
Publish is acknowledged, writing its energy record; its team keeps what it held until every squad has ended; the team exits once its
commands are complete, and gives up its place; the MCC's program ends once its publications and commands are. The model's own choices in
this statement are log entries 66, 68 and 107. -/
def Obligations.AgentsRunAndEnd : Prop :=
  (∀ (s u : State) (cu sub : Nat) (e : SfuEnt), u = s.unfocus → u.sfu.find? (fun e => e.cache == cu && e.sub == sub) = some e →
    Happens (.sfuRetire cu sub) s (u.retireSfu e) ∧ (u.retireSfu e).sfu = u.sfu.erase e) ∧
  (∀ (s u : State) (cl : Nat) (m : Mcc), u = s.unfocus → u.mccs.find? (fun m => m.cl == cl && m.running && !m.queue.isEmpty) = some m →
    Happens (.matrixPassRetire cl) s (u.focusOn m.id).retirePass) ∧
  (∀ (s u : State) (cu sub : Nat), u = s.unfocus → u.smpOn = true →
    Happens (.samplerCountZero cu sub) s (u.setSampler (u.sampler cu sub).atZero)) ∧
  (∀ (s a : State) (id : Nat), a = s.focusOn id → a.focus = .squad →
    (a.saveTakes = true → Happens (.asyncEventTake id) s a.saveSquad) ∧
    (a.saveTakes = false → a.sq.preempt = false → a.sq.stopReq = true →
      (a.sq.mayIssue = true ∧ a.sq.between = true ∨ a.sq.st = .blocked ∧ a.sq.takeable = true) → Happens (.asyncEventTake id) s a.haltSquad) ∧
    (∀ b : State, b = a.modSq (fun q => q.pick.mergeIn) → a.saveTakes = false → a.sq.preempt = false → a.sq.stopReq = false → a.sq.engFault = true →
      a.sq.mayIssue = true → a.sq.got = [] → a.sq.handler = false → a.sq.inRange = false → Happens (.asyncEventTake id) s
        ((b.modSq (fun q => { q with engFault := false })).takeTrap ⟨.engineFault, 0, 0, 0⟩ ⟨b.pcNow, 0, 0⟩)) ∧
    (a.saveTakes = false → a.sq.preempt = false → a.sq.stopReq = false → a.sq.engFault = true → a.sq.handler = false → a.sq.inRange = true →
      a.sq.takeable = true → Happens (.asyncEventTake id) s a.leaveRange.takeEngFault)) ∧
  (∀ (s a : State) (id : Nat) (w : Wake), a = s.focusOn id → a.focus = .squad → a.sq.wake = some w → a.sq.st = .blocked →
    a.sq.preempt = false →
    (a.saveTakes = true → Happens (.squadWake id) s a.saveSquad) ∧
    (a.saveTakes = false → a.sq.todo ≠ [] → w.kind ≠ 8 → w.kind ≠ 9 → (w.kind = 0x0C → a.wantsPage (w.op0 / 128) = false) →
      Happens (.squadWake id) s a.runTodo) ∧
    (a.saveTakes = false → a.sq.todo = [] → w.kind = 7 → a.absent.contains (w.op0 / 128) = false → Happens (.squadWake id) s a.again) ∧
    (a.saveTakes = false → a.sq.todo = [] → w.kind = 0x0C → a.wantsPage (w.op0 / 128) = false → Happens (.squadWake id) s a.again) ∧
    (a.saveTakes = false → w.kind = 0x0C → a.wantsPage (w.op0 / 128) = true → Happens (.squadWake id) s a) ∧
    (a.saveTakes = false → a.sq.todo ≠ [] → w.kind = 9 → a.roleFits (a.roleRec w.op0) = true → Happens (.squadWake id) s a.runTodo) ∧
    (a.saveTakes = false → a.sq.todo ≠ [] → w.kind = 9 → a.roleFits (a.roleRec w.op0) = false → a.roleStuck = true →
      Happens (.squadWake id) s (a.takeTrap ⟨.roleStall, 0, 0, 0⟩ a.sq.cur)) ∧
    (a.saveTakes = false → w.kind = 8 → a.sq.denied = false → a.ticketOpen a.sq.id = false → Happens (.squadWake id) s a.again) ∧
    (a.saveTakes = false → w.kind = 8 → a.sq.denied = true → Happens (.squadWake id) s
      ((a.modSq (fun q => { q with denied := false })).takeTrap ⟨.pageFault, 0, a.sq.missVa, a.sq.faultLane⟩ a.sq.cur))) ∧
  (∀ (s a : State) (id : Nat) (w : Wake), a = s.focusOn id → a.focus = .mcc → a.mcc.wake = some w →
    (a.savingMcc = true → a.mcc.stamped = false → Happens (.squadWake id) s a.preemptNow) ∧
    ((a.savingMcc = false ∨ a.mcc.stamped = true) → a.mcc.st = .blocked → Happens (.squadWake id) s (a.wakeNow w))) ∧
  (∀ a : State, a.focus = .squad → (a.haltSquad).sq.st = .halted ∧ (a.haltSquad).sq.prior = a.sq.st ∧
    (a.haltSquad).sq.stopReq = false ∧ (a.haltSquad).sq.wake = a.sq.wake) ∧
  (∀ (s u t : State) (id : Nat) (q : Squad) (m : Team), u = s.unfocus → u.squads.find? (·.id == id) = some q → q.st = .exiting → q.ack = 0 →
    q.todo = [] → u.energyRoom q.ctx = true → u.teams.find? (·.id == q.team) = some m →
    t = u.putEnergy q.ctx (energyBytes q.energy u.now m.num q.cache q.idx q.role q.ctx) →
    Happens (.squadRetire id) s ((({ t with squads := t.squads.filter (·.id != id) } : State).modTeam q.team (fun m => { m with
      alive := m.alive.filter (· != id), held := m.held ++ [(q.sub, q.slot, q.vallot, q.sallot)] })).recheck q.team).trimCopies) ∧
  (∀ (s u : State) (team : Nat) (m : Team), u = s.unfocus → u.teams.find? (·.id == team) = some m → m.alive = [] → m.exited = false →
    u.teamSettled m = true → Happens (.teamExit team) s (u.exitTeam m)) ∧
  (∀ (s : State) (m : Team), (∀ x ∈ (s.freeTeam m).teams, x.id ≠ m.id) ∧
    (∀ o ∈ (s.freeTeam m).objs, ¬ (o.key / 2 ^ 19 = m.cache ∧ m.base ≤ o.key % 2 ^ 19 ∧ o.key % 2 ^ 19 < m.base + m.size))) ∧
  (∀ (s u t : State) (cl : Nat) (m : Mcc), u = s.unfocus →
    u.mccs.find? (fun m => m.cl == cl && m.exiting && !(u.ctxOf m.ctx).any (fun c => c.st == 2)) = some m → m.st = .exiting →
    m.todo = [] → m.ack = 0 → m.queue = [] → u.energyRoom m.ctx = true →
    u.cmds.any (fun c => c.team.isNone && c.cl == cl && c.launch == m.launch) = false →
    t = u.putEnergy m.ctx (energyBytes m.energy u.now (Config.freeWord u.free).toNat (Config.freeWord (u.free + 1)).toNat 0xFF
      (Config.freeWord (u.free + 2)).toNat m.ctx) →
    Happens (.mccProgramEnd cl) s
      (({ t with free := t.free + 3, mccs := t.mccs.filter (·.id != m.id) } : State).releaseCluster m.launch cl).freeSets.freeSlots)

/-! ### Queues and placement (17, 10) -/

/-- 17 R276 to R282: QTAIL accepts a tail from the host's queues within the ring, a higher one with a stamp of submission; one out of
bounds sets QOVF and nothing else; QFAULT clears and its entry is complete; QTBASE takes no new address while it is enabled. 17 R280 to
R284, R292: the arbiter takes the next entry of the queue of the highest effective class, round robin within it. An entry refused sets
QFAULT and its code; a marker is complete at once; a launch goes to the placer. Each 100 µs of being eligible raises the class by one. The
model's own choices in this statement are log entries 42 and 100. -/
def Obligations.QueuesAndArbiter : Prop :=
  (∀ (s u : State) (q : Nat) (v : D) (d : QDesc) (r : Queue), u = s.unfocus → u.bridge = true → q < 4096 → u.qdesc q = some d →
    r = u.queueOf q → d.fed = false → r.tail < v.toNat → r.head ≤ v.toNat → v.toNat ≤ r.head + 2 ^ d.lsize →
    Happens (.qtailWrite q v) s ((u.takeStamp 0 255).2.setQueue
      { r with tail := v.toNat, subs := r.subs ++ [(v.toNat, (u.takeStamp 0 255).1)] }).lookAll) ∧
  (∀ (s u : State) (q : Nat) (v : D) (d : QDesc) (r : Queue), u = s.unfocus → u.bridge = true → q < 4096 → u.qdesc q = some d →
    r = u.queueOf q → d.fed = false → (d.enabled = true → r.tail ≤ v.toNat) → v.toNat ≤ r.tail → r.head ≤ v.toNat →
    Happens (.qtailWrite q v) s (u.setQueue { r with
      tail := v.toNat, held := if v.toNat ≤ r.head then [] else r.held
      subs := r.subs.filter (fun p => decide (p.1 < v.toNat)) ++
        (match r.subs.find? (fun p => decide (v.toNat ≤ p.1)) with | some p => [(v.toNat, p.2)] | none => []) }).lookAll) ∧
  (∀ (s u : State) (q : Nat) (v : D), u = s.unfocus → u.bridge = true → q < 4096 → u.qdesc q = none →
    Happens (.qtailWrite q v) s (u.setQueue { u.queueOf q with qovf := true })) ∧
  (∀ (s u : State) (q : Nat) (v : D) (d : QDesc) (r : Queue), u = s.unfocus → u.bridge = true → q < 4096 → u.qdesc q = some d →
    r = u.queueOf q → (d.fed = true ∨ v.toNat < r.head ∨ r.tail < v.toNat ∧ r.head + 2 ^ d.lsize < v.toNat ∨ d.enabled = true ∧ v.toNat < r.tail) →
    Happens (.qtailWrite q v) s (u.setQueue { r with qovf := true })) ∧
  (∀ (s u : State) (q : Nat) (r : Queue), u = s.unfocus → u.running = true → r = u.queueOf q → r.qfault = true →
    Happens (.qfaultClear q) s ((u.setQueue { r with qfault := false, fcode := 0 }).finishEntry q r.head r.refDep)) ∧
  (∀ (s u : State) (v : W), u = s.unfocus → u.running = true →
    (u.qtOn = true → v.toNat / 4096 ≠ (u.csr 0 0x8100).toNat / 4096 →
      Happens (.qtbaseWrite false v) s (u.setCsr 0 0x8100 (u.csr 0 0x8100 ||| 2))) ∧
    (u.qtOn = true → v.toNat % 256 ≠ (u.csr 0 0x8101).toNat % 256 →
      Happens (.qtbaseWrite true v) s (u.setCsr 0 0x8100 (u.csr 0 0x8100 ||| 2))) ∧
    (u.qtOn = false → Happens (.qtbaseWrite true v) s (u.setCsr 0 0x8101 (BitVec.ofNat 32 (v.toNat % 256))).lookAll)) ∧
  (∀ (r : Queue) (st : Stamp), get? r.fin (r.done + 1) = none → get? r.fin (r.done + 2) = none →
    (r.finish (r.done + 1) st).done = r.done + 1 ∧ (r.finish (r.done + 1) st).doneSt = r.doneSt.max st) ∧
  (∀ (s u : State) (top : Nat) (c : Nat × Queue × QDesc × QEntry), u = s.unfocus.settle.lookAll → s.unfocus.settle.running = true →
    top = u.candidates.foldl (fun m c => max m c.1) 0 →
    argMin (fun c => (c.2.1.num + 4096 - (nth 4095 u.arbLast top + 1) % 4096) % 4096) (u.candidates.filter (fun c => c.1 == top)) = some c →
    Happens .arbiterTakeEntry s (({ u with arbLast := u.arbLast.set top c.2.1.num } : State).takeEntry c.2.1 c.2.2.1 c.2.2.2)) ∧
  (∀ (u : State) (r : Queue) (d : QDesc) (e : QEntry) (n code : Nat), u.checkEntry d e r.num (r.head + 1) = .error code → n = r.num →
    ((u.takeEntry r d e).queueOf n).qfault = true ∧ ((u.takeEntry r d e).queueOf n).fcode = code ∧
    ((u.takeEntry r d e).queueOf n).head = r.head + 1) ∧
  (∀ (u : State) (r : Queue) (d : QDesc) (e : QEntry) (c : Card) (h : Hdr), u.checkEntry d e r.num (r.head + 1) = .ok (some (c, h)) →
    ((u.takeEntry r d e).queueOf r.num).head = r.head + 1 ∧ (u.takeEntry r d e).launches.length = u.launches.length + 1) ∧
  (∀ (s u : State) (q : Nat), u = s.unfocus → u.running = true → u.queues.any (·.num == q) = true →
    Happens (.entryClassAge q) s (u.setQueue (u.lookQueue (u.queueOf q)))) ∧
  (∀ (d : QDesc) (r : Queue), effClass d r = min 7 (d.cls + r.raised))

/-- 10 R202 to R208, 17 R285 to R289: the placer places the next unit of a launch whose dependences have settled, and ages the oldest
after a millisecond; a huddle closes with its timer and is placed with record i in lane i; a launch whose parts have ended completes its
entry, raising the host's interrupt where its card asks. The model's own choices in this statement are log entries 44, 45 and 69. -/
def Obligations.PlacementAndCompletion : Prop :=
  (∀ (s u t : State) (id : Nat) (l : Launch), u = s.unfocus.settle → u.launchOf id = some l → u.running = true → u.ripe l = true →
    l.dep.le (u.slackFor l.ctx) = true → u.restoreFirst = false → u.putNext l (u.turnDies l) (u.slackFor l.ctx) = some t → u.waysClear t = true →
    Happens (.placeTeam id) s ((t.modLaunch l.id (fun m => { m with
      next := m.next + m.hdr.unit_
      k := if l.snapOn ∧ l.next = 0 then some (u.slackFor l.ctx) else l.k
      since := t.now
      waited := 0
      aged := false })).modQueue l.queue (fun r => { r with begun := max r.begun l.entry })).lookAll) ∧
  (∀ (s u : State) (l : Launch), u = s.unfocus → u.launches.find? u.ripe = some l → 1000000 ≤ l.waited + (u.now - l.since) →
    Happens .placerOldestWaitExpire s (u.modLaunch l.id (fun m => { m with aged := true }))) ∧
  (∀ (s u : State) (cl h : Nat) (k : Huddle), u = s.unfocus → u.huddles = [k] → k.cl = cl → k.num = h → k.closed = false → k.opened + k.timer ≤ u.now →
    Happens (.huddleTimerExpire cl h) s { u with huddles := [{ k with closed := true, closedAt := u.now }] }) ∧
  (∀ (s u : State) (cl h cache : Nat) (k : Huddle) (l hl : Launch) (fill : Mask), u = s.unfocus.settle →
    u.huddles.find? (fun k => k.cl == cl && k.num == h) = some k → u.hudReady k = some (l, cache) → u.restoreFirst = false →
    hl = hudLaunch u.nextId l k → fill = maskOf (fun i => decide (i < k.recs.length)) →
    (∀ t : State, t = (({ u.fresh.2 with
        launches := u.fresh.2.launches ++ [hl]
        huddles := u.fresh.2.huddles.filter (fun j => !(j.cl == cl && j.num == h)) } : State).putTeam hl 0 1 cache
      ((u.slackFor k.ctx).max hl.dep)) → u.waysClear t = true →
    Happens (.huddlePlace cl h) s (t.modSquads (fun q => q.launch == u.nextId) (fun q =>
      { (List.range 14).foldl (fun q r => q.setV 0xFFFFFFFF r (fun i => k.word r i)) q with
        sp := { q.sp with pc := k.entry, mask := fill }
        filled := fill
        huddle := true })))) ∧
  (∀ (s u t : State) (id : Nat) (l : Launch), u = s.unfocus → u.launchOf id = some l → u.launchOver l = true →
    t = { u with launches := u.launches.filter (·.id != l.id), lvls := u.lvls.filter (·.launch != l.id) } →
    (∀ ls : List Launch, ls = modAll (fun k => l.parents.contains k.id) (fun k => { k with doneSt := k.doneSt.max l.doneSt }) t.launches →
      l.huddle = true → Happens (.launchComplete id) s { t with launches := ls }) ∧
    (l.huddle = false → l.intr = false → Happens (.launchComplete id) s (t.finishEntry l.queue l.entry (l.doneSt.max l.dep))) ∧
    (l.huddle = false → l.intr = true → Happens (.launchComplete id) s ((t.finishEntry l.queue l.entry (l.doneSt.max l.dep)).raiseHirq 0)))

/-! ### Engines, registers, homes and caches (09, 11, 12) -/

/-- 09 R182, R188, R189; 19 R317, 22 R348, 23 R364: an engine runs a command whose data are present and whose checks pass, a
tlsig and an rsig in the order of their context, and completes it once its writes are acknowledged. A ring's base and size change only
while it is empty, a head never passes the tail.
The model's own choices in this statement are log entries 64, 65, 72 and 73. -/
def Obligations.EnginesAndRegisters : Prop :=
  (∀ (s u : State) (cmd : Nat) (c : Cmd), u = s.unfocus → u.cmds.find? (·.id == cmd) = some c →
    (∀ e, c.fin = some e → c.wait = 0 → Happens (.engineCommandRun cmd) s (u.cmdDone c e)) ∧
    (∀ e, c.fin = none → c.walk = none → c.ticket = none → c.kind = .sig → u.cmdFirst c = true → e = (u.timeline c.ctx c.cl c.sel).stamp →
      Happens (.engineCommandRun cmd) s ((u.modCmd c.id (fun d => { d with fin := some e })).cmdDone { c with fin := some e } e)) ∧
    (c.fin = none → c.walk = none → c.ticket = none → c.kind = .rsig → u.cmdFirst c = true →
      (homePkg (lineOf c.key) = u.pkgIdx → u.barred c.id .event (lineOf c.key) = false) →
      Happens (.engineCommandRun cmd) s ((u.leaveLines c.id).cmdAdd c)) ∧
    (c.fin = none → c.walk = none → c.ticket = none → c.kind ≠ .sig → c.kind ≠ .rsig → u.cmdWaits c = false →
      (u.cmdCheckRun c (u.cmdMoves c) = .ok → (∀ p ∈ u.cmdNeeds c (u.cmdMoves c), u.granted p.1 p.2 = true) →
        (∀ p ∈ u.cmdNeeds c (u.cmdMoves c), p.1 ≠ .read → u.barred c.id p.1 p.2 = false) →
        u.cmdForced c (u.cmdMoves c) = [] → u.farLack (600 + c.cl / 32) (c.cl / 32) (u.cmdReads c (u.cmdMoves c)) = none →
        Happens (.engineCommandRun cmd) s ((u.leaveLines c.id).cmdMove c (u.cmdMoves c))) ∧
      (∀ va k, u.cmdCheckRun c (u.cmdMoves c) = .miss va k → Happens (.engineCommandRun cmd) s (u.cmdMiss c va k)) ∧
      (∀ d, u.cmdCheckRun c (u.cmdMoves c) = .bad d → Happens (.engineCommandRun cmd) s (u.cmdFail c d)))) ∧
  (∀ (s : State) (c : Cmd) (e : Stamp), ∀ d ∈ (s.cmdDone c e).cmds, d.id ≠ c.id) ∧
  (∀ (s u : State) (ctx num : Nat) (v : W), u = s.unfocus → u.csrOpen num = true → (csrBridge num && !u.bridge) = false →
    Happens (.registerWrite ctx num v) s (u.csrSet ctx num v)) ∧
  (∀ (s u : State) (ctx n b z h t k : Nat) (v : W), u = s.unfocus → ringOf n = some (b, z, h, t) → u.csrOpen n = true →
    k = (if csrScoped n then 1 + ctx else 0) →
    (n ≠ h → u.csr k h = u.csr k t → ringValue b n v = true → Happens (.ringBaseWrite ctx n v) s ((u.setCsr k n v).flushRing ctx b)) ∧
    (n ≠ h → u.csr k h ≠ u.csr k t → Happens (.ringBaseWrite ctx n v) s u) ∧
    (n = h → ¬(0 < (v - u.csr k t).toNat ∧ (v - u.csr k t).toNat < 2 ^ 31) →
      Happens (.ringHeadWrite ctx n v) s ((u.setCsr k n v).flushRing ctx b)) ∧
    (n = h → 0 < (v - u.csr k t).toNat → (v - u.csr k t).toNat < 2 ^ 31 → Happens (.ringHeadWrite ctx n v) s u))

/-- 11 R222, 12 R253, R254, R259, R260: requests reach the home of their line. A first reader gets the line exclusive; a writer waits for
the sharers of a shared line, anyone for the owner of an owned one; page grants that cannot coexist are recalled first; another package's
request comes as an accepted message and gets its answer. The model's own
choices in this statement are log entries 25, 51, 52, 64, 70, 94 and 119. -/
def Obligations.HomeRequests : Prop :=
  (∀ (s u v : State) (line cache : Nat), u = s.unfocus → u.l1Of cache line = none →
    (u.granted .shared line = true → u.takeWay cache line = some v →
      Happens (.homeSharedRequest line cache) s ((v.setL1 cache line .is 0 0).arrive line (.shared cache))) ∧
    (u.granted .excl line = true → u.takeWay cache line = some v →
      Happens (.homeExclusiveRequest line cache) s ((v.setL1 cache line .im 0 0).arrive line (.excl cache))) ∧
    (u.granted .shared line = false → Happens (.homeSharedRequest line cache) s (u.ask .shared line)) ∧
    (u.granted .excl line = false → Happens (.homeExclusiveRequest line cache) s (u.ask .excl line))) ∧
  (∀ (s u : State) (line cache : Nat) (e : L1), u = s.unfocus → u.l1Of cache line = some e → e.st = .s → u.granted .excl line = true →
    Happens (.homeExclusiveRequest line cache) s ((u.setL1 cache line .sm 0 0).arrive line (.excl cache))) ∧
  (∀ (s u v : State) (line cache op ty : Nat) (f : Stamp), u = s.unfocus → f.src / 1024 = u.pkgIdx → u.holdsA cache line op ty = false →
    u.l1Of cache line = none →
    ((u.epoch line).any (fun h => h.op == op && h.ty == ty) = false → (u.cuStamp cache).1 = f → homePkg line = u.pkgIdx → (u.cuStamp cache).2.granted (.upd op ty) line = true →
      (u.cuStamp cache).2.takeWay cache line = some v →
      Happens (.homeUpdateOnlyRequest line cache op ty f) s ((v.setL1 cache line .ia op ty).arrive line (.upd cache op ty f))) ∧
    ((u.epoch line).any (fun h => h.op == op && h.ty == ty) = true → u.granted (.upd op ty) line = true → u.takeWay cache line = some v →
      Happens (.homeUpdateOnlyRequest line cache op ty f) s ((v.setL1 cache line .ia op ty).arrive line (.upd cache op ty f))) ∧
    ((u.epoch line).any (fun h => h.op == op && h.ty == ty) = false → (u.cuStamp cache).1 = f → homePkg line ≠ u.pkgIdx →
      u.pageGranted (.upd op ty) line = true → u.asksA line = false →
      Happens (.homeUpdateOnlyRequest line cache op ty f) s ((u.cuStamp cache).2.demand (homePkg line) 0 (.upd line op ty f)))) ∧
  (∀ (s u : State) (line cache op ty : Nat) (f : Stamp) (m : FabIn) (g : Grant), u = s.unfocus → f.src / 1024 ≠ u.pkgIdx → homePkg line = u.pkgIdx →
    u.inbox.find? (fun m => m.src == f.src / 1024 && m.body == .upd line op ty f) = some m → g ∈ u.grants → g.page = pageOf line →
    g.pkg = f.src / 1024 → g.recalled = false → g.kind = 2 → g.op = op → g.ty = ty → Happens (.homeUpdateOnlyRequest line cache op ty f) s
      (({ u with inbox := u.inbox.erase m } : State).arrive line (.upd (farCache (f.src / 1024) m.req) op ty f))) ∧
  (∀ (s u : State) (line cache : Nat) (t : Stamp), u = s.unfocus → cache < 512 →
    (u.reachesData cache (cache / 128) line false t = true →
      (u.readEnds line t = false → Happens (.homePlainRead line cache t) s (u.fillCopy cache line t)) ∧
      (u.readEnds line t = true → Happens (.homePlainRead line cache t) s (u.arrive line (.read cache t)))) ∧
    (u.reachesData cache (cache / 128) line false t = false →
      (u.pageGranted .read line = true → Happens (.homePlainRead line cache t) s (u.askData (cache / 128) 0x8000 line false t)) ∧
      (u.pageGranted .read line = false → Happens (.homePlainRead line cache t) s (u.ask .read line)))) ∧
  (∀ (s : State) (line agent : Nat), Happens (.homeCollapseRequest line agent) s (s.unfocus.arrive line (.collapse agent))) ∧
  (∀ (s u : State) (msg : Nat) (m : Msg), u = s.unfocus →
    u.msgs.find? (fun m => m.id == msg && !m.dep && !m.landed && homePkg m.line == u.pkgIdx) = some m → u.overtakes m = false →
    Happens (.homePublicationEvent msg) s (if m.manual then (u.mergeHome m.line m.bytes).ackMsg msg else u.arrive m.line (.event msg))) ∧
  (∀ (s : State) (h : Home) (line c : Nat), h = s.homeOf line →
    (h.st = .hs → c < 20000 → s.alone h.line = true → s.othersHold h.line c = false → s.othersHold line c = false →
      s.serve line (.shared c) = s.setHome { h with st := .ho, owner := c, serving := some (.shared c) } ∧
      s.serve line (.excl c) = s.setHome { h with st := .ho, owner := c, serving := some (.excl c) }) ∧
    (h.st = .hs → c < 20000 → s.alone h.line = false → s.serve line (.shared c) = s.setHome { h with st := .hs, serving := some (.shared c) }) ∧
    (h.st = .hs → 20000 ≤ c →
      s.serve line (.shared c) = (s.setHome { h with st := .hs, owner := 0, serving := some (.shared c) }).sendData h.line c none) ∧
    (h.st = .hs → c < 20000 → s.othersHold h.line c = true → s.othersHold line c = true →
      s.serve line (.shared c) = s.setHome { h with st := .hs, serving := some (.shared c) } ∧
      s.serve line (.excl c) = s.setHome { h with st := .hsx, serving := some (.excl c), acks := (s.diesOf line).map (fun d => (s.pkgIdx, d)) }) ∧
    (h.st = .ho → s.serve line (.shared c) = s.setHome { h with st := .hor, serving := some (.shared c) } ∧
      s.serve line (.excl c) = s.setHome { h with st := .hor, serving := some (.excl c) }) ∧
    (h.st = .ha → s.serve line (.shared c) = s.startCollapse h (.shared c) ∧ s.serve line (.excl c) = s.startCollapse h (.excl c))) ∧
  (∀ (s u t : State) (pkg page kind op ty : Nat) (m : FabIn) (new : Grant), u = s.unfocus → kind ≤ 2 → pkg ≠ u.pkgIdx → pageHome page = u.pkgIdx →
    u.inbox.find? (fun m => m.src == pkg && m.body == .grant page kind op ty) = some m → new = ⟨page, pkg, kind, op, ty, u.now, false, m.req⟩ →
    u.grantWaits = [] → t = { u with inbox := u.inbox.erase m, grantWaits := [new] } →
    (t.grantClash new = [] → t.notes.any (fun n => pageOf n.line == page) = false →
      (kind = 1 → t.pageMoves page = false ∧ t.pageStalls page = false) → ∀ v : State, v = (if kind = 1 then t.handOver page else t) →
      Happens (.pageGrantRequest pkg page kind op ty) s (({ v with
        grants := v.grants.filter (fun g => !g.gives new) ++ [new]
        grantWaits := v.grantWaits.erase new } : State).toPort pkg m.req none (.granted page kind op ty))) ∧
    (t.grantClash new ≠ [] → Happens (.pageGrantRequest pkg page kind op ty) s (t.recallGrants (t.grantClash new).contains))) ∧
  (∀ (s u : State) (page kind op ty : Nat), u = s.unfocus → kind ≤ 2 → u.peers.any (·.idx == pageHome page) = true →
    Happens (.pageGrantRequest u.pkgIdx page kind op ty) s (u.demandOnce (pageHome page) 0 (.grant page kind op ty))) ∧
  (∀ (s u : State) (pkg page : Nat), u = s.unfocus → pkg ≠ u.pkgIdx →
    Happens (.pageGrantRecall pkg page) s (u.recallGrants (fun g => g.page == page && g.pkg == pkg))) ∧
  (∀ (s u t : State) (page : Nat) (m : FabIn), u = s.unfocus → u.inbox.find? (fun m => m.src == pageHome page && m.body == .recall page) = some m →
    t = u.leavePage page →
    (t.leftPage page = false → Happens (.pageGrantRecall u.pkgIdx page) s t) ∧
    (t.leftPage page = true → Happens (.pageGrantRecall u.pkgIdx page) s
      ((({ t with inbox := t.inbox.erase m } : State).dropPage page).toPort m.src m.req none (.recalled page)))) ∧
  (∀ (s u t : State) (pkg page : Nat) (m : FabIn), u = s.unfocus → u.inbox.find? (fun m => m.src == pkg && m.body == .recalled page) = some m →
    t = { u with
      inbox := u.inbox.erase m
      reqs := u.reqs.filter (fun r => !(r.dst == pkg && r.body == .recall page))
      grants := u.grants.filter (fun g => !(g.page == page && g.pkg == pkg)) } →
    Happens (.pageGrantRecallAck pkg page) s
      (((t.home.filter (fun h => pageOf h.line == page)).map (·.line)).foldl State.serveAll (t.giveGrants t.grantWaits)))

/-- 11 R233, R235, 12 R251 to R258: what caches, filters and ports answer, and what the home does with the answers.
The model's own choices in this statement are log entries 25, 51 and 52. -/
def Obligations.CacheAnswers : Prop :=
  (∀ (s u : State) (cache line : Nat) (e : L1), u = s.unfocus → (u.homeOf line).asks u.pkgIdx (cache / 128) = true →
    u.l1Of cache line = some e → (e.st = .s ∨ e.st = .e) → cache ≠ (u.homeOf line).requester →
    Happens (.l1Invalidate cache line) s (u.dropL1 cache line)) ∧
  (∀ (s u : State) (die line : Nat), u = s.unfocus → (u.homeOf line).asks u.pkgIdx die = true →
    Happens (.snoopFilterMessage die line) s (((((u.l1.filter (fun e => e.line == line && e.cache / 128 == die)).map (·.cache)).foldl
      (fun s c => s.invalidate c line) u).trimFilter die line).answered false line u.pkgIdx die)) ∧
  (∀ (s u : State) (line die : Nat), u = s.unfocus → die < 4 → u.answerBehind false line die = false →
    Happens (.homeInvalidationAck line die) s ((u.answerIn false line die).takeAck line (u.pkgIdx, die + 4))) ∧
  (∀ (s : State) (line : Nat) (h : Home) (a : Nat × Nat) (id : Nat), h = s.homeOf line → h.st = .hv → h.acks = [a] → h.serving = some (.event id) →
    s.takeAck line a = ((s.setHome { h with acks := [], st := .hs, serving := none }).ackMsg id).serveAll line) ∧
  (∀ (s u : State) (cache line : Nat) (e : L1), u = s.unfocus → (u.homeOf line).st = .hor → (u.homeOf line).owner = cache →
    u.msgs.any (fun m => m.dep && m.line == line) = false → u.l1Of cache line = some e → e.st = .e →
    Happens (.l1Recall cache line) s ((u.sendBytes cache line e.ctx []).dropL1 cache line)) ∧
  (∀ (s u : State) (cache line c : Nat) (e : L1), u = s.unfocus → (u.homeOf line).st = .hor → (u.homeOf line).owner = cache →
    u.msgs.any (fun m => m.dep && m.line == line) = false → u.l1Of cache line = some e → e.st = .m →
    (u.homeOf line).serving = some (.excl c) →
    Happens (.l1Recall cache line) s ((u.sendBytes cache line e.ctx e.written).dropL1 cache line)) ∧
  (∀ (s u t : State) (cache line c : Nat) (e : L1), u = s.unfocus → (u.homeOf line).st = .hor → (u.homeOf line).owner = cache →
    u.msgs.any (fun m => m.dep && m.line == line) = false → u.l1Of cache line = some e → e.st = .m →
    (u.homeOf line).serving = some (.shared c) → t = u.sendBytes cache line e.ctx e.written →
    Happens (.l1Recall cache line) s { t with
      l1 := modAll (fun e => e.cache == cache && e.line == line) (fun e => { e with st := .s, written := [], writers := [] }) t.l1 }) ∧
  (∀ (s u t : State) (line : Nat) (m : Msg), u = s.unfocus → u.msgs.find? (fun m => m.dep && m.line == line) = some m → m.bytes ≠ [] →
    u.putBehind m = false → u.stalls line = false →
    t = (({ u with msgs := u.msgs.filter (·.id != m.id) } : State).landed line m.st m.bytes m.ctx).carryPoison line (.msg m.id) .home m.st → (t.homeOf line).st = .hor →
    Happens (.homeOwnerBytes line) s ((t.setHome { t.homeOf line with
      st := .hs, owner := 0, serving := none
      waits := (t.homeOf line).serving.toList ++ (t.homeOf line).waits }).serveAll line)) ∧
  (∀ (s u : State) (line : Nat) (m : Msg), u = s.unfocus → u.msgs.find? (fun m => m.dep && m.line == line) = some m → m.bytes ≠ [] →
    u.putBehind m = false → u.stalls line = true → Happens (.homeOwnerBytes line) s (u.stallMsg m.id)) ∧
  (∀ (s u : State) (cache line : Nat) (e : L1), u = s.unfocus → u.l1Of cache line = some e → e.st = .mi →
    u.msgs.any (fun m => m.dep && m.line == line) = false → Happens (.l1PutAck cache line) s ((u.dropL1 cache line).serveAll line)) ∧
  (∀ (s u : State) (cache line : Nat), u = s.unfocus → (u.homeOf line).st = .hac → Happens (.l1CollapseRecall cache line) s
    { u with acopies := modAll (fun c => c.line == line && c.cache == cache) (fun c => { c with port := true }) u.acopies }) ∧
  (∀ (s u : State) (die line : Nat) (h : Home) (r : List D), u = s.unfocus → h = u.homeOf line → h.st = .hac → h.acks.contains (u.pkgIdx, die) = true → homePkg line = u.pkgIdx →
    (u.acopies.filter (fun c => c.line == line && c.cache / 128 == die)).all (·.port) = true → u.partOf h die = some r →
    Happens (.mergePortCollapse die line) s
      ((({ u with acopies := u.acopies.filter (fun c => !(c.line == line && c.cache / 128 == die)) } : State).setHome
        { h with parts := h.parts ++ [(u.pkgIdx, die, rowWords r)] }).answered true line u.pkgIdx die)) ∧
  (∀ (s u t : State) (die line : Nat) (h : Home) (r : List D), u = s.unfocus → h = u.homeOf line → h.st = .hac →
    h.acks = [(u.pkgIdx, die)] → homePkg line ≠ u.pkgIdx → (u.acopies.filter (fun c => c.line == line && c.cache / 128 == die)).all (·.port) = true →
    u.partOf h die = some r → t = ({ u with acopies := u.acopies.filter (fun c => !(c.line == line && c.cache / 128 == die)) } : State).sendPart
      { h with acks := [] } die (rowWords r) →
    Happens (.mergePortCollapse die line) s ((t.setHome h.over).serveAll line)) ∧
  (∀ (s u t : State) (line pkg die : Nat) (h k : Home),
    u = (if pkg = s.unfocus.pkgIdx then s.unfocus.answerIn true line die else s.unfocus.partIn line pkg die) →
    (pkg = s.unfocus.pkgIdx → s.unfocus.answerBehind true line die = false) →
    h = u.homeOf line → h.st = .hac → h.acks = [(pkg, die + 4)] →
    k = { h with acks := [] } → t = u.setHome k →
    (t.stalls k.line = false → Happens (.homeDiePartial line pkg die) s (t.endCollapse k)) ∧
    (t.stalls k.line = true → Happens (.homeDiePartial line pkg die) s (t.setCsr 0 0x809D (t.csr 0 0x809D + 1)))) ∧
  (∀ (s u : State) (cache line : Nat) (h : Home), u = s.unfocus → h = u.homeOf line → h.requester = cache → cache < 512 → u.filterOpen (cache / 128) line = true →
    (h.serving = some (.excl cache) → h.st = .ho → Happens (.l1Grant cache line) s
      ((((u.filterAdd cache line).setL1 cache line .m 0 0).setHome { h with serving := none }).serveAll line)) ∧
    (h.serving = some (.shared cache) → (h.st = .ho ∨ h.st = .hs) → Happens (.l1Grant cache line) s
      ((((u.filterAdd cache line).setL1 cache line (if h.st = HomeSt.ho then L1St.e else L1St.s) 0 0).setHome
        { h with serving := none }).serveAll line)))

/-! ### Translation and versions (19) -/

/-- 19 R312 to R316: a walk's end caches its translation and frees its agents, or parks them on a ticket; an invalidation removes the
translations that it names, drained first where it asks, and is busy until every access has been performed; a ticket closes mapped or
denied. A command on no open ticket, or during an invalidation, only sets its bit of TLBSTAT. 19 R318 to R321: the collector folds
versions that no live snapshot can select; a store full for 10 µs, the age limit, or another member's home revokes kernel and transaction
snapshots at or below a stamp. The model's own choices in this statement are log entries 14, 38, 48, 54 and 95. -/
def Obligations.TranslationAndVersions : Prop :=
  (∀ (s u : State) (walk : Nat) (w : Walk), u = s.unfocus → u.walks.find? (·.id == walk) = some w →
    u.walkRuns w = true →
    (∀ l, u.walkVia w.die w.ctx w.va = .leaf l → Happens (.translationWalkEnd walk) s (((u.cacheTables w).cacheLeaf w l).walkFree w.id)) ∧
    (∀ c k, u.walkVia w.die w.ctx w.va = .bad c k → Happens (.translationWalkEnd walk) s ((u.cacheTables w).walkFault w c k))) ∧
  (∀ (s u : State), u = s.unfocus → u.tlbBusy = false →
    (∀ ctx va, Happens (.tlbinvScopeAddress ctx va) s (u.invalidateTlb (fun t => t.covers ctx va) (fun e => e.onPath ctx va))) ∧
    (∀ ctx, Happens (.tlbinvScopeContext ctx) s (u.invalidateTlb (fun t => t.ctx == ctx) (fun e => e.ctx == ctx))) ∧
    Happens .tlbinvScopeAll s (u.invalidateTlb (fun _ => true) (fun _ => true)) ∧
    (∀ ctx va ls, ls = (u.tlb.filter (fun t => t.covers ctx va)).map (·.leaf) ++ (match u.walkOf ctx va with | .leaf l => [l] | .bad _ _ => []) →
      Happens (.tlbinvDrain ctx va) s { (u.drainLines (fun n => ls.any (fun l => l.hasLine n))).invalidateTlb (fun t => t.covers ctx va)
        (fun e => e.onPath ctx va) with draining := ls })) ∧
  (∀ (s u : State), u = s.unfocus → u.tlbBusy = true → (∀ ctx va, Happens (.tlbinvScopeAddress ctx va) s (u.tlbStat 1) ∧
    Happens (.tlbinvDrain ctx va) s (u.tlbStat 1)) ∧ Happens .tlbinvScopeAll s (u.tlbStat 1)) ∧
  (∀ (u : State) (p : Tlb → Bool) (r : WalkEnt → Bool), u.tlbBusy = false → (u.invalidateTlb p r).tlbBusy = true ∧
    (∀ t ∈ (u.invalidateTlb p r).tlb, p t = false) ∧ ∀ e ∈ (u.invalidateTlb p r).walkCache, r e = false) ∧
  (∀ (s u t : State), u = s.unfocus → u.tlbBusy = true →
    t = (if u.draining.isEmpty then u else u.drainLines (fun n => u.draining.any (fun l => l.hasLine n))) → t.translatedDone = true →
    (u.draining = [] ∨ t.emptied (fun n => u.draining.any (fun l => l.hasLine n)) = true) →
    Happens .tlbinvComplete s { t.setCsr 0 0x808B (t.csr 0 0x808B &&& ~~~1) with draining := [] }) ∧
  (∀ (s u : State) (n : Nat) (go : List Cmd → List Cmd), u = s.unfocus → u.tickets.any (·.num == n) = true →
    go = modAll (fun c => c.ticket == some n) (fun c => { c with ticket := none }) →
    Happens (.tkcmdMapped n) s (({ u with
      cmds := go u.cmds
      ctxs := u.ctxs.map (fun c => { c with saved := { c.saved with cmds := go c.saved.cmds } }) } : State).closeTicket n)) ∧
  (∀ (s u t : State) (n : Nat) (c : Ctx → Ctx), u = s.unfocus → u.tickets.any (·.num == n) = true →
    c = (fun c => { c with saved := { c.saved with
      squads := modAll (fun q => onTicket q.wake n) (fun q => { q with denied := true }) c.saved.squads
      cmds := modAll (fun c => c.ticket == some n) (fun c => { c with ticket := none, failed := some .pageFault }) c.saved.cmds } }) →
    t = (u.modSquads (fun q => onTicket q.wake n) (fun q => { q with denied := true })).modMccs (fun m => onTicket m.wake n) (fun m => { m with denied := true }) →
    Happens (.tkcmdDenied n) s (((t.cmds.filter (fun (c : Cmd) => c.ticket == some n)).foldl (fun (s : State) c =>
      (s.modCmd c.id (fun d => { d with ticket := none })).cmdFail c .pageFault) { t with ctxs := t.ctxs.map c }).closeTicket n)) ∧
  (∀ (s u : State) (n : Nat), u = s.unfocus → u.tickets.any (·.num == n) = false →
    Happens (.tkcmdMapped n) s (u.tlbStat 2) ∧ Happens (.tkcmdDenied n) s (u.tlbStat 2)) ∧
  (∀ (s : State) (line : Nat), Happens (.ebbCollectorPass line) s (s.unfocus.reclaim line)) ∧
  (∀ (s : State) (line : Nat), ∀ p ∈ (s.reclaim line).pubs, p ∈ s.pubs) ∧
  (∀ (s u : State) (t : Nat) (st : Stamp), u = s.unfocus → u.vsFullSince = some t → u.oldestRevocable = some st → t + 10000 ≤ u.now →
    u.storeFull = true → Happens .versionStoreFullTimeout s { (u.sendRevocation st).revoke st (fun _ => true) with vsFullSince := some u.now }) ∧
  (∀ (s u : State), u = s.unfocus → 2 ^ 40 < u.now →
    Happens .snapshotAgeLimit s (u.revoke ⟨u.now - 2 ^ 40 - 1, 65535⟩ (fun tag => (u.csr (1 + tag) 0x8082).getLsbD 0))) ∧
  (∀ (s u : State) (st : Stamp) (m : FabIn), u = s.unfocus → u.inbox.find? (fun m => m.body == .revoke st) = some m →
    Happens (.snapshotRevocation st) s
      ((({ u with inbox := u.inbox.erase m } : State).toPort m.src m.req none .ack).revoke st (fun _ => true))) ∧
  (∀ (s : State) (st : Stamp) (p : Nat → Bool), ∀ l ∈ (s.revoke st p).launches,
    l.snapOn = true → p l.ctx = true → (∃ k, l.k = some k ∧ k.le st = true) → l.revoked = true)

/-! ### Contexts and stops (18, 23) -/

/-- 18 R301 to R306: a save takes a resident context within its area, or answers 1 for room or 2 for the state; the grace window's end and
each team's record finish it; a restore reads a saved context whose area is whole and places it; a kill leaves nothing of it. The model's
own choices in this statement are log entries 36, 37, 39, 96 and 101. -/
def Obligations.Contexts : Prop :=
  (∀ (s u : State) (ctx : Nat) (c : Ctx), u = s.unfocus.needCtx ctx → u.ctxOf ctx = some c →
    (c.st ≠ 1 → Happens (.ctxcmdSave ctx) s (u.setResult ctx 2)) ∧
    (c.st = 1 → (u.csr (1 + ctx) 0x8045).toNat < u.ctxNeed ctx → Happens (.ctxcmdSave ctx) s (u.setResult ctx 1)) ∧
    (c.st = 1 → u.ctxNeed ctx ≤ (u.csr (1 + ctx) 0x8045).toNat →
      ∀ t : State, t = u.modCtx ctx (fun c => { c with
        st := 2
        result := 0
        graceEnd := u.now + (u.csr (1 + ctx) 0x8047).toNat * 1000
        saved := Saved.none_ }) →
      Happens (.ctxcmdSave ctx) s ((((t.preemptMccs ctx).stowHuddles ctx).saveSquads ctx).finishSave ctx)) ∧
    (c.st ≠ 3 → Happens (.ctxcmdRestore ctx) s (u.setResult ctx 2)) ∧
    (c.st = 3 → u.areaOk (u.saveBase ctx) (placeSegs 0 (c.saved.area u.launches (u.stopSlots ctx) ctx u.now)) = false → Happens (.ctxcmdRestore ctx) s (u.setResult ctx 3)) ∧
    (c.st = 3 → u.areaOk (u.saveBase ctx) (placeSegs 0 (c.saved.area u.launches (u.stopSlots ctx) ctx u.now)) = true →
      ∀ (v : Saved) (t : State), v = (placeSegs 0 (c.saved.area u.launches (u.stopSlots ctx) ctx u.now)).foldl (fun v g => u.loadSeg (u.saveBase ctx) g v) c.saved →
      t = ({ u with poison := u.poison.filter (fun p => !(decide (2 ^ 61 ≤ p.gran) && (c.saved.teams.map (·.id)).contains ((p.gran - 2 ^ 61) / 2 ^ 14))) ++
        (placeSegs 0 (c.saved.area u.launches (u.stopSlots ctx) ctx u.now)).flatMap (u.loadPoison (u.saveBase ctx)) } : State).modCtx ctx
        (fun c => { c with st := 4, result := 0, saved := v, toPlace := v.clusters }) →
      Happens (.ctxcmdRestore ctx) s (if t.slotFor ctx then t.takeSlot ctx else t))) ∧
  (∀ (s u : State) (ctx : Nat) (c : Ctx), u = s.unfocus → u.ctxOf ctx = some c → c.st = 2 → c.graceEnd ≤ u.now →
    Happens (.graceWindowClose ctx) s ((u.saveSquads ctx).finishSave ctx)) ∧
  (∀ (s u : State) (team : Nat) (m : Team), u = s.unfocus → u.teams.find? (·.id == team) = some m → u.teamSavable m = true →
    Happens (.teamSaveRecord team) s ((u.stowTeam m).finishSave m.ctx)) ∧
  (∀ (s u t : State) (ctx : Nat) (olds : List Nat), u = s.unfocus → u.restorable ctx = some (olds, t) → u.waysClear t = true → Happens (.contextRestorePlace ctx) s
    (((t.squads.filter (fun q => !u.squads.any (·.id == q.id))).map (·.id)).foldl State.retest (((t.takeSlot ctx).failSaved).unlist ctx olds))) ∧
  (∀ (s u t : State) (ctx : Nat), u = (State.runOut ctx 4096 (s.unfocus.needCtx ctx)).wipe ctx →
    t = (u.slotsFreed (u.modCtx ctx (fun c => { c with
      st := 0
      result := 0
      slot := false
      saved := Saved.none_
      toPlace := [] }))).trimCopies →
    Happens (.ctxcmdKill ctx) s ((State.letIn t.parkWait.length t).disableQueues ctx)) ∧
  (∀ (s : State) (ctx : Nat), (∀ q ∈ (s.wipe ctx).squads, q.ctx ≠ ctx) ∧ (∀ m ∈ (s.wipe ctx).mccs, m.ctx ≠ ctx) ∧
    (∀ l ∈ (s.wipe ctx).launches, l.ctx ≠ ctx) ∧ (∀ c ∈ (s.wipe ctx).cmds, c.ctx ≠ ctx) ∧ (∀ h ∈ (s.wipe ctx).huddles, h.ctx ≠ ctx))

/-- 23 R362 to R364: a stop asks every squad of the team that has not ended; with all of them halted the stop record goes to its ring; a
resume restores their states. On a context that is not resident the command is discarded and BADSTATE set.
The model's own choices in this statement are log entries 40 and 41. -/
def Obligations.Stops : Prop :=
  (∀ (s u t : State) (ctx team : Nat) (c : Ctx), u = s.unfocus.needCtx ctx → u.ctxOf ctx = some c →
    t = u.modCtx ctx (fun k => { k with badstate := !(c.st == 1) }) →
    (c.st = 1 → Happens (.stopcmdStop ctx team) s ((t.teams.filter (fun m => m.ctx == ctx && m.num == team)).foldl State.stopTeam t) ∧
      Happens (.stopcmdResume ctx team) s ((t.teams.filter (fun m => m.ctx == ctx && m.num == team)).foldl State.resumeTeam t) ∧
      Happens (.stopcmdResumeAll ctx) s ((t.teams.filter (fun m => m.ctx == ctx)).foldl State.resumeTeam t)) ∧
    (c.st ≠ 1 → Happens (.stopcmdStop ctx team) s t ∧ Happens (.stopcmdResume ctx team) s t ∧ Happens (.stopcmdResumeAll ctx) s t)) ∧
  (∀ (s u t : State) (team : Nat) (m : Team), u = s.unfocus → u.teams.find? (·.id == team) = some m → m.stopping = true →
    u.squads.all (fun q => q.team != m.id || q.st == .halted || q.st == .exiting) = true →
    t = { u.modTeam m.id (fun v => { v with stopping := false, halted := true }) with
      stopWait := u.stopWait ++ [⟨m.ctx, m.id, u.stopBytes m⟩]
      free := u.free + 32 } →
    Happens (.stopComplete team) s (t.flushStop m.ctx t.stopWait.length)) ∧
  (∀ (u : State) (m : Team), m.stopping = false → m.halted = false → m.exited = false →
    ∀ q ∈ (u.stopTeam m).squads, q.team = m.id → q.st ≠ .exiting → q.stopReq = true)

/-! ### The fabric and the domain (20, 22) -/

/-- 20 R324 to R330, R334: an accepted request is performed once, a late, replayed or unsealed one is only counted; an unanswered one is
sent again after 20 µs, at most four times; beacons carry marks that never fall; level barriers gather members' reports. The model's own
choices in this statement are log entries 49, 51, 102, 118 and 119. -/
def Obligations.FabricMessages : Prop :=
  (∀ (u : State) (m : Seal),
    (u.gens.contains m.gen = false → m.gen < u.domGen → u.accept m = (false, u.bump 0x824C 1)) ∧
    (u.gens.contains m.gen = false → u.domGen ≤ m.gen → u.accept m = (false, u.bump 0x824B 1)) ∧
    (u.gens.contains m.gen = true → m.tagOk = false → u.accept m = (false, u.bump 0x824B 1)) ∧
    (u.gens.contains m.gen = true → u.peers.any (·.idx == m.src) = false → u.accept m = (false, u.bump 0x824B 1)) ∧
    (u.gens.contains m.gen = true → m.tagOk = true → u.peers.any (·.idx == m.src) = true →
      ((u.window m.src m.vc m.gen).judge m.seq = .old → u.accept m = (false, u.bump 0x8248 1)) ∧
      ((u.window m.src m.vc m.gen).judge m.seq = .replayed → u.accept m = (false, u.bump 0x8249 1)) ∧
      (∀ gap w, (u.window m.src m.vc m.gen).judge m.seq = .accept gap → w = (u.window m.src m.vc m.gen).take m.seq → u.accept m =
        (true, ({ u with windows := upsert (fun v => v.src == m.src && v.vc == m.vc && v.gen == m.gen) w u.windows } : State).bump 0x824A gap)))) ∧
  (∀ (s u t : State) (src vc gen seq req : Nat) (ok : Bool) (b : FabBody), u = s.unfocus →
    (u.accept ⟨src, vc, gen, seq, ok⟩ = (false, t) → Happens (.fabricMessageReceive src vc gen seq req ok b) s t) ∧
    (u.accept ⟨src, vc, gen, seq, ok⟩ = (true, t) →
      (b.asks = false → Happens (.fabricMessageReceive src vc gen seq req ok b) s (t.deliver src req b)) ∧
      (b.asks = true → t.performed.contains (src + 64 * gen, req) = false → Happens (.fabricMessageReceive src vc gen seq req ok b) s
        (({ t with performed := t.performed ++ [(src + 64 * gen, req)] } : State).deliver src req b)) ∧
      (b.asks = true → t.performed.contains (src + 64 * gen, req) = true →
        Happens (.fabricMessageReceive src vc gen seq req ok b) s (t.answerAgain src req)))) ∧
  (∀ (u : State) (dst req n : Nat) (via : Option Nat) (b : FabBody),
    n = ((u.sendSeq.find? (fun e => e.1 == dst && e.2.1 == b.vc)).map (·.2.2)).getD 0 + 1 →
    (u.toPort dst req via b).outbox = u.outbox ++ [⟨dst, b.vc, u.domGen, n, req, b, via⟩] ∧
    u.sealOf ⟨dst, b.vc, u.domGen, n, req, b, via⟩ = (u.sealKey dst u.domGen, sealNonce b.vc u.pkgIdx dst n)) ∧
  (∀ (u : State) (src req line : Nat), homePkg line = u.pkgIdx →
    u.deliver src req (.bytes line) = u.toPort src req none
      (.data line Stamp.zero none Stamp.zero ((List.range 128).map (fun i => u.byteAt none (line * 128 + i)))) ∧
    u.deliver src req (.read line none) = u.arrive line (.shared (farCache src req)) ∧
    (∀ t, u.readEnds line t = false → u.deliver src req (.read line (some t)) = u.sendData line (farCache src req) (some t)) ∧
    (∀ t, u.readEnds line t = true → u.deliver src req (.read line (some t)) = u.arrive line (.read (farCache src req) t)) ∧
    (∀ b, u.deliver src req (.merge line b) = (u.mergeHome line b).toPort src req none .ack)) ∧
  (∀ (u : State) (src req line : Nat) (st : Stamp), homePkg line = src →
    u.deliver src req (.inval line st) = (u.cutReqs line st).arriveFirst line (.inval src req st) ∧
    u.deliver src req (.collapse line) = u.arriveFirst line (.recallA src req)) ∧
  (∀ (w : Window) (n : Nat), n ∈ w.seen → n ≤ w.hi → w.hi < n + 1024 → w.judge n = .replayed) ∧
  (∀ (w : Window) (n : Nat), n + 1024 ≤ w.hi → w.judge n = .old) ∧
  (∀ (s u : State) (req : Nat) (r : FabReq), u = s.unfocus → u.reqs.find? (·.id == req) = some r → r.held = false → r.sent + 20000 ≤ u.now →
    (r.attempts < 4 → Happens (.fabricRetransmitTimeout req) s (u.resend r none)) ∧
    (4 ≤ r.attempts → (u.portsTo r.dst).filter (fun p => some p != r.via) ≠ [] → ∃ p ∈ u.portsTo r.dst, some p ≠ r.via ∧
      Happens (.fabricRetransmitTimeout req) s (({ u with free := u.free + 1 } : State).resend r (some p))) ∧
    (4 ≤ r.attempts → (u.portsTo r.dst).filter (fun p => some p != r.via) = [] → Happens (.fabricRetransmitTimeout req) s u)) ∧
  (∀ (s u : State) (port : Nat), u = s.unfocus → port < 18 → Happens (.flitCrcReplay port) s (u.bump (0x8220 + port) 1) ∧
    Happens (.portLinkDown port) s { u.setCsr 0 (0x8200 + port) (fpstat 0 0 (u.isPcie port) false false &&& ~~~4) with
      links := u.links.filter (·.1 != port) }) ∧
  (∀ (s u : State) (port peer lanes : Nat), u = s.unfocus → port < 18 → lanes < 32 → u.running = true →
    Happens (.portLinkTrained port peer lanes) s ({ u with links := upsert (·.1 == port) (port, peer, u.goodLanes port lanes) u.links } : State).showPorts ∧
    (u.isPcie port = false → 2 ≤ popc lanes 5 → u.peers.any (·.idx == peer) = true →
      u.portStat port peer lanes = fpstat peer lanes false (bit lanes 4) true) ∧
    (u.isPcie port = false → u.peers.any (·.idx == peer) = false → u.portStat port peer lanes = 0)) ∧
  (∀ (s u : State), u = s.unfocus.settle → u.running = true → u.lastBeacon + u.beaconTicks ≤ u.now →
    Happens .settleBeaconSend s { u.toAll u.beaconNow with lastBeacon := u.now }) ∧
  (∀ (s u t : State) (b : Beacon) (up : Peer → Peer), u = s.unfocus →
    up = (fun p => ⟨p.idx, t.now, p.slack.max b.slack, p.phase.max b.phase, p.full.max b.full, b.rev, b.gen⟩) →
    (u.accept b.sealing = (false, t) → Happens (.settleBeaconReceive b) s t) ∧
    (u.accept b.sealing = (true, t) → Happens (.settleBeaconReceive b) s { t with peers := modAll (·.idx == b.sealing.src) up t.peers })) ∧
  (∀ s : State, Happens .slackWaterEstimateUpdate s s.unfocus.settle) ∧
  (∀ (s u : State) (launch level inst : Nat) (l : Launch) (b : LvlBar) (m : Nat), u = s.unfocus → u.launchOf launch = some l →
    b = u.lvlOf launch level inst → m = u.levelLead l b → u.levelHere l b ≠ 0 → Happens (.lbarMemberReport launch level inst) s
      (if m = u.pkgIdx then u.testLevels l else u.demandOnce m 0 (.bar launch level inst b.bar.phase (u.levelHere l b) b.bar.gather))) ∧
  (∀ (s u : State) (launch level inst : Nat) (g : Stamp) (m : FabIn), u = s.unfocus →
    u.inbox.find? (fun m => m.body == .barDone launch level inst (u.lvlOf launch level inst).bar.phase g) = some m →
    Happens (.lbarMemberComplete launch level inst g) s
      ((({ u with inbox := u.inbox.erase m } : State).toPort m.src m.req none .ack).farComplete launch level inst g))

/-- 20 R330, R331, R341 to R343: the coordinator evicts a silent member, the remaining member of lowest index a silent bridge; a change
begins, each member is ready when nothing of it is outstanding, and the switch comes when all are. 20 R340, R341: the admission's steps in
order, on the bridge member. A chain, signature or message code that does not hold ends it with AUTHFAIL, a measurement that the
allow-list lacks with MEASFAIL; what each request and response holds is an input (log 30). The model's own choices in this statement are
log entries 28, 29, 30, 50 and 120. -/
def Obligations.Membership : Prop :=
  (∀ (s u : State) (i : Nat), u = s.unfocus → u.coordinates = true → u.silentOk i = true →
    u.peers.any (fun p => p.idx == i && decide (p.seen + 16 * u.beaconTicks ≤ u.now)) = true →
    Happens (.beaconSilenceEvict i) s (u.evictMember i)) ∧
  (∀ (s u : State), u = s.unfocus → u.bridge = false → u.silentOk 0 = true →
    u.peers.any (fun p => p.idx == 0 && decide (p.seen + 16 * u.beaconTicks ≤ u.now)) = true →
    (u.members.filter (· != 0)).head? = some u.pkgIdx → Happens .bridgeSilenceTakeover s (u.evictMember 0)) ∧
  (∀ (s u t v w : State) (gen : Nat) (set : NewSet) (c : Change), u = s.unfocus → u.change.all (fun c => c.gen == gen) = true →
    w = (set.lost.filter (fun i => v.peers.any (·.idx == i))).foldl State.dropMember v →
    c = ⟨gen, sortNat set.members, [], false, set.lost, (w.change.map (·.since)).getD w.now, false⟩ →
    t = (({ w with change := some c, reqs := w.reqs.filter (fun r => !r.body.ofChange) } : State).takeKeys gen set.keys).handBack c →
    (u.joining = true → v = u → Happens (.membershipBegin gen set) s t) ∧
    (u.joining = false → gen = u.domGen + 1 → u.accept set.sealing = (true, v) → Happens (.membershipBegin gen set) s t)) ∧
  (∀ (s u t : State) (gen : Nat) (set : NewSet), u = s.unfocus → u.change.all (fun c => c.gen == gen) = true → u.joining = false →
    gen = u.domGen + 1 → u.accept set.sealing = (false, t) → Happens (.membershipBegin gen set) s t) ∧
  (∀ (s u t : State) (m : Seal) (i : Nat) (c : Change), u = s.unfocus → u.change = some c → i = m.src →
    (i = u.pkgIdx → c.localReady = false → t = u.handBack c → t.drained = true → t.handedBack c = true → Happens (.membershipReady m) s
      { (if t.coordinates then t else t.demand t.coordinator 0 (.ready c.gen)) with
        change := some { c with localReady := true }, gens := sortNat (c.gen :: t.gens) }) ∧
    (i = u.pkgIdx → c.localReady = false → t = u.handBack c → (t.drained = false ∨ t.handedBack c = false) → Happens (.membershipReady m) s t) ∧
    (i ≠ u.pkgIdx → u.coordinates = true → c.members.contains i = true → c.ready.contains i = false → u.peers.any (·.idx == i) = true →
      (u.accept m = (false, t) → Happens (.membershipReady m) s t) ∧
      (u.accept m = (true, t) → Happens (.membershipReady m) s { t with
        change := some { c with ready := c.ready ++ [i] }
        reqs := t.reqs.filter (fun r => !(r.dst == i && r.body.ofChange)) }))) ∧
  (∀ (s u : State) (c : Change), u = s.unfocus → u.change = some c → c.localReady = true →
    (u.coordinates = true → c.members.all (fun i => i == u.pkgIdx || c.ready.contains i) = true →
      Happens .membershipSwitch s ((u.peers.foldl (fun s p => s.demand p.idx 0 .switch) u).switchTo c)) ∧
    (u.coordinates = false → (u.joining = true ∨ c.called = true) → Happens .membershipSwitch s (u.switchTo c)) ∧
    (u.coordinates = false → u.joining = false → c.called = false → Happens .membershipSwitch s u)) ∧
  (∀ (u : State) (req : Nat) (c : Change), u.change = some c → u.deliver u.coordinator req .switch =
    ({ u with change := some { c with called := true } } : State).toPort u.coordinator req none .ack) ∧
  (∀ (u : State) (dst : Nat) (b : FabBody), u.change ≠ none → b.vc = 0 → b.ofChange = false → handsOver b = false → u.holds dst b = true) ∧
  (∀ (s u : State) (member port i : Nat), u = s.unfocus → u.bridge = true → u.running = true → u.changing = false → u.members.length < 64 →
    (List.range 64).find? (fun i => !u.members.contains i) = some i →
    Happens (.domcmdAdmit member port) s { u.domResult 0 with spdm := ⟨true, port, 0, 0, i, [], member⟩ }) ∧
  (∀ (s u : State) (i p : Nat), u = s.unfocus → u.bridge = true → u.running = true → u.changing = true →
    Happens (.domcmdAdmit i p) s (u.domResult 4) ∧ Happens (.domcmdRemove i) s (u.domResult 4) ∧ Happens (.domcmdEvict i) s (u.domResult 4)) ∧
  (∀ (s u : State) (i : Nat), u = s.unfocus → u.bridge = true → u.running = true → u.changing = false → u.peers.any (·.idx == i) = true →
    (∀ (t : State) (c : Change), t = (u.domResult 0).startChange (u.members.filter (· != i)) [] → t.change = some c →
      Happens (.domcmdRemove i) s (t.handBack c)) ∧
    Happens (.domcmdEvict i) s ((u.domResult 0).evictMember i)) ∧
  (∀ (s u : State) (i : Instr) (n : Nat), u = s.unfocus → u.bridge = true → u.spdm.active = true → u.spdm.step = n →
    (i, n) ∈ [(Instr.getVersion, 0), (.getCapabilities, 1), (.getDigests, 3), (.getCertificate true, 4), (.keyExchange true true, 6), (.keyExchange false true, 6), (.finish true, 7)] →
    Happens i s { u with spdm := { u.spdm with step := n + 1 } }) ∧
  (∀ (s u : State) (l : List Nat), u = s.unfocus → u.bridge = true → u.spdm.active = true → u.spdm.step = 2 → sortNat l = [0, 1, 2, 3, 4] →
    Happens (.negotiateAlgorithms l) s { u with spdm := { u.spdm with step := 3 } }) ∧
  (∀ (s u : State) (idx off : Nat), u = s.unfocus → u.bridge = true → u.spdm.active = true → u.spdm.step = 8 →
    Happens (.vendorDefinedRequest idx off) s (({ u with spdm := { u.spdm with step := 9 } } : State).toPort u.spdm.idx 0 none
      (.vendor u.spdm.idx off (keysFor (u.domGen + 1) u.spdm.idx (sortNat (u.spdm.idx :: u.members)))))) ∧
  (∀ (s u : State), u = s.unfocus → u.bridge = false → u.peers = [] →
    Happens .getVersion s { u with spdm := ⟨true, 0, 1, 0, 0, [4], 0⟩ }) ∧
  (∀ (s u : State) (ds : List (BitVec 384)), u = s.unfocus → u.bridge = true → u.spdm.active = true → u.spdm.step = 5 →
    (ds.all u.allowList.contains = true → Happens (.getMeasurements ds true) s { u with spdm := { u.spdm with step := 6 } }) ∧
    (ds.all u.allowList.contains = false → Happens (.getMeasurements ds true) s (u.spdmFail 2)) ∧
    Happens (.getMeasurements ds false) s (u.spdmFail 1)) ∧
  (∀ (s u : State) (i : Instr) (n : Nat), u = s.unfocus → u.bridge = true → u.spdm.active = true → u.spdm.step = n →
    (i, n) ∈ [(Instr.getCertificate false, 4), (.keyExchange true false, 6), (.keyExchange false false, 6),
      (.finish false, 7)] →
    Happens i s (u.spdmFail 1)) ∧
  (∀ (s u : State) (idx off : Nat), u = s.unfocus → u.bridge = false → u.spdm.active = true → u.spdm.step = 8 →
    Happens (.vendorDefinedRequest idx off) s { u.spdmStep 8 0x7E with spdm := { (u.spdmStep 8 0x7E).spdm with idx := idx }, now := u.now + off }) ∧
  (∀ (s u t : State), u = s.unfocus → u.bridge = true → u.spdm.active = true → u.spdm.step = 9 →
    t = (u.spdmStep 9 0x6C).startChange (u.spdm.idx :: u.members) [] → Happens .endSession s { t with spdm := { t.spdm with active := false } }) ∧
  (∀ (s u : State) (code : Nat), u = s.unfocus → Happens (.spdmUnsupportedRequest code) s
    { u with spdm := { u.spdm with answer := [0x7F, 0x07, BitVec.ofNat 8 code] } }) ∧
  (∀ u : State, u.bridge = true → (u.spdmFail 1).spdm.active = false ∧ (u.spdmFail 1).csr 0 0x8240 = 16 ∧ (u.spdmFail 2).csr 0 0x8240 = 32)

/-! ### The host, repair and reset (20, 22, 24) -/

/-- 20 R335 to R339: the host's words and bytes. A window word of this member, or an access that names no member, which sets HOSTERR and
reads as ones; an aperture's write is one publication event, or a merge of manual lines; its read collapses epochs first.
The model's own choices in this statement are log entries 81, 82 and 121. -/
def Obligations.HostAccesses : Prop :=
  (∀ (s u : State) (off : Nat), u = s.unfocus → u.heldReset = false → off < 0x80000 → off % 4 = 0 → u.pkgIdx < 64 → u.bridge = true →
    Happens (.hostWindowAccess u.pkgIdx off none) s (u.toHost (bytesLE 4 (u.windowRead off).toNat)) ∧
    ∀ v, Happens (.hostWindowAccess u.pkgIdx off (some v)) s (u.windowWrite off v)) ∧
  (∀ (s u : State) (m off : Nat), u = s.unfocus → u.heldReset = false → off < 0x80000 → off % 4 = 0 → m < 64 → m ≠ u.pkgIdx → u.bridge = true →
    (u.peers.any (·.idx == m) = true →
      (∀ w, w = none ∨ isQtail off = false → Happens (.hostWindowAccess m off w) s (u.demand m 0 (.window off w Stamp.zero))) ∧
      (∀ v, isQtail off = true → Happens (.hostWindowAccess m off (some v)) s
        ((u.takeStamp 0 255).2.demand m 0 (.window off (some v) (u.takeStamp 0 255).1)))) ∧
    (u.peers.any (·.idx == m) = false →
      Happens (.hostWindowAccess m off none) s { u with hostErr := true, hostReads := u.hostReads ++ [[0xFF, 0xFF, 0xFF, 0xFF]] } ∧
      ∀ v, Happens (.hostWindowAccess m off (some v)) s { u with hostErr := true })) ∧
  (∀ (s u : State) (off : Nat) (m : FabIn) (wr : Option W) (st : Stamp), u = s.unfocus → u.heldReset = false → off < 0x80000 → off % 4 = 0 →
    u.pkgIdx < 64 → u.bridge = false → m.body = .window off wr st →
    u.inbox.find? (fun m => match m.body with | .window o w _ => u.pkgIdx == u.pkgIdx && o == off && w == wr | _ => false) = some m →
    (∀ v, wr = some v → Happens (.hostWindowAccess u.pkgIdx off wr) s
      ((({ u with inbox := u.inbox.erase m } : State).windowWrite off v (some st)).toPort m.src m.req none .ack)) ∧
    (wr = none → Happens (.hostWindowAccess u.pkgIdx off wr) s
      (({ u with inbox := u.inbox.erase m } : State).toPort m.src m.req none (.windowData (({ u with inbox := u.inbox.erase m } : State).windowRead off))))) ∧
  (∀ (s u : State) (ap off w : Nat) (b : List Byte), u = s.unfocus → u.heldReset = false → u.bridge = true → ap < 64 → off + b.length ≤ 2 ^ 32 →
    b.length ≤ 512 →
    (u.aperture ap = none → Happens (.hostApertureWrite ap off b) s { u with hostErr := true }) ∧
    (∀ p : Option Stamp × State, u.aperture ap = some w → bit w 30 = false → p = u.hostPre ((byLine (apKey w off) b).map (·.1)) →
      Happens (.hostApertureWrite ap off b) s ((byLine (apKey w off) b).foldl
        (fun s l => s.send l.1 (p.2.takeStamp 0 255).1 l.2 false 0x8000 none none none p.1) (p.2.takeStamp 0 255).2)) ∧
    (u.aperture ap = some w → bit w 30 = true → Happens (.hostApertureWrite ap off b) s
      ((byLine (apKey w off) b).foldl (fun s l =>
        if homePkg l.1 = s.pkgIdx then s.mergeHome l.1 l.2 else s.send l.1 Stamp.zero l.2 true 0x8000 none none none) u))) ∧
  (∀ (s u t : State) (ap off len w : Nat), u = s.unfocus → u.heldReset = false → u.bridge = true → ap < 64 → len ≤ 4096 → off + len ≤ 2 ^ 32 →
    (u.aperture ap = none → Happens (.hostApertureRead ap off len) s
      { u with hostErr := true, hostReads := u.hostReads ++ [List.replicate len 0xFF] }) ∧
    (u.aperture ap = some w → bits w 13 8 ≠ u.pkgIdx → Happens (.hostApertureRead ap off len) s
      (u.demand (bits w 13 8) 0 (.aperture (bit w 30) (bits w 7 0 * 2 ^ 32 + off) len))) ∧
    (∀ m : FabIn, u.aperture ap = some w → bits w 13 8 = u.pkgIdx → m = ⟨u.pkgIdx, u.nextId, .aperture (bit w 30) (bits w 7 0 * 2 ^ 32 + off) len⟩ →
      t = { u with inbox := u.inbox ++ [m], nextId := u.nextId + 1 } →
      Happens (.hostApertureRead ap off len) s (t.apertureDue m (bit w 30) (bits w 7 0 * 2 ^ 32 + off) len))) ∧
  (∀ (t : State) (m : FabIn) (manual : Bool) (pa len : Nat) (lines : List Nat),
    lines = (if manual then [] else (sortNat ((List.range len).map (fun i => lineOf (memKey t.pkgIdx pa + i)))).filter (fun l => (t.epoch l).isSome)) →
    (lines ≠ [] → t.apertureDue m manual pa len = lines.foldl (fun s l => s.arrive l (.collapse 255)) t) ∧
    (lines = [] → m.src = t.pkgIdx →
      t.apertureDue m manual pa len = ({ t with inbox := t.inbox.erase m } : State).toHost (t.bytesAt none (memKey t.pkgIdx pa) len)) ∧
    (lines = [] → m.src ≠ t.pkgIdx → t.apertureDue m manual pa len =
      ({ t with inbox := t.inbox.erase m } : State).toPort m.src m.req none (.apertureData (t.bytesAt none (memKey t.pkgIdx pa) len)))) ∧
  (∀ s : State, Happens .hostUnsupportedRequest s { s.unfocus with hostUr := s.unfocus.hostUr + 1 })

/-- 12 R262, 22 R352 to R357: counts clear with their window, scrubbing reads a granule again; a marked unit that may go is replaced by a
spare of its kind, with its begun and done records and a repair entry; with no spare left a record says so.
The model's own choices in this statement are log entries 31, 35, 79 and 117. -/
def Obligations.Repairs : Prop :=
  (∀ (s u : State) (n : Nat) (r : UnitRec), u = s.unfocus → u.units[n]? = some r → r.since + (u.csr 0 0x8307).toNat * 3600000000000 ≤ u.now →
    Happens (.errorWindowExpire n) s (u.setUnit { r with corrected := 0, transient := 0, since := u.now })) ∧
  (∀ (s u : State) (a g : Nat) (again : Bool), u = s.unfocus → g = memKey u.pkgIdx (a % 2 ^ 40) / 32 →
    (u.pubs.any (·.line == g / 4) = true → Happens (.scrubbing a again) s (u.granError g .home (u.newest (g / 4)) again)) ∧
    (u.pubs.any (·.line == g / 4) = false → Happens (.scrubbing a again) s (u.granError g .home Stamp.zero again))) ∧
  (∀ (s u t v : State) (die cl n p place : Nat) (r : UnitRec) (rs : List UnitRec), u = s.unfocus → n = 32 * die + cl → place = u.clusterUnit n →
    die < 4 → cl < 32 → u.withdrawn.contains n = false → u.inUse n = false →
    u.units.filter (fun x => decide (x.cls ≤ 3) && x.place == place && (x.worn || x.failed)) = r :: rs →
    [32, 33].find? (fun p => !u.repair.any (fun r => r.cls == 2 && r.die == die && r.spare == p)) = some p →
    (((List.range 4).map (4 * n + ·)).all u.cacheEmpty = false →
      Happens (.clusterRetire die cl) s (((List.range 4).map (4 * n + ·)).foldl State.emptyCache u)) ∧
    (((List.range 4).map (4 * n + ·)).all u.cacheEmpty = true →
    t = u.unitRecord 8 0x8000 r.cls place 0 none →
    v = ({ t with clusterMap := ins t.clusterMap n p, repair := t.repair ++ [⟨2, die, cl, p⟩] } : State).unitRecord 9 0x8000 r.cls place 0 none →
    Happens (.clusterRetire die cl) s ([1, 2, 3].foldl (fun s c => s.renewUnit c place) v).recountSpares)) ∧
  (∀ (s u t : State) (die cl n place : Nat) (r : UnitRec) (rs : List UnitRec), u = s.unfocus → n = 32 * die + cl → place = u.clusterUnit n →
    die < 4 → cl < 32 → u.withdrawn.contains n = false → u.inUse n = false →
    u.units.filter (fun x => decide (x.cls ≤ 3) && x.place == place && (x.worn || x.failed)) = r :: rs →
    [32, 33].find? (fun p => !u.repair.any (fun r => r.cls == 2 && r.die == die && r.spare == p)) = none →
    t = u.unitRecord 10 0x8000 r.cls place 0 none →
    Happens (.clusterRetire die cl) s (if (r :: rs).any (·.failed) then
        { t with withdrawn := t.withdrawn ++ [n], repair := t.repair ++ [⟨2, die, cl, 2 ^ 23⟩] }
      else [1, 2, 3].foldl (fun s c => s.renewUnit c place) t)) ∧
  (∀ (s u : State) (die bucket p place : Nat), u = s.unfocus → die < 4 → bucket < 64 → place = 128 * die + nth 0 (nth [] u.sliceMap die) bucket →
    u.migrating.find? (fun m => m.1 == die && m.2.1 == bucket) = none → u.unitBad 4 place = true →
    [64, 65, 66, 67].find? (fun p => !(u.repair.any (fun r => r.cls == 4 && r.die == die && r.spare == p) ||
      u.migrating.any (fun m => m.1 == die && m.2.2.1 == p))) = some p →
    Happens (.sliceRetire die bucket) s (({ u with migrating := u.migrating ++ [(die, bucket, p, 0)] } : State).unitRecord 8 0x8000 4 place 0 none)) ∧
  (∀ (s u : State) (die bucket p n k : Nat), u = s.unfocus → die < 4 → bucket < 64 →
    u.migrating.find? (fun m => m.1 == die && m.2.1 == bucket) = some (die, bucket, p, n) →
    argMin id ((u.busySets die bucket).filter (fun k => decide (n ≤ k))) = some k →
    Happens (.sliceRetire die bucket) s
      { u with migrating := modAll (fun m => m.1 == die && m.2.1 == bucket) (fun _ => (die, bucket, p, k)) u.migrating }) ∧
  (∀ (s u : State) (die bucket p place n : Nat), u = s.unfocus → die < 4 → bucket < 64 → place = 128 * die + nth 0 (nth [] u.sliceMap die) bucket →
    u.migrating.find? (fun m => m.1 == die && m.2.1 == bucket) = some (die, bucket, p, n) → (∀ k ∈ u.busySets die bucket, k < n) →
    Happens (.sliceRetire die bucket) s
      (((({ u with
        sliceMap := u.sliceMap.set die ((nth [] u.sliceMap die).set bucket p)
        migrating := u.migrating.filter (fun k => !(k.1 == die && k.2.1 == bucket))
        repair := u.repair ++ [⟨4, die, bucket, p⟩] } : State).unitRecord 9 0x8000 4 place 0 none).renewUnit 4 place).recountSpares)) ∧
  (∀ (s u : State) (die stack row place used : Nat), u = s.unfocus → die < 4 → stack < 4 → row < 2 ^ 23 →
    place = (4 * die + stack) * 2 ^ 23 + row → u.unitBad 5 place = true →
    used = u.rowsReplaced die stack (Config.rowChannel row) →
    Happens (.hbmRowRepair die stack row) s
      (if 2048 ≤ used then u.noSpare 5 place else (u.repaired 5 place ⟨5, die, stack * 2 ^ 23 + row, used⟩).recountSpares)) ∧
  (∀ (s u t : State) (die stack ch place : Nat), u = s.unfocus → die < 4 → stack < 4 → ch < 2 ^ 23 →
    place = (4 * die + stack) * 2 ^ 23 + ch →
    (u.unitBad 6 place = true ∨ 3 ≤ u.rowsReplaced die stack ch + (u.units.filter (fun x => x.cls == 5 && x.failed && x.place / 2 ^ 23 == 4 * die + stack &&
      Config.rowChannel (x.place % 2 ^ 23) == ch)).length) →
    u.repair.any (fun r => r.cls == 6 && r.die == die && r.place / 2 ^ 23 == stack) = false →
    t = (u.repaired 6 place ⟨6, die, stack * 2 ^ 23 + ch, 0⟩).recountSpares →
    Happens (.hbmChannelRepair die stack ch) s
      { t with units := t.units.filter (fun u => !(u.cls == 5 && (u.place / 2 ^ 23 == 4 * die + stack && Config.rowChannel (u.place % 2 ^ 23) == ch))) }) ∧
  (∀ (s u : State) (port lane : Nat), u = s.unfocus → (port < 18 → lane < 5 → Happens (.linkLaneSpare false port lane) s (u.loseLane port lane)) ∧
    (port < 6 → lane < 66 → Happens (.linkLaneSpare true port lane) s (u.losePair port lane)))

/-- 24 R367 to R371: a cold reset sets everything but the fuses' and the persistent store's contents and leads to the wait for an image,
or to the failure's code; a load verifies an image's copy and starts the runtime, or says which check failed; a die at 110 °C holds the
package in reset until every die is below 85 °C.
The model's own choices in this statement are log entries 11, 32, 76, 77 and 78. -/
def Obligations.Resets : Prop :=
  (∀ (s : State) (tr fu : Bool), Happens (.powerOn tr fu) s (s.coldReset tr fu) ∧ Happens (.fwcmdColdReset tr fu) s (s.coldReset tr fu) ∧
    (s.bridge = true → Happens (.pcieFundamentalReset tr fu) s (s.coldReset tr fu))) ∧
  (∀ (s : State), s.wornBonds = [] → s.repair = [] → s.heldReset = false →
    (s.coldReset true true).mem = [] ∧ (s.coldReset true true).squads = [] ∧ (s.coldReset true true).now = 0 ∧
    (s.coldReset true true).csr 0 0x8500 = 1 ∧ (s.coldReset true true).csr 0 0x8505 = 0 ∧ (s.coldReset true true).csr 0 0x8506 = s.csr 0 0x8506 ∧
    (s.coldReset false true).csr 0 0x8500 = 7 ∧ (s.coldReset false true).csr 0 0x8505 = 7 ∧
    (s.coldReset true false).csr 0 0x8500 = 7 ∧ (s.coldReset true false).csr 0 0x8505 = 8) ∧
  (∀ (s : State), Happens .fwcmdWarmReset s s.unfocus.warmReset ∧ Happens .fwcmdLoad s s.unfocus.fwLoad) ∧
  (∀ (u : State), u.heldReset = false →
    (∀ n ∈ [0x8502, 0x8503, 0x8504, 0x8505, 0x8507], u.warmReset.csr 0 n = csrReset n) ∧
    u.warmReset.csr 0 0x8500 = (if u.csr 0 0x8500 = 3 then 3 else 0) ∧
    u.warmReset.squads = u.squads ∧ u.warmReset.mem = u.mem) ∧
  (∀ (u : State), u.heldReset = false →
    (u.csr 0 0x8500 = 1 → u.fwLoad.csr 0 0x8500 = 2 ∧ u.fwLoad.fwCopy = some (u.csr2 0 0x8502, (u.csr 0 0x8504).toNat, [])) ∧
    ((u.csr 0 0x8500 = 2 ∨ u.csr 0 0x8500 = 3) → u.fwLoad = u.setCsr 0 0x8505 6)) ∧
  (∀ (u : State) (base len n : Nat) (got m : List Byte) (f : Nat → Nat), u.fwCopy = some (base, len, got) →
    f = (fun i => (Config.freeWord (u.free + i)).toNat) → m = got ++ u.phys (base + got.length) (min n (len - got.length)) →
    (m.length < len → u.fwStep n = { u with fwCopy := some (base, len, m) }) ∧
    (len ≤ m.length → ∀ r, fwVerify m (u.csr 0 0x8506).toNat (f 0 % 9, 1 + f 1 % 16) = .error r →
      u.fwStep n = { ({ u with free := u.free + 2 } : State).mgc 1 r with fwCopy := none }) ∧
    (len ≤ m.length → ∀ k w g, fwVerify m (u.csr 0 0x8506).toNat (f 0 % 9, 1 + f 1 % 16) = .ok (k, w, g) →
      u.fwStep n = ({ u with free := u.free + 2 } : State).startRuntime m k w g ∧ (u.fwStep n).csr 0 0x8500 = 3 ∧ (u.fwStep n).image = m ∧
      (u.fwStep n).aliasKey = ed448Public (Config.aliasSeed identitySeed (shake512 (manifest m))) ∧
      (u.fwStep n).aliasCert = ed448Sign identitySeed (Config.aliasBody (u.fwStep n).aliasKey))) ∧
  (∀ (s u : State) (die temp : Nat) (e : ErrRec), u = s.unfocus → 110 ≤ temp → die < 4 → u.heldReset = false →
    e = { st := u.seenStamp die ((Config.freeWord u.free).toNat % 256), ctx := 0x8000, kind := 2, unit_ := 10, place := unitWhere 10 die, addr := 0, detail := temp } →
    Happens (.thermalTrip die temp) s ({ u with free := u.free + 1, thermal := u.thermal ++ [e], heldReset := true } : State).cold ∧
    (({ u with free := u.free + 1, thermal := u.thermal ++ [e], heldReset := true } : State).cold).heldReset = true) ∧
  (∀ (s u : State) (t : List Nat), u = s.unfocus → u.heldReset = true → t.length = 4 → (∀ x ∈ t, x < 85) →
    Happens (.thermalRelease t) s (({ u with heldReset := false } : State).coldResetFree.setCsr 0 0x8507 (w32 (natLE (t.map (BitVec.ofNat 8))))))

/-! ### Frames -/

/-- 02 R35, 04 R79 to R88: what the uniform register instructions leave alone. Every instruction named writes its s[d], or its pair under
a 64-bit type, or scc, or mask d, and nothing else of the package but the PC, an open block's position and the account of the issue. -/
def Obligations.ScalarFrames : Prop :=
  (∀ i ∈ [(Instr.sadd, 0x000), (.ssub, 0x001), (.smul, 0x002), (.smulh, 0x003), (.sand, 0x004), (.sor, 0x005), (.sxor, 0x006), (.snot, 0x007),
      (.sshl, 0x008), (.sshr, 0x009), (.ssra, 0x00A), (.smov, 0x00E), (.spopc, 0x013), (.sclz, 0x014), (.kpopc, 0x046), (.kfirst, 0x047)],
    ∀ (w : Short) (s : State), Leaves (i.1 w) s (s.formShort true i.2 w) (fun r u => r.OnlyS u (fun n => n = w.d.toNat))) ∧
  (∀ i ∈ [(Instr.saddLit, 0x018), (.smulLit, 0x019), (.sandLit, 0x01A), (.sorLit, 0x01B), (.sxorLit, 0x01C), (.sshlLit, 0x01D),
      (.sshrLit, 0x01E), (.ssraLit, 0x01F), (.smovi, 0x00F)],
    ∀ (w : Lit) (s : State), Leaves (i.1 w) s (s.formLit true i.2 w) (fun r u => r.OnlyS u (fun n => n = w.d.toNat))) ∧
  (∀ i ∈ [(Instr.ssel, 0x00D), (.sbfx, 0x011), (.sbfi, 0x012)],
    ∀ (w : Long) (s : State), Leaves (i.1 w) s (s.formLong true i.2 w) (fun r u => r.OnlyS u (fun n => n = w.d.toNat))) ∧
  (∀ i ∈ [(Instr.smin, 0x00B), (.smax, 0x00C), (.slea, 0x015)],
    ∀ (w : Long) (s : State), Leaves (i.1 w) s (s.formLong true i.2 w) (fun r u => r.OnlyS u (fun n => n = w.d.toNat ∨
      (i.2 = 0x015 ∨ is64 (xType w.x) = true) ∧ n = w.d.toNat + 1))) ∧
  (∀ (w : Long) (s : State), Leaves (.scmp w) s (s.formLong true 0x010 w) (fun r u => r.OnlyScc u)) ∧
  (∀ i ∈ [(Instr.kand, 0x040), (.kor, 0x041), (.kxor, 0x042), (.knot, 0x043)],
    ∀ (w : Short) (s : State), Leaves (i.1 w) s (s.formShort true i.2 w) (fun r u => r.OnlyK u w.d.toNat)) ∧
  (∀ (w : Lit) (s : State), Leaves (.kset w) s (s.formLit true 0x045 w) (fun r u => r.OnlyK u w.d.toNat)) ∧
  (∀ (w : Short) (s : State), w.b = 0 → Leaves (.kmovKFromK w) s (s.formShort true 0x044 w) (fun r u => r.OnlyK u w.d.toNat)) ∧
  (∀ (w : Short) (s : State), w.b = 1 → Leaves (.kmovKFromS w) s (s.formShort true 0x044 w) (fun r u => r.OnlyK u w.d.toNat)) ∧
  (∀ (w : Short) (s : State), w.b = 2 → Leaves (.kmovSFromK w) s (s.formShort true 0x044 w) (fun r u => r.OnlyS u (fun n => n = w.d.toNat)))

/-- 02 R39, R40, 05 R100: what the lane instructions leave alone: all but v[d] (its pair under a 64-bit result) in the lanes of the lane
set, or mask d, and the flags, of which none is lost. -/
def Obligations.LaneFrames : Prop :=
  (∀ i ∈ [(Instr.vadd, 0x001), (.vsub, 0x002), (.vmul, 0x004), (.vmulh, 0x005), (.vabs, 0x007), (.vperm, 0x00F), (.vshl, 0x010), (.vshr, 0x011),
      (.vsra, 0x012), (.vmin, 0x013), (.vmax, 0x014), (.vsel, 0x015)],
    ∀ (w : Long) (s : State), Leaves (i.1 w) s (s.formLong false i.2 w) (fun r u => r.OnlyV u (fun n => n = w.d.toNat ∨
      is64 (xType w.x) = true ∧ n = w.d.toNat + 1))) ∧
  (∀ i ∈ [(Instr.vbfx, 0x017), (.vbfi, 0x018), (.fadd, 0x040), (.fsub, 0x041), (.fmul, 0x042), (.ffma, 0x043), (.fmin, 0x044), (.fmax, 0x045),
      (.fclass, 0x047), (.frnd, 0x048)],
    ∀ (w : Long) (s : State), Leaves (i.1 w) s (s.formLong false i.2 w) (fun r u => r.OnlyV u (fun n => n = w.d.toNat))) ∧
  (∀ i ∈ [(Instr.vaddLit, 0x020), (.vsubLit, 0x021), (.vmulLit, 0x022), (.vandLit, 0x023), (.vorLit, 0x024), (.vxorLit, 0x025), (.vshlLit, 0x026),
      (.vshrLit, 0x027), (.vsraLit, 0x028), (.vminLit, 0x029), (.vmaxLit, 0x02A), (.faddLit, 0x050), (.fsubLit, 0x051), (.fmulLit, 0x052),
      (.fminLit, 0x053), (.fmaxLit, 0x054)],
    ∀ (w : Lit) (s : State), Leaves (i.1 w) s (s.formLit false i.2 w) (fun r u => r.OnlyV u (fun n => n = w.d.toNat))) ∧
  (∀ i ∈ [(Instr.vand, 0x008), (.vor, 0x009), (.vxor, 0x00A), (.vnot, 0x00B), (.vpopc, 0x00C), (.vclz, 0x00D), (.vbrev, 0x00E)],
    ∀ (w : Short) (s : State), Leaves (i.1 w) s (s.formShort false i.2 w) (fun r u => r.OnlyV u (fun n => n = w.d.toNat))) ∧
  (∀ (w : Long) (s : State), Leaves (.vcmp w) s (s.formLong false 0x016 w) (fun r u => r.OnlyK u w.d.toNat)) ∧
  (∀ (w : Long) (s : State), Leaves (.fcmp w) s (s.formLong false 0x046 w) (fun r u => r.Same u ∧ (∀ m, m ≠ w.d.toNat → u.sq.k m = r.sq.k m) ∧
    u.sq.vregs = r.sq.vregs ∧ u.sq.sregs = r.sq.sregs ∧ u.sq.scc = r.sq.scc ∧ r.sq.flags &&& u.sq.flags = r.sq.flags))

/-- 07 R136 to R139, 11 R222: what stores and loads leave alone. st, outside a transaction and where the CU holds none of the lines
update-only, changes no landed byte and no scratch byte, and of its own pending bytes only those at the keys that its lanes' addresses
translate to, apart from the lines that leave its L1 to make ways for its own (12 R241), none where ways are free. sts changes no global
byte and of the scratch bytes only those at the keys of its lanes' addresses. ld changes no vector register but its destination, and the
rest only as the lines that come to its CU do (12 R250); lds changes its destination alone.
The model's own choices in this statement are log entries 14 and 20. -/
def Obligations.StoreFrames : Prop :=
  (∀ (w : Long) (s r v : State), s.Goes (s.formLong false 0x121 w) → r = s.atIssue (s.formLong false 0x121 w) → r.inTx = false →
    r.check .st (wBytes (acW w.c)) (r.plainAccs w) = .ok → r.ownA (r.accLines (r.plainAccs w)) = [] →
    (r.canPend r.sq.cache (r.newOf w) = true ∨ r.setsClear (r.newOf w) = true) → v = State.makeWays r.sq.cache [] (r.newOf w) r →
    ∃ u : State, exec (.st w) s = .next u.sampled ∧ v.Same u ∧ u.sq.book v.sq = { v.sq with pending := u.sq.pending } ∧
      (∀ k, (∀ a ∈ r.plainAccs w, ∀ b ∈ a.bytes, k ≠ v.keyNow b) → u.sq.pendByte k = v.sq.pendByte k)) ∧
  (∀ (r : State) (cache : Nat) (new : List Nat), (∀ l ∈ new, r.occupied cache (setOf l) + new.length ≤ r.ways cache) →
    State.makeWays cache [] new r = r) ∧
  (∀ (w : Long) (s r : State), s.Goes (s.formLong false 0x123 w) → r = s.atIssue (s.formLong false 0x123 w) →
    r.checkPlace (wBytes (acW w.c)) true (r.ldsAccs w) = none →
    r.Landed ((r.ldsAccs w).flatMap (fun a => (List.range a.n).map (fun i => (0, (r.aim a).1 + i, (r.aim a).2 + i)))) → canon 0 r.scratch = true →
    ∃ u : State, exec (.sts w) s = .next u.sampled ∧ (∀ v k, u.byteAt v k = r.byteAt v k) ∧ u.sq.book r.sq = r.sq ∧
      ({ u with sq := r.sq, samplers := r.samplers, scratch := r.scratch, poison := r.poison } : State) = r ∧
      (∀ k, (∀ a ∈ r.ldsAccs w, k < (r.aim a).2 ∨ (r.aim a).2 + a.n ≤ k) → u.scrByte k = r.scrByte k)) ∧
  (∀ (w : Long) (s r : State), s.Goes (s.formLong false 0x120 w) → r = s.atIssue (s.formLong false 0x120 w) →
    (r.inTx && r.sq.doomed.isSome) = false → r.check .ld (wBytes (acW w.c)) (r.plainAccs w) = .ok →
    r.lacking .read (r.accLines (r.plainAccs w)) = none → r.forcedLines (r.plainAccs w) = [] →
    r.farLack r.sq.cache (r.clNow / 32) (r.readsOf ((r.plainAccs w).flatMap Acc.bytes)) = none →
    ∃ p v u : State, exec (.ld w) s = .next u.sampled ∧ r.OnlyV p (fun n => w.d.toNat ≤ n ∧ n < w.d.toNat + wRegs (acW w.c)) ∧
      v = p.fillAccs (r.plainAccs w) ∧ v.Same u ∧ u.sq.book v.sq = v.sq) ∧
  (∀ (w : Long) (s r : State) (l : List (Nat × Nat × Nat)), s.Goes (s.formLong false 0x122 w) → r = s.atIssue (s.formLong false 0x122 w) →
    (r.inTx && r.sq.doomed.isSome) = false → r.checkPlace (wBytes (acW w.c)) false (r.ldsAccs w) = none →
    l = spanKeys (wBytes (acW w.c)) ((r.ldsAccs w).map (fun a => (a.lane, r.aim a))) → r.Landed l → r.Sound l →
    ∃ u : State, exec (.lds w) s = .next u.sampled ∧ r.OnlyV u (fun n => w.d.toNat ≤ n ∧ n < w.d.toNat + wRegs (acW w.c)))
end

