-- ==== Sys2Proof/Laws/Issue.lean ====
section
/-! SUPPORT. What issuing an instruction does, said once (Machine/Issue.lean). -/

namespace Sys2Proof.Machine

/-- An issue leaves the run state of the squad, the MCC and the focus to what follows. -/
theorem State.sampleIssue_kept (s : State) (c : Cur) (b : Bool) (n : Nat) (m : Mask) :
    (s.sampleIssue c b n m).sq = s.sq ∧ (s.sampleIssue c b n m).mcc = s.mcc ∧ (s.sampleIssue c b n m).focus = s.focus := by
  unfold State.sampleIssue
  simp only [State.setSampler]
  repeat' split
  all_goals simp

/-- Neither what an issue keeps for the replay queue nor the flags that it raises touch the parts that are left. -/
@[simp] theorem Squad.lateAdd_todo (q : Squad) (n : Nat) (c : Cur) (m : Mask) (r : Option (List Nat)) : (Squad.lateAdd n c m r q).todo = q.todo := by
  cases r <;> rfl
@[simp] theorem Squad.orFlags_todo (q : Squad) (f : W) : (Squad.orFlags f q).todo = q.todo := by
  unfold Squad.orFlags
  repeat' split
  all_goals rfl

theorem State.started_todoNow (s : State) (f : Form) : (s.started f).todoNow = s.todoNow := by
  unfold State.started
  cases h : s.isM with
  | true =>
    simp only [if_pos]
    simp only [State.todoNow, State.modMcc, State.isM] at *
    simp [h]
  | false =>
    simp only [Bool.false_eq_true, if_false]
    generalize hx : s.sampleIssue _ _ _ _ = x
    have k : x.sq = s.sq ∧ x.mcc = s.mcc ∧ x.focus = s.focus := hx ▸ s.sampleIssue_kept _ _ _ _
    simp only [State.todoNow, State.modSq, State.isM] at *
    simp [k.1, k.2.2, h]

/-- Nothing is left of an earlier instruction when one acts. -/
theorem State.Goes.todo {s : State} {f : Form} (h : s.Goes f) : (s.atIssue f).todoNow = [] := by
  rw [State.atIssue, State.started_todoNow]; exact h.rest

@[simp] theorem State.setTurn_todoNow (s : State) (n : Nat) : (s.setTurn n).todoNow = s.todoNow := rfl

@[simp] theorem State.advance_todoNow (s : State) (n : Nat) : (s.advance n).todoNow = s.todoNow := by
  unfold State.advance
  cases h : s.isM <;> simp [State.todoNow, State.modMcc, State.modSq, State.isM] at *

@[simp] theorem State.moved_todoNow (s : State) (n : Nat) (u : State) : (s.moved n u).todoNow = u.todoNow := by
  simp [State.moved]

/-- With no part left the instruction is over. -/
theorem State.runTodo_nil {s : State} (h : s.todoNow = []) : s.runTodo = s.complete := by
  rw [State.runTodo, h]; rfl

/-- An instruction that issues hands its effect's answer to the end of the issue. -/
theorem State.issue_goes {s : State} {f : Form} (h : s.Goes f) (body : State → Res) :
    s.issue f body = finishIssue f.len s.sq.sp.num (s.ready f) ⟨s.pcNow, f.w0, f.w1⟩ (body (s.atIssue f)) := by
  unfold State.issue
  rw [if_neg h.focus]
  simp only [h.legal, h.mode, h.clean, h.free, h.queue]
  have : (!f.uni && s.lanes == 0) = false := by
    rcases h.lanes with h | h
    · simp [h]
    · have : s.lanes ≠ 0#32 := h
      simp [this]
  simp only [this, Bool.false_eq_true, if_false]
  rfl

/-- Its effect is there and no part is left: it moves on and ends. -/
theorem State.issue_done {s : State} {f : Form} (h : s.Goes f) {body : State → Res} {u : State}
    (hb : body (s.atIssue f) = .done u) (hu : u.todoNow = []) : s.issue f body = .next (s.ended f.len u) := by
  rw [State.issue_goes h, hb]
  exact congrArg Host.Outcome.next (State.runTodo_nil (by simpa using hu))

/-- The same of an instruction that set the PC itself. -/
theorem State.issue_jump {s : State} {f : Form} (h : s.Goes f) {body : State → Res} {u : State}
    (hb : body (s.atIssue f) = .jump u) (hu : u.todoNow = []) : s.issue f body = .next (s.endedAt u) := by
  rw [State.issue_goes h, hb]
  exact congrArg Host.Outcome.next (State.runTodo_nil (by simpa using hu))

/-- An instruction with parts left runs them up to the first wait. -/
theorem State.issue_parts {s : State} {f : Form} (h : s.Goes f) {body : State → Res} {u : State}
    (hb : body (s.atIssue f) = .done u) : s.issue f body = .next (s.moved f.len u).runTodo := by
  rw [State.issue_goes h, hb]; rfl

/-- It enters a pipe. -/
theorem State.issue_piped {s : State} {f : Form} (h : s.Goes f) {body : State → Res} {u : State}
    (hb : body (s.atIssue f) = .piped u) : s.issue f body = .next (s.moved f.len u) := by
  rw [State.issue_goes h, hb]; rfl

/-- A fault of its own takes a trap. -/
theorem State.issue_trap {s : State} {f : Form} (h : s.Goes f) {body : State → Res} {t : TrapInfo}
    (hb : body (s.atIssue f) = .trap t) : s.issue f body = .next ((s.ready f).takeTrap t ⟨s.pcNow, f.w0, f.w1⟩) := by
  rw [State.issue_goes h, hb]; rfl

/-! ### Effects that leave no part -/

@[simp] theorem State.setS_todoNow (s : State) (n : Nat) (v : W) : (s.setS n v).todoNow = s.todoNow := by
  unfold State.setS
  cases h : s.isM <;> simp [State.todoNow, State.modMcc, State.modSq, State.isM] at *

@[simp] theorem State.setS2_todoNow (s : State) (n : Nat) (v : D) : (s.setS2 n v).todoNow = s.todoNow := by
  simp [State.setS2]

@[simp] theorem State.putS_todoNow (s : State) (t n v : Nat) : (s.putS t n v).todoNow = s.todoNow := by
  unfold State.putS; split <;> simp

@[simp] theorem State.setScc_todoNow (s : State) (b : Bool) : (s.setScc b).todoNow = s.todoNow := by
  unfold State.setScc
  cases h : s.isM <;> simp [State.todoNow, State.modMcc, State.modSq, State.isM] at *

@[simp] theorem State.setPc_todoNow (s : State) (p : D) : (s.setPc p).todoNow = s.todoNow := by
  unfold State.setPc
  cases h : s.isM <;> simp [State.todoNow, State.modMcc, State.modSq, State.isM] at *

@[simp] theorem State.setFmt_todoNow (s : State) (v : Nat) : (s.setFmt v).todoNow = s.todoNow := by
  unfold State.setFmt
  cases h : s.isM <;> simp [State.todoNow, State.modMcc, State.modSq, State.isM] at *

@[simp] theorem State.setFlags_todoNow (s : State) (v : Nat) : (s.setFlags v).todoNow = s.todoNow := by
  unfold State.setFlags
  cases h : s.isM <;> simp [State.todoNow, State.modMcc, State.modSq, State.isM] at *

@[simp] theorem State.orFlags_todoNow (s : State) (v : Nat) : (s.orFlags v).todoNow = s.todoNow := by
  unfold State.orFlags
  cases h : s.isM <;> simp [State.todoNow, State.modMcc, State.modSq, State.isM] at *

@[simp] theorem State.setKReg_todoNow (s : State) (n : Nat) (v : Mask) : (s.setKReg n v).todoNow = s.todoNow := rfl

/-- A change of the squad in focus that leaves its parts alone. -/
theorem State.modSq_todoNow {s : State} {f : Squad → Squad} (h : (f s.sq).todo = s.sq.todo) : (s.modSq f).todoNow = s.todoNow := by
  unfold State.todoNow State.modSq State.isM
  simp only [h]

@[simp] theorem State.putV_todoNow (s : State) (t d : Nat) (f : Nat → Nat) : (s.putV t d f).todoNow = s.todoNow := by
  unfold State.putV; split <;> rfl

@[simp] theorem State.laneOp_todoNow (s : State) (t d : Nat) (f : Nat → Nat × Nat) : (s.laneOp t d f).todoNow = s.todoNow := by
  simp [State.laneOp]

@[simp] theorem State.laneK_todoNow (s : State) (d : Nat) (f : Nat → Bool × Nat) : (s.laneK d f).todoNow = s.todoNow := by
  simp only [State.laneK, State.orFlags_todoNow]; rfl

@[simp] theorem State.setTodo_todoNow (s : State) (l : List MOp) : (s.setTodo l).todoNow = l := by
  unfold State.setTodo
  cases h : s.isM <;> simp [State.todoNow, State.modMcc, State.modSq, State.isM] at * <;> simp [h]

/-- Parts that pass are the run of the instruction. -/
theorem runList_pass {l : List MOp} {t u : State} (h : passTo l t = some u) : runList l t = u.complete := by
  induction l generalizing t with
  | nil => simp [passTo] at h; subst h; rfl
  | cons m r ih =>
    by_cases hm : m = .reissue
    · subst hm; simp [passTo] at h
    · have e : passTo (m :: r) t = (match runOp m t with | .ok u => passTo r u | _ => none) := by
        cases m <;> first | rfl | exact absurd rfl hm
      have g : runList (m :: r) t = (match runOp m t with
          | .ok s => runList r s
          | .wait w s m => s.block w (m :: r)
          | .more s m => s.stay (m :: r)
          | .redo s => s.sampleBack.rewind.again
          | .trap t s => s.rewind.takeTrap t s.curNow) := by
        cases m <;> first | rfl | exact absurd rfl hm
      rw [e] at h; rw [g]
      cases k : runOp m t <;> simp only [k] at h ⊢
      · exact ih h
      all_goals cases h

/-! ### From a body to its statement -/

/-- A long form runs as its body says. -/
theorem longRuns_intro {i : Long → Instr} {uni : Bool} {op9 : Nat} {ok : Long → State → Prop} {e : Long → State → State}
    (body : Long → State → Res) (hx : ∀ w s, exec (i w) s = s.issueLong uni op9 w (body w))
    (hb : ∀ w r, ok w r → body w r = .done (e w r)) (ht : ∀ w r, (e w r).todoNow = r.todoNow) : LongRuns i uni op9 ok e := by
  intro w s h k
  rw [hx]
  exact State.issue_done h (hb w _ k) (by rw [ht]; exact h.todo)
theorem longJumps_intro {i : Long → Instr} {uni : Bool} {op9 : Nat} {ok : Long → State → Prop} {e : Long → State → State}
    (body : Long → State → Res) (hx : ∀ w s, exec (i w) s = s.issueLong uni op9 w (body w))
    (hb : ∀ w r, ok w r → body w r = .jump (e w r)) (ht : ∀ w r, (e w r).todoNow = r.todoNow) : LongJumps i uni op9 ok e := by
  intro w s h k
  rw [hx]
  exact State.issue_jump h (hb w _ k) (by rw [ht]; exact h.todo)

/-- A short form runs as its body says. -/
theorem shortRuns_intro {i : Short → Instr} {uni : Bool} {op9 : Nat} {ok : Short → State → Prop} {e : Short → State → State}
    (body : Short → State → Res) (hx : ∀ w s, exec (i w) s = s.issueShort uni op9 w (body w))
    (hb : ∀ w r, ok w r → body w r = .done (e w r)) (ht : ∀ w r, (e w r).todoNow = r.todoNow) : ShortRuns i uni op9 ok e := by
  intro w s h k
  rw [hx]
  exact State.issue_done h (hb w _ k) (by rw [ht]; exact h.todo)
theorem shortJumps_intro {i : Short → Instr} {uni : Bool} {op9 : Nat} {ok : Short → State → Prop} {e : Short → State → State}
    (body : Short → State → Res) (hx : ∀ w s, exec (i w) s = s.issueShort uni op9 w (body w))
    (hb : ∀ w r, ok w r → body w r = .jump (e w r)) (ht : ∀ w r, (e w r).todoNow = r.todoNow) : ShortJumps i uni op9 ok e := by
  intro w s h k
  rw [hx]
  exact State.issue_jump h (hb w _ k) (by rw [ht]; exact h.todo)

/-- A literal form runs as its body says. -/
theorem litRuns_intro {i : Lit → Instr} {uni : Bool} {op9 : Nat} {ok : Lit → State → Prop} {e : Lit → State → State}
    (body : Lit → State → Res) (hx : ∀ w s, exec (i w) s = s.issueLit uni op9 w (body w))
    (hb : ∀ w r, ok w r → body w r = .done (e w r)) (ht : ∀ w r, (e w r).todoNow = r.todoNow) : LitRuns i uni op9 ok e := by
  intro w s h k
  rw [hx]
  exact State.issue_done h (hb w _ k) (by rw [ht]; exact h.todo)
theorem litJumps_intro {i : Lit → Instr} {uni : Bool} {op9 : Nat} {ok : Lit → State → Prop} {e : Lit → State → State}
    (body : Lit → State → Res) (hx : ∀ w s, exec (i w) s = s.issueLit uni op9 w (body w))
    (hb : ∀ w r, ok w r → body w r = .jump (e w r)) (ht : ∀ w r, (e w r).todoNow = r.todoNow) : LitJumps i uni op9 ok e := by
  intro w s h k
  rw [hx]
  exact State.issue_jump h (hb w _ k) (by rw [ht]; exact h.todo)

theorem longParts_intro {i : Long → Instr} {uni : Bool} {op9 : Nat} {ok : Long → State → Prop} {pre : Long → State → State}
    {parts : Long → State → List MOp} (body : Long → State → Res) (hx : ∀ w s, exec (i w) s = s.issueLong uni op9 w (body w))
    (hb : ∀ w r, ok w r → body w r = .done ((pre w r).setTodo (parts w r))) : LongParts i uni op9 ok pre parts := by
  intro w s r u h hr k hp
  subst hr
  rw [hx]
  refine (State.issue_parts h (hb w _ k)).trans (congrArg _ ?_)
  refine Eq.trans ?_ (runList_pass hp)
  show (s.moved 8 _).runTodo = _
  rw [State.runTodo, State.moved_todoNow, State.setTodo_todoNow]

theorem shortParts_intro {i : Short → Instr} {uni : Bool} {op9 : Nat} {pre : Short → State → State}
    {parts : Short → State → List MOp} (body : Short → State → Res) (hx : ∀ w s, exec (i w) s = s.issueShort uni op9 w (body w))
    (hb : ∀ w r, body w r = .done ((pre w r).setTodo (parts w r))) : ShortParts i uni op9 pre parts := by
  intro w s r u h hr hp
  subst hr
  rw [hx]
  refine (State.issue_parts h (hb w _)).trans (congrArg _ ?_)
  refine Eq.trans ?_ (runList_pass hp)
  show (s.moved 4 _).runTodo = _
  rw [State.runTodo, State.moved_todoNow, State.setTodo_todoNow]

end Sys2Proof.Machine
end

