-- ==== Sys2Proof/Laws/Matrix.lean ====
section
/-! SUPPORT. What reading a record and its operands does, said once (Machine/Matrix.lean). -/

namespace Sys2Proof.Machine

/-- A record that is there is handed on. -/
theorem State.recAt_held {s : State} {ea : Nat} {use : RecUse} {r : ARec} (h : s.RecHeld ea use r) (go : ARec → Res) :
    s.recAt ea use go = go r := by
  unfold State.recAt State.checkedScr
  rw [h.placed]
  simp only [State.mccPresent]
  rw [h.present]
  simp only [h.sound, h.is, h.formed, h.suits]
  rfl

/-- Operands that are ready are read after the collapses that they force. -/
theorem State.operands_ready {s : State} {width : Nat} {els scr glob : List Span} (h : s.OperandsReady width els scr glob)
    (go : State → List (Nat × Stamp) → Res) : s.operands width els scr glob go = go (s.atRead glob) (s.stampsOf glob) := by
  unfold State.operands State.checkBoth State.mccPresent State.whenOpen
  have n : s.noteMcc ((s.mccForced (spanLines glob)).filter (homePkg · != s.pkgIdx)) = s := by rw [h.near]; rfl
  simp only [h.aligned, h.scratch, h.global, h.present, h.granted, n, h.free, h.data]
  rfl

/-- Output that passes its checks is made. -/
theorem State.checkBoth_ok {s : State} {k : AKind} {b : Bool} {scr glob : List Span} (h : s.scrRows b scr = none)
    (g : s.check k 1 (accsOf glob) = .ok) (go : Unit → Res) : s.checkBoth k b scr glob go = go () := by
  unfold State.checkBoth
  rw [h, g]

/-- A pass enters the queue. -/
theorem State.enqueue_queued (s : State) (n : Nat) (p : MPass) : s.enqueue n p = .done (s.queued n p) := rfl

@[simp] theorem State.queued_todoNow (s : State) (n : Nat) (p : MPass) : (s.queued n p).todoNow = s.todoNow := by
  unfold State.queued State.todoNow State.isM State.modMcc
  rfl

end Sys2Proof.Machine
end

