-- ==== Sys2Proof/Laws/Memory.lean ====
section
/-! SUPPORT. Lists in canonical form: a read after a write gives what was written, a write leaves every other key alone, and every
operation keeps the form. -/

namespace Sys2Proof.Machine

variable {α : Type} [DecidableEq α]

/-- The canonical form said key by key: every entry differs from the default and lies above a bound that rises along the list. -/
def Above (d : α) : Nat → List (Nat × α) → Prop
  | _, [] => True
  | b, (k, v) :: r => b ≤ k ∧ v ≠ d ∧ Above d (k + 1) r

omit [DecidableEq α] in
theorem Above.weaken {d : α} {b c : Nat} {l : List (Nat × α)} (h : Above d b l) (hc : c ≤ b) : Above d c l := by
  cases l with
  | nil => trivial
  | cons x r => exact ⟨hc.trans h.1, h.2⟩

theorem canon_cons_iff (d : α) (k : Nat) (v : α) (r : List (Nat × α)) :
    canon d ((k, v) :: r) = true ↔ v ≠ d ∧ Above d (k + 1) r := by
  induction r generalizing k v with
  | nil => simp [canon, Above]
  | cons x r ih =>
    obtain ⟨k', v'⟩ := x
    simp only [canon, Bool.and_eq_true, decide_eq_true_eq, ih k' v', Above, Nat.succ_le_iff]
    tauto

theorem canon_iff (d : α) (l : List (Nat × α)) : canon d l = true ↔ Above d 0 l := by
  cases l with
  | nil => simp [canon, Above]
  | cons x r => rw [canon_cons_iff]; simp [Above]

omit [DecidableEq α] in
/-- A key below the bound is absent. -/
theorem Above.look {d : α} {b a : Nat} {l : List (Nat × α)} (h : Above d b l) (ha : a < b) : look d l a = d := by
  cases l with
  | nil => rfl
  | cons x r =>
    obtain ⟨k, v⟩ := x
    have := h.1
    unfold Machine.look
    rw [if_neg (by omega), if_pos (by omega)]

omit [DecidableEq α] in
theorem Above.drop1 {d : α} {b : Nat} {l : List (Nat × α)} (h : Above d b l) (a : Nat) : Above d b (drop1 l a) := by
  induction l generalizing b with
  | nil => trivial
  | cons x r ih =>
    obtain ⟨k, v⟩ := x
    obtain ⟨h1, h2, h3⟩ := h
    unfold Machine.drop1
    split
    · exact h3.weaken (by omega)
    · split
      · exact ⟨h1, h2, h3⟩
      · exact ⟨h1, h2, ih h3⟩

omit [DecidableEq α] in
theorem Above.put1 {d : α} {b a : Nat} {l : List (Nat × α)} {x : α} (h : Above d b l) (hx : x ≠ d) (ha : b ≤ a) :
    Above d b (put1 l a x) := by
  induction l generalizing b with
  | nil => exact ⟨ha, hx, trivial⟩
  | cons y r ih =>
    obtain ⟨k, v⟩ := y
    obtain ⟨h1, h2, h3⟩ := h
    unfold Machine.put1
    split
    · exact ⟨h1, hx, h3⟩
    · split
      · exact ⟨ha, hx, by omega, h2, h3⟩
      · exact ⟨h1, h2, ih h3 (by omega)⟩

theorem Above.put {d : α} {l : List (Nat × α)} (h : Above d 0 l) (a : Nat) (x : α) : Above d 0 (put d l a x) := by
  unfold Machine.put
  split
  · exact h.drop1 a
  · exact h.put1 ‹_› (Nat.zero_le a)

/-- A write keeps the canonical form. -/
theorem canon_put {d : α} {l : List (Nat × α)} (h : canon d l = true) (a : Nat) (x : α) : canon d (put d l a x) = true := by
  rw [canon_iff] at *; exact h.put a x

theorem canon_putAll {d : α} {l : List (Nat × α)} (h : canon d l = true) (a : Nat) (xs : List α) : canon d (putAll d l a xs) = true := by
  induction xs generalizing l a with
  | nil => exact h
  | cons x xs ih => exact ih (canon_put h a x) (a + 1)

/-- Several writes keep it. -/
theorem canon_foldl_put {d : α} {l : List (Nat × α)} (h : canon d l = true) (c : List (Nat × α)) :
    canon d (c.foldl (fun m e => put d m e.1 e.2) l) = true := by
  induction c generalizing l with
  | nil => exact h
  | cons e c ih => exact ih (canon_put h e.1 e.2)

omit [DecidableEq α] in
theorem Above.look_drop1 {d : α} {b : Nat} {l : List (Nat × α)} (h : Above d b l) (a k : Nat) :
    Machine.look d (Machine.drop1 l a) k = if k = a then d else Machine.look d l k := by
  induction l generalizing b with
  | nil => simp [Machine.drop1, Machine.look]
  | cons x r ih =>
    obtain ⟨j, v⟩ := x
    obtain ⟨h1, h2, h3⟩ := h
    unfold Machine.drop1
    by_cases ha : a = j
    · subst ha
      rw [if_pos rfl]
      by_cases hk : k = a
      · rw [if_pos hk]; exact h3.look (by omega)
      · rw [if_neg hk]
        by_cases hlt : k < a
        · rw [h3.look (by omega)]; simp [Machine.look, hk, hlt]
        · simp [Machine.look, hk, hlt]
    · rw [if_neg ha]
      by_cases hlt : a < j
      · rw [if_pos hlt]
        by_cases hk : k = a
        · subst hk; simp [Machine.look, ha, hlt]
        · rw [if_neg hk]
      · rw [if_neg hlt]
        unfold Machine.look
        by_cases hk : k = j
        · simp [hk, Ne.symm ha]
        · rw [if_neg hk, if_neg hk]
          by_cases hkl : k < j
          · simp [hkl]
          · rw [if_neg hkl, if_neg hkl]; exact ih h3

omit [DecidableEq α] in
theorem look_put1 (d : α) (l : List (Nat × α)) (a k : Nat) (x : α) (h : Above d 0 l) :
    look d (put1 l a x) k = if k = a then x else look d l k := by
  suffices ∀ b, Above d b l → look d (put1 l a x) k = if k = a then x else look d l k from this 0 h
  clear h
  induction l with
  | nil => intro b _; simp only [Machine.put1, Machine.look]; split <;> simp
  | cons y r ih =>
    obtain ⟨j, v⟩ := y
    rintro b ⟨h1, h2, h3⟩
    unfold Machine.put1
    by_cases ha : a = j
    · subst ha; simp only [Machine.look, if_true]; split <;> simp
    · rw [if_neg ha]
      by_cases hlt : a < j
      · rw [if_pos hlt]
        simp only [Machine.look]
        by_cases hk : k = a
        · simp [hk]
        · rw [if_neg hk, if_neg hk]
          by_cases hka : k < a
          · rw [if_pos hka, if_neg (by omega), if_pos (by omega)]
          · rw [if_neg hka]
      · rw [if_neg hlt]
        simp only [Machine.look]
        by_cases hk : k = j
        · rw [if_pos hk, if_pos hk, if_neg (by omega)]
        · rw [if_neg hk, if_neg hk]
          by_cases hkl : k < j
          · rw [if_pos hkl, if_pos hkl, if_neg (by omega)]
          · rw [if_neg hkl, if_neg hkl]; exact ih (j + 1) h3

/-- A read after a write: what was written at its key, what was there at every other. -/
theorem look_put {d : α} {l : List (Nat × α)} (h : canon d l = true) (a k : Nat) (x : α) :
    look d (put d l a x) k = if k = a then x else look d l k := by
  rw [canon_iff] at h
  unfold put
  split
  · rename_i hx; rw [h.look_drop1, hx]
  · exact look_put1 d l a k x h

/-- Consecutive writes leave every key outside them alone. -/
theorem look_putAll_other {d : α} {l : List (Nat × α)} (h : canon d l = true) (a k : Nat) (xs : List α) (hk : k < a ∨ a + xs.length ≤ k) :
    look d (putAll d l a xs) k = look d l k := by
  induction xs generalizing l a with
  | nil => rfl
  | cons x xs ih =>
    simp only [List.length_cons] at hk
    have e := ih (canon_put h a x) (a + 1) (by omega)
    rw [putAll, e, look_put h, if_neg (by omega)]

/-- And put each value at its key. -/
theorem look_putAll_same {d : α} {l : List (Nat × α)} (h : canon d l = true) (a i : Nat) (xs : List α) (hi : i < xs.length) :
    look d (putAll d l a xs) (a + i) = xs[i] := by
  induction xs generalizing l a i with
  | nil => simp at hi
  | cons x xs ih =>
    rw [putAll]
    cases i with
    | zero =>
      rw [look_putAll_other (canon_put h a x) (a + 1) (a + 0) xs (by omega), look_put h]; simp
    | succ i =>
      have e := ih (canon_put h a x) (a + 1) i (by simpa using hi)
      rw [show a + (i + 1) = a + 1 + i by omega, e]; simp

/-! ### The memory of the package -/

/-- The writes of the device at home keep memory's form. -/
theorem State.homeWrite_memOk {s : State} (h : s.MemOk) (key : Nat) (b : List Byte) : (s.homeWrite key b).MemOk := by
  induction b generalizing s key with
  | nil => exact h
  | cons x b ih =>
    unfold State.homeWrite
    refine ih ?_ (key + 1)
    exact canon_put h key x

theorem State.physWrite_memOk {s : State} (h : s.MemOk) (pa : Nat) (b : List Byte) : (s.physWrite pa b).MemOk := s.homeWrite_memOk h _ b

/-- Folding versions into the base bytes keeps it. -/
theorem foldPub_canon {m : List Host.Cell} (h : canon 0 m = true) (p : Pub) : canon 0 (foldPub m p) = true := by
  unfold foldPub
  generalize p.bytes = b
  induction b generalizing m with
  | nil => exact h
  | cons x b ih => exact ih (canon_put h _ _)

/-- Noting what the A bytes of a pass hold, and that the version store is full, changes no byte. -/
@[simp] theorem State.notePasses_mem (s : State) : s.notePasses.mem = s.mem := rfl
@[simp] theorem State.notePasses_scratch (s : State) : s.notePasses.scratch = s.scratch := rfl
@[simp] theorem State.noteFull_mem (s : State) : s.noteFull.mem = s.mem := by
  unfold State.noteFull
  repeat' split
  all_goals rfl

theorem State.reclaim_memOk {s : State} (h : s.MemOk) (line : Nat) : (s.reclaim line).MemOk := by
  unfold State.reclaim State.MemOk Memory.wf
  simp only [State.noteFull_mem]
  generalize List.foldl _ [] _ = l
  have hm : canon 0 s.mem = true := h
  generalize s.mem = m at *
  clear h
  induction l generalizing m with
  | nil => exact hm
  | cons p l ih => exact ih _ (foldPub_canon hm p)

theorem State.rehome_memOk {s : State} (h : s.MemOk) (new : Nat) : (s.rehome new).MemOk := by
  unfold State.rehome
  simp only []
  split
  · exact h
  · exact canon_foldl_put (by rfl) _

/-- A scratchpad write keeps the scratchpads' form, and every byte outside it. -/
theorem State.scrWrite_canon {s : State} (h : canon 0 s.scratch = true) (key : Nat) (b : List Byte) :
    canon 0 (s.scrWrite key b).scratch = true := canon_putAll h key b

theorem State.scrWrite_other {s : State} (h : canon 0 s.scratch = true) (key k : Nat) (b : List Byte) (hk : k < key ∨ key + b.length ≤ k) :
    (s.scrWrite key b).scrByte k = s.scrByte k := by
  unfold State.scrByte
  have : (s.scrWrite key b).objAt k = s.objAt k := rfl
  rw [this]
  split
  · rfl
  · exact look_putAll_other h key k b hk

end Sys2Proof.Machine
end

