-- ==== Sys2Proof/Laws/Parts.lean ====
section
/-! SUPPORT. The parts of an instruction that pass without a wait: one lemma for each condition of Safety.lean (10 R214, R215). -/

namespace Sys2Proof.Machine

/-- A part that passes hands on to the next. -/
theorem passTo_cons {m : MOp} {l : List MOp} {t u : State} (hm : m ≠ .reissue) (h : runOp m t = .ok u) : passTo (m :: l) t = passTo l u := by
  have e : passTo (m :: l) t = (match runOp m t with | .ok u => passTo l u | _ => none) := by
    cases m <;> first | rfl | exact absurd rfl hm
  rw [e, h]

/-- A Publish that is over at once. -/
theorem passTo_publish {t : State} (h : t.PubsNow) (l : List MOp) : passTo (.publish :: .waitAck :: l) t = passTo l t.publish := by
  have h1 : runOp .publish t = .ok t.publish := by
    simp [runOp, State.publishStep, h.room, h.free]
  have h2 : runOp .waitAck t.publish = .ok t.publish := by
    simp [runOp, h.done]
  rw [passTo_cons (by simp) h1, passTo_cons (by simp) h2]

/-- A Snap that is over at once. -/
theorem passTo_snap {t : State} (h : t.SnapsNow) (l : List MOp) : passTo (.snap :: l) t = passTo l t.snapped := by
  have h1 : runOp .snap t = .ok t.snapped := by
    unfold State.SnapsNow at h
    simp [runOp, h, State.snapped]
  exact passTo_cons (by simp) h1

/-- An ordered access that is made at once. -/
theorem State.Reaches.atLines {s : State} {k : AKind} {n : Need} {vas : List Nat} (h : s.Reaches k n vas) (remote : Bool) (m : MOp)
    (go : State → State) : s.atLines k n remote vas m go = .ok (go s) := by
  have hl : s.linesOf k vas = some (sortNat (vas.map (fun a => lineOf (s.keyOf s.ctxNow a)))) := by
    unfold State.linesOf
    rw [if_pos (List.all_eq_true.mpr h.mapped)]
  unfold State.atLines
  simp only [hl, h.granted, h.free, h.room, if_true]

/-- Scratchpad bytes that are read at once. -/
theorem State.atScratch_read {s : State} {spans : List (Nat × Nat × Nat)} (hl : s.Landed spans) (hs : s.Sound spans) (m : MOp)
    (go : State → State) : s.atScratch true spans m go = .ok (go s) := by
  have hf : spans.find? (fun p => s.poison.any (·.gran == scrGran p.2.2)) = none := by
    rw [List.find?_eq_none]
    intro p hp
    simp only [List.any_eq_true, beq_iff_eq, not_exists, not_and]
    exact hs p hp
  have hl : s.absentWait (spans.map (·.2.2)) = none := hl
  unfold State.atScratch
  simp [hl, hf]
theorem State.atScratch_write {s : State} {spans : List (Nat × Nat × Nat)} (hl : s.Landed spans) (m : MOp) (go : State → State) :
    s.atScratch false spans m go = .ok (go s) := by
  have hl : s.absentWait (spans.map (·.2.2)) = none := hl
  unfold State.atScratch
  simp [hl]

/-- A body with parts that pass at once completes in its issue: `p` is what happens before them, `u` the state in which they begin. -/
theorem State.issue_ends {s r u p v : State} {f : Form} {body : State → Res} {l : List MOp} (h : s.Goes f) (hr : r = s.atIssue f)
    (hu : u = s.moved f.len (p.setTodo l)) (hb : body r = .done (p.setTodo l)) (hp : passTo l u = some v) :
    s.issue f body = .next v.complete := by
  subst hr
  refine (State.issue_parts h hb).trans (congrArg _ ?_)
  rw [← hu]
  refine Eq.trans ?_ (runList_pass hp)
  rw [State.runTodo, hu, State.moved_todoNow, State.setTodo_todoNow]

end Sys2Proof.Machine
end

