-- ==== Sys2Proof/Laws/State.lean ====
section
/-! SUPPORT. What the updates of State leave alone, field by field, and what they set. -/

namespace Sys2Proof.Machine

variable (s : State)

@[simp] theorem State.modSq_sq (f : Squad → Squad) : (s.modSq f).sq = f s.sq := rfl
@[simp] theorem State.modMcc_mcc (f : Mcc → Mcc) : (s.modMcc f).mcc = f s.mcc := rfl
@[simp] theorem State.modSquads_squads (p : Squad → Bool) (f : Squad → Squad) : (s.modSquads p f).squads = modAll p f s.squads := rfl
@[simp] theorem State.modMccs_mccs (p : Mcc → Bool) (f : Mcc → Mcc) : (s.modMccs p f).mccs = modAll p f s.mccs := rfl
@[simp] theorem State.modTeam_teams (n : Nat) (f : Team → Team) : (s.modTeam n f).teams = modAll (·.id == n) f s.teams := rfl
@[simp] theorem State.tick_now (n : Nat) : (s.tick n).now = s.now + n := rfl

/-! ### modSq -/

@[simp] theorem State.modSq_focus (f : Squad → Squad) : (s.modSq f).focus = s.focus := rfl
@[simp] theorem State.modSq_mcc (f : Squad → Squad) : (s.modSq f).mcc = s.mcc := rfl
@[simp] theorem State.modSq_squads (f : Squad → Squad) : (s.modSq f).squads = s.squads := rfl
@[simp] theorem State.modSq_mccs (f : Squad → Squad) : (s.modSq f).mccs = s.mccs := rfl
@[simp] theorem State.modSq_now (f : Squad → Squad) : (s.modSq f).now = s.now := rfl
@[simp] theorem State.modSq_lastTick (f : Squad → Squad) : (s.modSq f).lastTick = s.lastTick := rfl
@[simp] theorem State.modSq_slack (f : Squad → Squad) : (s.modSq f).slack = s.slack := rfl
@[simp] theorem State.modSq_pkgIdx (f : Squad → Squad) : (s.modSq f).pkgIdx = s.pkgIdx := rfl
@[simp] theorem State.modSq_bridge (f : Squad → Squad) : (s.modSq f).bridge = s.bridge := rfl
@[simp] theorem State.modSq_mem (f : Squad → Squad) : (s.modSq f).mem = s.mem := rfl
@[simp] theorem State.modSq_pubs (f : Squad → Squad) : (s.modSq f).pubs = s.pubs := rfl
@[simp] theorem State.modSq_msgs (f : Squad → Squad) : (s.modSq f).msgs = s.msgs := rfl
@[simp] theorem State.modSq_nextId (f : Squad → Squad) : (s.modSq f).nextId = s.nextId := rfl
@[simp] theorem State.modSq_poison (f : Squad → Squad) : (s.modSq f).poison = s.poison := rfl
@[simp] theorem State.modSq_l1 (f : Squad → Squad) : (s.modSq f).l1 = s.l1 := rfl
@[simp] theorem State.modSq_copies (f : Squad → Squad) : (s.modSq f).copies = s.copies := rfl
@[simp] theorem State.modSq_manual (f : Squad → Squad) : (s.modSq f).manual = s.manual := rfl
@[simp] theorem State.modSq_acopies (f : Squad → Squad) : (s.modSq f).acopies = s.acopies := rfl
@[simp] theorem State.modSq_home (f : Squad → Squad) : (s.modSq f).home = s.home := rfl
@[simp] theorem State.modSq_locks (f : Squad → Squad) : (s.modSq f).locks = s.locks := rfl
@[simp] theorem State.modSq_relstamps (f : Squad → Squad) : (s.modSq f).relstamps = s.relstamps := rfl
@[simp] theorem State.modSq_filters (f : Squad → Squad) : (s.modSq f).filters = s.filters := rfl
@[simp] theorem State.modSq_grants (f : Squad → Squad) : (s.modSq f).grants = s.grants := rfl
@[simp] theorem State.modSq_sliceMap (f : Squad → Squad) : (s.modSq f).sliceMap = s.sliceMap := rfl
@[simp] theorem State.modSq_migrating (f : Squad → Squad) : (s.modSq f).migrating = s.migrating := rfl
@[simp] theorem State.modSq_hostUr (f : Squad → Squad) : (s.modSq f).hostUr = s.hostUr := rfl
@[simp] theorem State.modSq_keys (f : Squad → Squad) : (s.modSq f).keys = s.keys := rfl
@[simp] theorem State.modSq_outbox (f : Squad → Squad) : (s.modSq f).outbox = s.outbox := rfl
@[simp] theorem State.modSq_reqs (f : Squad → Squad) : (s.modSq f).reqs = s.reqs := rfl
@[simp] theorem State.modSq_inbox (f : Squad → Squad) : (s.modSq f).inbox = s.inbox := rfl
@[simp] theorem State.modSq_answers (f : Squad → Squad) : (s.modSq f).answers = s.answers := rfl
@[simp] theorem State.modSq_fwCopy (f : Squad → Squad) : (s.modSq f).fwCopy = s.fwCopy := rfl
@[simp] theorem State.modSq_aliasKey (f : Squad → Squad) : (s.modSq f).aliasKey = s.aliasKey := rfl
@[simp] theorem State.modSq_aliasCert (f : Squad → Squad) : (s.modSq f).aliasCert = s.aliasCert := rfl
@[simp] theorem State.modSq_grantWaits (f : Squad → Squad) : (s.modSq f).grantWaits = s.grantWaits := rfl
@[simp] theorem State.modSq_notes (f : Squad → Squad) : (s.modSq f).notes = s.notes := rfl
@[simp] theorem State.modSq_ringStamps (f : Squad → Squad) : (s.modSq f).ringStamps = s.ringStamps := rfl
@[simp] theorem State.modSq_walkCache (f : Squad → Squad) : (s.modSq f).walkCache = s.walkCache := rfl
@[simp] theorem State.modSq_leaves (f : Squad → Squad) : (s.modSq f).leaves = s.leaves := rfl
@[simp] theorem State.modSq_draining (f : Squad → Squad) : (s.modSq f).draining = s.draining := rfl
@[simp] theorem State.modSq_links (f : Squad → Squad) : (s.modSq f).links = s.links := rfl
@[simp] theorem State.modSq_scratch (f : Squad → Squad) : (s.modSq f).scratch = s.scratch := rfl
@[simp] theorem State.modSq_absent (f : Squad → Squad) : (s.modSq f).absent = s.absent := rfl
@[simp] theorem State.modSq_objs (f : Squad → Squad) : (s.modSq f).objs = s.objs := rfl
@[simp] theorem State.modSq_arrival (f : Squad → Squad) : (s.modSq f).arrival = s.arrival := rfl
@[simp] theorem State.modSq_luts (f : Squad → Squad) : (s.modSq f).luts = s.luts := rfl
@[simp] theorem State.modSq_sfu (f : Squad → Squad) : (s.modSq f).sfu = s.sfu := rfl
@[simp] theorem State.modSq_tlsets (f : Squad → Squad) : (s.modSq f).tlsets = s.tlsets := rfl
@[simp] theorem State.modSq_cmds (f : Squad → Squad) : (s.modSq f).cmds = s.cmds := rfl
@[simp] theorem State.modSq_chans (f : Squad → Squad) : (s.modSq f).chans = s.chans := rfl
@[simp] theorem State.modSq_lvls (f : Squad → Squad) : (s.modSq f).lvls = s.lvls := rfl
@[simp] theorem State.modSq_teams (f : Squad → Squad) : (s.modSq f).teams = s.teams := rfl
@[simp] theorem State.modSq_launches (f : Squad → Squad) : (s.modSq f).launches = s.launches := rfl
@[simp] theorem State.modSq_huddles (f : Squad → Squad) : (s.modSq f).huddles = s.huddles := rfl
@[simp] theorem State.modSq_queues (f : Squad → Squad) : (s.modSq f).queues = s.queues := rfl
@[simp] theorem State.modSq_arbLast (f : Squad → Squad) : (s.modSq f).arbLast = s.arbLast := rfl
@[simp] theorem State.modSq_csrs (f : Squad → Squad) : (s.modSq f).csrs = s.csrs := rfl
@[simp] theorem State.modSq_hostCtxsel (f : Squad → Squad) : (s.modSq f).hostCtxsel = s.hostCtxsel := rfl
@[simp] theorem State.modSq_hirq (f : Squad → Squad) : (s.modSq f).hirq = s.hirq := rfl
@[simp] theorem State.modSq_hirqMask (f : Squad → Squad) : (s.modSq f).hirqMask = s.hirqMask := rfl
@[simp] theorem State.modSq_hostErr (f : Squad → Squad) : (s.modSq f).hostErr = s.hostErr := rfl
@[simp] theorem State.modSq_msix (f : Squad → Squad) : (s.modSq f).msix = s.msix := rfl
@[simp] theorem State.modSq_hostReads (f : Squad → Squad) : (s.modSq f).hostReads = s.hostReads := rfl
@[simp] theorem State.modSq_ctxs (f : Squad → Squad) : (s.modSq f).ctxs = s.ctxs := rfl
@[simp] theorem State.modSq_tickets (f : Squad → Squad) : (s.modSq f).tickets = s.tickets := rfl
@[simp] theorem State.modSq_nextTicket (f : Squad → Squad) : (s.modSq f).nextTicket = s.nextTicket := rfl
@[simp] theorem State.modSq_fqWait (f : Squad → Squad) : (s.modSq f).fqWait = s.fqWait := rfl
@[simp] theorem State.modSq_parkWait (f : Squad → Squad) : (s.modSq f).parkWait = s.parkWait := rfl
@[simp] theorem State.modSq_tlb (f : Squad → Squad) : (s.modSq f).tlb = s.tlb := rfl
@[simp] theorem State.modSq_walks (f : Squad → Squad) : (s.modSq f).walks = s.walks := rfl
@[simp] theorem State.modSq_erWait (f : Squad → Squad) : (s.modSq f).erWait = s.erWait := rfl
@[simp] theorem State.modSq_stopWait (f : Squad → Squad) : (s.modSq f).stopWait = s.stopWait := rfl
@[simp] theorem State.modSq_units (f : Squad → Squad) : (s.modSq f).units = s.units := rfl
@[simp] theorem State.modSq_repair (f : Squad → Squad) : (s.modSq f).repair = s.repair := rfl
@[simp] theorem State.modSq_thermal (f : Squad → Squad) : (s.modSq f).thermal = s.thermal := rfl
@[simp] theorem State.modSq_heldReset (f : Squad → Squad) : (s.modSq f).heldReset = s.heldReset := rfl
@[simp] theorem State.modSq_clusterMap (f : Squad → Squad) : (s.modSq f).clusterMap = s.clusterMap := rfl
@[simp] theorem State.modSq_withdrawn (f : Squad → Squad) : (s.modSq f).withdrawn = s.withdrawn := rfl
@[simp] theorem State.modSq_spareLeft (f : Squad → Squad) : (s.modSq f).spareLeft = s.spareLeft := rfl
@[simp] theorem State.modSq_samplers (f : Squad → Squad) : (s.modSq f).samplers = s.samplers := rfl
@[simp] theorem State.modSq_peers (f : Squad → Squad) : (s.modSq f).peers = s.peers := rfl
@[simp] theorem State.modSq_windows (f : Squad → Squad) : (s.modSq f).windows = s.windows := rfl
@[simp] theorem State.modSq_sendSeq (f : Squad → Squad) : (s.modSq f).sendSeq = s.sendSeq := rfl
@[simp] theorem State.modSq_performed (f : Squad → Squad) : (s.modSq f).performed = s.performed := rfl
@[simp] theorem State.modSq_lastBeacon (f : Squad → Squad) : (s.modSq f).lastBeacon = s.lastBeacon := rfl
@[simp] theorem State.modSq_change (f : Squad → Squad) : (s.modSq f).change = s.change := rfl
@[simp] theorem State.modSq_gens (f : Squad → Squad) : (s.modSq f).gens = s.gens := rfl
@[simp] theorem State.modSq_spdm (f : Squad → Squad) : (s.modSq f).spdm = s.spdm := rfl
@[simp] theorem State.modSq_vcWays (f : Squad → Squad) : (s.modSq f).vcWays = s.vcWays := rfl
@[simp] theorem State.modSq_vsGiB (f : Squad → Squad) : (s.modSq f).vsGiB = s.vsGiB := rfl
@[simp] theorem State.modSq_vsFullSince (f : Squad → Squad) : (s.modSq f).vsFullSince = s.vsFullSince := rfl
@[simp] theorem State.modSq_image (f : Squad → Squad) : (s.modSq f).image = s.image := rfl
@[simp] theorem State.modSq_free (f : Squad → Squad) : (s.modSq f).free = s.free := rfl
@[simp] theorem State.modSq_agenda (f : Squad → Squad) : (s.modSq f).agenda = s.agenda := rfl

/-! ### modMcc -/

@[simp] theorem State.modMcc_focus (f : Mcc → Mcc) : (s.modMcc f).focus = s.focus := rfl
@[simp] theorem State.modMcc_sq (f : Mcc → Mcc) : (s.modMcc f).sq = s.sq := rfl
@[simp] theorem State.modMcc_squads (f : Mcc → Mcc) : (s.modMcc f).squads = s.squads := rfl
@[simp] theorem State.modMcc_mccs (f : Mcc → Mcc) : (s.modMcc f).mccs = s.mccs := rfl
@[simp] theorem State.modMcc_now (f : Mcc → Mcc) : (s.modMcc f).now = s.now := rfl
@[simp] theorem State.modMcc_lastTick (f : Mcc → Mcc) : (s.modMcc f).lastTick = s.lastTick := rfl
@[simp] theorem State.modMcc_slack (f : Mcc → Mcc) : (s.modMcc f).slack = s.slack := rfl
@[simp] theorem State.modMcc_pkgIdx (f : Mcc → Mcc) : (s.modMcc f).pkgIdx = s.pkgIdx := rfl
@[simp] theorem State.modMcc_bridge (f : Mcc → Mcc) : (s.modMcc f).bridge = s.bridge := rfl
@[simp] theorem State.modMcc_mem (f : Mcc → Mcc) : (s.modMcc f).mem = s.mem := rfl
@[simp] theorem State.modMcc_pubs (f : Mcc → Mcc) : (s.modMcc f).pubs = s.pubs := rfl
@[simp] theorem State.modMcc_msgs (f : Mcc → Mcc) : (s.modMcc f).msgs = s.msgs := rfl
@[simp] theorem State.modMcc_nextId (f : Mcc → Mcc) : (s.modMcc f).nextId = s.nextId := rfl
@[simp] theorem State.modMcc_poison (f : Mcc → Mcc) : (s.modMcc f).poison = s.poison := rfl
@[simp] theorem State.modMcc_l1 (f : Mcc → Mcc) : (s.modMcc f).l1 = s.l1 := rfl
@[simp] theorem State.modMcc_copies (f : Mcc → Mcc) : (s.modMcc f).copies = s.copies := rfl
@[simp] theorem State.modMcc_manual (f : Mcc → Mcc) : (s.modMcc f).manual = s.manual := rfl
@[simp] theorem State.modMcc_acopies (f : Mcc → Mcc) : (s.modMcc f).acopies = s.acopies := rfl
@[simp] theorem State.modMcc_home (f : Mcc → Mcc) : (s.modMcc f).home = s.home := rfl
@[simp] theorem State.modMcc_locks (f : Mcc → Mcc) : (s.modMcc f).locks = s.locks := rfl
@[simp] theorem State.modMcc_relstamps (f : Mcc → Mcc) : (s.modMcc f).relstamps = s.relstamps := rfl
@[simp] theorem State.modMcc_filters (f : Mcc → Mcc) : (s.modMcc f).filters = s.filters := rfl
@[simp] theorem State.modMcc_grants (f : Mcc → Mcc) : (s.modMcc f).grants = s.grants := rfl
@[simp] theorem State.modMcc_sliceMap (f : Mcc → Mcc) : (s.modMcc f).sliceMap = s.sliceMap := rfl
@[simp] theorem State.modMcc_migrating (f : Mcc → Mcc) : (s.modMcc f).migrating = s.migrating := rfl
@[simp] theorem State.modMcc_hostUr (f : Mcc → Mcc) : (s.modMcc f).hostUr = s.hostUr := rfl
@[simp] theorem State.modMcc_keys (f : Mcc → Mcc) : (s.modMcc f).keys = s.keys := rfl
@[simp] theorem State.modMcc_outbox (f : Mcc → Mcc) : (s.modMcc f).outbox = s.outbox := rfl
@[simp] theorem State.modMcc_reqs (f : Mcc → Mcc) : (s.modMcc f).reqs = s.reqs := rfl
@[simp] theorem State.modMcc_inbox (f : Mcc → Mcc) : (s.modMcc f).inbox = s.inbox := rfl
@[simp] theorem State.modMcc_answers (f : Mcc → Mcc) : (s.modMcc f).answers = s.answers := rfl
@[simp] theorem State.modMcc_fwCopy (f : Mcc → Mcc) : (s.modMcc f).fwCopy = s.fwCopy := rfl
@[simp] theorem State.modMcc_aliasKey (f : Mcc → Mcc) : (s.modMcc f).aliasKey = s.aliasKey := rfl
@[simp] theorem State.modMcc_aliasCert (f : Mcc → Mcc) : (s.modMcc f).aliasCert = s.aliasCert := rfl
@[simp] theorem State.modMcc_grantWaits (f : Mcc → Mcc) : (s.modMcc f).grantWaits = s.grantWaits := rfl
@[simp] theorem State.modMcc_notes (f : Mcc → Mcc) : (s.modMcc f).notes = s.notes := rfl
@[simp] theorem State.modMcc_ringStamps (f : Mcc → Mcc) : (s.modMcc f).ringStamps = s.ringStamps := rfl
@[simp] theorem State.modMcc_walkCache (f : Mcc → Mcc) : (s.modMcc f).walkCache = s.walkCache := rfl
@[simp] theorem State.modMcc_leaves (f : Mcc → Mcc) : (s.modMcc f).leaves = s.leaves := rfl
@[simp] theorem State.modMcc_draining (f : Mcc → Mcc) : (s.modMcc f).draining = s.draining := rfl
@[simp] theorem State.modMcc_links (f : Mcc → Mcc) : (s.modMcc f).links = s.links := rfl
@[simp] theorem State.modMcc_scratch (f : Mcc → Mcc) : (s.modMcc f).scratch = s.scratch := rfl
@[simp] theorem State.modMcc_absent (f : Mcc → Mcc) : (s.modMcc f).absent = s.absent := rfl
@[simp] theorem State.modMcc_objs (f : Mcc → Mcc) : (s.modMcc f).objs = s.objs := rfl
@[simp] theorem State.modMcc_arrival (f : Mcc → Mcc) : (s.modMcc f).arrival = s.arrival := rfl
@[simp] theorem State.modMcc_luts (f : Mcc → Mcc) : (s.modMcc f).luts = s.luts := rfl
@[simp] theorem State.modMcc_sfu (f : Mcc → Mcc) : (s.modMcc f).sfu = s.sfu := rfl
@[simp] theorem State.modMcc_tlsets (f : Mcc → Mcc) : (s.modMcc f).tlsets = s.tlsets := rfl
@[simp] theorem State.modMcc_cmds (f : Mcc → Mcc) : (s.modMcc f).cmds = s.cmds := rfl
@[simp] theorem State.modMcc_chans (f : Mcc → Mcc) : (s.modMcc f).chans = s.chans := rfl
@[simp] theorem State.modMcc_lvls (f : Mcc → Mcc) : (s.modMcc f).lvls = s.lvls := rfl
@[simp] theorem State.modMcc_teams (f : Mcc → Mcc) : (s.modMcc f).teams = s.teams := rfl
@[simp] theorem State.modMcc_launches (f : Mcc → Mcc) : (s.modMcc f).launches = s.launches := rfl
@[simp] theorem State.modMcc_huddles (f : Mcc → Mcc) : (s.modMcc f).huddles = s.huddles := rfl
@[simp] theorem State.modMcc_queues (f : Mcc → Mcc) : (s.modMcc f).queues = s.queues := rfl
@[simp] theorem State.modMcc_arbLast (f : Mcc → Mcc) : (s.modMcc f).arbLast = s.arbLast := rfl
@[simp] theorem State.modMcc_csrs (f : Mcc → Mcc) : (s.modMcc f).csrs = s.csrs := rfl
@[simp] theorem State.modMcc_hostCtxsel (f : Mcc → Mcc) : (s.modMcc f).hostCtxsel = s.hostCtxsel := rfl
@[simp] theorem State.modMcc_hirq (f : Mcc → Mcc) : (s.modMcc f).hirq = s.hirq := rfl
@[simp] theorem State.modMcc_hirqMask (f : Mcc → Mcc) : (s.modMcc f).hirqMask = s.hirqMask := rfl
@[simp] theorem State.modMcc_hostErr (f : Mcc → Mcc) : (s.modMcc f).hostErr = s.hostErr := rfl
@[simp] theorem State.modMcc_msix (f : Mcc → Mcc) : (s.modMcc f).msix = s.msix := rfl
@[simp] theorem State.modMcc_hostReads (f : Mcc → Mcc) : (s.modMcc f).hostReads = s.hostReads := rfl
@[simp] theorem State.modMcc_ctxs (f : Mcc → Mcc) : (s.modMcc f).ctxs = s.ctxs := rfl
@[simp] theorem State.modMcc_tickets (f : Mcc → Mcc) : (s.modMcc f).tickets = s.tickets := rfl
@[simp] theorem State.modMcc_nextTicket (f : Mcc → Mcc) : (s.modMcc f).nextTicket = s.nextTicket := rfl
@[simp] theorem State.modMcc_fqWait (f : Mcc → Mcc) : (s.modMcc f).fqWait = s.fqWait := rfl
@[simp] theorem State.modMcc_parkWait (f : Mcc → Mcc) : (s.modMcc f).parkWait = s.parkWait := rfl
@[simp] theorem State.modMcc_tlb (f : Mcc → Mcc) : (s.modMcc f).tlb = s.tlb := rfl
@[simp] theorem State.modMcc_walks (f : Mcc → Mcc) : (s.modMcc f).walks = s.walks := rfl
@[simp] theorem State.modMcc_erWait (f : Mcc → Mcc) : (s.modMcc f).erWait = s.erWait := rfl
@[simp] theorem State.modMcc_stopWait (f : Mcc → Mcc) : (s.modMcc f).stopWait = s.stopWait := rfl
@[simp] theorem State.modMcc_units (f : Mcc → Mcc) : (s.modMcc f).units = s.units := rfl
@[simp] theorem State.modMcc_repair (f : Mcc → Mcc) : (s.modMcc f).repair = s.repair := rfl
@[simp] theorem State.modMcc_thermal (f : Mcc → Mcc) : (s.modMcc f).thermal = s.thermal := rfl
@[simp] theorem State.modMcc_heldReset (f : Mcc → Mcc) : (s.modMcc f).heldReset = s.heldReset := rfl
@[simp] theorem State.modMcc_clusterMap (f : Mcc → Mcc) : (s.modMcc f).clusterMap = s.clusterMap := rfl
@[simp] theorem State.modMcc_withdrawn (f : Mcc → Mcc) : (s.modMcc f).withdrawn = s.withdrawn := rfl
@[simp] theorem State.modMcc_spareLeft (f : Mcc → Mcc) : (s.modMcc f).spareLeft = s.spareLeft := rfl
@[simp] theorem State.modMcc_samplers (f : Mcc → Mcc) : (s.modMcc f).samplers = s.samplers := rfl
@[simp] theorem State.modMcc_peers (f : Mcc → Mcc) : (s.modMcc f).peers = s.peers := rfl
@[simp] theorem State.modMcc_windows (f : Mcc → Mcc) : (s.modMcc f).windows = s.windows := rfl
@[simp] theorem State.modMcc_sendSeq (f : Mcc → Mcc) : (s.modMcc f).sendSeq = s.sendSeq := rfl
@[simp] theorem State.modMcc_performed (f : Mcc → Mcc) : (s.modMcc f).performed = s.performed := rfl
@[simp] theorem State.modMcc_lastBeacon (f : Mcc → Mcc) : (s.modMcc f).lastBeacon = s.lastBeacon := rfl
@[simp] theorem State.modMcc_change (f : Mcc → Mcc) : (s.modMcc f).change = s.change := rfl
@[simp] theorem State.modMcc_gens (f : Mcc → Mcc) : (s.modMcc f).gens = s.gens := rfl
@[simp] theorem State.modMcc_spdm (f : Mcc → Mcc) : (s.modMcc f).spdm = s.spdm := rfl
@[simp] theorem State.modMcc_vcWays (f : Mcc → Mcc) : (s.modMcc f).vcWays = s.vcWays := rfl
@[simp] theorem State.modMcc_vsGiB (f : Mcc → Mcc) : (s.modMcc f).vsGiB = s.vsGiB := rfl
@[simp] theorem State.modMcc_vsFullSince (f : Mcc → Mcc) : (s.modMcc f).vsFullSince = s.vsFullSince := rfl
@[simp] theorem State.modMcc_image (f : Mcc → Mcc) : (s.modMcc f).image = s.image := rfl
@[simp] theorem State.modMcc_free (f : Mcc → Mcc) : (s.modMcc f).free = s.free := rfl
@[simp] theorem State.modMcc_agenda (f : Mcc → Mcc) : (s.modMcc f).agenda = s.agenda := rfl

/-! ### modSquads -/

@[simp] theorem State.modSquads_focus (p : Squad → Bool) (f : Squad → Squad) : (s.modSquads p f).focus = s.focus := rfl
@[simp] theorem State.modSquads_mcc (p : Squad → Bool) (f : Squad → Squad) : (s.modSquads p f).mcc = s.mcc := rfl
@[simp] theorem State.modSquads_mccs (p : Squad → Bool) (f : Squad → Squad) : (s.modSquads p f).mccs = s.mccs := rfl
@[simp] theorem State.modSquads_now (p : Squad → Bool) (f : Squad → Squad) : (s.modSquads p f).now = s.now := rfl
@[simp] theorem State.modSquads_lastTick (p : Squad → Bool) (f : Squad → Squad) : (s.modSquads p f).lastTick = s.lastTick := rfl
@[simp] theorem State.modSquads_slack (p : Squad → Bool) (f : Squad → Squad) : (s.modSquads p f).slack = s.slack := rfl
@[simp] theorem State.modSquads_pkgIdx (p : Squad → Bool) (f : Squad → Squad) : (s.modSquads p f).pkgIdx = s.pkgIdx := rfl
@[simp] theorem State.modSquads_bridge (p : Squad → Bool) (f : Squad → Squad) : (s.modSquads p f).bridge = s.bridge := rfl
@[simp] theorem State.modSquads_mem (p : Squad → Bool) (f : Squad → Squad) : (s.modSquads p f).mem = s.mem := rfl
@[simp] theorem State.modSquads_pubs (p : Squad → Bool) (f : Squad → Squad) : (s.modSquads p f).pubs = s.pubs := rfl
@[simp] theorem State.modSquads_msgs (p : Squad → Bool) (f : Squad → Squad) : (s.modSquads p f).msgs = s.msgs := rfl
@[simp] theorem State.modSquads_nextId (p : Squad → Bool) (f : Squad → Squad) : (s.modSquads p f).nextId = s.nextId := rfl
@[simp] theorem State.modSquads_poison (p : Squad → Bool) (f : Squad → Squad) : (s.modSquads p f).poison = s.poison := rfl
@[simp] theorem State.modSquads_l1 (p : Squad → Bool) (f : Squad → Squad) : (s.modSquads p f).l1 = s.l1 := rfl
@[simp] theorem State.modSquads_copies (p : Squad → Bool) (f : Squad → Squad) : (s.modSquads p f).copies = s.copies := rfl
@[simp] theorem State.modSquads_manual (p : Squad → Bool) (f : Squad → Squad) : (s.modSquads p f).manual = s.manual := rfl
@[simp] theorem State.modSquads_acopies (p : Squad → Bool) (f : Squad → Squad) : (s.modSquads p f).acopies = s.acopies := rfl
@[simp] theorem State.modSquads_home (p : Squad → Bool) (f : Squad → Squad) : (s.modSquads p f).home = s.home := rfl
@[simp] theorem State.modSquads_locks (p : Squad → Bool) (f : Squad → Squad) : (s.modSquads p f).locks = s.locks := rfl
@[simp] theorem State.modSquads_relstamps (p : Squad → Bool) (f : Squad → Squad) : (s.modSquads p f).relstamps = s.relstamps := rfl
@[simp] theorem State.modSquads_filters (p : Squad → Bool) (f : Squad → Squad) : (s.modSquads p f).filters = s.filters := rfl
@[simp] theorem State.modSquads_grants (p : Squad → Bool) (f : Squad → Squad) : (s.modSquads p f).grants = s.grants := rfl
@[simp] theorem State.modSquads_sliceMap (p : Squad → Bool) (f : Squad → Squad) : (s.modSquads p f).sliceMap = s.sliceMap := rfl
@[simp] theorem State.modSquads_migrating (p : Squad → Bool) (f : Squad → Squad) : (s.modSquads p f).migrating = s.migrating := rfl
@[simp] theorem State.modSquads_hostUr (p : Squad → Bool) (f : Squad → Squad) : (s.modSquads p f).hostUr = s.hostUr := rfl
@[simp] theorem State.modSquads_keys (p : Squad → Bool) (f : Squad → Squad) : (s.modSquads p f).keys = s.keys := rfl
@[simp] theorem State.modSquads_outbox (p : Squad → Bool) (f : Squad → Squad) : (s.modSquads p f).outbox = s.outbox := rfl
@[simp] theorem State.modSquads_reqs (p : Squad → Bool) (f : Squad → Squad) : (s.modSquads p f).reqs = s.reqs := rfl
@[simp] theorem State.modSquads_inbox (p : Squad → Bool) (f : Squad → Squad) : (s.modSquads p f).inbox = s.inbox := rfl
@[simp] theorem State.modSquads_answers (p : Squad → Bool) (f : Squad → Squad) : (s.modSquads p f).answers = s.answers := rfl
@[simp] theorem State.modSquads_fwCopy (p : Squad → Bool) (f : Squad → Squad) : (s.modSquads p f).fwCopy = s.fwCopy := rfl
@[simp] theorem State.modSquads_aliasKey (p : Squad → Bool) (f : Squad → Squad) : (s.modSquads p f).aliasKey = s.aliasKey := rfl
@[simp] theorem State.modSquads_aliasCert (p : Squad → Bool) (f : Squad → Squad) : (s.modSquads p f).aliasCert = s.aliasCert := rfl
@[simp] theorem State.modSquads_grantWaits (p : Squad → Bool) (f : Squad → Squad) : (s.modSquads p f).grantWaits = s.grantWaits := rfl
@[simp] theorem State.modSquads_notes (p : Squad → Bool) (f : Squad → Squad) : (s.modSquads p f).notes = s.notes := rfl
@[simp] theorem State.modSquads_ringStamps (p : Squad → Bool) (f : Squad → Squad) : (s.modSquads p f).ringStamps = s.ringStamps := rfl
@[simp] theorem State.modSquads_walkCache (p : Squad → Bool) (f : Squad → Squad) : (s.modSquads p f).walkCache = s.walkCache := rfl
@[simp] theorem State.modSquads_leaves (p : Squad → Bool) (f : Squad → Squad) : (s.modSquads p f).leaves = s.leaves := rfl
@[simp] theorem State.modSquads_draining (p : Squad → Bool) (f : Squad → Squad) : (s.modSquads p f).draining = s.draining := rfl
@[simp] theorem State.modSquads_links (p : Squad → Bool) (f : Squad → Squad) : (s.modSquads p f).links = s.links := rfl
@[simp] theorem State.modSquads_scratch (p : Squad → Bool) (f : Squad → Squad) : (s.modSquads p f).scratch = s.scratch := rfl
@[simp] theorem State.modSquads_absent (p : Squad → Bool) (f : Squad → Squad) : (s.modSquads p f).absent = s.absent := rfl
@[simp] theorem State.modSquads_objs (p : Squad → Bool) (f : Squad → Squad) : (s.modSquads p f).objs = s.objs := rfl
@[simp] theorem State.modSquads_arrival (p : Squad → Bool) (f : Squad → Squad) : (s.modSquads p f).arrival = s.arrival := rfl
@[simp] theorem State.modSquads_luts (p : Squad → Bool) (f : Squad → Squad) : (s.modSquads p f).luts = s.luts := rfl
@[simp] theorem State.modSquads_sfu (p : Squad → Bool) (f : Squad → Squad) : (s.modSquads p f).sfu = s.sfu := rfl
@[simp] theorem State.modSquads_tlsets (p : Squad → Bool) (f : Squad → Squad) : (s.modSquads p f).tlsets = s.tlsets := rfl
@[simp] theorem State.modSquads_cmds (p : Squad → Bool) (f : Squad → Squad) : (s.modSquads p f).cmds = s.cmds := rfl
@[simp] theorem State.modSquads_chans (p : Squad → Bool) (f : Squad → Squad) : (s.modSquads p f).chans = s.chans := rfl
@[simp] theorem State.modSquads_lvls (p : Squad → Bool) (f : Squad → Squad) : (s.modSquads p f).lvls = s.lvls := rfl
@[simp] theorem State.modSquads_teams (p : Squad → Bool) (f : Squad → Squad) : (s.modSquads p f).teams = s.teams := rfl
@[simp] theorem State.modSquads_launches (p : Squad → Bool) (f : Squad → Squad) : (s.modSquads p f).launches = s.launches := rfl
@[simp] theorem State.modSquads_huddles (p : Squad → Bool) (f : Squad → Squad) : (s.modSquads p f).huddles = s.huddles := rfl
@[simp] theorem State.modSquads_queues (p : Squad → Bool) (f : Squad → Squad) : (s.modSquads p f).queues = s.queues := rfl
@[simp] theorem State.modSquads_arbLast (p : Squad → Bool) (f : Squad → Squad) : (s.modSquads p f).arbLast = s.arbLast := rfl
@[simp] theorem State.modSquads_csrs (p : Squad → Bool) (f : Squad → Squad) : (s.modSquads p f).csrs = s.csrs := rfl
@[simp] theorem State.modSquads_hostCtxsel (p : Squad → Bool) (f : Squad → Squad) : (s.modSquads p f).hostCtxsel = s.hostCtxsel := rfl
@[simp] theorem State.modSquads_hirq (p : Squad → Bool) (f : Squad → Squad) : (s.modSquads p f).hirq = s.hirq := rfl
@[simp] theorem State.modSquads_hirqMask (p : Squad → Bool) (f : Squad → Squad) : (s.modSquads p f).hirqMask = s.hirqMask := rfl
@[simp] theorem State.modSquads_hostErr (p : Squad → Bool) (f : Squad → Squad) : (s.modSquads p f).hostErr = s.hostErr := rfl
@[simp] theorem State.modSquads_msix (p : Squad → Bool) (f : Squad → Squad) : (s.modSquads p f).msix = s.msix := rfl
@[simp] theorem State.modSquads_hostReads (p : Squad → Bool) (f : Squad → Squad) : (s.modSquads p f).hostReads = s.hostReads := rfl
@[simp] theorem State.modSquads_ctxs (p : Squad → Bool) (f : Squad → Squad) : (s.modSquads p f).ctxs = s.ctxs := rfl
@[simp] theorem State.modSquads_tickets (p : Squad → Bool) (f : Squad → Squad) : (s.modSquads p f).tickets = s.tickets := rfl
@[simp] theorem State.modSquads_nextTicket (p : Squad → Bool) (f : Squad → Squad) : (s.modSquads p f).nextTicket = s.nextTicket := rfl
@[simp] theorem State.modSquads_fqWait (p : Squad → Bool) (f : Squad → Squad) : (s.modSquads p f).fqWait = s.fqWait := rfl
@[simp] theorem State.modSquads_parkWait (p : Squad → Bool) (f : Squad → Squad) : (s.modSquads p f).parkWait = s.parkWait := rfl
@[simp] theorem State.modSquads_tlb (p : Squad → Bool) (f : Squad → Squad) : (s.modSquads p f).tlb = s.tlb := rfl
@[simp] theorem State.modSquads_walks (p : Squad → Bool) (f : Squad → Squad) : (s.modSquads p f).walks = s.walks := rfl
@[simp] theorem State.modSquads_erWait (p : Squad → Bool) (f : Squad → Squad) : (s.modSquads p f).erWait = s.erWait := rfl
@[simp] theorem State.modSquads_stopWait (p : Squad → Bool) (f : Squad → Squad) : (s.modSquads p f).stopWait = s.stopWait := rfl
@[simp] theorem State.modSquads_units (p : Squad → Bool) (f : Squad → Squad) : (s.modSquads p f).units = s.units := rfl
@[simp] theorem State.modSquads_repair (p : Squad → Bool) (f : Squad → Squad) : (s.modSquads p f).repair = s.repair := rfl
@[simp] theorem State.modSquads_thermal (p : Squad → Bool) (f : Squad → Squad) : (s.modSquads p f).thermal = s.thermal := rfl
@[simp] theorem State.modSquads_heldReset (p : Squad → Bool) (f : Squad → Squad) : (s.modSquads p f).heldReset = s.heldReset := rfl
@[simp] theorem State.modSquads_clusterMap (p : Squad → Bool) (f : Squad → Squad) : (s.modSquads p f).clusterMap = s.clusterMap := rfl
@[simp] theorem State.modSquads_withdrawn (p : Squad → Bool) (f : Squad → Squad) : (s.modSquads p f).withdrawn = s.withdrawn := rfl
@[simp] theorem State.modSquads_spareLeft (p : Squad → Bool) (f : Squad → Squad) : (s.modSquads p f).spareLeft = s.spareLeft := rfl
@[simp] theorem State.modSquads_samplers (p : Squad → Bool) (f : Squad → Squad) : (s.modSquads p f).samplers = s.samplers := rfl
@[simp] theorem State.modSquads_peers (p : Squad → Bool) (f : Squad → Squad) : (s.modSquads p f).peers = s.peers := rfl
@[simp] theorem State.modSquads_windows (p : Squad → Bool) (f : Squad → Squad) : (s.modSquads p f).windows = s.windows := rfl
@[simp] theorem State.modSquads_sendSeq (p : Squad → Bool) (f : Squad → Squad) : (s.modSquads p f).sendSeq = s.sendSeq := rfl
@[simp] theorem State.modSquads_performed (p : Squad → Bool) (f : Squad → Squad) : (s.modSquads p f).performed = s.performed := rfl
@[simp] theorem State.modSquads_lastBeacon (p : Squad → Bool) (f : Squad → Squad) : (s.modSquads p f).lastBeacon = s.lastBeacon := rfl
@[simp] theorem State.modSquads_change (p : Squad → Bool) (f : Squad → Squad) : (s.modSquads p f).change = s.change := rfl
@[simp] theorem State.modSquads_gens (p : Squad → Bool) (f : Squad → Squad) : (s.modSquads p f).gens = s.gens := rfl
@[simp] theorem State.modSquads_spdm (p : Squad → Bool) (f : Squad → Squad) : (s.modSquads p f).spdm = s.spdm := rfl
@[simp] theorem State.modSquads_vcWays (p : Squad → Bool) (f : Squad → Squad) : (s.modSquads p f).vcWays = s.vcWays := rfl
@[simp] theorem State.modSquads_vsGiB (p : Squad → Bool) (f : Squad → Squad) : (s.modSquads p f).vsGiB = s.vsGiB := rfl
@[simp] theorem State.modSquads_vsFullSince (p : Squad → Bool) (f : Squad → Squad) : (s.modSquads p f).vsFullSince = s.vsFullSince := rfl
@[simp] theorem State.modSquads_image (p : Squad → Bool) (f : Squad → Squad) : (s.modSquads p f).image = s.image := rfl
@[simp] theorem State.modSquads_free (p : Squad → Bool) (f : Squad → Squad) : (s.modSquads p f).free = s.free := rfl
@[simp] theorem State.modSquads_agenda (p : Squad → Bool) (f : Squad → Squad) : (s.modSquads p f).agenda = s.agenda := rfl

/-! ### modMccs -/

@[simp] theorem State.modMccs_focus (p : Mcc → Bool) (f : Mcc → Mcc) : (s.modMccs p f).focus = s.focus := rfl
@[simp] theorem State.modMccs_sq (p : Mcc → Bool) (f : Mcc → Mcc) : (s.modMccs p f).sq = s.sq := rfl
@[simp] theorem State.modMccs_squads (p : Mcc → Bool) (f : Mcc → Mcc) : (s.modMccs p f).squads = s.squads := rfl
@[simp] theorem State.modMccs_now (p : Mcc → Bool) (f : Mcc → Mcc) : (s.modMccs p f).now = s.now := rfl
@[simp] theorem State.modMccs_lastTick (p : Mcc → Bool) (f : Mcc → Mcc) : (s.modMccs p f).lastTick = s.lastTick := rfl
@[simp] theorem State.modMccs_slack (p : Mcc → Bool) (f : Mcc → Mcc) : (s.modMccs p f).slack = s.slack := rfl
@[simp] theorem State.modMccs_pkgIdx (p : Mcc → Bool) (f : Mcc → Mcc) : (s.modMccs p f).pkgIdx = s.pkgIdx := rfl
@[simp] theorem State.modMccs_bridge (p : Mcc → Bool) (f : Mcc → Mcc) : (s.modMccs p f).bridge = s.bridge := rfl
@[simp] theorem State.modMccs_mem (p : Mcc → Bool) (f : Mcc → Mcc) : (s.modMccs p f).mem = s.mem := rfl
@[simp] theorem State.modMccs_pubs (p : Mcc → Bool) (f : Mcc → Mcc) : (s.modMccs p f).pubs = s.pubs := rfl
@[simp] theorem State.modMccs_msgs (p : Mcc → Bool) (f : Mcc → Mcc) : (s.modMccs p f).msgs = s.msgs := rfl
@[simp] theorem State.modMccs_nextId (p : Mcc → Bool) (f : Mcc → Mcc) : (s.modMccs p f).nextId = s.nextId := rfl
@[simp] theorem State.modMccs_poison (p : Mcc → Bool) (f : Mcc → Mcc) : (s.modMccs p f).poison = s.poison := rfl
@[simp] theorem State.modMccs_l1 (p : Mcc → Bool) (f : Mcc → Mcc) : (s.modMccs p f).l1 = s.l1 := rfl
@[simp] theorem State.modMccs_copies (p : Mcc → Bool) (f : Mcc → Mcc) : (s.modMccs p f).copies = s.copies := rfl
@[simp] theorem State.modMccs_manual (p : Mcc → Bool) (f : Mcc → Mcc) : (s.modMccs p f).manual = s.manual := rfl
@[simp] theorem State.modMccs_acopies (p : Mcc → Bool) (f : Mcc → Mcc) : (s.modMccs p f).acopies = s.acopies := rfl
@[simp] theorem State.modMccs_home (p : Mcc → Bool) (f : Mcc → Mcc) : (s.modMccs p f).home = s.home := rfl
@[simp] theorem State.modMccs_locks (p : Mcc → Bool) (f : Mcc → Mcc) : (s.modMccs p f).locks = s.locks := rfl
@[simp] theorem State.modMccs_relstamps (p : Mcc → Bool) (f : Mcc → Mcc) : (s.modMccs p f).relstamps = s.relstamps := rfl
@[simp] theorem State.modMccs_filters (p : Mcc → Bool) (f : Mcc → Mcc) : (s.modMccs p f).filters = s.filters := rfl
@[simp] theorem State.modMccs_grants (p : Mcc → Bool) (f : Mcc → Mcc) : (s.modMccs p f).grants = s.grants := rfl
@[simp] theorem State.modMccs_sliceMap (p : Mcc → Bool) (f : Mcc → Mcc) : (s.modMccs p f).sliceMap = s.sliceMap := rfl
@[simp] theorem State.modMccs_migrating (p : Mcc → Bool) (f : Mcc → Mcc) : (s.modMccs p f).migrating = s.migrating := rfl
@[simp] theorem State.modMccs_hostUr (p : Mcc → Bool) (f : Mcc → Mcc) : (s.modMccs p f).hostUr = s.hostUr := rfl
@[simp] theorem State.modMccs_keys (p : Mcc → Bool) (f : Mcc → Mcc) : (s.modMccs p f).keys = s.keys := rfl
@[simp] theorem State.modMccs_outbox (p : Mcc → Bool) (f : Mcc → Mcc) : (s.modMccs p f).outbox = s.outbox := rfl
@[simp] theorem State.modMccs_reqs (p : Mcc → Bool) (f : Mcc → Mcc) : (s.modMccs p f).reqs = s.reqs := rfl
@[simp] theorem State.modMccs_inbox (p : Mcc → Bool) (f : Mcc → Mcc) : (s.modMccs p f).inbox = s.inbox := rfl
@[simp] theorem State.modMccs_answers (p : Mcc → Bool) (f : Mcc → Mcc) : (s.modMccs p f).answers = s.answers := rfl
@[simp] theorem State.modMccs_fwCopy (p : Mcc → Bool) (f : Mcc → Mcc) : (s.modMccs p f).fwCopy = s.fwCopy := rfl
@[simp] theorem State.modMccs_aliasKey (p : Mcc → Bool) (f : Mcc → Mcc) : (s.modMccs p f).aliasKey = s.aliasKey := rfl
@[simp] theorem State.modMccs_aliasCert (p : Mcc → Bool) (f : Mcc → Mcc) : (s.modMccs p f).aliasCert = s.aliasCert := rfl
@[simp] theorem State.modMccs_grantWaits (p : Mcc → Bool) (f : Mcc → Mcc) : (s.modMccs p f).grantWaits = s.grantWaits := rfl
@[simp] theorem State.modMccs_notes (p : Mcc → Bool) (f : Mcc → Mcc) : (s.modMccs p f).notes = s.notes := rfl
@[simp] theorem State.modMccs_ringStamps (p : Mcc → Bool) (f : Mcc → Mcc) : (s.modMccs p f).ringStamps = s.ringStamps := rfl
@[simp] theorem State.modMccs_walkCache (p : Mcc → Bool) (f : Mcc → Mcc) : (s.modMccs p f).walkCache = s.walkCache := rfl
@[simp] theorem State.modMccs_leaves (p : Mcc → Bool) (f : Mcc → Mcc) : (s.modMccs p f).leaves = s.leaves := rfl
@[simp] theorem State.modMccs_draining (p : Mcc → Bool) (f : Mcc → Mcc) : (s.modMccs p f).draining = s.draining := rfl
@[simp] theorem State.modMccs_links (p : Mcc → Bool) (f : Mcc → Mcc) : (s.modMccs p f).links = s.links := rfl
@[simp] theorem State.modMccs_scratch (p : Mcc → Bool) (f : Mcc → Mcc) : (s.modMccs p f).scratch = s.scratch := rfl
@[simp] theorem State.modMccs_absent (p : Mcc → Bool) (f : Mcc → Mcc) : (s.modMccs p f).absent = s.absent := rfl
@[simp] theorem State.modMccs_objs (p : Mcc → Bool) (f : Mcc → Mcc) : (s.modMccs p f).objs = s.objs := rfl
@[simp] theorem State.modMccs_arrival (p : Mcc → Bool) (f : Mcc → Mcc) : (s.modMccs p f).arrival = s.arrival := rfl
@[simp] theorem State.modMccs_luts (p : Mcc → Bool) (f : Mcc → Mcc) : (s.modMccs p f).luts = s.luts := rfl
@[simp] theorem State.modMccs_sfu (p : Mcc → Bool) (f : Mcc → Mcc) : (s.modMccs p f).sfu = s.sfu := rfl
@[simp] theorem State.modMccs_tlsets (p : Mcc → Bool) (f : Mcc → Mcc) : (s.modMccs p f).tlsets = s.tlsets := rfl
@[simp] theorem State.modMccs_cmds (p : Mcc → Bool) (f : Mcc → Mcc) : (s.modMccs p f).cmds = s.cmds := rfl
@[simp] theorem State.modMccs_chans (p : Mcc → Bool) (f : Mcc → Mcc) : (s.modMccs p f).chans = s.chans := rfl
@[simp] theorem State.modMccs_lvls (p : Mcc → Bool) (f : Mcc → Mcc) : (s.modMccs p f).lvls = s.lvls := rfl
@[simp] theorem State.modMccs_teams (p : Mcc → Bool) (f : Mcc → Mcc) : (s.modMccs p f).teams = s.teams := rfl
@[simp] theorem State.modMccs_launches (p : Mcc → Bool) (f : Mcc → Mcc) : (s.modMccs p f).launches = s.launches := rfl
@[simp] theorem State.modMccs_huddles (p : Mcc → Bool) (f : Mcc → Mcc) : (s.modMccs p f).huddles = s.huddles := rfl
@[simp] theorem State.modMccs_queues (p : Mcc → Bool) (f : Mcc → Mcc) : (s.modMccs p f).queues = s.queues := rfl
@[simp] theorem State.modMccs_arbLast (p : Mcc → Bool) (f : Mcc → Mcc) : (s.modMccs p f).arbLast = s.arbLast := rfl
@[simp] theorem State.modMccs_csrs (p : Mcc → Bool) (f : Mcc → Mcc) : (s.modMccs p f).csrs = s.csrs := rfl
@[simp] theorem State.modMccs_hostCtxsel (p : Mcc → Bool) (f : Mcc → Mcc) : (s.modMccs p f).hostCtxsel = s.hostCtxsel := rfl
@[simp] theorem State.modMccs_hirq (p : Mcc → Bool) (f : Mcc → Mcc) : (s.modMccs p f).hirq = s.hirq := rfl
@[simp] theorem State.modMccs_hirqMask (p : Mcc → Bool) (f : Mcc → Mcc) : (s.modMccs p f).hirqMask = s.hirqMask := rfl
@[simp] theorem State.modMccs_hostErr (p : Mcc → Bool) (f : Mcc → Mcc) : (s.modMccs p f).hostErr = s.hostErr := rfl
@[simp] theorem State.modMccs_msix (p : Mcc → Bool) (f : Mcc → Mcc) : (s.modMccs p f).msix = s.msix := rfl
@[simp] theorem State.modMccs_hostReads (p : Mcc → Bool) (f : Mcc → Mcc) : (s.modMccs p f).hostReads = s.hostReads := rfl
@[simp] theorem State.modMccs_ctxs (p : Mcc → Bool) (f : Mcc → Mcc) : (s.modMccs p f).ctxs = s.ctxs := rfl
@[simp] theorem State.modMccs_tickets (p : Mcc → Bool) (f : Mcc → Mcc) : (s.modMccs p f).tickets = s.tickets := rfl
@[simp] theorem State.modMccs_nextTicket (p : Mcc → Bool) (f : Mcc → Mcc) : (s.modMccs p f).nextTicket = s.nextTicket := rfl
@[simp] theorem State.modMccs_fqWait (p : Mcc → Bool) (f : Mcc → Mcc) : (s.modMccs p f).fqWait = s.fqWait := rfl
@[simp] theorem State.modMccs_parkWait (p : Mcc → Bool) (f : Mcc → Mcc) : (s.modMccs p f).parkWait = s.parkWait := rfl
@[simp] theorem State.modMccs_tlb (p : Mcc → Bool) (f : Mcc → Mcc) : (s.modMccs p f).tlb = s.tlb := rfl
@[simp] theorem State.modMccs_walks (p : Mcc → Bool) (f : Mcc → Mcc) : (s.modMccs p f).walks = s.walks := rfl
@[simp] theorem State.modMccs_erWait (p : Mcc → Bool) (f : Mcc → Mcc) : (s.modMccs p f).erWait = s.erWait := rfl
@[simp] theorem State.modMccs_stopWait (p : Mcc → Bool) (f : Mcc → Mcc) : (s.modMccs p f).stopWait = s.stopWait := rfl
@[simp] theorem State.modMccs_units (p : Mcc → Bool) (f : Mcc → Mcc) : (s.modMccs p f).units = s.units := rfl
@[simp] theorem State.modMccs_repair (p : Mcc → Bool) (f : Mcc → Mcc) : (s.modMccs p f).repair = s.repair := rfl
@[simp] theorem State.modMccs_thermal (p : Mcc → Bool) (f : Mcc → Mcc) : (s.modMccs p f).thermal = s.thermal := rfl
@[simp] theorem State.modMccs_heldReset (p : Mcc → Bool) (f : Mcc → Mcc) : (s.modMccs p f).heldReset = s.heldReset := rfl
@[simp] theorem State.modMccs_clusterMap (p : Mcc → Bool) (f : Mcc → Mcc) : (s.modMccs p f).clusterMap = s.clusterMap := rfl
@[simp] theorem State.modMccs_withdrawn (p : Mcc → Bool) (f : Mcc → Mcc) : (s.modMccs p f).withdrawn = s.withdrawn := rfl
@[simp] theorem State.modMccs_spareLeft (p : Mcc → Bool) (f : Mcc → Mcc) : (s.modMccs p f).spareLeft = s.spareLeft := rfl
@[simp] theorem State.modMccs_samplers (p : Mcc → Bool) (f : Mcc → Mcc) : (s.modMccs p f).samplers = s.samplers := rfl
@[simp] theorem State.modMccs_peers (p : Mcc → Bool) (f : Mcc → Mcc) : (s.modMccs p f).peers = s.peers := rfl
@[simp] theorem State.modMccs_windows (p : Mcc → Bool) (f : Mcc → Mcc) : (s.modMccs p f).windows = s.windows := rfl
@[simp] theorem State.modMccs_sendSeq (p : Mcc → Bool) (f : Mcc → Mcc) : (s.modMccs p f).sendSeq = s.sendSeq := rfl
@[simp] theorem State.modMccs_performed (p : Mcc → Bool) (f : Mcc → Mcc) : (s.modMccs p f).performed = s.performed := rfl
@[simp] theorem State.modMccs_lastBeacon (p : Mcc → Bool) (f : Mcc → Mcc) : (s.modMccs p f).lastBeacon = s.lastBeacon := rfl
@[simp] theorem State.modMccs_change (p : Mcc → Bool) (f : Mcc → Mcc) : (s.modMccs p f).change = s.change := rfl
@[simp] theorem State.modMccs_gens (p : Mcc → Bool) (f : Mcc → Mcc) : (s.modMccs p f).gens = s.gens := rfl
@[simp] theorem State.modMccs_spdm (p : Mcc → Bool) (f : Mcc → Mcc) : (s.modMccs p f).spdm = s.spdm := rfl
@[simp] theorem State.modMccs_vcWays (p : Mcc → Bool) (f : Mcc → Mcc) : (s.modMccs p f).vcWays = s.vcWays := rfl
@[simp] theorem State.modMccs_vsGiB (p : Mcc → Bool) (f : Mcc → Mcc) : (s.modMccs p f).vsGiB = s.vsGiB := rfl
@[simp] theorem State.modMccs_vsFullSince (p : Mcc → Bool) (f : Mcc → Mcc) : (s.modMccs p f).vsFullSince = s.vsFullSince := rfl
@[simp] theorem State.modMccs_image (p : Mcc → Bool) (f : Mcc → Mcc) : (s.modMccs p f).image = s.image := rfl
@[simp] theorem State.modMccs_free (p : Mcc → Bool) (f : Mcc → Mcc) : (s.modMccs p f).free = s.free := rfl
@[simp] theorem State.modMccs_agenda (p : Mcc → Bool) (f : Mcc → Mcc) : (s.modMccs p f).agenda = s.agenda := rfl

/-! ### modTeam -/

@[simp] theorem State.modTeam_focus (n : Nat) (f : Team → Team) : (s.modTeam n f).focus = s.focus := rfl
@[simp] theorem State.modTeam_sq (n : Nat) (f : Team → Team) : (s.modTeam n f).sq = s.sq := rfl
@[simp] theorem State.modTeam_mcc (n : Nat) (f : Team → Team) : (s.modTeam n f).mcc = s.mcc := rfl
@[simp] theorem State.modTeam_squads (n : Nat) (f : Team → Team) : (s.modTeam n f).squads = s.squads := rfl
@[simp] theorem State.modTeam_mccs (n : Nat) (f : Team → Team) : (s.modTeam n f).mccs = s.mccs := rfl
@[simp] theorem State.modTeam_now (n : Nat) (f : Team → Team) : (s.modTeam n f).now = s.now := rfl
@[simp] theorem State.modTeam_lastTick (n : Nat) (f : Team → Team) : (s.modTeam n f).lastTick = s.lastTick := rfl
@[simp] theorem State.modTeam_slack (n : Nat) (f : Team → Team) : (s.modTeam n f).slack = s.slack := rfl
@[simp] theorem State.modTeam_pkgIdx (n : Nat) (f : Team → Team) : (s.modTeam n f).pkgIdx = s.pkgIdx := rfl
@[simp] theorem State.modTeam_bridge (n : Nat) (f : Team → Team) : (s.modTeam n f).bridge = s.bridge := rfl
@[simp] theorem State.modTeam_mem (n : Nat) (f : Team → Team) : (s.modTeam n f).mem = s.mem := rfl
@[simp] theorem State.modTeam_pubs (n : Nat) (f : Team → Team) : (s.modTeam n f).pubs = s.pubs := rfl
@[simp] theorem State.modTeam_msgs (n : Nat) (f : Team → Team) : (s.modTeam n f).msgs = s.msgs := rfl
@[simp] theorem State.modTeam_nextId (n : Nat) (f : Team → Team) : (s.modTeam n f).nextId = s.nextId := rfl
@[simp] theorem State.modTeam_poison (n : Nat) (f : Team → Team) : (s.modTeam n f).poison = s.poison := rfl
@[simp] theorem State.modTeam_l1 (n : Nat) (f : Team → Team) : (s.modTeam n f).l1 = s.l1 := rfl
@[simp] theorem State.modTeam_copies (n : Nat) (f : Team → Team) : (s.modTeam n f).copies = s.copies := rfl
@[simp] theorem State.modTeam_manual (n : Nat) (f : Team → Team) : (s.modTeam n f).manual = s.manual := rfl
@[simp] theorem State.modTeam_acopies (n : Nat) (f : Team → Team) : (s.modTeam n f).acopies = s.acopies := rfl
@[simp] theorem State.modTeam_home (n : Nat) (f : Team → Team) : (s.modTeam n f).home = s.home := rfl
@[simp] theorem State.modTeam_locks (n : Nat) (f : Team → Team) : (s.modTeam n f).locks = s.locks := rfl
@[simp] theorem State.modTeam_relstamps (n : Nat) (f : Team → Team) : (s.modTeam n f).relstamps = s.relstamps := rfl
@[simp] theorem State.modTeam_filters (n : Nat) (f : Team → Team) : (s.modTeam n f).filters = s.filters := rfl
@[simp] theorem State.modTeam_grants (n : Nat) (f : Team → Team) : (s.modTeam n f).grants = s.grants := rfl
@[simp] theorem State.modTeam_sliceMap (n : Nat) (f : Team → Team) : (s.modTeam n f).sliceMap = s.sliceMap := rfl
@[simp] theorem State.modTeam_migrating (n : Nat) (f : Team → Team) : (s.modTeam n f).migrating = s.migrating := rfl
@[simp] theorem State.modTeam_hostUr (n : Nat) (f : Team → Team) : (s.modTeam n f).hostUr = s.hostUr := rfl
@[simp] theorem State.modTeam_keys (n : Nat) (f : Team → Team) : (s.modTeam n f).keys = s.keys := rfl
@[simp] theorem State.modTeam_outbox (n : Nat) (f : Team → Team) : (s.modTeam n f).outbox = s.outbox := rfl
@[simp] theorem State.modTeam_reqs (n : Nat) (f : Team → Team) : (s.modTeam n f).reqs = s.reqs := rfl
@[simp] theorem State.modTeam_inbox (n : Nat) (f : Team → Team) : (s.modTeam n f).inbox = s.inbox := rfl
@[simp] theorem State.modTeam_answers (n : Nat) (f : Team → Team) : (s.modTeam n f).answers = s.answers := rfl
@[simp] theorem State.modTeam_fwCopy (n : Nat) (f : Team → Team) : (s.modTeam n f).fwCopy = s.fwCopy := rfl
@[simp] theorem State.modTeam_aliasKey (n : Nat) (f : Team → Team) : (s.modTeam n f).aliasKey = s.aliasKey := rfl
@[simp] theorem State.modTeam_aliasCert (n : Nat) (f : Team → Team) : (s.modTeam n f).aliasCert = s.aliasCert := rfl
@[simp] theorem State.modTeam_grantWaits (n : Nat) (f : Team → Team) : (s.modTeam n f).grantWaits = s.grantWaits := rfl
@[simp] theorem State.modTeam_notes (n : Nat) (f : Team → Team) : (s.modTeam n f).notes = s.notes := rfl
@[simp] theorem State.modTeam_ringStamps (n : Nat) (f : Team → Team) : (s.modTeam n f).ringStamps = s.ringStamps := rfl
@[simp] theorem State.modTeam_walkCache (n : Nat) (f : Team → Team) : (s.modTeam n f).walkCache = s.walkCache := rfl
@[simp] theorem State.modTeam_leaves (n : Nat) (f : Team → Team) : (s.modTeam n f).leaves = s.leaves := rfl
@[simp] theorem State.modTeam_draining (n : Nat) (f : Team → Team) : (s.modTeam n f).draining = s.draining := rfl
@[simp] theorem State.modTeam_links (n : Nat) (f : Team → Team) : (s.modTeam n f).links = s.links := rfl
@[simp] theorem State.modTeam_scratch (n : Nat) (f : Team → Team) : (s.modTeam n f).scratch = s.scratch := rfl
@[simp] theorem State.modTeam_absent (n : Nat) (f : Team → Team) : (s.modTeam n f).absent = s.absent := rfl
@[simp] theorem State.modTeam_objs (n : Nat) (f : Team → Team) : (s.modTeam n f).objs = s.objs := rfl
@[simp] theorem State.modTeam_arrival (n : Nat) (f : Team → Team) : (s.modTeam n f).arrival = s.arrival := rfl
@[simp] theorem State.modTeam_luts (n : Nat) (f : Team → Team) : (s.modTeam n f).luts = s.luts := rfl
@[simp] theorem State.modTeam_sfu (n : Nat) (f : Team → Team) : (s.modTeam n f).sfu = s.sfu := rfl
@[simp] theorem State.modTeam_tlsets (n : Nat) (f : Team → Team) : (s.modTeam n f).tlsets = s.tlsets := rfl
@[simp] theorem State.modTeam_cmds (n : Nat) (f : Team → Team) : (s.modTeam n f).cmds = s.cmds := rfl
@[simp] theorem State.modTeam_chans (n : Nat) (f : Team → Team) : (s.modTeam n f).chans = s.chans := rfl
@[simp] theorem State.modTeam_lvls (n : Nat) (f : Team → Team) : (s.modTeam n f).lvls = s.lvls := rfl
@[simp] theorem State.modTeam_launches (n : Nat) (f : Team → Team) : (s.modTeam n f).launches = s.launches := rfl
@[simp] theorem State.modTeam_huddles (n : Nat) (f : Team → Team) : (s.modTeam n f).huddles = s.huddles := rfl
@[simp] theorem State.modTeam_queues (n : Nat) (f : Team → Team) : (s.modTeam n f).queues = s.queues := rfl
@[simp] theorem State.modTeam_arbLast (n : Nat) (f : Team → Team) : (s.modTeam n f).arbLast = s.arbLast := rfl
@[simp] theorem State.modTeam_csrs (n : Nat) (f : Team → Team) : (s.modTeam n f).csrs = s.csrs := rfl
@[simp] theorem State.modTeam_hostCtxsel (n : Nat) (f : Team → Team) : (s.modTeam n f).hostCtxsel = s.hostCtxsel := rfl
@[simp] theorem State.modTeam_hirq (n : Nat) (f : Team → Team) : (s.modTeam n f).hirq = s.hirq := rfl
@[simp] theorem State.modTeam_hirqMask (n : Nat) (f : Team → Team) : (s.modTeam n f).hirqMask = s.hirqMask := rfl
@[simp] theorem State.modTeam_hostErr (n : Nat) (f : Team → Team) : (s.modTeam n f).hostErr = s.hostErr := rfl
@[simp] theorem State.modTeam_msix (n : Nat) (f : Team → Team) : (s.modTeam n f).msix = s.msix := rfl
@[simp] theorem State.modTeam_hostReads (n : Nat) (f : Team → Team) : (s.modTeam n f).hostReads = s.hostReads := rfl
@[simp] theorem State.modTeam_ctxs (n : Nat) (f : Team → Team) : (s.modTeam n f).ctxs = s.ctxs := rfl
@[simp] theorem State.modTeam_tickets (n : Nat) (f : Team → Team) : (s.modTeam n f).tickets = s.tickets := rfl
@[simp] theorem State.modTeam_nextTicket (n : Nat) (f : Team → Team) : (s.modTeam n f).nextTicket = s.nextTicket := rfl
@[simp] theorem State.modTeam_fqWait (n : Nat) (f : Team → Team) : (s.modTeam n f).fqWait = s.fqWait := rfl
@[simp] theorem State.modTeam_parkWait (n : Nat) (f : Team → Team) : (s.modTeam n f).parkWait = s.parkWait := rfl
@[simp] theorem State.modTeam_tlb (n : Nat) (f : Team → Team) : (s.modTeam n f).tlb = s.tlb := rfl
@[simp] theorem State.modTeam_walks (n : Nat) (f : Team → Team) : (s.modTeam n f).walks = s.walks := rfl
@[simp] theorem State.modTeam_erWait (n : Nat) (f : Team → Team) : (s.modTeam n f).erWait = s.erWait := rfl
@[simp] theorem State.modTeam_stopWait (n : Nat) (f : Team → Team) : (s.modTeam n f).stopWait = s.stopWait := rfl
@[simp] theorem State.modTeam_units (n : Nat) (f : Team → Team) : (s.modTeam n f).units = s.units := rfl
@[simp] theorem State.modTeam_repair (n : Nat) (f : Team → Team) : (s.modTeam n f).repair = s.repair := rfl
@[simp] theorem State.modTeam_thermal (n : Nat) (f : Team → Team) : (s.modTeam n f).thermal = s.thermal := rfl
@[simp] theorem State.modTeam_heldReset (n : Nat) (f : Team → Team) : (s.modTeam n f).heldReset = s.heldReset := rfl
@[simp] theorem State.modTeam_clusterMap (n : Nat) (f : Team → Team) : (s.modTeam n f).clusterMap = s.clusterMap := rfl
@[simp] theorem State.modTeam_withdrawn (n : Nat) (f : Team → Team) : (s.modTeam n f).withdrawn = s.withdrawn := rfl
@[simp] theorem State.modTeam_spareLeft (n : Nat) (f : Team → Team) : (s.modTeam n f).spareLeft = s.spareLeft := rfl
@[simp] theorem State.modTeam_samplers (n : Nat) (f : Team → Team) : (s.modTeam n f).samplers = s.samplers := rfl
@[simp] theorem State.modTeam_peers (n : Nat) (f : Team → Team) : (s.modTeam n f).peers = s.peers := rfl
@[simp] theorem State.modTeam_windows (n : Nat) (f : Team → Team) : (s.modTeam n f).windows = s.windows := rfl
@[simp] theorem State.modTeam_sendSeq (n : Nat) (f : Team → Team) : (s.modTeam n f).sendSeq = s.sendSeq := rfl
@[simp] theorem State.modTeam_performed (n : Nat) (f : Team → Team) : (s.modTeam n f).performed = s.performed := rfl
@[simp] theorem State.modTeam_lastBeacon (n : Nat) (f : Team → Team) : (s.modTeam n f).lastBeacon = s.lastBeacon := rfl
@[simp] theorem State.modTeam_change (n : Nat) (f : Team → Team) : (s.modTeam n f).change = s.change := rfl
@[simp] theorem State.modTeam_gens (n : Nat) (f : Team → Team) : (s.modTeam n f).gens = s.gens := rfl
@[simp] theorem State.modTeam_spdm (n : Nat) (f : Team → Team) : (s.modTeam n f).spdm = s.spdm := rfl
@[simp] theorem State.modTeam_vcWays (n : Nat) (f : Team → Team) : (s.modTeam n f).vcWays = s.vcWays := rfl
@[simp] theorem State.modTeam_vsGiB (n : Nat) (f : Team → Team) : (s.modTeam n f).vsGiB = s.vsGiB := rfl
@[simp] theorem State.modTeam_vsFullSince (n : Nat) (f : Team → Team) : (s.modTeam n f).vsFullSince = s.vsFullSince := rfl
@[simp] theorem State.modTeam_image (n : Nat) (f : Team → Team) : (s.modTeam n f).image = s.image := rfl
@[simp] theorem State.modTeam_free (n : Nat) (f : Team → Team) : (s.modTeam n f).free = s.free := rfl
@[simp] theorem State.modTeam_agenda (n : Nat) (f : Team → Team) : (s.modTeam n f).agenda = s.agenda := rfl

/-! ### setCsr -/

@[simp] theorem State.setCsr_focus (c n : Nat) (v : W) : (s.setCsr c n v).focus = s.focus := rfl
@[simp] theorem State.setCsr_sq (c n : Nat) (v : W) : (s.setCsr c n v).sq = s.sq := rfl
@[simp] theorem State.setCsr_mcc (c n : Nat) (v : W) : (s.setCsr c n v).mcc = s.mcc := rfl
@[simp] theorem State.setCsr_squads (c n : Nat) (v : W) : (s.setCsr c n v).squads = s.squads := rfl
@[simp] theorem State.setCsr_mccs (c n : Nat) (v : W) : (s.setCsr c n v).mccs = s.mccs := rfl
@[simp] theorem State.setCsr_now (c n : Nat) (v : W) : (s.setCsr c n v).now = s.now := rfl
@[simp] theorem State.setCsr_lastTick (c n : Nat) (v : W) : (s.setCsr c n v).lastTick = s.lastTick := rfl
@[simp] theorem State.setCsr_slack (c n : Nat) (v : W) : (s.setCsr c n v).slack = s.slack := rfl
@[simp] theorem State.setCsr_pkgIdx (c n : Nat) (v : W) : (s.setCsr c n v).pkgIdx = s.pkgIdx := rfl
@[simp] theorem State.setCsr_bridge (c n : Nat) (v : W) : (s.setCsr c n v).bridge = s.bridge := rfl
@[simp] theorem State.setCsr_mem (c n : Nat) (v : W) : (s.setCsr c n v).mem = s.mem := rfl
@[simp] theorem State.setCsr_pubs (c n : Nat) (v : W) : (s.setCsr c n v).pubs = s.pubs := rfl
@[simp] theorem State.setCsr_msgs (c n : Nat) (v : W) : (s.setCsr c n v).msgs = s.msgs := rfl
@[simp] theorem State.setCsr_nextId (c n : Nat) (v : W) : (s.setCsr c n v).nextId = s.nextId := rfl
@[simp] theorem State.setCsr_poison (c n : Nat) (v : W) : (s.setCsr c n v).poison = s.poison := rfl
@[simp] theorem State.setCsr_l1 (c n : Nat) (v : W) : (s.setCsr c n v).l1 = s.l1 := rfl
@[simp] theorem State.setCsr_copies (c n : Nat) (v : W) : (s.setCsr c n v).copies = s.copies := rfl
@[simp] theorem State.setCsr_manual (c n : Nat) (v : W) : (s.setCsr c n v).manual = s.manual := rfl
@[simp] theorem State.setCsr_acopies (c n : Nat) (v : W) : (s.setCsr c n v).acopies = s.acopies := rfl
@[simp] theorem State.setCsr_home (c n : Nat) (v : W) : (s.setCsr c n v).home = s.home := rfl
@[simp] theorem State.setCsr_locks (c n : Nat) (v : W) : (s.setCsr c n v).locks = s.locks := rfl
@[simp] theorem State.setCsr_relstamps (c n : Nat) (v : W) : (s.setCsr c n v).relstamps = s.relstamps := rfl
@[simp] theorem State.setCsr_filters (c n : Nat) (v : W) : (s.setCsr c n v).filters = s.filters := rfl
@[simp] theorem State.setCsr_grants (c n : Nat) (v : W) : (s.setCsr c n v).grants = s.grants := rfl
@[simp] theorem State.setCsr_sliceMap (c n : Nat) (v : W) : (s.setCsr c n v).sliceMap = s.sliceMap := rfl
@[simp] theorem State.setCsr_migrating (c n : Nat) (v : W) : (s.setCsr c n v).migrating = s.migrating := rfl
@[simp] theorem State.setCsr_hostUr (c n : Nat) (v : W) : (s.setCsr c n v).hostUr = s.hostUr := rfl
@[simp] theorem State.setCsr_keys (c n : Nat) (v : W) : (s.setCsr c n v).keys = s.keys := rfl
@[simp] theorem State.setCsr_outbox (c n : Nat) (v : W) : (s.setCsr c n v).outbox = s.outbox := rfl
@[simp] theorem State.setCsr_reqs (c n : Nat) (v : W) : (s.setCsr c n v).reqs = s.reqs := rfl
@[simp] theorem State.setCsr_inbox (c n : Nat) (v : W) : (s.setCsr c n v).inbox = s.inbox := rfl
@[simp] theorem State.setCsr_answers (c n : Nat) (v : W) : (s.setCsr c n v).answers = s.answers := rfl
@[simp] theorem State.setCsr_fwCopy (c n : Nat) (v : W) : (s.setCsr c n v).fwCopy = s.fwCopy := rfl
@[simp] theorem State.setCsr_aliasKey (c n : Nat) (v : W) : (s.setCsr c n v).aliasKey = s.aliasKey := rfl
@[simp] theorem State.setCsr_aliasCert (c n : Nat) (v : W) : (s.setCsr c n v).aliasCert = s.aliasCert := rfl
@[simp] theorem State.setCsr_grantWaits (c n : Nat) (v : W) : (s.setCsr c n v).grantWaits = s.grantWaits := rfl
@[simp] theorem State.setCsr_notes (c n : Nat) (v : W) : (s.setCsr c n v).notes = s.notes := rfl
@[simp] theorem State.setCsr_ringStamps (c n : Nat) (v : W) : (s.setCsr c n v).ringStamps = s.ringStamps := rfl
@[simp] theorem State.setCsr_walkCache (c n : Nat) (v : W) : (s.setCsr c n v).walkCache = s.walkCache := rfl
@[simp] theorem State.setCsr_leaves (c n : Nat) (v : W) : (s.setCsr c n v).leaves = s.leaves := rfl
@[simp] theorem State.setCsr_draining (c n : Nat) (v : W) : (s.setCsr c n v).draining = s.draining := rfl
@[simp] theorem State.setCsr_links (c n : Nat) (v : W) : (s.setCsr c n v).links = s.links := rfl
@[simp] theorem State.setCsr_scratch (c n : Nat) (v : W) : (s.setCsr c n v).scratch = s.scratch := rfl
@[simp] theorem State.setCsr_absent (c n : Nat) (v : W) : (s.setCsr c n v).absent = s.absent := rfl
@[simp] theorem State.setCsr_objs (c n : Nat) (v : W) : (s.setCsr c n v).objs = s.objs := rfl
@[simp] theorem State.setCsr_arrival (c n : Nat) (v : W) : (s.setCsr c n v).arrival = s.arrival := rfl
@[simp] theorem State.setCsr_luts (c n : Nat) (v : W) : (s.setCsr c n v).luts = s.luts := rfl
@[simp] theorem State.setCsr_sfu (c n : Nat) (v : W) : (s.setCsr c n v).sfu = s.sfu := rfl
@[simp] theorem State.setCsr_tlsets (c n : Nat) (v : W) : (s.setCsr c n v).tlsets = s.tlsets := rfl
@[simp] theorem State.setCsr_cmds (c n : Nat) (v : W) : (s.setCsr c n v).cmds = s.cmds := rfl
@[simp] theorem State.setCsr_chans (c n : Nat) (v : W) : (s.setCsr c n v).chans = s.chans := rfl
@[simp] theorem State.setCsr_lvls (c n : Nat) (v : W) : (s.setCsr c n v).lvls = s.lvls := rfl
@[simp] theorem State.setCsr_teams (c n : Nat) (v : W) : (s.setCsr c n v).teams = s.teams := rfl
@[simp] theorem State.setCsr_launches (c n : Nat) (v : W) : (s.setCsr c n v).launches = s.launches := rfl
@[simp] theorem State.setCsr_huddles (c n : Nat) (v : W) : (s.setCsr c n v).huddles = s.huddles := rfl
@[simp] theorem State.setCsr_queues (c n : Nat) (v : W) : (s.setCsr c n v).queues = s.queues := rfl
@[simp] theorem State.setCsr_arbLast (c n : Nat) (v : W) : (s.setCsr c n v).arbLast = s.arbLast := rfl
@[simp] theorem State.setCsr_hostCtxsel (c n : Nat) (v : W) : (s.setCsr c n v).hostCtxsel = s.hostCtxsel := rfl
@[simp] theorem State.setCsr_hirq (c n : Nat) (v : W) : (s.setCsr c n v).hirq = s.hirq := rfl
@[simp] theorem State.setCsr_hirqMask (c n : Nat) (v : W) : (s.setCsr c n v).hirqMask = s.hirqMask := rfl
@[simp] theorem State.setCsr_hostErr (c n : Nat) (v : W) : (s.setCsr c n v).hostErr = s.hostErr := rfl
@[simp] theorem State.setCsr_msix (c n : Nat) (v : W) : (s.setCsr c n v).msix = s.msix := rfl
@[simp] theorem State.setCsr_hostReads (c n : Nat) (v : W) : (s.setCsr c n v).hostReads = s.hostReads := rfl
@[simp] theorem State.setCsr_ctxs (c n : Nat) (v : W) : (s.setCsr c n v).ctxs = s.ctxs := rfl
@[simp] theorem State.setCsr_tickets (c n : Nat) (v : W) : (s.setCsr c n v).tickets = s.tickets := rfl
@[simp] theorem State.setCsr_nextTicket (c n : Nat) (v : W) : (s.setCsr c n v).nextTicket = s.nextTicket := rfl
@[simp] theorem State.setCsr_fqWait (c n : Nat) (v : W) : (s.setCsr c n v).fqWait = s.fqWait := rfl
@[simp] theorem State.setCsr_parkWait (c n : Nat) (v : W) : (s.setCsr c n v).parkWait = s.parkWait := rfl
@[simp] theorem State.setCsr_tlb (c n : Nat) (v : W) : (s.setCsr c n v).tlb = s.tlb := rfl
@[simp] theorem State.setCsr_walks (c n : Nat) (v : W) : (s.setCsr c n v).walks = s.walks := rfl
@[simp] theorem State.setCsr_erWait (c n : Nat) (v : W) : (s.setCsr c n v).erWait = s.erWait := rfl
@[simp] theorem State.setCsr_stopWait (c n : Nat) (v : W) : (s.setCsr c n v).stopWait = s.stopWait := rfl
@[simp] theorem State.setCsr_units (c n : Nat) (v : W) : (s.setCsr c n v).units = s.units := rfl
@[simp] theorem State.setCsr_repair (c n : Nat) (v : W) : (s.setCsr c n v).repair = s.repair := rfl
@[simp] theorem State.setCsr_thermal (c n : Nat) (v : W) : (s.setCsr c n v).thermal = s.thermal := rfl
@[simp] theorem State.setCsr_heldReset (c n : Nat) (v : W) : (s.setCsr c n v).heldReset = s.heldReset := rfl
@[simp] theorem State.setCsr_clusterMap (c n : Nat) (v : W) : (s.setCsr c n v).clusterMap = s.clusterMap := rfl
@[simp] theorem State.setCsr_withdrawn (c n : Nat) (v : W) : (s.setCsr c n v).withdrawn = s.withdrawn := rfl
@[simp] theorem State.setCsr_spareLeft (c n : Nat) (v : W) : (s.setCsr c n v).spareLeft = s.spareLeft := rfl
@[simp] theorem State.setCsr_samplers (c n : Nat) (v : W) : (s.setCsr c n v).samplers = s.samplers := rfl
@[simp] theorem State.setCsr_peers (c n : Nat) (v : W) : (s.setCsr c n v).peers = s.peers := rfl
@[simp] theorem State.setCsr_windows (c n : Nat) (v : W) : (s.setCsr c n v).windows = s.windows := rfl
@[simp] theorem State.setCsr_sendSeq (c n : Nat) (v : W) : (s.setCsr c n v).sendSeq = s.sendSeq := rfl
@[simp] theorem State.setCsr_performed (c n : Nat) (v : W) : (s.setCsr c n v).performed = s.performed := rfl
@[simp] theorem State.setCsr_lastBeacon (c n : Nat) (v : W) : (s.setCsr c n v).lastBeacon = s.lastBeacon := rfl
@[simp] theorem State.setCsr_change (c n : Nat) (v : W) : (s.setCsr c n v).change = s.change := rfl
@[simp] theorem State.setCsr_gens (c n : Nat) (v : W) : (s.setCsr c n v).gens = s.gens := rfl
@[simp] theorem State.setCsr_spdm (c n : Nat) (v : W) : (s.setCsr c n v).spdm = s.spdm := rfl
@[simp] theorem State.setCsr_vcWays (c n : Nat) (v : W) : (s.setCsr c n v).vcWays = s.vcWays := rfl
@[simp] theorem State.setCsr_vsGiB (c n : Nat) (v : W) : (s.setCsr c n v).vsGiB = s.vsGiB := rfl
@[simp] theorem State.setCsr_vsFullSince (c n : Nat) (v : W) : (s.setCsr c n v).vsFullSince = s.vsFullSince := rfl
@[simp] theorem State.setCsr_image (c n : Nat) (v : W) : (s.setCsr c n v).image = s.image := rfl
@[simp] theorem State.setCsr_free (c n : Nat) (v : W) : (s.setCsr c n v).free = s.free := rfl
@[simp] theorem State.setCsr_agenda (c n : Nat) (v : W) : (s.setCsr c n v).agenda = s.agenda := rfl

/-! ### tick -/

@[simp] theorem State.tick_focus (n : Nat) : (s.tick n).focus = s.focus := rfl
@[simp] theorem State.tick_sq (n : Nat) : (s.tick n).sq = s.sq := rfl
@[simp] theorem State.tick_mcc (n : Nat) : (s.tick n).mcc = s.mcc := rfl
@[simp] theorem State.tick_squads (n : Nat) : (s.tick n).squads = s.squads := rfl
@[simp] theorem State.tick_mccs (n : Nat) : (s.tick n).mccs = s.mccs := rfl
@[simp] theorem State.tick_lastTick (n : Nat) : (s.tick n).lastTick = s.lastTick := rfl
@[simp] theorem State.tick_slack (n : Nat) : (s.tick n).slack = s.slack := rfl
@[simp] theorem State.tick_pkgIdx (n : Nat) : (s.tick n).pkgIdx = s.pkgIdx := rfl
@[simp] theorem State.tick_bridge (n : Nat) : (s.tick n).bridge = s.bridge := rfl
@[simp] theorem State.tick_mem (n : Nat) : (s.tick n).mem = s.mem := rfl
@[simp] theorem State.tick_pubs (n : Nat) : (s.tick n).pubs = s.pubs := rfl
@[simp] theorem State.tick_msgs (n : Nat) : (s.tick n).msgs = s.msgs := rfl
@[simp] theorem State.tick_nextId (n : Nat) : (s.tick n).nextId = s.nextId := rfl
@[simp] theorem State.tick_poison (n : Nat) : (s.tick n).poison = s.poison := rfl
@[simp] theorem State.tick_l1 (n : Nat) : (s.tick n).l1 = s.l1 := rfl
@[simp] theorem State.tick_copies (n : Nat) : (s.tick n).copies = s.copies := rfl
@[simp] theorem State.tick_manual (n : Nat) : (s.tick n).manual = s.manual := rfl
@[simp] theorem State.tick_acopies (n : Nat) : (s.tick n).acopies = s.acopies := rfl
@[simp] theorem State.tick_home (n : Nat) : (s.tick n).home = s.home := rfl
@[simp] theorem State.tick_locks (n : Nat) : (s.tick n).locks = s.locks := rfl
@[simp] theorem State.tick_relstamps (n : Nat) : (s.tick n).relstamps = s.relstamps := rfl
@[simp] theorem State.tick_filters (n : Nat) : (s.tick n).filters = s.filters := rfl
@[simp] theorem State.tick_grants (n : Nat) : (s.tick n).grants = s.grants := rfl
@[simp] theorem State.tick_sliceMap (n : Nat) : (s.tick n).sliceMap = s.sliceMap := rfl
@[simp] theorem State.tick_migrating (n : Nat) : (s.tick n).migrating = s.migrating := rfl
@[simp] theorem State.tick_hostUr (n : Nat) : (s.tick n).hostUr = s.hostUr := rfl
@[simp] theorem State.tick_keys (n : Nat) : (s.tick n).keys = s.keys := rfl
@[simp] theorem State.tick_outbox (n : Nat) : (s.tick n).outbox = s.outbox := rfl
@[simp] theorem State.tick_reqs (n : Nat) : (s.tick n).reqs = s.reqs := rfl
@[simp] theorem State.tick_inbox (n : Nat) : (s.tick n).inbox = s.inbox := rfl
@[simp] theorem State.tick_answers (n : Nat) : (s.tick n).answers = s.answers := rfl
@[simp] theorem State.tick_fwCopy (n : Nat) : (s.tick n).fwCopy = s.fwCopy := rfl
@[simp] theorem State.tick_aliasKey (n : Nat) : (s.tick n).aliasKey = s.aliasKey := rfl
@[simp] theorem State.tick_aliasCert (n : Nat) : (s.tick n).aliasCert = s.aliasCert := rfl
@[simp] theorem State.tick_grantWaits (n : Nat) : (s.tick n).grantWaits = s.grantWaits := rfl
@[simp] theorem State.tick_notes (n : Nat) : (s.tick n).notes = s.notes := rfl
@[simp] theorem State.tick_ringStamps (n : Nat) : (s.tick n).ringStamps = s.ringStamps := rfl
@[simp] theorem State.tick_walkCache (n : Nat) : (s.tick n).walkCache = s.walkCache := rfl
@[simp] theorem State.tick_leaves (n : Nat) : (s.tick n).leaves = s.leaves := rfl
@[simp] theorem State.tick_draining (n : Nat) : (s.tick n).draining = s.draining := rfl
@[simp] theorem State.tick_links (n : Nat) : (s.tick n).links = s.links := rfl
@[simp] theorem State.tick_scratch (n : Nat) : (s.tick n).scratch = s.scratch := rfl
@[simp] theorem State.tick_absent (n : Nat) : (s.tick n).absent = s.absent := rfl
@[simp] theorem State.tick_objs (n : Nat) : (s.tick n).objs = s.objs := rfl
@[simp] theorem State.tick_arrival (n : Nat) : (s.tick n).arrival = s.arrival := rfl
@[simp] theorem State.tick_luts (n : Nat) : (s.tick n).luts = s.luts := rfl
@[simp] theorem State.tick_sfu (n : Nat) : (s.tick n).sfu = s.sfu := rfl
@[simp] theorem State.tick_tlsets (n : Nat) : (s.tick n).tlsets = s.tlsets := rfl
@[simp] theorem State.tick_cmds (n : Nat) : (s.tick n).cmds = s.cmds := rfl
@[simp] theorem State.tick_chans (n : Nat) : (s.tick n).chans = s.chans := rfl
@[simp] theorem State.tick_lvls (n : Nat) : (s.tick n).lvls = s.lvls := rfl
@[simp] theorem State.tick_teams (n : Nat) : (s.tick n).teams = s.teams := rfl
@[simp] theorem State.tick_launches (n : Nat) : (s.tick n).launches = s.launches := rfl
@[simp] theorem State.tick_huddles (n : Nat) : (s.tick n).huddles = s.huddles := rfl
@[simp] theorem State.tick_queues (n : Nat) : (s.tick n).queues = s.queues := rfl
@[simp] theorem State.tick_arbLast (n : Nat) : (s.tick n).arbLast = s.arbLast := rfl
@[simp] theorem State.tick_csrs (n : Nat) : (s.tick n).csrs = s.csrs := rfl
@[simp] theorem State.tick_hostCtxsel (n : Nat) : (s.tick n).hostCtxsel = s.hostCtxsel := rfl
@[simp] theorem State.tick_hirq (n : Nat) : (s.tick n).hirq = s.hirq := rfl
@[simp] theorem State.tick_hirqMask (n : Nat) : (s.tick n).hirqMask = s.hirqMask := rfl
@[simp] theorem State.tick_hostErr (n : Nat) : (s.tick n).hostErr = s.hostErr := rfl
@[simp] theorem State.tick_msix (n : Nat) : (s.tick n).msix = s.msix := rfl
@[simp] theorem State.tick_hostReads (n : Nat) : (s.tick n).hostReads = s.hostReads := rfl
@[simp] theorem State.tick_ctxs (n : Nat) : (s.tick n).ctxs = s.ctxs := rfl
@[simp] theorem State.tick_tickets (n : Nat) : (s.tick n).tickets = s.tickets := rfl
@[simp] theorem State.tick_nextTicket (n : Nat) : (s.tick n).nextTicket = s.nextTicket := rfl
@[simp] theorem State.tick_fqWait (n : Nat) : (s.tick n).fqWait = s.fqWait := rfl
@[simp] theorem State.tick_parkWait (n : Nat) : (s.tick n).parkWait = s.parkWait := rfl
@[simp] theorem State.tick_tlb (n : Nat) : (s.tick n).tlb = s.tlb := rfl
@[simp] theorem State.tick_walks (n : Nat) : (s.tick n).walks = s.walks := rfl
@[simp] theorem State.tick_erWait (n : Nat) : (s.tick n).erWait = s.erWait := rfl
@[simp] theorem State.tick_stopWait (n : Nat) : (s.tick n).stopWait = s.stopWait := rfl
@[simp] theorem State.tick_units (n : Nat) : (s.tick n).units = s.units := rfl
@[simp] theorem State.tick_repair (n : Nat) : (s.tick n).repair = s.repair := rfl
@[simp] theorem State.tick_thermal (n : Nat) : (s.tick n).thermal = s.thermal := rfl
@[simp] theorem State.tick_heldReset (n : Nat) : (s.tick n).heldReset = s.heldReset := rfl
@[simp] theorem State.tick_clusterMap (n : Nat) : (s.tick n).clusterMap = s.clusterMap := rfl
@[simp] theorem State.tick_withdrawn (n : Nat) : (s.tick n).withdrawn = s.withdrawn := rfl
@[simp] theorem State.tick_spareLeft (n : Nat) : (s.tick n).spareLeft = s.spareLeft := rfl
@[simp] theorem State.tick_samplers (n : Nat) : (s.tick n).samplers = s.samplers := rfl
@[simp] theorem State.tick_peers (n : Nat) : (s.tick n).peers = s.peers := rfl
@[simp] theorem State.tick_windows (n : Nat) : (s.tick n).windows = s.windows := rfl
@[simp] theorem State.tick_sendSeq (n : Nat) : (s.tick n).sendSeq = s.sendSeq := rfl
@[simp] theorem State.tick_performed (n : Nat) : (s.tick n).performed = s.performed := rfl
@[simp] theorem State.tick_lastBeacon (n : Nat) : (s.tick n).lastBeacon = s.lastBeacon := rfl
@[simp] theorem State.tick_change (n : Nat) : (s.tick n).change = s.change := rfl
@[simp] theorem State.tick_gens (n : Nat) : (s.tick n).gens = s.gens := rfl
@[simp] theorem State.tick_spdm (n : Nat) : (s.tick n).spdm = s.spdm := rfl
@[simp] theorem State.tick_vcWays (n : Nat) : (s.tick n).vcWays = s.vcWays := rfl
@[simp] theorem State.tick_vsGiB (n : Nat) : (s.tick n).vsGiB = s.vsGiB := rfl
@[simp] theorem State.tick_vsFullSince (n : Nat) : (s.tick n).vsFullSince = s.vsFullSince := rfl
@[simp] theorem State.tick_image (n : Nat) : (s.tick n).image = s.image := rfl
@[simp] theorem State.tick_free (n : Nat) : (s.tick n).free = s.free := rfl
@[simp] theorem State.tick_agenda (n : Nat) : (s.tick n).agenda = s.agenda := rfl

/-! ### CSRs -/

/-- A CSR reads as what was written to it. -/
@[simp] theorem State.setCsr_same (c n : Nat) (v : W) : (s.setCsr c n v).csr c n = v := by
  unfold State.csr State.setCsr
  simp only []
  induction s.csrs with
  | nil => simp [upsert]
  | cons e r ih =>
    unfold upsert
    by_cases h : (e.1 == (c, n)) = true
    · rw [if_pos h]; simp
    · rw [if_neg h, List.find?_cons_of_neg (by simpa using h)]; exact ih

/-- The others keep their values. -/
theorem State.setCsr_other (c n c' n' : Nat) (v : W) (h : (c', n') ≠ (c, n)) : (s.setCsr c n v).csr c' n' = s.csr c' n' := by
  unfold State.csr State.setCsr
  simp only []
  have h0 : (((c, n) : Nat × Nat) == (c', n')) = false := beq_false_of_ne (Ne.symm h)
  induction s.csrs with
  | nil => simp [upsert, h0]
  | cons e r ih =>
    unfold upsert
    by_cases he : (e.1 == (c, n)) = true
    · have e1 : e.1 = (c, n) := by simpa using he
      rw [if_pos he]
      simp [e1, h0]
    · rw [if_neg he]
      by_cases h1 : (e.1 == (c', n')) = true
      · simp [h1]
      · rw [List.find?_cons_of_neg (by simpa using h1), List.find?_cons_of_neg (by simpa using h1)]; exact ih

end Sys2Proof.Machine
end

