-- ==== Sys2Proof/Tests/Slice0.lean ====
section
/-! SUPPORT. Tests: words written out from the spec's encodings and what they decode to; ill-formed terms that WellFormed refuses; for
every statement of the obligations with hypotheses, a state and operands that meet them. -/

namespace Sys2Proof.Tests

set_option Elab.async false

open Sys2Proof Sys2Proof.Machine

/-! ### Decoding, from the encodings of 03 Tables 3.1, 3.8, 3.9 -/

/-- nop: uniform short, op9 0x077: 1 0 001110111 and zeros. -/
theorem test_decode_nop : decodeWords 0x8EE00000 0 = .ok (.nop ⟨0, 0, 0⟩) 4 := by decide
/-- exit: uniform short, op9 0x074. -/
theorem test_decode_exit : decodeWords 0x8E800000 0 = .ok (.exit ⟨0, 0, 0⟩) 4 := by decide
/-- vand v2, v0, v1: lane short, op9 0x008, d 2, a 0, b 1. -/
theorem test_decode_vand : decodeWords 0x01008001 0 = .ok (.vand ⟨2, 0, 1⟩) 4 := by decide
/-- smovi s1, 5: uniform literal, op9 0x00F. -/
theorem test_decode_smovi : decodeWords 0xC1E02000 0x00000005 = .ok (.smovi ⟨1, 0, 0, 5⟩) 8 := by decide
/-- setfmt.imm 0x6802: op9 0x070, b 0x68, c 0x02, x 0x0200. -/
theorem test_decode_setfmt : decodeWords 0xCE000000 0x68020200 = .ok (.setfmtImm ⟨0, 0, 0, 0x68, 2, 0x0200⟩) 8 := by decide
/-- kset k1, 0xFFFF: op9 0x045. -/
theorem test_decode_kset : decodeWords 0xC8A02000 0x0000FFFF = .ok (.kset ⟨1, 0, 0, 0xFFFF⟩) 8 := by decide
/-- bra +32: op9 0x060. -/
theorem test_decode_bra : decodeWords 0xCC000000 0x00000020 = .ok (.bra ⟨0, 0, 0, 0x20⟩) 8 := by decide
/-- bdiv k1, +24: op9 0x069, a 1. -/
theorem test_decode_bdiv : decodeWords 0xCD200020 0x00000018 = .ok (.bdiv ⟨0, 1, 0, 0x18⟩) 8 := by decide
/-- converge: uniform short, op9 0x06A. -/
theorem test_decode_converge : decodeWords 0x8D400000 0 = .ok (.converge ⟨0, 0, 0⟩) 4 := by decide
/-- pblk k1, of two instructions, pattern 01: op9 0x06B, x 0x0101. -/
theorem test_decode_pblk : decodeWords 0xCD600020 0x00000101 = .ok (.pblk ⟨0, 1, 0, 0, 0, 0x0101⟩) 8 := by decide
/-- rdspec s6, SPLITS: op9 0x072, d 6, x 0x000E. -/
theorem test_decode_rdspec : decodeWords 0xCE40C000 0x0000000E = .ok (.rdspec ⟨6, 0, 0, 0, 0, 0x0E⟩) 8 := by decide
/-- sclcalc v1, v1: lane long, op9 0x085, x type 0x12. -/
theorem test_decode_sclcalc : decodeWords 0x50A02020 0x00000012 = .ok (.sclcalc ⟨1, 1, 0, 0, 0, 0x12⟩) 8 := by decide
/-- xlane.flip v5, v4, 1: op9 0x0E3, x sub 1. -/
theorem test_decode_xlane : decodeWords 0x5C60A080 0x00000100 = .ok (.xlaneFlip ⟨5, 4, 0, 0, 0, 0x0100⟩) 8 := by decide
/-- selk k1, v4, 2 columns, 16 best, .f32: op9 0x0ED. -/
theorem test_decode_selk : decodeWords 0x5DA02080 0x0210000C = .ok (.selk ⟨1, 4, 0, 2, 0x10, 0x0C⟩) 8 := by decide
/-- ld v6, with v8 scaled by 4: op9 0x120, b 4, c 0x9C, x 0x40. -/
theorem test_decode_ld : decodeWords 0x6400C100 0x049C0040 = .ok (.ld ⟨6, 8, 0, 4, 0x9C, 0x40⟩) 8 := by decide
/-- upd.add.f32: op9 0x12A, d 2, a 3, b 0x0A, c 0x98, x 0x000C. -/
theorem test_decode_upd : decodeWords 0x65404060 0x0A98000C = .ok (.upd ⟨2, 3, 0, 0x0A, 0x98, 0x0C⟩) 8 := by decide
/-- cwb s4, s6: uniform long, op9 0x0A8. -/
theorem test_decode_cwb : decodeWords 0xD5000080 0x06000000 = .ok (.cwb ⟨0, 4, 0, 6, 0, 0⟩) 8 := by decide
/-- snap and phase: op9 0x0A1, 0x0A2. -/
theorem test_decode_snap_phase : decodeWords 0x94200000 0 = .ok (.snap ⟨0, 0, 0⟩) 4 ∧ decodeWords 0x94400000 0 = .ok (.phase ⟨0, 0, 0⟩) 4 := by
  decide
/-- cpy: op9 0x0E0, d 2, a 16, c 3, x 5. -/
theorem test_decode_cpy : decodeWords 0xDC004200 0x00030005 = .ok (.cpy ⟨2, 16, 0, 0, 3, 5⟩) 8 := by decide
/-- tlwait: op9 0x0E9, a 2, c 3. -/
theorem test_decode_tlwait : decodeWords 0xDD200040 0x00030000 = .ok (.tlwait ⟨0, 2, 0, 0, 3, 0⟩) 8 := by decide
/-- bar.arrw: op9 0x0F3, a 24. -/
theorem test_decode_bar_arrw : decodeWords 0xDE600300 0 = .ok (.barArrw ⟨0, 24, 0, 0, 0, 0⟩) 8 := by decide
/-- wld: op9 0x141, d 5, a 10, b 11, c 12. -/
theorem test_decode_wld : decodeWords 0xE820A140 0x0B0C0000 = .ok (.wld ⟨5, 10, 0, 11, 12, 0⟩) 8 := by decide
/-- mepi: op9 0x144, d 14, a 2, x sub 1. -/
theorem test_decode_mepi : decodeWords 0xE881C040 0x00000100 = .ok (.mepi ⟨14, 2, 0, 0, 0, 0x0100⟩) 8 := by decide
/-- mrestart -4: op9 0x146, x 0xFFFC. -/
theorem test_decode_mrestart : decodeWords 0xE8C00000 0x0000FFFC = .ok (.mrestart ⟨0, 0, 0, 0, 0, 0xFFFC⟩) 8 := by decide
/-- rfe and csrrd s2, 0x8000: op9 0x180, 0x181. -/
theorem test_decode_rfe_csrrd : decodeWords 0xB0000000 0 = .ok (.rfe ⟨0, 0, 0⟩) 4 ∧
    decodeWords 0xF0204000 0x00008000 = .ok (.csrrd ⟨2, 0, 0, 0, 0, 0x8000⟩) 8 := by decide
/-- rdenergy s4: op9 0x183. -/
theorem test_decode_rdenergy : decodeWords 0xB0610000 0 = .ok (.rdenergy ⟨4, 0, 0⟩) 4 := by decide
/-- The table's numbering: nop of 32 bits, smovi of 64. -/
theorem test_decode_table : decodeTableWord 32 0x8EE00000 = some (.nop ⟨0, 0, 0⟩) ∧
    decodeTableWord 64 0x00000005C1E02000 = some (.smovi ⟨1, 0, 0, 5⟩) := by decide

/-! ### Ill-formed terms and refused words (03 Table 3.7) -/

/-- A reserved op9, of either set; a short op9 in the long form, a long one in the short form. -/
theorem test_refused_words : decodeWords 0xBFE00000 0 = .bad true 0x1FF 1 4 ∧ decodeWords 0x3FE00000 0 = .bad false 0x1FF 1 4 ∧
    decodeWords 0xCEE00000 0 = .bad true 0x077 2 4 ∧ decodeWords 0x8E000000 0 = .bad true 0x070 2 4 := by decide

/-- Ill-formed terms, one for each check on the fields (checks 8 and 9 of Table 3.7): a type of x that the entry has not, a sub code
above its greatest, a modifier that the entry has not, a class-Z field that is not zero, an odd pair, k0 as destination, a mask past k7,
a register past the file, a group of registers that is not a multiple of 4, a variant's code of x in another variant. -/
theorem test_ill_formed :
    wellFormed (.vadd ⟨1, 2, 0, 3, 0, 0⟩) = false ∧ wellFormed (.scmp ⟨0, 2, 0, 3, 0, 0x0606⟩) = false ∧
    wellFormed (.vadd ⟨1, 2, 1, 4, 0, 6⟩) = false ∧ wellFormed (.snot ⟨1, 2, 3⟩) = false ∧
    wellFormed (.vadd ⟨1, 2, 0, 4, 0, 7⟩) = false ∧ wellFormed (.kand ⟨0, 1, 2⟩) = false ∧ wellFormed (.kand ⟨8, 1, 2⟩) = false ∧
    wellFormed (.ssel ⟨128, 1, 0, 2, 0, 0⟩) = false ∧ wellFormed (.cpy ⟨2, 18, 0, 0, 3, 5⟩) = false ∧
    wellFormed (.setfmt ⟨0, 2, 0, 0, 0, 0x0100⟩) = false := by
  decide +kernel
/-- And their well-formed neighbours. -/
theorem test_well_formed :
    wellFormed (.vadd ⟨1, 2, 0, 3, 0, 6⟩) = true ∧ wellFormed (.scmp ⟨0, 2, 0, 3, 0, 0x0506⟩) = true ∧
    wellFormed (.vadd ⟨1, 2, 16, 4, 0, 6⟩) = true ∧ wellFormed (.snot ⟨1, 2, 0⟩) = true ∧
    wellFormed (.vadd ⟨2, 2, 0, 4, 0, 7⟩) = true ∧ wellFormed (.kand ⟨1, 1, 2⟩) = true ∧ wellFormed (.kand ⟨7, 1, 2⟩) = true ∧
    wellFormed (.ssel ⟨127, 1, 0, 2, 0, 0⟩) = true ∧ wellFormed (.cpy ⟨2, 16, 0, 0, 3, 5⟩) = true ∧
    wellFormed (.setfmtFlags ⟨0, 2, 0, 0, 0, 0x0100⟩) = true := by
  decide +kernel

/-! ### Where the hypotheses of the statements hold

`tSq` has a squad in focus at a boundary, `tM` an MCC; `sB`, `lB` and `nB` say that a short, literal or long form issues with its own
effect there and that a condition holds of the state in which it acts. A theorem `witness_X` is about the statement X. -/

/-- The hypotheses of Goes, as a test. -/
def goesB (s : State) (f : Form) : Bool :=
  (s.focus != .idle) && (s.ready f).todoNow.isEmpty && (s.refusal f == none) && (f.uni || s.lanes != 0) && (s.modeBad f == none) &&
    ((s.ready f).badLane f == none) && !s.holdsRfe f && !s.queueHolds f
theorem goes_of {s : State} {f : Form} (h : goesB s f = true) : s.Goes f := by
  simp only [goesB, Bool.and_eq_true] at h
  obtain ⟨⟨⟨⟨⟨⟨⟨h1, h2⟩, h3⟩, h4⟩, h5⟩, h6⟩, h7⟩, h8⟩ := h
  exact ⟨by simpa using h1, by simpa using h2, by simpa using h3, by simpa using h4, by simpa using h5, by simpa using h6, by simpa using h7, by simpa using h8⟩

def tSq : State := (State.reset.withFetchWord 64 0).focusOn 3
def tM : State := (State.reset.withFetchWord 64 0xE8204000).focusOn 3

def sB (s : State) (uni : Bool) (op9 : Nat) (w : Short) (ok : State → Bool := fun _ => true) : Bool :=
  goesB s (s.formShort uni op9 w) && ok (s.atIssue (s.formShort uni op9 w))
def lB (s : State) (uni : Bool) (op9 : Nat) (w : Lit) (ok : State → Bool := fun _ => true) : Bool :=
  goesB s (s.formLit uni op9 w) && ok (s.atIssue (s.formLit uni op9 w))
def nB (s : State) (uni : Bool) (op9 : Nat) (w : Long) (ok : State → Bool := fun _ => true) : Bool :=
  goesB s (s.formLong uni op9 w) && ok (s.atIssue (s.formLong uni op9 w))

/-- So the tests are the hypotheses themselves. -/
theorem nB_is {s : State} {uni : Bool} {op9 : Nat} {w : Long} {ok : State → Bool} (h : nB s uni op9 w ok = true) :
    s.Goes (s.formLong uni op9 w) ∧ ok (s.atIssue (s.formLong uni op9 w)) = true := by
  rw [nB, Bool.and_eq_true] at h
  exact ⟨goes_of h.1, h.2⟩
theorem sB_is {s : State} {uni : Bool} {op9 : Nat} {w : Short} {ok : State → Bool} (h : sB s uni op9 w ok = true) :
    s.Goes (s.formShort uni op9 w) ∧ ok (s.atIssue (s.formShort uni op9 w)) = true := by
  rw [sB, Bool.and_eq_true] at h
  exact ⟨goes_of h.1, h.2⟩
theorem lB_is {s : State} {uni : Bool} {op9 : Nat} {w : Lit} {ok : State → Bool} (h : lB s uni op9 w ok = true) :
    s.Goes (s.formLit uni op9 w) ∧ ok (s.atIssue (s.formLit uni op9 w)) = true := by
  rw [lB, Bool.and_eq_true] at h
  exact ⟨goes_of h.1, h.2⟩

theorem witness_DecodeEncode : wellFormed (.mma ⟨2, 8, 0, 5, 9, 0⟩) = true ∧ encode (.mma ⟨2, 8, 0, 5, 9, 0⟩) ≠ [] ∧
    decodeWords 0xE8604100 0x05090000 = .ok (.mma ⟨2, 8, 0, 5, 9, 0⟩) 8 := by decide +kernel
theorem witness_RefusedWords : (0x1FF : Nat) ∉ uniShorts ++ uniLongs ++ uniLits ∧ (0x1FF : Nat) ∉ laneShorts ++ laneLongs ++ laneLits ∧
    op9Of 0xBFE00000 = 0x1FF ∧ op9Of 0x3FE00000 = 0x1FF ∧ op9Of 0xCEE00000 = 0x077 ∧ (0x077 : Nat) ∈ uniShorts ∧
    op9Of 0x8E000000 = 0x070 ∧ (0x070 : Nat) ∈ uniLongs ∧ op9Of 0x41000000 = 0x008 ∧ (0x008 : Nat) ∈ laneShorts ∧
    op9Of 0x00200000 = 0x001 ∧ (0x001 : Nat) ∈ laneLongs ∧ isLong 0x8EE00000 = false := by decide +kernel
/-- A squad's turn at the word of nop, and an MCC's at that of mclr.z. -/
theorem witness_StepRunsDecoded :
    (let s := State.reset.withFetchWord 32 0x8EE00000
     let a := ({ (s.tick 1).unfocus with agenda := [] } : State).focusOn 3
     let t := a.modSq (fun q => q.pick.mergeIn)
     s.agenda = [.issue 3] ∧ a.focus = .squad ∧ a.sq.mayIssue = true ∧ a.mates = [] ∧ a.saveTakes = false ∧
       (a.sq.stopReq && a.sq.between) = false ∧ (t.sq.engFault && t.sq.got.isEmpty && !t.sq.handler) = false ∧ t.fetchWord t.pcNow.toNat = .word 0x8EE00000 ∧ isLong 0x8EE00000 = false ∧
       decodeWords 0x8EE00000 0 = .ok (.nop ⟨0, 0, 0⟩) 4) ∧
    (let s := State.reset.withFetchWord 64 0x00000000E8A04000
     let a := ({ (s.tick 1).unfocus with agenda := [] } : State).focusOn 3
     s.agenda = [.issue 3] ∧ a.focus = .mcc ∧ (a.savingMcc && a.mcc.running && !a.mcc.stamped) = false ∧ a.mcc.mayIssue = true ∧
       (a.mcc.engFault && a.mcc.got.isEmpty) = false ∧
       a.fetchWord a.pcNow.toNat = .word 0xE8A04000 ∧ a.fetchWord (a.pcNow.toNat + 4) = .word 0 ∧
       decodeWords 0xE8A04000 0 = .ok (.mclrZ ⟨2, 0, 0, 0, 0, 0⟩) 8) := by decide +kernel
/-- With a mate in the sub-partition, of a lower class, the choice is the squad in focus, whether the mate is eligible or not. -/
def tMate : State := { tSq with squads := tSq.squads ++ [{ tSq.sq with id := 77, slot := 5, prio := 0 }] }.modSq (fun q => { q with prio := 1 })
theorem witness_StepRunsDecoded_mates : tMate.mates ≠ [] ∧ (issueChoice tMate.contenders).map (·.id) = some 3 := by
  have h : tMate.mates.length = 1 := by decide +kernel
  refine ⟨by decide +kernel, ?_⟩
  simp only [State.contenders, h]
  generalize Config.freeWord tMate.free = b
  cases hb : b.getLsbD (0 % 32) <;> simp only [List.range, List.range.loop, List.filter, hb] <;> decide +kernel
/-- An agent in the middle of an instruction goes on. -/
theorem witness_StepRunsDecoded_rest :
    (let a := tSq.modSq (fun q => { q with todo := [.snap] })
     a.focus = .squad ∧ a.sq.goesOn = true ∧ a.saveTakes = false) ∧
    (let a := tM.modMcc (fun m => { m with todo := [.snap] })
     a.focus = .mcc ∧ a.mcc.goesOn = true ∧ (a.savingMcc && a.mcc.running && !a.mcc.stamped) = false) := by decide +kernel
/-- Each check at issue fails alone somewhere. -/
theorem witness_IssueChecks :
    tSq.focus ≠ .idle ∧ tSq.whoBad true 0x145 = true ∧
    (let b := tSq.modSq (fun q => { q with sp := { q.sp with blkPos := 0 } })
     b.sq.sp.inBlock = true ∧ b.whoBad true 0x060 = false ∧ b.placeBad true 0x060 = true) ∧
    tSq.privBad (tSq.formShort true 0x180 ⟨0, 0, 0⟩) = true ∧
    tSq.whoBad true 0x00D = false ∧ tSq.placeBad true 0x00D = false ∧ (tSq.formLong true 0x00D ⟨128, 0, 0, 0, 0, 0⟩).bad = some 7 ∧
    (let e := tSq.modSq (fun q => { q with sp := { q.sp with mask := 0 } })
     e.refusal (e.formShort false 0x008 ⟨1, 2, 3⟩) = none ∧ e.lanes = 0 ∧ e.todoNow = []) ∧
    (let h := tSq.modSq (fun q => { q with handler := true })
     h.refusal (h.formShort true 0x074 ⟨0, 0, 0⟩) = none ∧ h.modeBad (h.formShort true 0x074 ⟨0, 0, 0⟩) = some 0x0B) ∧
    (let p := tSq.modSq (fun q => { q with badRegs := [(false, 2, 0)] })
     p.refusal (p.formShort true 0 ⟨1, 2, 3⟩) = none ∧ p.modeBad (p.formShort true 0 ⟨1, 2, 3⟩) = none ∧
       (p.ready (p.formShort true 0 ⟨1, 2, 3⟩)).badLane (p.formShort true 0 ⟨1, 2, 3⟩) = some 0) ∧
    (let u := tSq.modCtx 4095 (fun c => { c with sup := false })
     (u.formLong true 0x181 ⟨2, 0, 0, 0, 0, 0x8040⟩).csr = some 0x8040 ∧ u.supOf u.ctxNow = false) := by decide +kernel
theorem witness_TrapEntry :
    (let s := tSq.setCsr 4096 0x8048 0x40000
     s.isM = false ∧ s.tvec s.sq.ctx ≠ 0 ∧ s.sq.handler = false) ∧ tSq.isM = false ∧ tSq.tvec tSq.sq.ctx = 0 ∧ tM.isM = true := by
  decide +kernel
theorem witness_RegisterLaws : tSq.isM = false ∧ tSq.sq.sregs.length = 128 ∧ tM.isM = true ∧ tM.mcc.sregs.length = 128 ∧
    tSq.sq.kregs.length = 7 := by decide +kernel
theorem witness_BytesByVersion :
    lineOf (128 + 5) = 1 ∧ get? [(5, (0x11 : Byte))] ((128 + 5) % 128) = some 0x11 ∧ (Stamp.mk 3 0).le ⟨4, 0⟩ = true ∧
    (Stamp.mk 5 0).le ⟨4, 0⟩ = false ∧ State.reset.pubs = [] ∧ canon 0 State.reset.scratch = true ∧ State.reset.objAt 7 = none ∧
    Memory.wf State.reset.mem = true := by decide +kernel
theorem witness_MemOkStep : canon 0 (State.reset.withFetchWord 32 0x8EE00000).scratch = true ∧ Memory.wf State.reset.mem = true ∧ (match step (State.reset.withFetchWord 32 0x8EE00000) with | .next _ => true | _ => false) = true ∧
    Memory.wf (State.reset.withFetchWord 32 0x8EE00000).mem = true := by decide +kernel

/-! Uniform instructions. -/

theorem witness_ScalarResults :
    ([0x000, 0x001, 0x002, 0x003, 0x004, 0x005, 0x006, 0x008, 0x009, 0x00A].all (fun n => sB tSq true n ⟨1, 2, 3⟩ && sB tM true n ⟨1, 2, 3⟩) &&
     [0x007, 0x00E, 0x013, 0x014].all (fun n => sB tSq true n ⟨1, 2, 0⟩ && sB tM true n ⟨1, 2, 0⟩) &&
     [0x018, 0x019, 0x01A, 0x01B, 0x01C, 0x01D, 0x01E, 0x01F].all (fun n => lB tSq true n ⟨1, 2, 0, 5⟩ && lB tM true n ⟨1, 2, 0, 5⟩) &&
     lB tSq true 0x00F ⟨1, 0, 0, 5⟩) = true := by decide +kernel
theorem witness_TypedScalarResults :
    ([0x00B, 0x00C].all (fun n => [tS32, tN32, tS64, tN64].all (fun t => nB tSq true n ⟨2, 4, 0, 6, 0, BitVec.ofNat 16 t⟩
        (fun _ => xType (BitVec.ofNat 16 t) == t))) &&
     [tS32, tN32, tS64, tN64].all (fun t => nB tSq true 0x010 ⟨0, 4, 0, 6, 0, BitVec.ofNat 16 t⟩ (fun _ => xType (BitVec.ofNat 16 t) == t)) &&
     nB tSq true 0x011 ⟨1, 2, 0, 0, 0, 0x0700⟩ (fun _ => bfPos 0x0700 == 0 && bfLen 0x0700 == 8) &&
     nB tSq true 0x011 ⟨1, 2, 0, 0, 0, 0x3F00⟩ (fun _ => bfPos 0x3F00 == 0 && bfLen 0x3F00 == 32) &&
     nB tSq true 0x012 ⟨1, 2, 0, 3, 0, 0x001F⟩ (fun _ => bfPos 0x001F == 31 && bfLen 0x001F == 1)) = true := by decide +kernel
theorem witness_SselByScc :
    (nB (tSq.setScc true) true 0x00D ⟨1, 2, 0, 3, 0, 0⟩ (fun r => r.scc) && nB tSq true 0x00D ⟨1, 2, 0, 3, 0, 0⟩ (fun r => !r.scc)) = true := by
  decide +kernel
theorem witness_SleaAddress :
    [tN32, tS32, tS64].all (fun t => nB tSq true 0x015 ⟨2, 4, 0, 6, 0, BitVec.ofNat 16 (768 + t)⟩
      (fun _ => xType (BitVec.ofNat 16 (768 + t)) == t)) = true ∧ tSq.focus ≠ .idle ∧ 4 ≤ xSub 0x040A ∧
    xSub 0x030A = 3 ∧ xType 0x030A ∈ [tS32, tN32, tS64] ∧ xBsel 0x030A = false ∧ xRnd 0x030A = 0 := by decide +kernel
theorem witness_MaskResults :
    ([0x040, 0x041, 0x042].all (fun n => sB tSq true n ⟨1, 2, 3⟩) && sB tSq true 0x043 ⟨1, 2, 0⟩ &&
     sB tSq true 0x044 ⟨1, 2, 0⟩ && sB tSq true 0x044 ⟨1, 2, 1⟩ && sB tSq true 0x044 ⟨1, 2, 2⟩ && lB tSq true 0x045 ⟨1, 0, 0, 7⟩ &&
     sB tSq true 0x046 ⟨1, 2, 0⟩ &&
     sB tSq true 0x047 ⟨1, 2, 0⟩ (fun r => (List.range 32).all (fun i => !(r.sq.k 2).getLsbD i)) &&
     sB tSq true 0x047 ⟨1, 0, 0⟩ (fun r => (r.sq.k 0).getLsbD 0)) = true := by decide +kernel
theorem witness_BranchTargets :
    (lB tSq true 0x060 ⟨0, 0, 0, 8⟩ && lB tSq true 0x061 ⟨0, 0, 0, 8⟩ (fun r => !r.scc) && lB (tSq.setScc true) true 0x061 ⟨0, 0, 0, 8⟩ (·.scc) &&
     lB (tSq.setScc true) true 0x062 ⟨0, 0, 0, 8⟩ (·.scc) && lB tSq true 0x062 ⟨0, 0, 0, 8⟩ (fun r => !r.scc) &&
     sB tSq true 0x063 ⟨0, 2, 0⟩ (fun r => (r.spair 2).extractLsb' 0 2 == 0) && sB tSq true 0x065 ⟨0, 2, 0⟩ (fun r => (r.spair 2).extractLsb' 0 2 == 0) &&
     sB (tSq.setS 2 3) true 0x063 ⟨0, 2, 0⟩ (fun r => (r.spair 2).extractLsb' 0 2 != 0) && lB tSq true 0x064 ⟨4, 0, 0, 8⟩ &&
     lB tSq true 0x066 ⟨0, 0, 0, 8⟩ (fun r => r.sq.k 0 &&& r.sq.sp.mask != 0) && lB tSq true 0x066 ⟨0, 1, 0, 8⟩ (fun r => r.sq.k 1 &&& r.sq.sp.mask == 0) &&
     lB tSq true 0x067 ⟨0, 0, 0, 8⟩ (fun r => r.sq.k 0 &&& r.sq.sp.mask == r.sq.sp.mask) &&
     lB tSq true 0x067 ⟨0, 1, 0, 8⟩ (fun r => r.sq.k 1 &&& r.sq.sp.mask != r.sq.sp.mask) &&
     lB tSq true 0x068 ⟨0, 1, 0, 8⟩ (fun r => r.sq.k 1 &&& r.sq.sp.mask == 0) && lB tSq true 0x068 ⟨0, 0, 0, 8⟩ (fun r => r.sq.k 0 &&& r.sq.sp.mask != 0)) = true := by
  decide +kernel

/-- The squad of tSq with mask k1, with other splits, with a stack. -/
def withK (v : Mask) : State := tSq.setKReg 1 v
def withRest (s : State) (n : Nat) (waiting : Bool) : State :=
  s.modSq (fun q => { q with rest := (List.range n).map (fun i => { Split.blank with num := i + 1, mask := BitVec.ofNat 32 (2 ^ i), waiting := waiting }) })
def withStack (s : State) (l : List StackEntry) : State := s.modSq (fun q => { q with sp := { q.sp with stack := l } })
def entryOf (k : EntryKind) (pc : D) : StackEntry := ⟨pc, k, 0xF0, 0x6000⟩

theorem witness_Divergence :
    (lB (withK 0) true 0x069 ⟨0, 1, 0, 8⟩ (fun r => r.sq.k 1 &&& r.sq.sp.mask == 0) &&
     lB (withK 0xFFFFFFFF) true 0x069 ⟨0, 1, 0, 8⟩ (fun r => r.sq.sp.mask != 0 && r.sq.k 1 &&& r.sq.sp.mask == r.sq.sp.mask) &&
     lB (withK 3) true 0x069 ⟨0, 1, 0, 8⟩ (fun r => r.sq.k 1 &&& r.sq.sp.mask != 0 && r.sq.k 1 &&& r.sq.sp.mask != r.sq.sp.mask && decide (r.sq.rest.length < 3)) &&
     lB (withRest (withK 3) 3 false) true 0x069 ⟨0, 1, 0, 8⟩ (fun r => decide (3 ≤ r.sq.rest.length) && r.sq.sp.stack.length != 16) &&
     lB (withStack (withRest (withK 3) 3 false) (List.replicate 16 (entryOf .deferred 0))) true 0x069 ⟨0, 1, 0, 8⟩
       (fun r => decide (3 ≤ r.sq.rest.length) && r.sq.sp.stack.length == 16) &&
     sB (withStack tSq [entryOf .deferred 64]) true 0x06A ⟨0, 0, 0⟩ (fun r => !r.sq.sp.waiting && r.sq.sp.stack == [entryOf .deferred 64]) &&
     sB (withStack tSq [entryOf .parked 64]) true 0x06A ⟨0, 0, 0⟩ (fun r => !r.sq.sp.waiting && r.sq.sp.stack == [entryOf .parked 64] && r.sq.sp.pc != 64) &&
     sB (withStack tSq [⟨tSq.sq.sp.pc, .parked, 0xF0, tSq.sq.sp.fmt⟩]) true 0x06A ⟨0, 0, 0⟩ (fun r => r.sq.rest.isEmpty &&
       r.sq.sp.stack == [⟨r.sq.sp.pc, .parked, 0xF0, r.sq.sp.fmt⟩]) &&
     sB (withRest tSq 2 false) true 0x06A ⟨0, 0, 0⟩ (fun r => r.sq.sp.stack.isEmpty && r.sq.rest.any (fun p => !p.waiting)) &&
     sB tSq true 0x06A ⟨0, 0, 0⟩ (fun r => r.sq.sp.stack.isEmpty && r.sq.rest.isEmpty) &&
     sB (withStack tSq [entryOf .deferred 64]) true 0x074 ⟨0, 0, 0⟩ (fun r => !r.isM && r.sq.sp.stack == [entryOf .deferred 64]) &&
     sB (withRest tSq 2 false) true 0x074 ⟨0, 0, 0⟩ (fun r => !r.isM && r.sq.sp.stack.isEmpty && (r.sq.rest.take 1).all (fun p => !p.waiting) && !r.sq.rest.isEmpty) &&
     sB tSq true 0x074 ⟨0, 0, 0⟩ (fun r => !r.isM && r.sq.sp.stack.isEmpty && r.sq.rest.isEmpty) &&
     sB tM true 0x074 ⟨0, 0, 0⟩ (fun r => r.isM)) = true := by decide +kernel
theorem witness_StateAndSpecials :
    (nB tSq true 0x070 ⟨0, 2, 0, 0, 0, 0⟩ (fun r => fmtOk ((r.sreg 2).toNat % 65536)) &&
     nB (tSq.setS 2 0x7F00) true 0x070 ⟨0, 2, 0, 0, 0, 0⟩ (fun r => !fmtOk ((r.sreg 2).toNat % 65536)) &&
     nB tSq true 0x070 ⟨0, 2, 0, 0, 0, 0x0100⟩ && nB tSq true 0x070 ⟨0, 0, 0, 0x68, 0, 0x0200⟩ && sB tSq true 0x071 ⟨0, 0, 3⟩ &&
     nB tSq true 0x06B ⟨0, 1, 0, 0, 0, 0x0101⟩ && nB tSq true 0x072 ⟨6, 0, 0, 0, 0, 0x001C⟩ && nB tSq true 0x072 ⟨6, 0, 0, 0, 0, 0x0100⟩ &&
     nB tSq true 0x072 ⟨6, 0, 0, 0, 0, 0x0101⟩ &&
     [0x02, 0x06, 0x07, 0x0A, 0x0B, 0x0C, 0x0D, 0x0E, 0x0F, 0x10, 0x11, 0x12, 0x13, 0x14, 0x15, 0x16, 0x18, 0x19, 0x1B, 0x1D, 0x1F].all (fun n =>
       nB tSq true 0x072 ⟨6, 0, 0, 0, 0, BitVec.ofNat 16 n⟩) &&
     [0x03, 0x04, 0x05, 0x08, 0x09, 0x17, 0x1A, 0x1E].all (fun n => nB tSq true 0x072 ⟨6, 0, 0, 0, 0, BitVec.ofNat 16 n⟩) &&
     [0x20, 0x24, 0x28, 0x2C].all (fun n => nB tSq true 0x072 ⟨6, 0, 0, 0, 0, BitVec.ofNat 16 n⟩ (fun r => r.teamNow.isSome && (r.launchOf r.sq.launch).isSome)) &&
     [0x08, 0x09, 0x10, 0x12, 0x14, 0x1C, 0x1D].all (fun n => nB tM true 0x072 ⟨6, 0, 0, 0, 0, BitVec.ofNat 16 n⟩ (·.isM)) &&
     ((tM.formLong true 0x072 ⟨6, 0, 0, 0, 0, 2⟩).bad == some 8) &&
     sB tSq true 0x073 ⟨0, 0, 0⟩ (fun r => !r.isM && r.roleFits (r.roleRec 0)) &&
     (let c := ({ tSq.modLaunch 1 (fun l => { l with hdr := { l.hdr with roles := l.hdr.roles.map (fun k => { k with vcode := 32 }) } }) with
        squads := [{ tSq.sq with id := 90 }, { tSq.sq with id := 91 }] } : State).modSq (fun q => { q with vallot := 8 })
      sB c true 0x073 ⟨0, 0, 0⟩ (fun r => !r.roleFits (r.roleRec 0)))) = true := by decide +kernel
theorem witness_TrapAndNop : (sB tSq true 0x075 ⟨0, 0, 7⟩ && sB tM true 0x075 ⟨0, 0, 7⟩ && sB tSq true 0x076 ⟨0, 0, 0⟩ && sB tSq true 0x077 ⟨0, 0, 0⟩ &&
    sB tM true 0x077 ⟨0, 0, 0⟩ && !tSq.placeBad true 0x075 && !tSq.placeBad true 0x076) = true ∧ tSq.focus ≠ .idle := by decide +kernel
theorem witness_SystemInstructions :
    (sB (tSq.modSq (fun q => { q with handler := true })) true 0x180 ⟨0, 0, 0⟩ && sB tSq true 0x183 ⟨4, 0, 0⟩ &&
     nB tSq true 0x181 ⟨2, 0, 0, 0, 0, 0x8040⟩ && nB tM true 0x181 ⟨2, 0, 0, 0, 0, 1⟩ && nB tSq true 0x182 ⟨0, 2, 0, 0, 0, 2⟩ (fun _ => decide ((2 : Nat) < 0x8000)) &&
     nB tSq true 0x182 ⟨0, 2, 0, 0, 0, 0x8040⟩ (fun r => r.csrOpen 0x8040) && nB tSq true 0x182 ⟨0, 2, 0, 0, 0, 0x8001⟩ (fun r => !r.isM && r.csrOpen 0x8001) &&
     nB tSq true 0x182 ⟨0, 2, 0, 0, 0, 0x8047⟩ (fun r => r.csrOpen 0x8047) && Frame.blank.tpc == Frame.blank.tpc0 && Frame.blank.ts.length == 4 &&
     (let h := tSq.modSq (fun q => { q with handler := true })
      !h.isM && h.csrOpen 0x8000 && h.csrOpen 0x800E && decide (4 ≤ h.sq.sregs.length))) = true := by decide +kernel

/-! Lane arithmetic and exchange. -/

theorem witness_LaneIntegerResults :
    ([0x001, 0x002, 0x004, 0x005, 0x013, 0x014].all (fun n => nB tSq false n ⟨1, 2, 0, 3, 0, 0x0006⟩) && nB tSq false 0x001 ⟨2, 4, 0, 6, 0, 0x0007⟩ &&
     nB tSq false 0x007 ⟨1, 2, 0, 0, 0, 0x0006⟩ && nB tSq false 0x006 ⟨2, 2, 0, 3, 5, 0x0006⟩ (fun _ => xSub 0x0006 == 0) &&
     nB tSq false 0x006 ⟨2, 2, 0, 4, 6, 0x0106⟩ (fun _ => xSub 0x0106 == 1) &&
     nB tSq false 0x003 ⟨1, 2, 0, 3, 1, 0x000A⟩ (fun _ => xSub 0x000A == 0) && nB tSq false 0x003 ⟨1, 2, 0, 3, 1, 0x020A⟩ (fun _ => xSub 0x020A != 0) &&
     nB tSq false 0x015 ⟨1, 2, 0, 3, 1, 0⟩ && nB tSq false 0x016 ⟨1, 2, 0, 3, 0, 0x0206⟩ && nB tSq false 0x00F ⟨1, 2, 0, 3, 4, 0⟩ &&
     nB tSq false 0x017 ⟨1, 2, 0, 0, 0, 0x0700⟩ && nB tSq false 0x018 ⟨1, 2, 0, 3, 0, 0x0700⟩ &&
     [0x010, 0x011, 0x012].all (fun n => nB tSq false n ⟨1, 2, 0, 3, 0, 0⟩) &&
     [0x020, 0x021, 0x022, 0x023, 0x024, 0x025, 0x026, 0x027, 0x028, 0x029, 0x02A].all (fun n => lB tSq false n ⟨1, 2, 0, 5⟩) &&
     [0x008, 0x009, 0x00A].all (fun n => sB tSq false n ⟨1, 2, 3⟩) && [0x00B, 0x00C, 0x00D, 0x00E].all (fun n => sB tSq false n ⟨1, 2, 0⟩)) = true := by
  decide +kernel
theorem witness_LaneWrites : is64 tS32 = false ∧ is64 tS64 = true ∧ tSq.sq.vregs.length = 256 ∧ (∀ g ∈ tSq.sq.vregs, g.length = 32) ∧ tSq.isM = false ∧
    tSq.sq.kregs.length = 7 := by decide +kernel
theorem witness_LaneFloatResults :
    ([0x040, 0x041, 0x042, 0x044, 0x045].all (fun n => nB tSq false n ⟨1, 2, 0, 3, 0, 0x000C⟩) && nB tSq false 0x040 ⟨1, 2, 0, 3, 0, 0x0010⟩ &&
     nB tSq false 0x043 ⟨1, 2, 0, 3, 4, 0x000C⟩ && nB tSq false 0x046 ⟨1, 2, 0, 3, 0, 0x000C⟩ &&
     nB tSq false 0x047 ⟨1, 2, 0, 0, 0, 0x000C⟩ && nB tSq false 0x048 ⟨1, 2, 0, 0, 0, 0x000C⟩ &&
     [0x050, 0x051, 0x052, 0x053, 0x054].all (fun n => lB tSq false n ⟨1, 2, 0, 0x3F800000⟩)) = true := by decide +kernel
theorem witness_FloatSpecials : ((f32 0x7FC00000).isNaN || (f32 0).isNaN) = true ∧ (f32 0x3F800000).isNaN = false := by decide +kernel

/-- A squad with eight entries in its SFU pipe; one whose team holds an activation table pair; one with no pair free. -/
def tFull : State := { tSq with sfu := List.replicate 8 ⟨0, 0, 99, ⟨⟨0, 0, 0⟩, false, 1, [], 0, 0⟩, none⟩ }
def tPair : State := { tSq with luts := [⟨0, 3, false, [], []⟩], teams := tSq.teams.map (fun u => { u with lut := some 3 }) }
def tNoPair : State := { tSq with luts := (List.range 16).map (fun n => ⟨0, n, false, [], []⟩) }
theorem witness_ConversionsAndSfu :
    (xType 0x0C06 == tS32 && xSub 0x0C06 % 32 == tF32 && xType 0x060C == tF32 && xSub 0x060C % 32 == tS32 && xType 0x0C12 == tFM && xSub 0x0A06 % 32 == tN32 && satOf 0 == false &&
     !(fcDecode 4 true 0x39).1.isNaN &&
     nB tSq false 0x080 ⟨1, 2, 0, 0, 0, 0x0C06⟩ && nB tSq false 0x080 ⟨1, 2, 0, 0, 0, 0x060C⟩ && nB (tSq.setFmt 0x6002) false 0x081 ⟨1, 2, 0, 3, 0, 0x0092⟩ &&
     nB (tSq.setFmt 0x6002) false 0x082 ⟨1, 2, 0, 0, 0, 0x0012⟩ && nB tSq false 0x083 ⟨1, 2, 0, 3, 0, 0x0006⟩ &&
     nB tSq false 0x084 ⟨1, 2, 0, 0, 0, 0x0706⟩ (fun _ => decide (xSub 0x0706 < 8)) && nB (tSq.setFmt 0x6002) false 0x085 ⟨1, 2, 0, 0, 0, 0x0012⟩ &&
     [0x0C0, 0x0C1, 0x0C2, 0x0C3, 0x0C4, 0x0C5, 0x0C6].all (fun n => nB tSq false n ⟨1, 2, 0, 0, 0, 0x000C⟩ (fun r => decide (r.pipeLen < 8)) &&
       nB tFull false n ⟨1, 2, 0, 0, 0, 0x000C⟩ (fun r => decide (8 ≤ r.pipeLen))) &&
     nB tPair false 0x0CA ⟨1, 2, 0, 0, 0, 0x000C⟩ (fun r => r.heldPair.isSome && decide (r.pipeLen < 8))) = true := by decide +kernel
/-- Where lutld and lutsel begin their part; with an earlier lutsel of another squad of the team still waiting. -/
def lutB (s : State) (sel : Bool) (ok : State → Bool) : Bool :=
  nB s false (if sel then 0x0C9 else 0x0C8) (if sel then ⟨0, 0, 0, 0, 0, 0⟩ else ⟨0, 2, 0, 3, 0, 4⟩) (fun r =>
    ok (s.moved 8 ((if sel then r else r.lutReady).setTodo [if sel then .lutDo true 0 0 [] [] else r.lutReady.lutRows ⟨0, 2, 0, 3, 0, 4⟩])))
def tLutBehind : State := { tPair with
  squads := tPair.squads ++ [{ tPair.sq with id := 77, slot := 5, todo := [.lutDo true 0 0 [] []], st := .blocked, wake := some ⟨0x0F, 0, 0⟩ }]
  now := 5 }
theorem witness_ActivationTables :
    ([false, true].all (fun b => lutB tSq b (fun t => !t.lutEarlier && t.lutPair.isSome) && lutB tPair b (fun t => !t.lutEarlier && t.lutPair.isSome) &&
       lutB tNoPair b (fun t => !t.lutEarlier && t.lutPair.isNone) && lutB tLutBehind b (fun t => t.lutEarlier)) && tPair.luts.length == 1) = true := by decide +kernel
theorem witness_LaneExchange :
    ([0x0E0].all (fun n => nB tSq false n ⟨1, 2, 0, 3, 0, 0⟩ && nB tSq false n ⟨1, 2, 0, 3, 1, 0⟩) &&
     [0x0E1, 0x0E2, 0x0E3].all (fun n => nB tSq false n ⟨1, 2, 0, 0, 0, 0x0300⟩ && nB tSq false n ⟨1, 2, 0, 0, 1, 0x0300⟩) &&
     nB tSq false 0x0E4 ⟨1, 2, 0, 0, 0, 0⟩ && nB tSq false 0x0E5 ⟨1, 2, 0, 0, 0, 0⟩ && nB tSq false 0x0E6 ⟨1, 2, 0, 0, 0, 0⟩ &&
     nB tSq false 0x0E7 ⟨1, 2, 0, 0, 0, 0⟩ && nB tSq false 0x0E8 ⟨1, 2, 0, 0, 0, 0⟩ && nB tSq false 0x0E8 ⟨1, 2, 0, 0, 1, 0⟩ &&
     nB tSq false 0x0EC ⟨1, 2, 0, 0, 0, 0x0100⟩ && nB tSq false 0x0E9 ⟨1, 2, 0, 0, 0, 0x0106⟩ && nB tSq false 0x0EB ⟨1, 2, 0, 0, 0, 0x0806⟩ &&
     nB tSq false 0x0EA ⟨1, 2, 0, 0, 0, 0x000C⟩ && nB tSq false 0x0ED ⟨1, 4, 0, 2, 16, 0x000C⟩ (fun _ => xType 0x000C == tF32) &&
     nB tSq false 0x0ED ⟨1, 4, 0, 2, 16, 0x0006⟩ (fun _ => xType 0x0006 != tF32)) = true := by decide +kernel

/-! Memory: a squad of two lanes whose s8 holds an address of the page that tSq maps. -/

def tA : State := ((tSq.modSq (fun q => { q with sp := { q.sp with mask := 3 } })).setS 8 0x10000).setS 10 0x400
/-- The same squad in a transaction on a versioned page, and in one that is doomed. -/
def tTx : State := { tA.modSq (fun q => { q with tx := true }) with tlb := tA.tlb.map (fun t => { t with leaf := { t.leaf with cls := 1 } }) }
def tDoom : State := tA.modSq (fun q => { q with tx := true, doomed := some 3 })
/-- ld, st and the like of v4 at s8, one register; lds and sts at s10. -/
def wG (c : BitVec 8) : Long := ⟨4, 0, 0, 8, c, 0⟩
def wS (c : BitVec 8) : Long := ⟨4, 0, 0, 10, c, 0⟩

/-- tA whose L1 set of the line at s8 is full of pending lines of another squad; one that has published nothing of its own line yet. -/
def tCrowd : State := { tA with squads := tA.squads ++ [{ tA.sq with
  id := 77, slot := 5, pending := (List.range 56).map (fun i => ⟨lineOf (tA.keyNow 0x10000) + 64 * (i + 1), 0, false, false, false, 0, [(5, 0x77)]⟩) }] }
def tOwed : State := tCrowd.modSq (fun q => { q with pending := [⟨lineOf (tA.keyNow 0x10000) + 1, 0, false, false, false, 0, [(5, 0x77)]⟩] })
theorem witness_LoadsAndStores_ld :
    (nB tA false 0x120 (wG 0x0C) (fun r => !(r.inTx && r.sq.doomed.isSome) && r.check .ld 4 (r.plainAccs (wG 0x0C)) == .ok &&
       (r.lacking .read (r.accLines (r.plainAccs (wG 0x0C)))).isNone &&
       (r.forcedLines (r.plainAccs (wG 0x0C))).isEmpty && (r.farLack r.sq.cache (r.clNow / 32) (r.readsOf ((r.plainAccs (wG 0x0C)).flatMap Acc.bytes))).isNone) && nB tDoom false 0x120 (wG 0x0C) (fun r => r.inTx && r.sq.doomed.isSome) &&
     nB (tA.setS 8 0x10002) false 0x120 (wG 0x0C) (fun r => (r.check .ld 4 (r.plainAccs (wG 0x0C))).fault.isSome)) = true := by decide +kernel
theorem witness_LoadsAndStores_ldblk :
    (nB (tA.setFmt 0x6002) false 0x126 (wG 0x08) (fun r => !(r.inTx && r.sq.doomed.isSome) && r.check .ld 8 (r.blockAccs (wG 0x08)) == .ok &&
       (r.lacking .read (r.accLines (r.blockAccs (wG 0x08)))).isNone && (r.forcedLines (r.blockAccs (wG 0x08))).isEmpty &&
       (r.farLack r.sq.cache (r.clNow / 32) (r.readsOf ((r.blockAccs (wG 0x08)).flatMap Acc.bytes))).isNone) &&
     nB tDoom false 0x126 (wG 0x08) (fun r => r.inTx && r.sq.doomed.isSome) &&
     nB ((tA.setFmt 0x6002).setS 8 0x10004) false 0x126 (wG 0x08) (fun r => (r.check .ld 8 (r.blockAccs (wG 0x08))).fault.isSome)) = true := by
  decide +kernel
def stB (s : State) (ok : State → Bool) : Bool :=
  nB s false 0x121 (wG 0x0C) (fun r => r.check .st 4 (r.plainAccs (wG 0x0C)) == .ok && r.open_ .shared (r.ownA (r.accLines (r.plainAccs (wG 0x0C)))) && ok r)
theorem witness_LoadsAndStores_st :
    (stB tA (fun r => !r.inTx && r.canPend r.sq.cache (r.newOf (wG 0x0C))) &&
     stB tTx (fun r => r.inTx && r.sq.doomed.isNone && r.canPend r.sq.cache (r.newOf (wG 0x0C)) &&
       decide ((r.sq.pending.filter (·.tx)).length + (r.newOf (wG 0x0C)).length ≤ 256)) &&
     stB (tTx.modSq (fun q => { q with pending := (List.range 256).map (fun i => ⟨64 * i + 1, 0, false, true, false, 0, []⟩) }))
       (fun r => r.inTx && r.sq.doomed.isNone && decide (256 < (r.sq.pending.filter (·.tx)).length + (r.newOf (wG 0x0C)).length)) &&
     nB tDoom false 0x121 (wG 0x0C) (fun r => r.inTx && r.sq.doomed.isSome) &&
     nB (tA.setS 8 0x10002) false 0x121 (wG 0x0C) (fun r => (r.check .st 4 (r.plainAccs (wG 0x0C))).fault.isSome) &&
     nB tA false 0x12B ⟨0, 0, 0, 8, 0x09, 0⟩ (fun _ => acW 0x09 != 0) && nB tA false 0x12B ⟨0, 0, 0, 8, 0x08, 0⟩ (fun _ => acW 0x08 == 0)) = true := by decide +kernel
theorem witness_LoadsAndStores_full :
    (stB tCrowd (fun r => !r.inTx && !r.canPend r.sq.cache (r.newOf (wG 0x0C)) && !r.setsClear (r.newOf (wG 0x0C)) && r.published) &&
     stB tOwed (fun r => !r.inTx && !r.canPend r.sq.cache (r.newOf (wG 0x0C)) && !r.setsClear (r.newOf (wG 0x0C)) && !r.published)) = true := by decide +kernel
theorem witness_AccessChecks :
    (2 : Int) % (4 : Nat) ≠ 0 ∧ (-4 : Int) % (4 : Nat) = 0 ∧ (2 ^ 57 : Int) % (4 : Nat) = 0 ∧ tA.leafAt tA.ctxNow 0x900000 = none ∧
    (let s : State := { tA with tlb := tA.tlb.map (fun t => { t with leaf := { t.leaf with w := false } }) }
     (∀ i < 4, s.leafAt s.ctxNow (0x10000 + i) = some ⟨0, 0, false, false, 0, false, true, false, true, 3⟩) ∧
       s.allowed .st s.ctxNow ⟨0, 0, false, false, 0, false, true, false, true, 3⟩ = false) := by decide +kernel
theorem witness_LoadOrder :
    (let q := { tA.sq with pending := [⟨1, 0, false, false, false, 0, [(5, 0x77)]⟩] }
     q.pendByte (128 + 5) = some 0x77 ∧ q.pendByte (128 + 6) = none ∧ q.own = []) ∧
    (let far := 2 ^ 33 + 5
     let s : State := { tA with manual := [⟨600, far, 4095, List.replicate 128 9, 0⟩, ⟨tA.sq.cache, 3, 4095, List.replicate 128 8, 0⟩] }
     (s.manual.find? (fun m => m.place == s.sq.cache && m.line == 3)).isSome = true ∧ s.manual.find? (fun m => m.place == s.sq.cache && m.line == far) = none ∧
       homePkg far ≠ s.pkgIdx ∧ (s.manual.find? (fun m => m.place == 600 + s.sq.cache / 128 && m.line == far)).isSome = true ∧ s.sq.cache < 512) ∧
    get? ({ tA.sq with own := [(133, 0x66)] } : Squad).own 133 = some 0x66 ∧ tA.sq.tx = false ∧ tA.sq.handler = false ∧
    (let s := tA.modLaunch 1 (fun l => { l with snapOn := true, k := some ⟨3, 0⟩ })
     (s.launchOf 1).isSome = true ∧ s.sq.launch = 1 ∧ ((s.launchOf 1).map (fun l => (l.snapOn, l.k))) = some (true, some ⟨3, 0⟩)) := by decide +kernel
/-- The state in which the parts of a long or short instruction begin. -/
def beginsL (s : State) (pre : State) (parts : List MOp) : State := s.moved 8 (pre.setTodo parts)
def beginsS (s : State) (pre : State) (parts : List MOp) : State := s.moved 4 (pre.setTodo parts)
/-- The conditions of Safety.lean, as tests. -/
def landedB (s : State) (spans : List (Nat × Nat × Nat)) : Bool := (s.absentWait (spans.map (·.2.2))).isNone
def soundB (s : State) (spans : List (Nat × Nat × Nat)) : Bool := spans.all (fun p => s.poison.all (fun q => q.gran != scrGran p.2.2))
def pubsB (s : State) : Bool := s.ackRoom s.sending && (s.barredOf .shared s.preEpochs).isNone && s.publish.ackNow == 0
def snapsB (s : State) : Bool := s.settle.obsNow.le (s.settle.slackFor s.settle.ctxNow)
def reachesB (s : State) (k : AKind) (n : Need) (vas : List Nat) : Bool :=
  let ls := sortNat (vas.map (fun a => lineOf (s.keyOf s.ctxNow a)))
  vas.all (s.reachable k) && (s.lacking n ls).isNone && (s.barredOf n ls).isNone &&
    s.roomEach ls
theorem landedB_is {s : State} {l : List (Nat × Nat × Nat)} (h : landedB s l = true) : s.Landed l := by
  simpa [landedB, State.Landed] using h
theorem soundB_is {s : State} {l : List (Nat × Nat × Nat)} (h : soundB s l = true) : s.Sound l := by
  intro p hp q hq
  have := List.all_eq_true.mp (List.all_eq_true.mp h p hp) q hq
  simpa using this
theorem pubsB_is {s : State} (h : pubsB s = true) : s.PubsNow := by
  simp only [pubsB, Bool.and_eq_true, Option.isNone_iff_eq_none, beq_iff_eq] at h
  exact ⟨h.1.1, h.1.2, h.2⟩
theorem snapsB_is {s : State} (h : snapsB s = true) : s.SnapsNow := h
theorem reachesB_is {s : State} {k : AKind} {n : Need} {vas : List Nat} (h : reachesB s k n vas = true) : s.Reaches k n vas := by
  simp only [reachesB, Bool.and_eq_true, Option.isNone_iff_eq_none, List.all_eq_true] at h
  exact ⟨h.1.1.1, h.1.1.2, h.1.2, h.2⟩

def ldsB (s : State) (ok : State → List (Nat × Nat × Nat) → Bool) : Bool :=
  nB s false 0x122 (wS 0x0C) (fun r => !(r.inTx && r.sq.doomed.isSome) && (r.checkPlace 4 false (r.ldsAccs (wS 0x0C))).isNone &&
    ok (beginsL s r [.ldsDo 4 4 ((r.ldsAccs (wS 0x0C)).map (fun a => (a.lane, r.aim a)))])
      (spanKeys 4 ((r.ldsAccs (wS 0x0C)).map (fun a => (a.lane, r.aim a)))))
theorem witness_ScratchAccesses_lds :
    (acW (wS 0x0C).c == 4 && ldsB tA (fun u l => landedB u l && soundB u l) && nB tDoom false 0x122 (wS 0x0C) (fun r => r.inTx && r.sq.doomed.isSome) &&
     nB (tA.setS 10 0x10000) false 0x122 (wS 0x0C) (fun r => (r.checkPlace 4 false (r.ldsAccs (wS 0x0C))).isSome) &&
     ldsB { tA with absent := [8] } (fun u l => (u.absentWait (l.map (·.2.2))).isSome) &&
     ldsB { tA with poison := [{ gran := scrGran (tA.scrKeyAt 0x400), upto := none }] } (fun u l => landedB u l && (l.find? (fun p => u.poison.any (fun q => q.gran == scrGran p.2.2))).isSome)) = true := by
  decide +kernel
theorem witness_ScratchAccesses_sts :
    (nB tA false 0x123 (wS 0x0C) (fun r => (r.checkPlace 4 true (r.ldsAccs (wS 0x0C))).isNone &&
       landedB (beginsL tA r [.stsDo ((r.ldsAccs (wS 0x0C)).map (fun a => ((r.aim a).1, (r.aim a).2, a.n, r.storeVal 4 4 a.lane)))])
         ((r.ldsAccs (wS 0x0C)).flatMap (fun a => (List.range a.n).map (fun i => (0, (r.aim a).1 + i, (r.aim a).2 + i))))) &&
     nB (tA.setS 10 0x10000) false 0x123 (wS 0x0C) (fun r => (r.checkPlace 4 true (r.ldsAccs (wS 0x0C))).isSome)) = true := by decide +kernel
theorem witness_ScratchAccesses_ldsm :
    ([0x124, 0x125].all (fun n => nB tSq false n ⟨4, 2, 0, 10, 0x18, 0⟩ (fun r =>
       let l := spanKeys 16 ((List.range (r.rowAccs ⟨4, 2, 0, 10, 0x18, 0⟩).length).map (fun j => (j, nth (0, 0) ((r.rowAccs ⟨4, 2, 0, 10, 0x18, 0⟩).map r.aim) j)))
       let u := beginsL tSq r [.ldsmDo n 0x18 4 ((r.rowAccs ⟨4, 2, 0, 10, 0x18, 0⟩).map r.aim) r.lanes]
       !(r.inTx && r.sq.doomed.isSome) && (r.checkPlace 16 false (r.rowAccs ⟨4, 2, 0, 10, 0x18, 0⟩)).isNone && landedB u l && soundB u l) &&
     nB (tSq.modSq (fun q => { q with tx := true, doomed := some 3 })) false n ⟨4, 2, 0, 10, 0x18, 0⟩ (fun r => r.inTx && r.sq.doomed.isSome) &&
     nB (tSq.setS 10 0x10000) false n ⟨4, 2, 0, 10, 0x18, 0⟩ (fun r => (r.checkPlace 16 false (r.rowAccs ⟨4, 2, 0, 10, 0x18, 0⟩)).isSome))) = true := by decide +kernel

def acqParts (r : State) : List MOp := [.acqRead 4 4 ((r.plainAccs (wG 0x0C)).map (fun a => (a.lane, a.ea.toNat))), .snap]
def relParts (r : State) : List MOp :=
  [.publish, .waitAck, .relWrite ((r.plainAccs (wG 0x0C)).map (fun a => (a.lane, a.ea.toNat, a.n, r.storeVal 4 4 a.lane)))]
theorem witness_OrderedAccesses :
    (nB tA false 0x127 (wG 0x0C) (fun r => r.check .acq 4 (r.plainAccs (wG 0x0C)) == .ok && (let u := beginsL tA r (acqParts r)
       (passTo (acqParts r) u).isSome && reachesB u .acq .shared ((r.plainAccs (wG 0x0C)).map (fun a => a.ea.toNat)) &&
         snapsB (u.acqNow 4 4 ((r.plainAccs (wG 0x0C)).map (fun a => (a.lane, a.ea.toNat)))))) &&
     nB (tA.setS 8 0x10002) false 0x127 (wG 0x0C) (fun r => (r.check .acq 4 (r.plainAccs (wG 0x0C))).fault.isSome) &&
     nB tA false 0x128 (wG 0x0C) (fun r => r.check .rel 4 (r.plainAccs (wG 0x0C)) == .ok && (let u := beginsL tA r (relParts r)
       (passTo (relParts r) u).isSome && pubsB u && reachesB u.publish .rel .excl ((r.plainAccs (wG 0x0C)).map (fun a => a.ea.toNat)))) &&
     nB (tA.setS 8 0x10002) false 0x128 (wG 0x0C) (fun r => (r.check .rel 4 (r.plainAccs (wG 0x0C))).fault.isSome)) = true := by decide +kernel
def wA (x : BitVec 16) : Long := ⟨4, 0, 0, 8, 0x08, x⟩
def atomParts (acq rel : Bool) (x : BitVec 16) (r : State) : List MOp :=
  (if rel then [.publish, .waitAck] else []) ++ [.atomDo (xSub x % 16) (xType x) 4 acq rel
    ((r.wordAccs (wA x)).map (fun a => (a.lane, a.ea.toNat)))] ++ (if acq then [.snap] else [])
theorem witness_OrderedAccesses_atom :
    ([(false, false, (0x000A : BitVec 16)), (true, false, 0x100A), (false, true, 0x200A), (true, true, 0x300A)].all (fun a =>
       nB tA false 0x129 (wA a.2.2) (fun r => (xSub a.2.2).testBit 4 == a.1 && (xSub a.2.2).testBit 5 == a.2.1 &&
         r.check .atom 4 (r.wordAccs (wA a.2.2)) == .ok && (let u := beginsL tA r (atomParts a.1 a.2.1 a.2.2 r)
         let v := if a.2.1 then u.publish else u
         (passTo (atomParts a.1 a.2.1 a.2.2 r) u).isSome && pubsB u && reachesB v .atom .excl ((r.wordAccs (wA a.2.2)).map (fun a => a.ea.toNat)) &&
           snapsB (v.atomNow (xSub a.2.2 % 16) (xType a.2.2) 4 a.1 a.2.1 ((r.wordAccs (wA a.2.2)).map (fun a => (a.lane, a.ea.toNat))))))) &&
     nB (tA.setS 8 0x10002) false 0x129 (wA 0x000A) (fun r => (r.check .atom 4 (r.wordAccs (wA 0x000A))).fault.isSome)) = true := by decide +kernel
/-- A page that is update-only. -/
def tUpd : State := { tA with tlb := tA.tlb.map (fun t => { t with leaf := { t.leaf with upd := true } }) }
theorem witness_OrderedAccesses_upd :
    (nB tUpd false 0x12A (wA 0x0006) (fun r => r.check .upd 4 (r.wordAccs (wA 0x0006)) == .ok &&
       r.open_ (.upd 0 tS32) (r.accLines (r.wordAccs (wA 0x0006))) &&
       (r.accLines (r.wordAccs (wA 0x0006))).all (fun l => r.holdsA r.sq.cache l 0 tS32 || r.roomOne r.sq.cache l)) &&
     nB (tA.setS 8 0x10002) false 0x12A (wA 0x0006) (fun r => (r.check .upd 4 (r.wordAccs (wA 0x0006))).fault.isSome)) = true ∧
    xSub 0x0006 = 0 ∧ xType 0x0006 = tS32 := by decide +kernel
theorem witness_PhasesAndTransactions :
    (sB tA true 0x0A0 ⟨0, 0, 0⟩ (fun r => (passTo [.publish, .waitAck] (beginsS tA r [.publish, .waitAck])).isSome) &&
     sB tM true 0x0A0 ⟨0, 0, 0⟩ (fun r => (passTo [.publish, .waitAck] (beginsS tM r [.publish, .waitAck])).isSome) &&
     sB tA true 0x0A1 ⟨0, 0, 0⟩ (fun r => (passTo [.snap] (beginsS tA r [.snap])).isSome) &&
     sB tA true 0x0A2 ⟨0, 0, 0⟩ (fun r => (passTo [.publish, .waitAck, .snap] (beginsS tA r [.publish, .waitAck, .snap])).isSome) &&
     sB tA true 0x0A3 ⟨0, 0, 0⟩ (fun r => (passTo [.publish, .waitAck, .snap, .txEnter] (beginsS tA r [.publish, .waitAck, .snap, .txEnter])).isSome) &&
     sB tDoom true 0x0A4 ⟨0, 0, 0⟩ (fun r => r.sq.doomed == some 3) && sB tTx true 0x0A4 ⟨0, 0, 0⟩ (fun r => r.sq.doomed.isNone && r.txLines.isEmpty) &&
     sB ({ tTx.modSq (fun q => { q with pending := [⟨3, 0, false, true, false, 0, [(5, 0x77)]⟩] }) with pubs := [⟨3, ⟨5, 1⟩, [(5, 0x55)], 0⟩] } : State) true 0x0A4 ⟨0, 0, 0⟩ (fun r => r.sq.doomed.isNone && !r.txLines.isEmpty &&
       (passTo [.txLock (r.cuStamp r.sq.cache).1 r.txLines] (beginsS tTx (r.cuStamp r.sq.cache).2 [.txLock (r.cuStamp r.sq.cache).1 r.txLines])).isSome) &&
     sB tDoom true 0x0A5 ⟨0, 0, 2⟩ (fun r => r.sq.doomed == some 3) && sB tTx true 0x0A5 ⟨0, 0, 2⟩ (fun r => r.sq.doomed.isNone && !r.isM)) = true := by decide +kernel
/-- A home in HSX of the line at s8; the same line homed on another package. -/
def tBusy : State := { tA with home := [{ homeAt (lineOf (tA.keyNow 0x10000)) .hsx 0 [] with acks := [(0, 1)] }] }
def tAbroad : State := { tA with peers := [⟨1, 0, Stamp.zero, Stamp.zero, Stamp.zero, none, 0⟩], tlb := tA.tlb.map (fun t => { t with leaf := { t.leaf with home := 1 } }) }
theorem witness_PartRules :
    tA.ackNow = 0 ∧ (tA.modSq (fun q => { q with ack := 1 })).ackNow ≠ 0 ∧ snapsB tA = true ∧
    snapsB (tA.modSq (fun q => { q with obs := ⟨999, 0⟩ })) = false ∧ tA.isM = false ∧
    tA.ackRoom tA.sending = true ∧ tA.barredOf .shared tA.preEpochs = none ∧
    (tOwed.modSq (fun q => { q with ack := 65535 })).ackRoom (tOwed.modSq (fun q => { q with ack := 65535 })).sending = false ∧
    (let ls := [lineOf (tA.keyNow 0x10000)]
     (tBusy.linesOf .rel [0x10000] == some ls) = true ∧ tBusy.lacking .excl ls = none ∧ (tBusy.barredOf .excl ls).isSome = true ∧ tBusy.lacking .shared ls = none ∧
       (tBusy.barredOf .shared ls).isSome = true) ∧
    ((tAbroad.linesOf .acq [0x10000]).any (fun ls => (tAbroad.lacking .shared ls).isSome)) = true ∧
    tTx.sq.doomed = none ∧ tTx.held tTx.sq.id .event 3 = false ∧ tTx.locks = [] ∧
    (let u := (({ tTx with locks := tTx.locks ++ [⟨3, tTx.sq.id, ⟨7, 0⟩, false⟩] } : State).collapseCu tTx.sq.cache 3).2
     u.sq.tide.lt (u.newest 3) = false) ∧
    (let s : State := { tTx with pubs := [⟨3, ⟨5, 1⟩, [(5, 0x55)], 0⟩] }
     let u := (({ s with locks := s.locks ++ [⟨3, s.sq.id, ⟨7, 0⟩, false⟩] } : State).collapseCu s.sq.cache 3).2
     u.sq.tide.lt (u.newest 3) = true) ∧ (tTx.sq.pending = [] ∧ tDoom.sq.doomed = some 3) ∧
    passTo [] tA = some tA ∧
    (match runOp .waitAck (tA.modSq (fun q => { q with ack := 1 })) with | .wait _ _ .waitAck => true | _ => false) = true ∧
    (match runOp (.arriveSync 0 5) { tA with teams := tA.teams.map (fun u => { u with bars := u.bars.set 0 ⟨0, 1, 3, Stamp.zero, Stamp.zero⟩ }) } with
      | .trap _ _ => true | _ => false) = true := by
  refine ⟨?_, ?_, ?_, ?_, ?_, ?_, ?_, ?_, ?_, ?_, ?_, ?_, ?_, ?_, ?_, ?_, rfl, ?_, ?_⟩ <;> decide +kernel
/-- A ring control block of 16 entries at the address in s8, with `tail` entries in it, its slots at 0x10800; s12 is no pointer to one. -/
def tRing (tail : Nat) : State :=
  (tA.setS 8 0x12000).homeWrite (tA.keyNow 0x12000) (bytesLE 8 0 ++ bytesLE 8 tail ++ bytesLE 8 0x10800 ++ bytesLE 8 4)
def wR : Long := ⟨4, 0, 0, 8, 0, 0⟩
def ringOk (va : Nat) (front : Bool) (r : State) : Bool :=
  let b := r.ringAcc wR
  let h := r.homeReady (r.accLines b)
  let k := h.ringBlk va
  let sl := if front then k.slots k.head ((lanesOf r.lanes).take (k.tail - k.head)) else
    if k.tail - k.head + (lanesOf r.lanes).length ≤ 2 ^ k.cap then k.slots k.tail (lanesOf r.lanes) else []
  r.check .ring 64 b == .ok && r.open_ .event (r.accLines b) && k.ok && h.check (if front then .ring else .slot) 8 sl == .ok &&
    h.open_ .event (h.accLines (b ++ sl))
def deqStart (s r : State) : State :=
  let h := r.homeReady (r.accLines (r.ringAcc wR))
  let k := h.ringBlk 0x12000
  let sl := k.slots k.head ((lanesOf r.lanes).take (k.tail - k.head))
  beginsL s ((h.homeReady (h.accLines (r.ringAcc wR ++ sl))).deqAt 0x12000 4 0 r.lanes) [.snap]
theorem witness_RingsAndRanges :
    (nB (tRing 0) true 0x0A6 wR (fun r => ringOk 0x12000 false r && r.published) &&
     nB ((tRing 0).modSq (fun q => { q with pending := tOwed.sq.pending })) true 0x0A6 wR (fun r => ringOk 0x12000 false r && !r.published) &&
     nB (tRing 16) true 0x0A6 wR (fun r => ringOk 0x12000 false r && r.published && decide (2 ^ (r.ringBlk 0x12000).cap <
        (r.ringBlk 0x12000).tail - (r.ringBlk 0x12000).head + 2)) &&
     nB (tRing 3) true 0x0A7 wR (fun r => ringOk 0x12000 true r && snapsB (deqStart (tRing 3) r)) &&
     (let s := (tRing 3).modSq (fun q => { q with obs := ⟨999, 0⟩ })
      nB s true 0x0A7 wR (fun r => ringOk 0x12000 true r && !snapsB (deqStart s r))) &&
     [0x0A6, 0x0A7].all (fun n => nB (tA.setS 8 0x12004) true n wR (fun r => (r.check .ring 64 (r.ringAcc wR)).fault.isSome) &&
       nB (tA.setS 8 0x13000) true n wR (fun r => r.check .ring 64 (r.ringAcc wR) == .ok && r.open_ .event (r.accLines (r.ringAcc wR)) &&
         !((r.homeReady (r.accLines (r.ringAcc wR))).ringBlk 0x13000).ok)) &&
     [(0x0A8, 0), (0x0A9, 1), (0x0AA, 2)].all (fun p => [tA, tM].all (fun s => nB s true p.1 ⟨0, 8, 0, 4, 0, 0⟩ (fun r =>
       let l := [.waitAck, .walkLines p.2 (r.spair 8).toNat (r.sreg 4).toNat, .walkAck]
       let u := beginsL s (r.rangePub p.2 ⟨0, 8, 0, 4, 0, 0⟩) l
       r.ackRoom r.sending && r.open_ .shared r.preEpochs && (passTo l u).isSome && u.ackNow == 0 &&
         (u.walkRange p.2 (r.spair 8).toNat (r.sreg 4).toNat).ackNow == 0))) && tA.ackNow == 0 && decide ((tA.modSq (fun q => { q with ack := 2 })).ackNow ≠ 0)) = true := by decide +kernel

/-! Engine commands and synchronization. -/

/-- An operand group at s16 and following. -/
def grpAt (l : List W) (s : State) : State := (List.range l.length).foldl (fun s i => s.setS (16 + i) (nth 0 l i)) s
/-- From 0x10000 to 0x11000, 64 bytes; both in scratchpad; a destination at the top of the address space. -/
def gGlob : List W := [0x10000, 0, 0x11000, 0, 64, 0, 0, 2, 256, 256]
def gScr : List W := [0x100, 0, 0x400, 0, 64, 0, 0, 2, 256, 256]
def gBad : List W := [0xFFFFFFF0, 0xFFFFFFFF, 0x11000, 0, 64, 0, 0, 2, 256, 256]

theorem witness_CommandsAndSignals_copies :
    ([(0x0E0, false), (0x0E1, true)].all (fun p =>
       nB (grpAt gGlob tA) true p.1 ⟨2, 16, 0, 0, 3, 0⟩ (fun r => (r.copyFault ⟨2, 16, 0, 0, 3, 0⟩ p.2).isNone) &&
       nB (grpAt gScr tA) true p.1 ⟨2, 16, 0, 0, 3, 3⟩ (fun r => (r.copyFault ⟨2, 16, 0, 0, 3, 3⟩ p.2).isNone) &&
       nB (grpAt gGlob tM) true p.1 ⟨2, 16, 0, 0, 3, 0⟩ (fun r => (r.copyFault ⟨2, 16, 0, 0, 3, 0⟩ p.2).isNone) &&
       nB (grpAt gBad tA) true p.1 ⟨2, 16, 0, 0, 3, 0⟩ (fun r => (r.copyFault ⟨2, 16, 0, 0, 3, 0⟩ p.2).isSome)) &&
     nB (grpAt [0x10000, 0, 0x100, 0x400, 4, 0, 0] tA) true 0x0E2 ⟨2, 16, 0, 0, 0, 2⟩ (fun r => (r.gathFault ⟨2, 16, 0, 0, 0, 2⟩).isNone) &&
     nB (grpAt [0x10000, 0, 0x100, 0x40000, 4, 0, 0] tA) true 0x0E2 ⟨2, 16, 0, 0, 0, 2⟩ (fun r => (r.gathFault ⟨2, 16, 0, 0, 0, 2⟩).isSome) &&
     nB (grpAt gGlob tA) true 0x0E3 ⟨2, 16, 0, 0, 0, 0⟩ (fun r => (r.rcpyFault ⟨2, 16, 0, 0, 0, 0⟩).isNone &&
       (let u := beginsL (grpAt gGlob tA) r [.rcpyDo 2 0 (r.group 16 7)]
        (passTo [.rcpyDo 2 0 (r.group 16 7)] u).isSome && u.ackRoom 1)) &&
     nB (grpAt gBad tA) true 0x0E3 ⟨2, 16, 0, 0, 0, 0⟩ (fun r => (r.rcpyFault ⟨2, 16, 0, 0, 0, 0⟩).isSome) &&
     !(tA.modSq (fun q => { q with ack := 65535 })).ackRoom 1 &&
     (let s : State := { tA with teams := tA.teams.map (fun u => { u with range := List.replicate 32 (some ⟨1, 2, 3⟩) }) }
      decide ((freeRanges ((s.teamNow.map (·.range)).getD [])).length < 2))) = true := by decide +kernel
theorem witness_CommandsAndSignals_arm : tA.ArmRoom 0 gGlob ∧ tA.ArmRoom 1 gGlob ∧
    ¬ ({ tA with teams := tA.teams.map (fun u => { u with range := List.replicate 32 (some ⟨1, 2, 3⟩) }) } : State).ArmRoom 1 gGlob := by
  unfold State.ArmRoom
  decide +kernel
theorem witness_CommandsAndSignals_signals :
    (nB tA true 0x0E4 ⟨2, 8, 0, 4, 0, 0⟩ (fun r => r.check .rsig 8 [⟨0, 0x10000, 8⟩] == .ok && r.ackRoom 1) &&
     nB (tA.setS 8 0x10004) true 0x0E4 ⟨2, 8, 0, 4, 0, 0⟩ (fun r => (r.check .rsig 8 [⟨0, 0x10004, 8⟩]).fault.isSome) &&
     nB tA true 0x0E8 ⟨2, 0, 0, 0, 3, 0⟩ && nB tA true 0x0E8 ⟨2, 0, 0, 0, 3, 1⟩ && nB tM true 0x0E8 ⟨2, 0, 0, 0, 18, 0⟩ &&
     nB tA true 0x0E9 ⟨0, 2, 0, 0, 3, 0⟩ (fun r => (let u := beginsL tA r [.waitTl 3 0, .snap]
       (r.spair 2).toNat == 0 && (passTo [.waitTl 3 0, .snap] u).isSome &&
         snapsB (u.observe (u.timeline u.ctxNow u.clNow (tlPlace 3 u.posNow)).stamp))) &&
     nB tA true 0x0EA ⟨2, 10, 0, 4, 3, 0⟩ (fun r => (r.cmdCheck (compRng 0 0) (compRng 0 0) [] 0 0x400 false).isNone) &&
     nB (tA.setS 10 0x404) true 0x0EA ⟨2, 10, 0, 4, 3, 1⟩ (fun r => (r.cmdCheck (compRng 0 0) (compRng 0 0) [] 1 0x404 false).isSome) &&
     nB tA true 0x0EB ⟨0, 10, 0, 4, 0, 0⟩ (fun r => (r.checkPlace 8 true [⟨0, 0x400, 8⟩]).isNone && (let u := beginsL tA r [.waitWord 0x400 0, .snap]
       (passTo [.waitWord 0x400 0, .snap] u).isSome && (u.scrPoison [⟨0, 0x400, 8⟩]).isNone &&
         snapsB (u.observe ((get? u.arrival (u.scrKeyAt 0x400 / 2 ^ 19)).getD Stamp.zero)))) &&
     nB { tA with objs := [⟨0x400, 2, 0, 0, 0, Stamp.zero, Stamp.zero, 2⟩] } true 0x0EB ⟨0, 10, 0, 4, 0, 0⟩ (fun r =>
       (r.checkPlace 8 true [⟨0, 0x400, 8⟩]).any (fun f => f.cause == .barrierClobber)) &&
     nB tA true 0x0EB ⟨0, 8, 0, 4, 0, 1⟩ (fun r => r.check .waitg 8 [⟨0, 0x10000, 8⟩] == .ok && (let u := beginsL tA r [.waitWordG 0x10000 0, .snap]
       (passTo [.waitWordG 0x10000 0, .snap] u).isSome && reachesB u .waitg .shared [0x10000] &&
         (let k := u.keyOf u.ctxNow 0x10000; snapsB ((u.wordRead (lineOf k)).observe ((u.wordRead (lineOf k)).relstamp (lineOf k)))))) &&
     nB (tA.setS 8 0x10004) true 0x0EB ⟨0, 8, 0, 4, 0, 1⟩ (fun r => (r.check .waitg 8 [⟨0, 0x10004, 8⟩]).fault.isSome) &&
     decide ((tA.timeline tA.ctxNow tA.clNow (tlPlace 3 tA.posNow)).done < 5) &&
     decide (natLE (tA.scrBytes (tA.scrKeyAt 0x400) 8) < 5) && (tA.scrPoison [⟨0, 0x400, 8⟩]).isNone) = true ∧ tA.scrAt 0x400 = .ok (tA.scrKeyAt 0x400) ∧
    (tA.wordRead (lineOf (tA.keyOf tA.ctxNow 0x10000))).curNat (tA.keyOf tA.ctxNow 0x10000) 8 < 2 ^ 64 - 1 := by
  refine ⟨by decide +kernel, rfl, by decide +kernel⟩

/-- A barrier object at the scratch address in s10: expected count, arrivals, waiters. -/
def tObj (n a w : Nat) : State := { tA.setS 12 2 with objs := [⟨0x400, n, a, 0, w, Stamp.zero, Stamp.zero, 2⟩] }
def objOk (r : State) : Bool := (r.checkPlace 1 false [⟨0, 0x400, 16⟩]).isNone
/-- The hypotheses of ObjHeld, as a test: an object with some property stands at 0x400. -/
def heldAt (s : State) (ok : BarObj → Bool) : Bool :=
  (match s.scrAt 0x400 with
   | .ok k => (s.objOf k).any ok
   | _ => false)
theorem heldAt_is {s : State} {ok : BarObj → Bool} (h : objOk s = true) (g : heldAt s ok = true) : ∃ k o, s.ObjHeld 0x400 k o ∧ ok o = true := by
  unfold heldAt at g
  split at g
  next k hk =>
    simp only [Option.any_eq_true_iff_get] at g
    obtain ⟨hs, ho⟩ := g
    exact ⟨k, _, ⟨by simpa [objOk] using h, by decide, hk, Option.eq_some_of_isSome hs⟩, ho⟩
  · exact absurd g (by decide)
theorem witness_Barriers_objects :
    (nB (tA.setS 12 2) true 0x0F0 ⟨0, 10, 0, 12, 0, 0⟩ (fun r => objOk r && (r.objOf (r.scrKeyAt 0x400)).isNone && r.objs.isEmpty && (r.sreg 12).toNat == 2) &&
     nB (tObj 2 0 0) true 0x0F0 ⟨0, 10, 0, 12, 0, 0⟩ (fun r => objOk r && heldAt r (·.idle)) &&
     nB (tA.setS 10 0x10000) true 0x0F0 ⟨0, 10, 0, 12, 0, 0⟩ (fun r => (r.checkPlace 1 false [⟨0, 0x10000, 16⟩]).isSome) &&
     nB (tA.setS 10 0x404) true 0x0F0 ⟨0, 10, 0, 12, 0, 0⟩ (fun r => (r.checkPlace 1 false [⟨0, 0x404, 16⟩]).isNone) &&
     nB (tObj 2 1 0) true 0x0F0 ⟨0, 10, 0, 12, 0, 0⟩ (fun r => objOk r && heldAt r (fun o => !o.idle)) &&
     nB (tObj 2 0 0) true 0x0F0 ⟨0, 10, 0, 0, 0, 1⟩ (fun r => objOk r && heldAt r (fun o => o.waiters == 0 && o.arrived == 0)) &&
     nB (tObj 2 1 0) true 0x0F0 ⟨0, 10, 0, 0, 0, 1⟩ (fun r => objOk r && heldAt r (fun o => o.arrived != 0)) &&
     nB (tObj 2 0 0) true 0x0F1 ⟨3, 10, 0, 0, 0, 0⟩ (fun r => objOk r && heldAt r (fun _ => true) &&
       (let u := beginsL (tObj 2 0 0) r [.publish, .waitAck, .arriveObj 0x400 (some 3) false]
        (passTo [.publish, .waitAck, .arriveObj 0x400 (some 3) false] u).isSome && pubsB u && heldAt u.publish (fun _ => true))) &&
     nB (tObj 2 0 0) true 0x0F2 ⟨0, 10, 0, 12, 0, 0⟩ (fun r => objOk r && heldAt r (fun o => o.phase != r.sreg 12) &&
       (let u := beginsL (tObj 2 0 0) r [.waitObj 0x400 (r.scrKeyAt 0x400) 2, .snap]
        (passTo [.waitObj 0x400 (r.scrKeyAt 0x400) 2, .snap] u).isSome && heldAt u (fun o => snapsB (u.observe o.last)))) &&
     nB ((tObj 2 0 0).setS 12 0) true 0x0F2 ⟨0, 10, 0, 12, 0, 0⟩ (fun r => objOk r && heldAt r (fun o => o.phase == r.sreg 12)) &&
     nB (tObj 1 0 0) true 0x0F3 ⟨0, 10, 0, 0, 0, 0⟩ (fun r => objOk r && heldAt r (fun _ => true) &&
       (let u := beginsL (tObj 1 0 0) r [.publish, .waitAck, .arriveObj 0x400 none true, .snap]
        (passTo [.publish, .waitAck, .arriveObj 0x400 none true, .snap] u).isSome && pubsB u && heldAt u.publish (fun o => o.arrived + 1 == o.expected &&
          snapsB ((u.publish.arriveAt o u.publish.obsNow).observe (o.gather.max u.publish.obsNow))))) &&
     nB (tObj 2 0 0) true 0x0F3 ⟨0, 10, 0, 0, 0, 0⟩ (fun r => objOk r && heldAt r (fun o => o.arrived + 1 != o.expected))) = true := by decide +kernel
theorem witness_Barriers_refused :
    (nB ({ tA.setS 12 2 with objs := [⟨0x408, 2, 0, 0, 0, Stamp.zero, Stamp.zero, 2⟩] } : State) true 0x0F0 ⟨0, 10, 0, 12, 0, 0⟩ (fun r =>
       objOk r && (r.objOf (r.scrKeyAt 0x400)).isNone && r.scrKeyAt 0x400 == 0x400) &&
     nB (tA.setS 12 0) true 0x0F0 ⟨0, 10, 0, 12, 0, 0⟩ (fun r => objOk r && (r.objOf (r.scrKeyAt 0x400)).isNone && (r.sreg 12).toNat == 0) &&
     nB tA true 0x0F0 ⟨0, 10, 0, 0, 0, 1⟩ (fun r => objOk r && (r.objOf (r.scrKeyAt 0x400)).isNone) &&
     [0x0F1, 0x0F2, 0x0F3].all (fun n => nB tA true n ⟨if n = 0x0F1 then 3 else 0, 10, 0, if n = 0x0F2 then 12 else 0, 0, 0⟩ (fun r =>
       objOk r && (r.objOf (r.scrKeyAt 0x400)).isNone))) = true := by decide +kernel
theorem witness_Barriers_teams :
    (nB tA true 0x0F4 ⟨0, 0, 0, 3, 0, 0⟩ (fun r => (let u := beginsL tA r [.publish, .waitAck, .arriveSync 3 0, .snap]
       (passTo [.publish, .waitAck, .arriveSync 3 0, .snap] u).isSome && pubsB u && u.publish.teamNow.any (fun k =>
         (nth HwBar.zero k.bars 3).arrived == 0 && (let b := { nth HwBar.zero k.bars 3 with
             arrived := (nth HwBar.zero k.bars 3).arrived + 1, count := 0, gather := (nth HwBar.zero k.bars 3).gather.max u.publish.obsNow }
           b.full k.alive.length && snapsB ((u.publish.testBar k 3 b).observe b.gather))))) &&
     tA.teamNow.any (fun k => !({ HwBar.zero with arrived := 1, count := 3 } : HwBar).full k.alive.length) &&
     nB tA true 0x0F5 ⟨0, 0, 0, 3, 0, 0⟩ (fun r => (let u := beginsL tA r [.publish, .waitAck, .arriveLvl 3, .snap]
       (passTo [.publish, .waitAck, .arriveLvl 3, .snap] u).isSome && pubsB u && u.publish.teamNow.any (fun k =>
         (u.publish.launchOf u.publish.sq.launch).any (fun a => a.hdr.levelTeams 3 == some (1, 1) &&
           (let b := u.publish.lvlOf a.id 3 (k.num / 1)
            let v := u.publish.arriveLevel k b
            (v.lvlOf a.id 3 (k.num / 1)).bar.phase != b.bar.phase && snapsB (v.observe (v.lvlOf a.id 3 (k.num / 1)).bar.last)))))) &&
     (let s := tA.modLaunch 1 (fun l => { l with hdr := { l.hdr with levels := [(1, 2)] }, teams := 2, next := 1 })
      s.teamNow.any (fun k => (let b := s.lvlOf 1 3 (k.num / 2); ((s.arriveLevel k b).lvlOf 1 3 (k.num / 2)).bar.phase == b.bar.phase))) &&
     ({ HwBar.zero with arrived := 1, count := 0 }).full 1 && !({ HwBar.zero with arrived := 1, count := 0 }).full 2 &&
     ({ HwBar.zero with arrived := 2, count := 2 }).full 5 &&
     (let s : State := { tA with teams := tA.teams.map (fun u => { u with bars := u.bars.set 0 ⟨0, 1, 3, Stamp.zero, Stamp.zero⟩ }) }
      s.teamNow.any (fun u => (nth HwBar.zero u.bars 0).arrived != 0 && (nth HwBar.zero u.bars 0).count != 5))) = true := by decide +kernel
theorem witness_Barriers_letGo : (tA.modSq (fun q => { q with todo := [.waitObj 0x400 0x400 2, .snap] })).sq.todo = [.waitObj 0x400 0x400 2, .snap] := by decide +kernel

/-- Queue 0 is enabled or not, fed by the device and belongs to the context of tA. -/
def tQueue (on : Bool) : State :=
  (tA.setCsr 0 0x8100 0x20001).physWrite 0x20000 (bytesLE 8 0x30000 ++ [4, 0, if on then 3 else 2, 0] ++ bytesLE 2 4095)
def tWhole : State := tA
def spawnParts (r : State) : List MOp := [.publish, .waitAck] ++ (lanesOf r.lanes).map (fun l => .emit 0x40 (r.spawnWords ⟨0, 2, 0, 16, 0, 0⟩ l))
theorem witness_WorkAndChannels_spawn :
    (nB (tA.setS 2 0x40) true 0x0F8 ⟨0, 2, 0, 16, 0, 0⟩ (fun r => (r.spair 2).toNat % 4 == 0 && (let u := beginsL (tA.setS 2 0x40) r (spawnParts r)
       (passTo (spawnParts r) u).isSome && pubsB u && (u.publish.launchOf u.publish.sq.launch).any (fun a =>
         (u.publish.landRecs a (r.spair 2) ((lanesOf r.lanes).map (r.spawnWords ⟨0, 2, 0, 16, 0, 0⟩))).isSome &&
         (u.publish.landRec u.publish.clNow a 0x40 (r.spawnWords ⟨0, 2, 0, 16, 0, 0⟩ 0) u.publish.obsNow).isSome))) &&
     nB (tA.setS 2 0x42) true 0x0F8 ⟨0, 2, 0, 16, 0, 0⟩ (fun r => (r.spair 2).toNat % 4 != 0)) = true := by decide +kernel
def postParts : List MOp := [.publish, .waitAck, .postDo 0x400 0 0x30000 4]
theorem witness_WorkAndChannels_post :
    (nB ((tQueue true).setS 12 0) true 0x0F9 ⟨0, 10, 0, 12, 0, 0⟩ (fun r => (r.checkPlace 64 false [⟨0, 0x400, 64⟩]).isNone &&
       r.qdesc 0 == some ⟨0x30000, 4, 0, true, true, 4095⟩ && r.ctxNow == 4095 && (let u := beginsL ((tQueue true).setS 12 0) r postParts
       (passTo postParts u).isSome && pubsB u && (u.publish.absentWait ((List.range 64).map (fun i => u.publish.scrKeyAt ((0x400 + i : Nat) : Int)))).isNone &&
         (u.publish.scrPoison [⟨0, 0x400, 64⟩]).isNone && !u.publish.ringFull 0 4 && !u.publish.barred u.publish.sq.id .event (lineOf (u.publish.entryKey 0 0x30000 4)))) &&
     ((tQueue true).setQueue { (tQueue true).queueOf 0 with tail := 16 }).ringFull 0 4 &&
     nB ((tQueue false).setS 12 0) true 0x0F9 ⟨0, 10, 0, 12, 0, 0⟩ (fun r => (r.checkPlace 64 false [⟨0, 0x400, 64⟩]).isNone &&
       (r.qdesc 0).any (fun d => !d.enabled)) &&
     nB ((tA.setS 10 0x10000).setS 12 0) true 0x0F9 ⟨0, 10, 0, 12, 0, 0⟩ (fun r => (r.checkPlace 64 false [⟨0, 0x10000, 64⟩]).isSome) &&
     nB (tA.setS 12 0) true 0x0F9 ⟨0, 10, 0, 12, 0, 0⟩ (fun r => (r.checkPlace 64 false [⟨0, 0x400, 64⟩]).isNone && (r.qdesc 0).isNone)) = true := by decide +kernel
/-- A squad of the team in the middle of an access to the shoal window. -/
def tWindow : State := { tA with
  teams := tA.teams.map (fun u => { u with shoal := some 5 })
  squads := [{ tA.sq with id := 90, todo := [.ldsDo 4 4 [(0, 0x80000000, 0x500)]] }] }
def tChan (l : List (D × Stamp)) : State := { tA with chans := [⟨0, 1, l, 0⟩] }
theorem witness_WorkAndChannels_shoal :
    (nB tA true 0x0FA ⟨0, 0, 0, 5, 0, 0⟩ (fun r => r.teamNow.any (fun u => u.shoal.isNone && (r.shoalSlot u).any (fun n =>
       r.teams.all (fun t => t.id == u.id || t.cache / 4 != u.cache / 4 || t.shoal != some 5 || t.shSlot != n)))) &&
     nB (tA.modTeam 2 (fun u => { u with shoal := some 5 })) true 0x0FA ⟨0, 0, 0, 5, 0, 0⟩ (fun r => r.teamNow.any (fun u => u.shoal == some 5)) &&
     nB (tA.modTeam 2 (fun u => { u with shoal := some 6 })) true 0x0FA ⟨0, 0, 0, 5, 0, 0⟩ (fun r => r.teamNow.any (fun u => u.shoal.isSome && u.shoal != some 5)) &&
     nB tA true 0x0FB ⟨0, 0, 0, 0, 0, 0⟩ (fun r => (let u := beginsL tA r [.leaveDo]; (passTo [.leaveDo] u).isSome && !u.windowIssued)) &&
     tWindow.windowIssued) = true := by decide +kernel
def sendParts (b : Bool) : List MOp := [.publish, .waitAck, .sendDo 1 0 b]
theorem witness_WorkAndChannels_channels :
    (nB tA true 0x0FC ⟨0, 2, 0, 1, 0, 0⟩ (fun r => (let u := beginsL tA r (sendParts false)
       (passTo (sendParts false) u).isSome && pubsB u && (u.publish.chan u.publish.clNow 1).room)) &&
     nB tA true 0x0FC ⟨0, 2, 0, 1, 0, 1⟩ (fun r => (r.chan r.clNow 1).room &&
       (let u := beginsL tA ((r.setChan { r.chan r.clNow 1 with reserved := (r.chan r.clNow 1).reserved + 1 }).setScc true) (sendParts true)
        (passTo (sendParts true) u).isSome && pubsB u)) &&
     nB (tChan (List.replicate 16 (7, Stamp.zero))) true 0x0FC ⟨0, 2, 0, 1, 0, 1⟩ (fun r => !(r.chan r.clNow 1).room) &&
     [0, 1].all (fun x => nB (tChan [(7, Stamp.zero)]) true 0x0FD ⟨2, 0, 0, 1, 0, BitVec.ofNat 16 x⟩ (fun r =>
       (let u := beginsL (tChan [(7, Stamp.zero)]) (if x = 1 then r.setScc true else r) [.recvDo 1 2, .snap]
        (passTo [.recvDo 1 2, .snap] u).isSome && (u.chan u.clNow 1).msgs == [(7, Stamp.zero)] && (r.chan r.clNow 1).msgs == [(7, Stamp.zero)] &&
          snapsB (((u.setChan { u.chan u.clNow 1 with msgs := [] }).setS2 2 7).observe Stamp.zero)))) &&
     nB tA true 0x0FD ⟨2, 0, 0, 1, 0, 1⟩ (fun r => (r.chan r.clNow 1).msgs.isEmpty)) = true := by decide +kernel

/-- The clauses of Completions about tables, phases and transactions; the others have the witnesses of CommandsAndSignals, Barriers,
WorkAndChannels and MatrixPasses. -/
theorem witness_Completions :
    (sB (tSq.modSq (fun q => { q with handler := true })) true 0x180 ⟨0, 0, 0⟩ (fun r => !r.isM) && sB tSq true 0x183 ⟨4, 0, 0⟩ (fun r => !r.isM) &&
     nB tSq true 0x181 ⟨2, 0, 0, 0, 0, 0x8040⟩ && nB tSq true 0x182 ⟨0, 2, 0, 0, 0, 2⟩ (fun _ => decide ((2 : Nat) < 0x8000)) &&
     nB tSq true 0x182 ⟨0, 2, 0, 0, 0, 0x8047⟩ (fun r => r.csrOpen 0x8047) &&
     lutB tPair false (fun u => !u.lutEarlier && u.teamNow.any (fun k => k.lut == some 3)) &&
     [false, true].all (fun b => lutB tSq b (fun u => !u.lutEarlier && u.teamNow.any (fun k => k.lut.isNone && !u.luts.any (fun p => p.cache == k.cache && p.num == 0)))) &&
     lutB tPair true (fun u => !u.lutEarlier && u.teamNow.any (fun k => k.lut == some 3)) &&
     sB tA true 0x0A0 ⟨0, 0, 0⟩ (fun r => pubsB (beginsS tA r [.publish, .waitAck])) && sB tM true 0x0A0 ⟨0, 0, 0⟩ (fun r => pubsB (beginsS tM r [.publish, .waitAck])) &&
     sB tA true 0x0A1 ⟨0, 0, 0⟩ (fun r => snapsB (beginsS tA r [.snap])) &&
     sB tA true 0x0A2 ⟨0, 0, 0⟩ (fun r => (let u := beginsS tA r [.publish, .waitAck, .snap]; pubsB u && snapsB u.publish)) &&
     sB tA true 0x0A3 ⟨0, 0, 0⟩ (fun r => (let u := beginsS tA r [.publish, .waitAck, .snap, .txEnter]; pubsB u && snapsB u.publish))) = true := by decide +kernel
theorem witness_Completions_pairs : (∃ k, tPair.HoldsPair k 3) ∧ ∃ k, tSq.FindsPair k 0 :=
  ⟨⟨_, rfl, rfl⟩, ⟨_, rfl, rfl, by decide, by decide +kernel, fun k h => absurd h (Nat.not_lt_zero k)⟩⟩

/-! Matrix instructions: an MCC with address records in scratchpad. -/

/-- The 64 bytes of an address record: base, stride, rows, cols, format code, flags, scratch address of its metadata. -/
def recBytes (base stride rows cols fcode flags mrec : Nat) (sbase : Nat := 0) : List Byte :=
  bytesLE 8 base ++ bytesLE 8 sbase ++ bytesLE 4 stride ++ bytesLE 4 stride ++ bytesLE 2 rows ++ bytesLE 2 cols ++ [BitVec.ofNat 8 fcode, BitVec.ofNat 8 flags, 0, 0] ++
    bytesLE 4 mrec ++ List.replicate 28 0
def recWords (l : List Byte) : List W := (List.range 16).map (fun i => BitVec.ofNat 32 (natLE ((l.drop (4 * i)).take 4)))
def recA : List Byte := recBytes 0x1000 64 1 32 0 1 0
def recB : List Byte := recBytes 0x2000 32 32 1 0 1 0
def recLd : List Byte := recBytes 0x3000 4 1 1 0x18 1 0
/-- The record stands at 0x800, s8 points to it; slot 5 holds 32 rows. -/
def tRec (l : List Byte) : State :=
  ((tM.scrWrite (tM.scrKeyAt 0x800) l).setS 8 0x800).modMcc (fun m => { m with slots := m.slots.set 5 ⟨true, 0, 0, false, 32, [], []⟩ })
def heldB (r : State) (use : RecUse) (l : List Byte) : Bool :=
  (r.checkPlace 64 false [⟨0, 0x800, 64⟩]).isNone && (r.scrPoison [⟨0, 0x800, 64⟩]).isNone &&
    (r.absentWait [r.scrKeyAt 0x800, r.scrKeyAt 0x800 + 63]).isNone &&
    ARec.ofBytes (r.scrBytes (r.scrKeyAt 0x800) 64) == ARec.ofBytes l && !(ARec.ofBytes l).bad && (ARec.ofBytes l).suits use
theorem heldB_is {r : State} {use : RecUse} {l : List Byte} (h : heldB r use l = true) : r.RecHeld 0x800 use (ARec.ofBytes l) := by
  simp only [heldB, Bool.and_eq_true, Option.isNone_iff_eq_none, beq_iff_eq, Bool.not_eq_true'] at h
  exact ⟨h.1.1.1.1.1, h.1.1.1.1.2, h.1.1.1.2, h.1.1.2, h.1.2, h.2⟩
def readyB (s : State) (width : Nat) (els scr glob : List Span) : Bool :=
  (misaligned width els).isNone && (s.scrRows false scr).isNone && s.check .mread 1 (accsOf glob) == .ok && (s.absentWait (s.scrKeys scr)).isNone &&
    (s.lacking .read ((spanLines glob).map (fun a => lineOf (s.keyOf s.mcc.ctx a)))).isNone &&
    (s.mccForced (spanLines glob)).filter (homePkg · != s.pkgIdx) == [] &&
    ((s.lacking .shared (s.mccForced (spanLines glob))).or (s.barredOf .shared (s.mccForced (spanLines glob)))).isNone &&
    (s.farLack (600 + s.mcc.cl / 32) (s.mcc.cl / 32) (s.mccReads (spanLines glob))).isNone
theorem readyB_is {s : State} {width : Nat} {els scr glob : List Span} (h : readyB s width els scr glob = true) : s.OperandsReady width els scr glob := by
  simp only [readyB, Bool.and_eq_true, Option.isNone_iff_eq_none, beq_iff_eq] at h
  exact ⟨h.1.1.1.1.1.1.1, h.1.1.1.1.1.1.2, h.1.1.1.1.1.2, h.1.1.1.1.2, h.1.1.1.2, h.1.1.2, h.1.2, h.2⟩

def mrecParts (r : State) : List MOp := [.mrecDo 0x800 ((List.range 16).map (fun i => r.sreg (16 + i)))]
def fenceParts (sig : Option (Nat × Nat)) : List MOp := [.publish, .waitAck, .mfenceEnd sig]
theorem witness_MatrixControl :
    (nB (grpAt (recWords recA) (tM.setS 8 0x800)) true 0x140 ⟨0, 8, 0, 16, 0, 0⟩ (fun r => (r.checkScr 64 true [⟨0, 0x800, 64⟩]).isNone &&
       !(ARec.ofBytes (((List.range 16).map (fun i => r.sreg (16 + i))).flatMap (fun v => bytesLE 4 v.toNat))).bad &&
       (let u := beginsL (grpAt (recWords recA) (tM.setS 8 0x800)) r (mrecParts r)
        (passTo (mrecParts r) u).isSome && (u.absentWait ((List.range 64).map (u.scrKeyAt 0x800 + ·))).isNone)) &&
     nB (tM.setS 8 0x800) true 0x140 ⟨0, 8, 0, 16, 0, 0⟩ (fun r => (r.checkScr 64 true [⟨0, 0x800, 64⟩]).isNone &&
       (ARec.ofBytes (((List.range 16).map (fun i => r.sreg (16 + i))).flatMap (fun v => bytesLE 4 v.toNat))).bad) &&
     nB (tM.setS 8 0x804) true 0x140 ⟨0, 8, 0, 16, 0, 0⟩ (fun r => (r.checkScr 64 true [⟨0, 0x804, 64⟩]).isSome) &&
     (⟨[], 0, 0, false, 0, Slot.empty, [(7, 9, [1, 2])]⟩ : PassIn).old[0]? == some (7, 9, [1, 2]) &&
     nB tM true 0x145 ⟨2, 0, 0, 0, 0, 0⟩ && nB tM true 0x146 ⟨0, 0, 0, 0, 0, 0xFFFC⟩ &&
     nB tM true 0x147 ⟨0, 0, 0, 0, 0, 0⟩ (fun r => (let u := beginsL tM r.fenced (fenceParts none); (passTo (fenceParts none) u).isSome && pubsB u)) &&
     nB (tM.setS 8 0x800) true 0x147 ⟨0, 8, 0, 4, 0, 0x0100⟩ (fun r => (r.checkPlace 8 true [⟨0, 0x800, 8⟩]).isNone &&
       (let u := beginsL (tM.setS 8 0x800) r.fenced (fenceParts (some (0x800, 0))); (passTo (fenceParts (some (0x800, 0))) u).isSome && pubsB u)) &&
     nB (tM.setS 8 0x804) true 0x147 ⟨0, 8, 0, 4, 0, 0x0100⟩ (fun r => (r.checkPlace 8 true [⟨0, 0x804, 8⟩]).isSome) &&
     (let t := tM.modMcc (fun m => { m with queue := [{ MPass.none with acc := some (2, []), slot := some (5, Slot.empty) }] })
      t.mcc.queue == [{ MPass.none with acc := some (2, []), slot := some (5, Slot.empty) }])) = true := by decide +kernel
theorem witness_MatrixPasses_mma :
    [0x142, 0x143].all (fun n => nB (tRec recA) true n ⟨2, 8, 0, 5, 9, 0⟩ (fun r =>
      let a := ARec.ofBytes recA
      let d := r.drainQ (fun p => p.slot.any (·.1 == 5) || p.usesAcc 2)
      let sl := nth Slot.empty d.mcc.slots 5
      heldB r .a recA && sl.filled && a.fcode == fmtA d.fmtNow && sl.fcode == fmtB d.fmtNow && sl.bscale == fmtScale d.fmtNow &&
        (d.sreg 9).toNat == 0 && decide (a.rows ≤ 128) && decide (sl.krows ≤ a.cols) &&
        readyB d a.w (a.spans 0 a.rows 0 sl.krows)
          (a.spans 0 a.rows 0 sl.krows ++ (if fmtScale d.fmtNow then a.scaleSpans 0 a.rows 0 ((sl.krows + 31) / 32) else [])) [])) = true := by
  decide +kernel
theorem witness_MatrixPasses_wld :
    nB (tRec recB) true 0x141 ⟨5, 8, 0, 9, 10, 0⟩ (fun r =>
      let b := ARec.ofBytes recB
      let el := b.spans 0 32 0 1
      heldB r .b recB && b.sparse == 0 && b.fcode == fmtB r.fmtNow && !fmtScale r.fmtNow && (r.sreg 9).toNat == 0 && (r.sreg 10).toNat == 0 &&
        min 128 b.rows == 32 && min 256 b.cols == 1 && sparseH 0 == sparseG 0 && readyB r b.w el (ofScr b.scr el) (ofScr (!b.scr) el) &&
        (wldSlot b b ((r.atRead (ofScr (!b.scr) el)).reader true (r.stampsOf (ofScr (!b.scr) el)))
          ((r.atRead (ofScr (!b.scr) el)).reader true (r.stampsOf (ofScr (!b.scr) el))) false 0 0 32 1).isSome) = true := by decide +kernel
theorem witness_MatrixPasses_mclr :
    nB (tRec recLd) true 0x145 ⟨2, 8, 0, 0, 0, 0x0100⟩ (fun r =>
      let c := ARec.ofBytes recLd
      heldB r .ld recLd && (c.fcode == 0x19) == fmtAcc r.fmtNow && decide (c.rows ≤ 128) && decide (c.cols ≤ 256) &&
        readyB r c.w (c.spans 0 c.rows 0 c.cols) (ofScr c.scr (c.spans 0 c.rows 0 c.cols)) (ofScr (!c.scr) (c.spans 0 c.rows 0 c.cols))) = true := by decide +kernel
theorem witness_MatrixPasses_mepi :
    nB (tRec recLd) true 0x144 ⟨8, 2, 0, 0, 0, 0⟩ (fun r =>
      let e := ARec.ofBytes recLd
      heldB r .dst recLd && decide (e.rows ≤ 128) && decide (e.cols ≤ 256) && (misaligned e.w (e.spans 0 e.rows 0 e.cols)).isNone &&
        (r.scrRows true (ofScr e.scr (e.spans 0 e.rows 0 e.cols))).isNone &&
        r.check .mepi 1 (accsOf (ofScr (!e.scr) (e.spans 0 e.rows 0 e.cols))) == .ok) = true := by decide +kernel

/-! Events: the package with the squad of tA, or the MCC of tM, back in its list. -/

def outS (f : Squad → Squad) : State := (tA.modSq f).unfocus
def outM (f : Mcc → Mcc) : State := (tM.modMcc f).unfocus
/-- The context is being saved, its grace window closed. -/
def saving (s : State) (closed : Bool) : State := s.modCtx 4095 (fun c => { c with st := 2, graceEnd := if closed then 0 else 1000 })

theorem witness_AgentsRunAndEnd_pipes :
    ((tFull.unfocus.sfu.find? (fun e => e.cache == 0 && e.sub == 0)).isSome &&
     (let u := outM (fun m => { m with queue := [MPass.none] })
      (u.mccs.find? (fun m => m.cl == 0 && m.running && !m.queue.isEmpty)).isSome) && (tA.unfocus.setCsr 0 0x8410 1).smpOn) = true := by decide +kernel
theorem witness_AgentsRunAndEnd_events :
    (let a := (saving (outS (fun q => { q with st := .blocked })) true).focusOn 3
     a.focus = .squad ∧ a.saveTakes = true) ∧
    (let a := (outS (fun q => { q with stopReq := true })).focusOn 3
     a.focus = .squad ∧ a.saveTakes = false ∧ a.sq.preempt = false ∧ a.sq.stopReq = true ∧ a.sq.mayIssue = true ∧ a.sq.between = true) ∧
    (let a := (outS (fun q => { q with stopReq := true, st := .blocked })).focusOn 3
     a.saveTakes = false ∧ a.sq.preempt = false ∧ a.sq.stopReq = true ∧ a.sq.st = .blocked ∧ a.sq.takeable = true) ∧
    (let a := (outS (fun q => { q with engFault := true })).focusOn 3
     a.saveTakes = false ∧ a.sq.stopReq = false ∧ a.sq.engFault = true ∧ a.sq.mayIssue = true ∧ a.sq.got = [] ∧ a.sq.handler = false ∧ a.sq.inRange = false) ∧
    (let a := (outS (fun q => { q with engFault := true, todo := [.walkLines 0 0x10000 8] })).focusOn 3
     a.saveTakes = false ∧ a.sq.stopReq = false ∧ a.sq.preempt = false ∧ a.sq.engFault = true ∧ a.sq.handler = false ∧ a.sq.inRange = true ∧ a.sq.takeable = true) := by decide +kernel
def tWant : FabReq := ⟨9, 1, .grant (pageOf (0x400 / 128)) 0 0 0, 0, 1, 0, false, none, [], 0⟩
theorem witness_AgentsRunAndEnd_wakes :
    (let a := (saving (outS (fun q => { q with st := .blocked, wake := some ⟨4, 3, 0⟩, todo := [.waitTl 3 0] })) false).focusOn 3
     a.focus = .squad ∧ a.sq.st = .blocked ∧ a.sq.preempt = false ∧ a.saveTakes = true) ∧
    (let a := (outS (fun q => { q with st := .blocked, wake := some ⟨4, 3, 0⟩, todo := [.waitTl 3 0] })).focusOn 3
     a.saveTakes = false ∧ a.sq.todo ≠ [] ∧ a.sq.wake = some ⟨4, 3, 0⟩) ∧
    (let a := (outS (fun q => { q with st := .blocked, wake := some ⟨7, 0x400, 0x400⟩, todo := [] })).focusOn 3
     a.saveTakes = false ∧ a.sq.todo = [] ∧ a.absent.contains (0x400 / 128) = false) ∧
    (let a := (outS (fun q => { q with st := .blocked, wake := some ⟨0x0C, 0x400, 0⟩, todo := [] })).focusOn 3
     a.saveTakes = false ∧ a.sq.todo = [] ∧ a.wantsPage (0x400 / 128) = false) ∧
    (let a := ({ outS (fun q => { q with st := .blocked, wake := some ⟨0x0C, 0x400, 0⟩, todo := [] }) with reqs := [tWant] } : State).focusOn 3
     a.saveTakes = false ∧ a.wantsPage (0x400 / 128) = true) ∧
    (let a := (outS (fun q => { q with st := .blocked, wake := some ⟨9, 0, 0⟩, todo := [.roleDo 0] })).focusOn 3
     a.saveTakes = false ∧ a.sq.todo ≠ [] ∧ a.roleFits (a.roleRec 0) = true) ∧
    (let a := ((outS (fun q => { q with st := .blocked, wake := some ⟨9, 0, 0⟩, todo := [.roleDo 0] })).modLaunch 1
        (fun l => { l with hdr := { l.hdr with roles := l.hdr.roles.map (fun k => { k with vcode := 4096 }) } })).focusOn 3
     a.saveTakes = false ∧ a.sq.todo ≠ [] ∧ a.roleFits (a.roleRec 0) = false ∧ a.roleStuck = true) ∧
    (let a := (outS (fun q => { q with st := .blocked, wake := some ⟨8, 1, 0⟩ })).focusOn 3
     a.saveTakes = false ∧ a.sq.denied = false ∧ a.ticketOpen a.sq.id = false) ∧
    (let a := (outS (fun q => { q with st := .blocked, wake := some ⟨8, 1, 0⟩, denied := true })).focusOn 3
     a.saveTakes = false ∧ a.sq.denied = true) ∧
    (let a := (outM (fun m => { m with st := .blocked, wake := some ⟨4, 3, 0⟩ })).focusOn 3
     a.focus = .mcc ∧ a.mcc.wake = some ⟨4, 3, 0⟩ ∧ a.mcc.st = .blocked ∧ a.savingMcc = false) ∧
    (let a := (saving (outM (fun m => { m with st := .blocked, wake := some ⟨4, 3, 0⟩ })) false).focusOn 3
     a.focus = .mcc ∧ a.savingMcc = true ∧ a.mcc.stamped = false) := by decide +kernel
theorem witness_AgentsRunAndEnd_ends :
    (let u := outS (fun q => { q with st := .exiting })
     (u.squads.find? (·.id == 3)).map (fun q => (q.st, q.ack, q.todo, q.team)) = some (.exiting, 0, [], 2) ∧ u.energyRoom 4095 = true ∧
       (u.teams.find? (·.id == 2)).isSome = true) ∧
    (let u := tA.unfocus.modTeam 2 (fun m => { m with alive := [] })
     (u.teams.find? (·.id == 2)).map (fun m => (m.alive, m.exited, u.teamSettled m)) = some ([], false, true)) ∧
    (let u := outM (fun m => { m with exiting := true, st := .exiting })
     (u.mccs.find? (fun m => m.cl == 0 && m.exiting)).map (fun m => (m.st, m.todo, m.ack, m.queue)) = some (.exiting, [], 0, []) ∧
       u.energyRoom 4095 = true ∧ u.cmds = []) := by decide +kernel

/-- Queue 1 is enabled, fed by the host, of the context of tA; its ring lies at 0x30000. -/
def tHostQ : State :=
  ((tA.unfocus.setCsr 0 0x8100 0x20001).physWrite 0x20020 (bytesLE 8 0x30000 ++ [4, 0, 1, 0] ++ bytesLE 2 4095)).setQueue { Queue.zero 1 with tail := 1, since := some 0 }
theorem witness_QueuesAndArbiter_registers :
    tHostQ.running = true ∧ tHostQ.bridge = true ∧ tHostQ.qdesc 1 = some ⟨0x30000, 4, 0, true, false, 4095⟩ ∧ (tHostQ.queueOf 1).tail < 2 ∧ (tHostQ.queueOf 1).head ≤ 2 ∧
    (2 : Nat) ≤ (tHostQ.queueOf 1).head + 2 ^ 4 ∧ (tHostQ.queueOf 1).head + 2 ^ 4 < 99 ∧ tHostQ.qtOn = true ∧ tA.unfocus.qtOn = false ∧
    (0x20001 : Nat) / 4096 ≠ 0x40000 / 4096 ∧ (tHostQ.csr 0 0x8100).toNat / 4096 = 0x20 ∧ (tHostQ.csr 0 0x8101).toNat % 256 ≠ 7 ∧
    ({ Queue.zero 1 with qfault := true } : Queue).qfault = true ∧ get? (Queue.zero 1).fin 1 = none ∧ get? (Queue.zero 1).fin 2 = none ∧
    tHostQ.queues.any (·.num == 1) = true ∧ tA.unfocus.qdesc 1 = none ∧ (tHostQ.queueOf 1).tail = 1 ∧ (tHostQ.queueOf 1).head ≤ 1 := by decide +kernel
/-- The entry in its slot is a marker, a malformed entry, or a launch of a card and header in memory. -/
def tEntry (b : List Byte) : State := tHostQ.physWrite 0x30000 b
theorem witness_QueuesAndArbiter_arbiter :
    (let u := (tEntry []).settle.lookAll
     (tEntry []).settle.running = true ∧ u.candidates.length = 1 ∧
       (argMin (fun c : Nat × Queue × QDesc × QEntry => (c.2.1.num + 4096 - (nth 4095 u.arbLast 0 + 1) % 4096) % 4096) (u.candidates.filter (fun c => c.1 == 0))).isSome = true) ∧
    (match tHostQ.checkEntry ⟨0x30000, 4, 0, true, false, 4095⟩ (QEntry.of ([0, 0, 0, 0, 0, 0, 0, 0, 7] ++ List.replicate 55 0)) 1 1 with | .error 2 => true | _ => false) = true := by
  decide +kernel

/-- A launch with a team to place, and one whose teams have all ended. -/
def tLaunch (next : Nat) : State :=
  { State.reset.withFetchWord 64 0 with
    launches := [{ placeLaunch 1 4095 with next := next, dmask := 1, hdr := { placeHdr with mcc := false, levels := [] } }], teams := [], squads := [] }
theorem witness_PlacementAndCompletion_place :
    (let u := (tLaunch 0).settle
     (u.launchOf 1).isSome = true ∧ u.running = true ∧ (u.launchOf 1).all (fun l => u.ripe l && l.dep.le (u.slackFor l.ctx) &&
       (u.putNext l (u.turnDies l) (u.slackFor l.ctx)).isSome) = true ∧ u.restoreFirst = false) ∧
    (let u : State := { tLaunch 0 with now := 1000000 }
     (u.launches.find? u.ripe).any (fun l => decide (1000000 ≤ l.waited + (u.now - l.since)))) = true ∧
    (let u := tLaunch 1
     (u.launchOf 1).all (fun l => u.launchOver l && !l.huddle && !l.intr) = true) := by decide +kernel
def tHuddle (closed : Bool) : State :=
  { tLaunch 1 with huddles := [⟨0, 0, closed, 0, 4095, 0x10000, 1, [⟨List.replicate 14 7, Stamp.zero, 1⟩], 0, 0⟩] }
theorem witness_PlacementAndCompletion_huddle :
    (tHuddle false).huddles.length = 1 ∧
    (let u := (tHuddle true).settle
     (u.huddles.find? (fun k => k.cl == 0 && k.num == 0)).any (fun k => (u.hudReady k).isSome) = true ∧ u.restoreFirst = false) ∧
    (let u : State := { tLaunch 1 with launches := (tLaunch 1).launches.map (fun l => { l with huddle := true }) }
     (u.launchOf 1).all (fun l => u.launchOver l && l.huddle) = true) ∧
    (let u : State := { tLaunch 1 with launches := (tLaunch 1).launches.map (fun l => { l with intr := true }) }
     (u.launchOf 1).all (fun l => u.launchOver l && !l.huddle && l.intr) = true) := by decide +kernel

/-- Outstanding commands: done, a tlsig, an rsig, a copy; the page's translation is in the cluster's TLB too. -/
def tCmd (k : CmdKind) (fin : Option Stamp) : State :=
  { tA.unfocus with
    tlb := tA.tlb ++ tA.tlb.map (fun t => { t with place := 1000 })
    cmds := [⟨7, k, 4095, 0, 3, 1, 0, some 2, some 3, 1, Stamp.zero, gGlob, 0, false, 0, 0, 0, 0, [], none, none, none, fin, 0, [], []⟩] }
theorem witness_EnginesAndRegisters_commands :
    ((tCmd .cpy (some ⟨3, 0⟩)).cmds.find? (·.id == 7)).all (fun c => c.fin.isSome && c.wait == 0) = true ∧
    ((tCmd .sig none).cmds.find? (·.id == 7)).all (fun c => c.fin.isNone && (tCmd .sig none).cmdFirst c) = true ∧
    ((tCmd .rsig none).cmds.find? (·.id == 7)).all (fun c => (tCmd .rsig none).cmdFirst c && c.walk.isNone && c.ticket.isNone && !(tCmd .rsig none).barred c.id .event (lineOf c.key)) = true ∧
    ((tCmd .cpy none).cmds.find? (·.id == 7)).all (fun c => !(tCmd .cpy none).cmdWaits c && ((tCmd .cpy none).cmdNeeds c ((tCmd .cpy none).cmdMoves c)).all (fun p => (tCmd .cpy none).granted p.1 p.2 && !(tCmd .cpy none).barred c.id p.1 p.2) &&
      decide ((tCmd .cpy none).cmdCheckRun c ((tCmd .cpy none).cmdMoves c) = .ok) && ((tCmd .cpy none).cmdForced c ((tCmd .cpy none).cmdMoves c)).isEmpty &&
      ((tCmd .cpy none).farLack (600 + c.cl / 32) (c.cl / 32) ((tCmd .cpy none).cmdReads c ((tCmd .cpy none).cmdMoves c))).isNone) = true ∧
    (let u : State := { tCmd .cpy none with tlb := [] }
     (u.cmds.find? (·.id == 7)).all (fun c => match u.cmdCheckRun c (u.cmdMoves c) with | .miss _ _ => true | _ => false) = true) ∧
    (let u : State := { tCmd .cpy none with tlb := (tCmd .cpy none).tlb.map (fun t => { t with leaf := { t.leaf with rd := false } }) }
     (u.cmds.find? (·.id == 7)).all (fun c => match u.cmdCheckRun c (u.cmdMoves c) with | .bad _ => true | _ => false) = true) := by decide +kernel
theorem witness_EnginesAndRegisters_registers :
    tA.unfocus.csrOpen 0x8047 = true ∧ (csrBridge 0x8047 && !tA.unfocus.bridge) = false ∧
    ringOf 0x8300 = some (0x8300, 0x8302, 0x8303, 0x8304) ∧ tA.unfocus.csrOpen 0x8300 = true ∧ ringValue 0x8300 0x8300 0x40000 = true ∧
    tA.unfocus.csr 0 0x8303 = tA.unfocus.csr 0 0x8304 ∧
    (let u := tA.unfocus.setCsr 0 0x8304 4
     u.csr 0 0x8303 ≠ u.csr 0 0x8304 ∧ ¬(0 < ((3 : W) - u.csr 0 0x8304).toNat ∧ ((3 : W) - u.csr 0 0x8304).toNat < 2 ^ 31) ∧
       0 < ((9 : W) - u.csr 0 0x8304).toNat ∧ ((9 : W) - u.csr 0 0x8304).toNat < 2 ^ 31) := by decide +kernel

/-! Homes, caches, translation. -/

/-- The package with one ownership entry and one directory entry for line 3. -/
def tHome (l1 : Option L1St) (h : Option HomeSt) (owner : Nat) (serving : Option HomeReq) (acks : List (Nat × Nat)) : State :=
  { tA.unfocus with
    l1 := match l1 with | some st => [⟨0, 3, st, 4095, [(5, 0x77)], [3], 0, tN32⟩] | none => []
    home := match h with | some st => [⟨3, st, owner, [0], 0, tS32, Stamp.zero, [0], acks, [], Stamp.zero, serving, []⟩] | none => [] }
def tMsg (m : Msg) : State := { tA.unfocus with msgs := [m] }
def aMsg : Msg := { id := 7, line := 3, st := ⟨5, 1⟩, bytes := [(5, 0x66)], manual := false, squad := some 3, mcc := none, cmd := none, ctx := 4095 }

/-- A line homed on member 1. -/
def kFar : Nat := 2 ^ 33 + 5
/-- A domain of this package, the bridge member 0, and member 1, which was heard at tick 0. -/
def tDom : State := { tA.unfocus with peers := [⟨1, 0, Stamp.zero, Stamp.zero, Stamp.zero, none, 0⟩] }
/-- The same with a message of member 1 that was accepted, as its request 9, and a grant to a member. -/
def tIn (b : FabBody) (gs : List Grant) : State := { tDom with inbox := [⟨1, 9, b⟩], grants := gs }
theorem witness_HomeRequests :
    (tHome none none 0 none []).l1Of 0 3 = none ∧ ((tHome (some .s) none 0 none []).l1Of 0 3).any (fun e => e.st == .s) = true ∧
    (let u := tHome none none 0 none []
     u.granted .shared 3 = true ∧ u.granted .excl 3 = true ∧ (u.takeWay 0 3).isSome = true) ∧
    tDom.granted .shared kFar = false ∧ tDom.granted .excl kFar = false ∧ tDom.l1Of 0 kFar = none ∧
    (tHome (some .s) none 0 none []).granted .excl 3 = true ∧
    (let u := tHome none none 0 none []
     u.holdsA 0 3 0 tS32 = false ∧ (u.epoch 3).any (fun h => h.op == 0 && h.ty == tS32) = false ∧ homePkg 3 = u.pkgIdx ∧ (u.cuStamp 0).1.src / 1024 = u.pkgIdx ∧ (u.cuStamp 0).2.granted (.upd 0 tS32) 3 = true ∧
       ((u.cuStamp 0).2.takeWay 0 3).isSome = true) ∧
    (let u := tHome none (some .ha) 0 none []
     u.holdsA 0 3 0 tS32 = false ∧ (u.epoch 3).any (fun h => h.op == 0 && h.ty == tS32) = true ∧ u.granted (.upd 0 tS32) 3 = true ∧
       (u.takeWay 0 3).isSome = true ∧ u.readEnds 3 ⟨9, 0⟩ = true ∧ (tHome none none 0 none []).readEnds 3 ⟨9, 0⟩ = false) ∧
    ((tHome none none 0 none []).homeOf 3).st ≠ .ha ∧ ((tHome none (some .ha) 0 none []).homeOf 3).st = .ha ∧
    ((tMsg aMsg).msgs.find? (fun m => m.id == 7 && !m.dep && !m.landed && homePkg m.line == (tMsg aMsg).pkgIdx)).isSome = true ∧ (tMsg aMsg).overtakes aMsg = false ∧
    ((tHome none (some .hs) 0 none []).homeOf 3).st = .hs ∧ (tHome none (some .hs) 0 none []).othersHold 3 0 = false ∧
    (tHome (some .s) (some .hs) 0 none []).othersHold 3 9 = true ∧ ((tHome none (some .ho) 0 none []).homeOf 3).st = .ho ∧
    (tHome none (some .hs) 0 none []).alone 3 = true ∧ ({ tHome none (some .hs) 0 none [] with grants := [⟨pageOf 3, 1, 0, 0, 0, 0, false, 9⟩] } : State).alone 3 = false := by decide +kernel
theorem witness_HomeRequests_far :
    (let u : State := { tDom with grants := [⟨pageOf kFar, 0, 2, 0, tS32, 0, false, 0⟩] }
     u.holdsA 0 kFar 0 tS32 = false ∧ u.l1Of 0 kFar = none ∧ (u.epoch kFar).any (fun h => h.op == 0 && h.ty == tS32) = false ∧
       (u.cuStamp 0).1.src / 1024 = u.pkgIdx ∧ homePkg kFar ≠ u.pkgIdx ∧ u.pageGranted (.upd 0 tS32) kFar = true ∧ u.asksA kFar = false) ∧
    (let u := tIn (.upd 3 0 tS32 ⟨5, 1024⟩) [⟨pageOf 3, 1, 2, 0, tS32, 0, false, 9⟩]
     (Stamp.mk 5 1024).src / 1024 ≠ u.pkgIdx ∧ (u.inbox.find? (fun m => m.src == (Stamp.mk 5 1024).src / 1024 && m.body == .upd 3 0 tS32 ⟨5, 1024⟩)).isSome = true ∧
       u.grants.any (fun g => g.page == pageOf 3 && g.pkg == 1 && !g.recalled && g.kind == 2 && g.op == 0 && g.ty == tS32) = true) ∧
    tDom.reachesData 0 0 3 false ⟨9, 0⟩ = true ∧ tDom.reachesData 0 0 kFar false ⟨9, 0⟩ = false ∧ tDom.pageGranted .read kFar = false ∧
    ({ tDom with grants := [⟨pageOf kFar, 0, 0, 0, 0, 0, false, 0⟩] } : State).pageGranted .read kFar = true ∧
    ({ tDom with grants := [⟨pageOf kFar, 0, 0, 0, 0, 0, false, 0⟩] } : State).reachesData 0 0 kFar false ⟨9, 0⟩ = false ∧
    (let u := tIn (.grant (pageOf 3) 1 0 0) []
     let new : Grant := ⟨pageOf 3, 1, 1, 0, 0, u.now, false, 9⟩
     let t : State := { u with inbox := [], grantWaits := [new] }
     pageHome (pageOf 3) = u.pkgIdx ∧ u.inbox.find? (fun m => m.src == 1 && m.body == .grant (pageOf 3) 1 0 0) = some ⟨1, 9, .grant (pageOf 3) 1 0 0⟩ ∧
       u.grantWaits = [] ∧ t.grantClash new = [] ∧ t.notes.any (fun n => pageOf n.line == pageOf 3) = false ∧ t.pageMoves (pageOf 3) = false ∧
       t.pageStalls (pageOf 3) = false ∧ ({ t with grants := [⟨pageOf 3, 2, 1, 0, 0, 0, false, 8⟩] } : State).grantClash new ≠ []) ∧
    tDom.peers.any (·.idx == pageHome (pageOf kFar)) = true ∧
    (let u := tIn (.recall (pageOf kFar)) []
     u.inbox.find? (fun m => m.src == pageHome (pageOf kFar) && m.body == .recall (pageOf kFar)) = some ⟨1, 9, .recall (pageOf kFar)⟩ ∧
       (u.leavePage (pageOf kFar)).leftPage (pageOf kFar) = true) ∧
    (let u : State := { tIn (.recall (pageOf kFar)) [] with home := [homeAt kFar .hac 0 []] }
     (u.leavePage (pageOf kFar)).leftPage (pageOf kFar) = false) ∧
    (tIn (.recalled (pageOf 3)) []).inbox.find? (fun m => m.src == 1 && m.body == .recalled (pageOf 3)) = some ⟨1, 9, .recalled (pageOf 3)⟩ := by decide +kernel
theorem witness_CacheAnswers :
    (let u := tHome (some .s) (some .hsx) 0 (some (.excl 9)) [(0, 0)]
     (u.homeOf 3).asks u.pkgIdx 0 = true ∧ (u.l1Of 0 3).any (fun e => e.st == .s) = true ∧ (0 : Nat) ≠ (u.homeOf 3).requester) ∧
    (let h := (tHome none (some .hv) 0 (some (.event 7)) [(0, 0)]).homeOf 3
     h.st = .hv ∧ h.acks = [(0, 0)] ∧ h.serving = some (.event 7)) ∧ (0 : Nat) < 4 ∧ (tHome none none 0 none []).answerBehind false 3 0 = false ∧
    (tHome none none 0 none []).answerBehind true 3 0 = false ∧
    (let u := tHome (some .m) (some .hor) 0 (some (.shared 9)) []
     (u.homeOf 3).st = .hor ∧ (u.homeOf 3).owner = 0 ∧ u.msgs.any (fun m => m.dep && m.line == 3) = false ∧
       (u.l1Of 0 3).any (fun e => e.st == .m) = true ∧ (u.homeOf 3).serving = some (.shared 9)) ∧
    (let u := tHome (some .e) (some .hor) 0 (some (.shared 9)) []
     (u.homeOf 3).st = .hor ∧ (u.homeOf 3).owner = 0 ∧ u.msgs.any (fun m => m.dep && m.line == 3) = false ∧ (u.l1Of 0 3).any (fun e => e.st == .e) = true) ∧
    (let u := tHome (some .m) (some .hor) 0 (some (.excl 9)) []
     (u.homeOf 3).st = .hor ∧ (u.homeOf 3).owner = 0 ∧ (u.l1Of 0 3).any (fun e => e.st == .m) = true ∧ (u.homeOf 3).serving = some (.excl 9)) ∧
    (let u : State := { tHome none (some .hor) 0 (some (.excl 9)) [] with msgs := [{ aMsg with dep := true }] }
     (u.msgs.find? (fun m => m.dep && m.line == 3)).any (fun m => !m.bytes.isEmpty && !u.putBehind m && !u.stalls 3 &&
       (((({ u with msgs := u.msgs.filter (·.id != m.id) } : State).landed 3 m.st m.bytes m.ctx).carryPoison 3 (.msg m.id) .home m.st).homeOf 3).st == .hor) = true) ∧
    (let u := tHome (some .mi) none 0 none []
     (u.l1Of 0 3).any (fun e => e.st == .mi) = true ∧ u.msgs.any (fun m => m.dep && m.line == 3) = false) := by decide +kernel
theorem witness_CacheAnswers_collapse :
    (let u : State := { tHome none (some .hac) 0 none [(0, 0), (0, 4)] with acopies := [⟨3, 0, true, [(1, 7)], 4095⟩] }
     (u.homeOf 3).st = .hac ∧ (u.homeOf 3).acks.contains (u.pkgIdx, 0) = true ∧
       (u.acopies.filter (fun c => c.line == 3 && c.cache / 128 == 0)).all (·.port) = true ∧ (u.partOf (u.homeOf 3) 0).isSome = true) ∧
    (let h := (tHome none (some .hac) 0 none [(0, 4)]).homeOf 3
     h.st = .hac ∧ h.acks = [(0, 0 + 4)]) ∧
    (let u : State := { tDom with home := [{ homeAt kFar .hac 0 [] with acks := [(0, 0)] }], acopies := [⟨kFar, 0, true, [(1, 7)], 4095⟩] }
     (u.homeOf kFar).st = .hac ∧ (u.homeOf kFar).acks = [(u.pkgIdx, 0)] ∧ homePkg kFar ≠ u.pkgIdx ∧
       (u.acopies.filter (fun c => c.line == kFar && c.cache / 128 == 0)).all (·.port) = true ∧ (u.partOf (u.homeOf kFar) 0).isSome = true) ∧
    (let u : State := { tDom with home := [{ homeAt 3 .hac 0 [] with acks := [(1, 2)] }], inbox := [⟨1, 9, .part 3 2 0 tS32 [5]⟩] }
     ((u.partIn 3 1 2).homeOf 3).st = .hac ∧ ((u.partIn 3 1 2).homeOf 3).acks = [(1, 2 + 4)]) ∧
    (let h := (tHome none (some .ho) 0 (some (.excl 9)) []).homeOf 3
     h.requester = 9 ∧ h.serving = some (.excl 9) ∧ h.st = .ho) ∧
    (let h := (tHome none (some .hs) 0 (some (.shared 9)) []).homeOf 3
     h.requester = 9 ∧ h.serving = some (.shared 9) ∧ h.st = .hs) ∧
    (tHome none (some .hs) 0 (some (.shared 9)) []).filterOpen (9 / 128) 3 = true ∧ (tHome none (some .ho) 0 (some (.excl 9)) []).filterOpen (9 / 128) 3 = true := by decide +kernel

/-- The same with a version store that is full. -/
def tStall : State := { tHome none (some .hor) 0 (some (.excl 9)) [] with
  msgs := [{ aMsg with dep := true }]
  pubs := ⟨3, ⟨6, 1⟩, [], 4095⟩ :: List.replicate 1024 ⟨3, ⟨5, 1⟩, [], 4095⟩
  csrs := [((0, 0x8098), 1)] }
theorem witness_CacheAnswers_stall :
    (tStall.msgs.find? (fun m => m.dep && m.line == 3)).any (fun m => !m.bytes.isEmpty && !tStall.putBehind m) = true ∧ tStall.stalls 3 = true ∧
    (let u : State := { tStall with home := [{ homeAt 3 .hac 0 [] with acks := [(0, 4)] }] }
     (u.homeOf 3).acks = [(0, 0 + 4)] ∧ (u.setHome { u.homeOf 3 with acks := [] }).stalls 3 = true) := by decide +kernel

/-- A walk of address 0 of the context of tA, over empty tables or over one that ends in a leaf. -/
def tWalk (leaf : Bool) : State :=
  let u := ({ tA.unfocus with walks := [⟨5, 4095, 0, 1, 0, [3], []⟩] } : State).setCsr 4096 0x8080 0x40000
  if leaf then (u.physWrite 0x40000 (bytesLE 8 0x60001)).physWrite 0x60000 (bytesLE 8 0xF) else u
def tTicket : State := { tA.unfocus with tickets := [⟨4, 4095, 0, [3], []⟩] }
theorem witness_TranslationAndVersions :
    (((tWalk false).walks.find? (·.id == 5)).any (fun w => (tWalk false).walkRuns w &&
      (match (tWalk false).walkVia w.die w.ctx w.va with | .bad _ _ => true | _ => false))) = true ∧
    (((tWalk true).walks.find? (·.id == 5)).any (fun w => (tWalk true).walkRuns w &&
      (match (tWalk true).walkVia w.die w.ctx w.va with | .leaf _ => true | _ => false))) = true ∧
    tA.unfocus.tlbBusy = false ∧ (tA.unfocus.setCsr 0 0x808B 1).tlbBusy = true ∧
    (tA.unfocus.setCsr 0 0x808B 1).translatedDone = true ∧ (tA.unfocus.setCsr 0 0x808B 1).draining = [] ∧
    tTicket.tickets.any (·.num == 4) = true ∧ tTicket.tickets.any (·.num == 5) = false ∧
    (let u : State := { (tA.modLaunch 1 (fun l => { l with snapOn := true, k := some ⟨3, 0⟩ })).unfocus with
        vsFullSince := some 0
        now := 20000
        pubs := ⟨3, ⟨6, 1⟩, [], 4095⟩ :: List.replicate 1024 ⟨3, ⟨5, 1⟩, [], 4095⟩
        csrs := [((0, 0x8098), 1)] }
     u.storeFull = true ∧ u.vsFullSince = some 0 ∧ 0 + 10000 ≤ u.now ∧ u.oldestRevocable = some ⟨3, 0⟩) ∧
    (tIn (.revoke ⟨3, 0⟩) []).inbox.find? (fun m => m.body == .revoke ⟨3, 0⟩) = some ⟨1, 9, .revoke ⟨3, 0⟩⟩ ∧
    (let u : State := { tA.unfocus with now := 2 ^ 40 + 1 }
     2 ^ 40 < u.now) ∧
    (let l := { placeLaunch 1 4095 with snapOn := true, k := some ⟨3, 0⟩ }
     l.snapOn = true ∧ l.k = some ⟨3, 0⟩ ∧ (Stamp.mk 3 0).le ⟨4, 0⟩ = true) := by decide +kernel

/-! Contexts, stops, the fabric, the domain. -/

def tCtx (st : Nat) : State := (tA.unfocus.needCtx 4095).modCtx 4095 (fun c => { c with st := st })
/-- A resident context with nothing of its own. -/
def tCtx0 : State := (State.reset.needCtx 4095).modCtx 4095 (fun c => { c with st := 1 })
theorem witness_Contexts :
    (tCtx0.ctxOf 4095).any (fun c => c.st == 1) = true ∧
    ((tCtx 3).ctxOf 4095).any (fun c => c.st != 1 && c.st == 3) = true ∧ ((tCtx 1).ctxOf 4095).any (fun c => c.st == 1) = true ∧
    (tCtx0.csr 4096 0x8045).toNat < tCtx0.ctxNeed 4095 ∧
    (let u := tCtx0.setCsr 4096 0x8045 1
     u.ctxNeed 4095 ≤ (u.csr 4096 0x8045).toNat) ∧
    ((tCtx 3).ctxOf 4095).any (fun c => !(tCtx 3).areaOk ((tCtx 3).saveBase 4095) (placeSegs 0 (c.saved.area (tCtx 3).launches ((tCtx 3).stopSlots 4095) 4095 (tCtx 3).now))) = true ∧
    (let u := (((State.reset.needCtx 4095).modCtx 4095 (fun c => { c with st := 3 })).physWrite 0 (bytesLE 4 0x58535443)).physWrite 8 (bytesLE 8 256)
     (u.ctxOf 4095).any (fun c => c.st == 3 && u.areaOk (u.saveBase 4095) (placeSegs 0 (c.saved.area u.launches (u.stopSlots 4095) 4095 u.now))) = true) ∧
    ((tCtx 2).ctxOf 4095).any (fun c => c.st == 2 && decide (c.graceEnd ≤ (tCtx 2).now)) = true ∧
    (let u := (tCtx 2).modSquads (fun _ => true) (fun q => { q with preempt := true })
     (u.teams.find? (·.id == 2)).any (fun m => u.teamSavable m) = true) ∧ ((tCtx 4).restorable 4095).any (fun r => (tCtx 4).waysClear r.2) = true := by decide +kernel
theorem witness_Stops :
    ((tCtx 1).ctxOf 4095).any (fun c => c.st == 1) = true ∧ ((tCtx 3).ctxOf 4095).any (fun c => c.st != 1) = true ∧
    (let u := (tA.unfocus.modTeam 2 (fun m => { m with stopping := true })).modSquads (fun _ => true) (fun q => { q with st := .halted })
     (u.teams.find? (·.id == 2)).any (fun m => m.stopping) = true ∧ u.squads.all (fun q => q.team != 2 || q.st == .halted || q.st == .exiting) = true) ∧
    (tA.unfocus.teams.find? (·.id == 2)).any (fun m => !m.stopping && !m.halted && !m.exited) = true := by decide +kernel

/-- A request to member 1 sent some times. -/
def tReq (n : Nat) : FabReq := ⟨9, 1, .read kFar none, 0, n, 0, false, some 0, [], 4095⟩
theorem witness_FabricMessages :
    tDom.gens.contains 0 = true ∧ tDom.peers.any (·.idx == 1) = true ∧ (tDom.window 1 0 0).judge 1 = .accept 0 ∧
    (let u : State := { tDom with windows := [⟨1, 0, 0, 2000, [2000]⟩] }
     (u.window 1 0 0).judge 5 = .old ∧ (u.window 1 0 0).judge 2000 = .replayed) ∧ tDom.performed.contains (1 + 64 * 0, 9) = false ∧
    (let u : State := { tDom with performed := [(1, 9)] }
     u.performed.contains (1 + 64 * 0, 9) = true) ∧ (tDom.accept ⟨1, 0, 0, 1, true⟩).1 = true ∧ (tDom.accept ⟨1, 0, 0, 1, false⟩).1 = false ∧ tDom.gens.contains 7 = false ∧ (3 : Nat) < (tDom.setCsr 0 0x8241 5).domGen ∧
    tDom.gens.contains 3 = false ∧
    (let u : State := { tDom with reqs := [tReq 1], now := 30000 }
     (u.reqs.find? (·.id == 9)).any (fun r => !r.held && decide (r.sent + 20000 ≤ u.now) && decide (r.attempts < 4)) = true) ∧
    (let u : State := { tDom.setCsr 0 0x8202 1 with reqs := [tReq 4], now := 30000, links := [(0, 1, 3), (2, 1, 3)] }
     (u.reqs.find? (·.id == 9)).any (fun r => decide (4 ≤ r.attempts)) = true ∧ (u.portsTo 1).filter (fun p => some p != (tReq 4).via) ≠ []) ∧
    (let u : State := { tDom with reqs := [tReq 4], now := 30000 }
     (u.portsTo 1).filter (fun p => some p != (tReq 4).via) = []) ∧
    (FabBody.read 3 none).asks = true ∧ FabBody.ack.asks = false ∧ homePkg kFar = 1 ∧ tDom.readEnds 3 ⟨9, 0⟩ = false ∧
    (tHome none (some .ha) 0 none []).readEnds 3 ⟨9, 0⟩ = true ∧
    tDom.running = true ∧ tDom.isPcie 3 = false ∧ 2 ≤ popc 7 5 ∧
    (let u : State := { tDom with now := 5000 }
     u.settle.running = true ∧ u.settle.lastBeacon + u.settle.beaconTicks ≤ u.settle.now) ∧
    tDom.members.head? = some 0 := by decide +kernel
theorem witness_FabricMessages_levels :
    (let u : State := { tDom with lvls := [⟨1, 3, 0, HwBar.zero, [0], []⟩] }
     (u.launchOf 1).any (fun l => decide (u.levelHere l (u.lvlOf 1 3 0) ≠ 0)) = true) ∧
    (let u := tIn (.barDone 1 3 0 (tDom.lvlOf 1 3 0).bar.phase ⟨8, 0⟩) []
     (u.inbox.find? (fun m => m.body == .barDone 1 3 0 (u.lvlOf 1 3 0).bar.phase ⟨8, 0⟩)).isSome = true) := by decide +kernel
theorem witness_Membership :
    (let u : State := { tDom with now := 100000 }
     u.coordinates = true ∧ u.silentOk 1 = true ∧ u.peers.any (fun p => p.idx == 1 && decide (p.seen + 16 * u.beaconTicks ≤ u.now)) = true) ∧
    (let u : State := { tDom with now := 100000, bridge := false, pkgIdx := 1, peers := [⟨0, 0, Stamp.zero, Stamp.zero, Stamp.zero, none, 0⟩] }
     u.bridge = false ∧ u.silentOk 0 = true ∧ u.peers.any (fun p => p.idx == 0 && decide (p.seen + 16 * u.beaconTicks ≤ u.now)) = true ∧
       (u.members.filter (· != 0)).head? = some u.pkgIdx) ∧
    tDom.domGen + 1 = 1 ∧ tDom.change.all (fun c => c.gen == 1) = true ∧ tDom.joining = false ∧
    (tDom.accept ⟨1, 0, 0, 1, true⟩).1 = true ∧ (tDom.accept ⟨1, 0, 0, 1, false⟩).1 = false ∧
    (let c : Change := ⟨1, [0, 1], [], false, [], 0, false⟩
     let u : State := { tDom with change := some c }
     (u.handBack c).drained = true ∧ (u.handBack c).handedBack c = true ∧ u.coordinates = true ∧ (1 : Nat) ≠ u.pkgIdx ∧ u.changing = true) ∧
    (let c : Change := ⟨1, [0, 1], [], false, [], 0, false⟩
     (({ tDom with change := some c, reqs := [tReq 1] } : State).handBack c).drained = false) ∧
    (FabBody.add 0 0 Stamp.zero).vc = 0 ∧ (FabBody.add 0 0 Stamp.zero).ofChange = false ∧ handsOver (.add 0 0 Stamp.zero) = false ∧
    (let c : Change := ⟨1, [0, 1], [1], true, [], 0, false⟩
     c.localReady = true ∧ c.members.all (fun i => i == tDom.pkgIdx || c.ready.contains i) = true) ∧
    (let u : State := { tDom with bridge := false, pkgIdx := 1, peers := [⟨0, 0, Stamp.zero, Stamp.zero, Stamp.zero, none, 0⟩] }
     u.coordinates = false ∧ u.joining = false ∧ u.coordinator = 0 ∧ { u with spdm := ⟨true, 0, 9, 0, 2, [], 0⟩ }.joining = true) ∧
    tDom.bridge = true ∧ tDom.running = true ∧ tDom.changing = false ∧ tDom.members.length < 64 ∧
    (List.range 64).find? (fun i => !tDom.members.contains i) = some 2 := by decide +kernel
theorem witness_Membership_admission :
    ([0, 1, 2, 3, 4, 5, 6, 7, 8, 9].all (fun n =>
      let u : State := { tDom with spdm := ⟨true, 0, n, 0, 2, [], 0⟩ }
      u.bridge && u.spdm.active && u.spdm.step == n)) = true ∧
    ([] : List (BitVec 384)).all tDom.allowList.contains = true ∧ [(7 : BitVec 384)].all tDom.allowList.contains = false ∧
    sortNat [4, 0, 1, 3, 2] = [0, 1, 2, 3, 4] ∧
    (let u : State := { tA.unfocus with bridge := false }
     u.bridge = false ∧ u.peers = [] ∧ ({ u with spdm := ⟨true, 0, 8, 0, 2, [], 0⟩ } : State).spdm.step = 8) ∧
    (let u : State := { tDom with change := some ⟨1, [0, 1], [], false, [], 0, false⟩ }
     u.change.isSome = true ∧ u.changing = true) := by decide +kernel

/-! The host, repair, reset. -/

theorem witness_HostAccesses :
    tDom.heldReset = false ∧ tDom.pkgIdx < 64 ∧ tDom.bridge = true ∧ tDom.peers.any (·.idx == 1) = true ∧ tDom.peers.any (·.idx == 5) = false ∧
    tDom.aperture 0 = none ∧ (tDom.setCsr 0 0x8280 0x80000000).aperture 0 = some 0x80000000 ∧ bit 0x80000000 30 = false ∧
    (tDom.setCsr 0 0x8280 0xC0000000).aperture 0 = some 0xC0000000 ∧ bit 0xC0000000 30 = true ∧ bits 0x80000000 13 8 = tDom.pkgIdx ∧
    (tDom.setCsr 0 0x8280 0x80000100).aperture 0 = some 0x80000100 ∧ bits 0x80000100 13 8 ≠ tDom.pkgIdx ∧
    isQtail 0x60 = true ∧ isQtail 0x40004 = false ∧
    (let u : State := { tIn (.window 0x60 (some 7) ⟨8, 0⟩) [] with bridge := false }
     (u.inbox.find? (fun m => match m.body with | .window o w _ => u.pkgIdx == u.pkgIdx && o == 0x60 && w == some 7 | _ => false)).isSome = true) ∧
    (let u : State := { tIn (.window 0x60 none ⟨8, 0⟩) [] with bridge := false }
     (u.inbox.find? (fun m => match m.body with | .window o w _ => u.pkgIdx == u.pkgIdx && o == 0x60 && w == none | _ => false)).isSome = true) ∧
    ((sortNat ((List.range 4).map (fun i => lineOf (memKey tDom.pkgIdx 0x180 + i)))).filter (fun l => (tDom.epoch l).isSome)) = [] ∧
    (let u := tHome none (some .ha) 0 none []
     ((sortNat ((List.range 4).map (fun i => lineOf (memKey u.pkgIdx 0x180 + i)))).filter (fun l => (u.epoch l).isSome)) ≠ []) := by decide +kernel
/-- A unit marked worn at a place. -/
def tUnit (cls place : Nat) : State := { State.reset with units := [⟨cls, place, 0, 0, 0, true, false⟩] }
theorem witness_Repairs :
    (let u : State := { tUnit 4 0 with now := 86400000000000 }
     u.units[0]?.any (fun r => decide (r.since + (u.csr 0 0x8307).toNat * 3600000000000 ≤ u.now)) = true) ∧
    (let u := tUnit 2 ((State.reset).clusterUnit 5)
     u.withdrawn.contains 5 = false ∧ u.inUse 5 = false ∧
       u.units.filter (fun x => decide (x.cls ≤ 3) && x.place == u.clusterUnit 5 && (x.worn || x.failed)) ≠ [] ∧
       [32, 33].find? (fun p => !u.repair.any (fun r => r.cls == 2 && r.die == 0 && r.spare == p)) = some 32) ∧
    (let u : State := { tUnit 2 ((State.reset).clusterUnit 5) with repair := [⟨2, 0, 1, 32⟩, ⟨2, 0, 2, 33⟩] }
     [32, 33].find? (fun p => !u.repair.any (fun r => r.cls == 2 && r.die == 0 && r.spare == p)) = none) ∧
    (let u := tUnit 4 (128 * 0 + nth 0 (nth [] State.reset.sliceMap 0) 9)
     u.migrating.find? (fun m => m.1 == 0 && m.2.1 == 9) = none ∧ u.unitBad 4 (128 * 0 + nth 0 (nth [] u.sliceMap 0) 9) = true ∧
       [64, 65, 66, 67].find? (fun p => !(u.repair.any (fun r => r.cls == 4 && r.die == 0 && r.spare == p) ||
         u.migrating.any (fun m => m.1 == 0 && m.2.2.1 == p))) = some 64 ∧
       u.busySets 0 9 = []) ∧
    (let u : State := { tUnit 4 9 with migrating := [(0, 9, 64, 0)], home := [{ homeAt 9 .hsx 0 [] with acks := [(0, 1)] }] }
     argMin id ((u.busySets 0 (bucketOf 9)).filter (fun k => decide (0 ≤ k))) = some (l2Set 9)) ∧
    (tUnit 5 7).unitBad 5 ((4 * 0 + 0) * 2 ^ 23 + 7) = true ∧ (tUnit 6 3).unitBad 6 ((4 * 0 + 0) * 2 ^ 23 + 3) = true ∧
    (tUnit 6 3).repair.any (fun r => r.cls == 6 && r.die == 0 && r.place / 2 ^ 23 == 0) = false := by decide +kernel
theorem witness_Resets :
    State.reset.wornBonds = [] ∧ State.reset.repair = [] ∧ State.reset.heldReset = false ∧ State.reset.bridge = true ∧
    (State.reset.setCsr 0 0x8500 1).csr 0 0x8500 = 1 ∧ (State.reset.setCsr 0 0x8500 2).csr 0 0x8500 = 2 ∧
    (let u : State := { State.reset with heldReset := true }
     u.heldReset = true ∧ ([20, 30, 40, 84] : List Nat).length = 4 ∧ ∀ x ∈ ([20, 30, 40, 84] : List Nat), x < 85) := by decide +kernel

/-! Frames. -/

theorem witness_ScalarFrames : (sB tSq true 0x000 ⟨1, 2, 3⟩ && sB tM true 0x000 ⟨1, 2, 3⟩ && lB tSq true 0x018 ⟨1, 2, 0, 5⟩ && nB tSq true 0x00D ⟨1, 2, 0, 3, 0, 0⟩ &&
    nB tSq true 0x015 ⟨2, 4, 0, 6, 0, 0x000A⟩ && nB tSq true 0x010 ⟨0, 4, 0, 6, 0, 0x0006⟩ && sB tSq true 0x040 ⟨1, 2, 3⟩ && lB tSq true 0x045 ⟨1, 0, 0, 7⟩ &&
    sB tSq true 0x044 ⟨1, 2, 0⟩ && sB tSq true 0x044 ⟨1, 2, 1⟩ && sB tSq true 0x044 ⟨1, 2, 2⟩) = true := by decide +kernel
theorem witness_LaneFrames : (nB tSq false 0x001 ⟨1, 2, 0, 3, 0, 0x0006⟩ && nB tSq false 0x040 ⟨1, 2, 0, 3, 0, 0x000C⟩ && lB tSq false 0x020 ⟨1, 2, 0, 5⟩ &&
    sB tSq false 0x008 ⟨1, 2, 3⟩ && nB tSq false 0x016 ⟨1, 2, 0, 3, 0, 0x0206⟩ && nB tSq false 0x046 ⟨1, 2, 0, 3, 0, 0x000C⟩) = true := by decide +kernel
theorem witness_StoreFrames :
    (stB tA (fun r => !r.inTx && (r.ownA (r.accLines (r.plainAccs (wG 0x0C)))).isEmpty && r.canPend r.sq.cache (r.newOf (wG 0x0C)) &&
       (r.newOf (wG 0x0C)).all (fun l => decide (r.occupied r.sq.cache (setOf l) + (r.newOf (wG 0x0C)).length ≤ r.ways r.sq.cache))) &&
     nB tA false 0x123 (wS 0x0C) (fun r => (r.checkPlace 4 true (r.ldsAccs (wS 0x0C))).isNone && canon 0 r.scratch &&
       landedB r ((r.ldsAccs (wS 0x0C)).flatMap (fun a => (List.range a.n).map (fun i => (0, (r.aim a).1 + i, (r.aim a).2 + i))))) &&
     nB tA false 0x120 (wG 0x0C) (fun r => (r.forcedLines (r.plainAccs (wG 0x0C))).isEmpty && (r.lacking .read (r.accLines (r.plainAccs (wG 0x0C)))).isNone &&
       (r.farLack r.sq.cache (r.clNow / 32) (r.readsOf ((r.plainAccs (wG 0x0C)).flatMap Acc.bytes))).isNone) &&
     ldsB tA (fun u l => landedB u l && soundB u l)) = true := by decide +kernel

end Sys2Proof.Tests
end

/-! # Proofs: ssel, slea, trap, brkpt and nop of the uniform set (04 R82, R84, R98, R99) -/

namespace Sys2Proof.Machine

/-! ### Refusals at issue (03 Table 3.7) -/

/-- A check that fails takes the trap illegal_instruction with its reason. -/
theorem State.issue_refused {s : State} {f : Form} {n : Nat} (hf : s.focus ≠ .idle) (h : s.refusal f = some n) (body : State → Res) :
    s.issue f body = .next (s.illegal n ⟨s.pcNow, f.w0, f.w1⟩) := by
  unfold State.issue
  rw [if_neg hf]
  simp only [h]

/-- With checks 5 to 7 passed, checks 8 to 10 decide. -/
theorem State.refusal_eq_bad {s : State} {f : Form} (hwho : s.whoBad f.uni f.op9 = false) (hplace : s.placeBad f.uni f.op9 = false)
    (hpriv : s.privBad f = false) : s.refusal f = f.bad := by
  simp [State.refusal, hwho, hplace, hpriv]

theorem State.whoBad_of_both {op9 : Nat} (h : uniWho op9 = .both) (s : State) : s.whoBad true op9 = false := by
  simp [State.whoBad, h]

/-- 03 R65: the scalar and mask instructions may stand inside a pblk block. -/
theorem State.placeBad_of_lt {op9 : Nat} (h : op9 < 0x060) (s : State) : s.placeBad true op9 = false := by
  simp [State.placeBad, Nat.not_le.mpr h]

/-- 03 R65, 04 R99: so may nop. -/
theorem State.placeBad_nop (s : State) : s.placeBad true 0x077 = false := by
  simp [State.placeBad]

/-- Privilege binds rfe and the instructions that name a CSR only. -/
theorem State.privBad_eq_false {f : Form} (hrfe : f.op9 ≠ 0x180) (hcsr : f.csr = none) (s : State) : s.privBad f = false := by
  simp [State.privBad, hrfe, hcsr]

/-- A long scalar instruction whose fields or values do not pass is refused with the reason of the first that fails. -/
theorem State.issueLong_refused {s : State} {op9 n : Nat} {w : Long} (hf : s.focus ≠ .idle) (hwho : uniWho op9 = .both)
    (hplace : op9 < 0x060) (hbad : (uniSpec s.fenv op9 w).checkLong s.fenv w = some n) (body : State → Res) :
    s.issueLong true op9 w body = .next (s.illegal n ⟨s.pcNow, encHead true op9 w.d w.a w.m, w.b ++ w.c ++ w.x⟩) := by
  have hcsr : (s.formLong true op9 w).csr = none := by
    have h1 : op9 ≠ 0x181 := by omega
    have h2 : op9 ≠ 0x182 := by omega
    simp [State.formLong, h1, h2]
  have hrfe : (s.formLong true op9 w).op9 ≠ 0x180 := show op9 ≠ 0x180 by omega
  exact State.issue_refused hf
    ((State.refusal_eq_bad (s.whoBad_of_both hwho) (s.placeBad_of_lt hplace) (s.privBad_eq_false hrfe hcsr)).trans hbad) body

/-- A short uniform instruction where it may stand is refused likewise. -/
theorem State.issueShort_refused {s : State} {op9 n : Nat} {w : Short} (hf : s.focus ≠ .idle) (hwho : uniWho op9 = .both)
    (hplace : s.placeBad true op9 = false) (hrfe : op9 ≠ 0x180) (hbad : (uniShort s.fenv op9 w).checkShort s.fenv w = some n)
    (body : State → Res) : s.issueShort true op9 w body = .next (s.illegal n ⟨s.pcNow, encShort true op9 w, 0⟩) :=
  State.issue_refused hf
    ((State.refusal_eq_bad (s.whoBad_of_both hwho) hplace (s.privBad_eq_false (f := s.formShort true op9 w) hrfe rfl)).trans hbad) body

/-! ### The field checks (03 Table 3.7, checks 8 and 9) -/

theorem FC.zeroOk_z_of_ne {n : Nat} {v : BitVec n} (h : v ≠ 0) : FC.z.zeroOk v.toNat = false := by
  have : v.toNat ≠ 0 := fun hv => h (BitVec.eq_of_toNat_eq (by simpa using hv))
  simpa [FC.zeroOk] using this

theorem FC.regOk_s_misaligned {cnt al v : Nat} (h : v % al ≠ 0) (e : FEnv) : (FC.s cnt al).regOk e v = false := by
  simp [FC.regOk, h]

theorem FC.regOk_s_beyond {e : FEnv} {cnt v : Nat} (h : e.sallot < v + cnt) (al : Nat) : (FC.s cnt al).regOk e v = false := by
  simp [FC.regOk, Nat.not_le.mpr h]

/-- A class-Z c that is not zero, or an x that is not accepted, is reason 6. -/
theorem FSpec.checkLong_badField {f : FSpec} {w : Long} (h : f.c = .z ∧ w.c ≠ 0 ∨ f.x = false) (e : FEnv) :
    f.checkLong e w = some 6 := by
  rcases h with ⟨hz, hc⟩ | hx
  · simp [FSpec.checkLong, hz, FC.zeroOk_z_of_ne hc]
  · simp [FSpec.checkLong, hx]

/-- Fields that check 8 accepts, one of which names a register that is misaligned or outside the allotment, are reason 7. -/
theorem FSpec.checkLong_badReg {f : FSpec} {e : FEnv} {w : Long}
    (hzero : f.d.zeroOk w.d.toNat = true ∧ f.a.zeroOk w.a.toNat = true ∧ f.b.zeroOk w.b.toNat = true ∧ f.c.zeroOk w.c.toNat = true)
    (hm : w.m = 0) (hx : f.x = true)
    (hreg : f.d.regOk e w.d.toNat = false ∨ f.a.regOk e w.a.toNat = false ∨ f.b.regOk e w.b.toNat = false) :
    f.checkLong e w = some 7 := by
  obtain ⟨hd, ha, hb, hc⟩ := hzero
  have hregs : (f.d.regOk e w.d.toNat && f.a.regOk e w.a.toNat && f.b.regOk e w.b.toNat && f.c.regOk e w.c.toNat) = false := by
    rcases hreg with h | h | h <;> simp [h]
  simp [FSpec.checkLong, hd, ha, hb, hc, hm, hx, hregs]

/-- A class-Z field of a short word that is not zero is reason 6. -/
theorem FSpec.checkShort_badField {f : FSpec} {w : Short} (h : f.d = .z ∧ w.d ≠ 0 ∨ f.a = .z ∧ w.a ≠ 0 ∨ f.b = .z ∧ w.b ≠ 0)
    (e : FEnv) : f.checkShort e w = some 6 := by
  rcases h with ⟨hz, hw⟩ | ⟨hz, hw⟩ | ⟨hz, hw⟩ <;> simp [FSpec.checkShort, hz, FC.zeroOk_z_of_ne hw]

/-- The same where all three fields are class Z. -/
theorem FSpec.checkShort_allZero {w : Short} (h : w ≠ ⟨0, 0, 0⟩) (e : FEnv) : ({} : FSpec).checkShort e w = some 6 := by
  refine FSpec.checkShort_badField ?_ e
  by_contra hall
  simp only [true_and, not_or, not_not] at hall
  obtain ⟨hd, ha, hb⟩ := hall
  exact h (by cases w; simp_all)

theorem xok_eq_true_iff (x : BitVec 16) (tys : List Nat) (subMax rndMax : Nat) (bselOk : Bool) :
    xok x tys subMax rndMax bselOk = true ↔
      xType x ∈ tys ∧ xSub x ≤ subMax ∧ xRnd x ≤ rndMax ∧ (bselOk = true ∨ xBsel x = false) := by
  simp [xok, and_assoc]

theorem tyRegs_pos (t : Nat) : 0 < tyRegs t := by
  unfold tyRegs; split <;> decide

/-! ### Words (03 Table 3.1) -/

theorem toNat_append_eq_add {m n : Nat} (x : BitVec m) (y : BitVec n) : (x ++ y).toNat = x.toNat * 2 ^ n + y.toNat := by
  rw [BitVec.toNat_append, ← Nat.shiftLeft_add_eq_or_of_lt y.isLt, Nat.shiftLeft_eq]

theorem encHead_uniform_toNat (op9 : Nat) (d a : BitVec 8) : (encHead true op9 d a 0).toNat =
    ((((1 * 2 ^ 1 + 1) * 2 ^ 9 + op9 % 2 ^ 9) * 2 ^ 8 + d.toNat) * 2 ^ 8 + a.toNat) * 2 ^ 5 := by
  simp only [encHead, toNat_append_eq_add, BitVec.toNat_ofNat, BitVec.ofNat_eq_ofNat, if_true]
  rfl

/-- Word 0 of a long or literal uniform form without modifiers. -/
theorem encHead_uniform {op9 : Nat} (hop : op9 < 512) (d a : BitVec 8) :
    encHead true op9 d a 0 = BitVec.ofNat 32 (0xC0000000 + op9 * 2 ^ 21) + BitVec.ofNat 32 (d.toNat * 8192 + a.toNat * 32) := by
  apply BitVec.eq_of_toNat_eq
  rw [encHead_uniform_toNat, BitVec.toNat_add, BitVec.toNat_ofNat, BitVec.toNat_ofNat]
  have hd := d.isLt
  have ha := a.isLt
  omega

/-- Word 1 of a long form with a zero c. -/
theorem tailWord_of_c_zero (b : BitVec 8) (x : BitVec 16) :
    b ++ (0 : BitVec 8) ++ x = BitVec.ofNat 32 (b.toNat * 2 ^ 24 + x.toNat) := by
  apply BitVec.eq_of_toNat_eq
  have hb := b.isLt
  have hx := x.isLt
  simp only [toNat_append_eq_add, BitVec.toNat_ofNat, BitVec.ofNat_eq_ofNat]
  omega

/-- The words of a long uniform form without modifiers, with a zero c. -/
theorem encLong_uniform {op9 : Nat} (hop : op9 < 512) {w : Long} (hm : w.m = 0) (hc : w.c = 0) :
    encLong true op9 w = [BitVec.ofNat 32 (0xC0000000 + op9 * 2 ^ 21) + BitVec.ofNat 32 (w.d.toNat * 8192 + w.a.toNat * 32),
      BitVec.ofNat 32 (w.b.toNat * 2 ^ 24 + w.x.toNat)] := by
  rw [encLong, hm, hc, encHead_uniform hop, tailWord_of_c_zero]

theorem encShort_uniform_b_toNat (op9 : Nat) (b : BitVec 7) :
    (encShort true op9 ⟨0, 0, b⟩).toNat = ((1 * 2 ^ 1 * 2 ^ 9 + op9 % 2 ^ 9) * 2 ^ 7) * 2 ^ 7 * 2 ^ 7 + b.toNat := by
  simp only [encShort, toNat_append_eq_add, BitVec.toNat_ofNat, BitVec.ofNat_eq_ofNat, if_true]
  rfl

/-- A short uniform word with b alone. -/
theorem encShort_uniform_b {op9 : Nat} (hop : op9 < 512) (b : BitVec 7) :
    encShort true op9 ⟨0, 0, b⟩ = BitVec.ofNat 32 (0x80000000 + op9 * 2 ^ 21) + b.setWidth 32 := by
  apply BitVec.eq_of_toNat_eq
  rw [encShort_uniform_b_toNat, BitVec.toNat_add, BitVec.toNat_ofNat, BitVec.toNat_setWidth]
  have hb := b.isLt
  omega

/-! ### ssel (04 R82) -/

theorem exec_ssel (w : Long) (s : State) : exec (.ssel w) s = s.issueLong true 0x00D w
    (fun r => .done (r.setS w.d.toNat (if r.scc then r.sreg w.a.toNat else r.sreg w.b.toNat))) := rfl

/-- ssel writes what scc chooses. -/
theorem ssel_longRuns (b : Bool) : LongRuns .ssel true 0x00D (fun _ r => r.scc = b)
    (fun w r => r.setS w.d.toNat (if b then r.sreg w.a.toNat else r.sreg w.b.toNat)) :=
  longRuns_intro _ exec_ssel (fun _ _ hscc => by rw [hscc]) (fun _ _ => State.setS_todoNow _ _ _)

theorem ssel_refused {w : Long} {s : State} (hf : s.focus ≠ .idle) (h : w.c ≠ 0 ∨ w.x ≠ 0) :
    exec (.ssel w) s = .next (s.illegal 6 ⟨s.pcNow, encHead true 0x00D w.d w.a w.m, w.b ++ w.c ++ w.x⟩) := by
  have hfield : (uniSpec s.fenv 0x00D w).c = .z ∧ w.c ≠ 0 ∨ (uniSpec s.fenv 0x00D w).x = false :=
    h.imp (fun hc => ⟨rfl, hc⟩) (fun hx => beq_eq_false_iff_ne.mpr hx)
  exact (exec_ssel w s).trans (State.issueLong_refused hf rfl (by decide) (FSpec.checkLong_badField hfield _) _)

/-- Settles O13: each clause is a lemma on the encoding, on either value of scc, or on the field check. -/
theorem sselByScc : Obligations.SselByScc := by
  refine ⟨fun w hm hc hx => ?_, ssel_longRuns true, ssel_longRuns false, fun w s => ssel_refused⟩
  have henc : encode (.ssel w) = encLong true 0x00D w := rfl
  rw [henc, encLong_uniform (by decide) hm hc]
  simp [hx]

/-! ### slea (04 R84) -/

/-- The model's two's complement value of a word is the library's. -/
theorem sext_toNat {n : Nat} (hn : n ≠ 0) (b : BitVec n) : sext b.toNat n = b.toInt := by
  have hmod : b.toNat % 2 ^ n = b.toNat := Nat.mod_eq_of_lt b.isLt
  rw [sext, hmod, BitVec.toInt_eq_msb_cond, BitVec.msb_eq_getLsbD_last, ← BitVec.testBit_toNat]
  simp [hn]

/-- A scaled index added to a base, in integers and cut to 64 bits, is the sum of words. -/
theorem ofInt_base_add_scaled (base : D) (i : Int) (k : Nat) :
    BitVec.ofInt 64 ((base.toNat : Int) + i * ((2 ^ k : Nat) : Int)) = base + (BitVec.ofInt 64 i <<< k) := by
  have htwo : BitVec.ofNat 64 (2 ^ k) = BitVec.twoPow 64 k :=
    BitVec.eq_of_toNat_eq (by rw [BitVec.toNat_ofNat, BitVec.toNat_twoPow])
  rw [BitVec.ofInt_add, BitVec.ofInt_mul, BitVec.ofInt_natCast, BitVec.ofInt_natCast, htwo, ← BitVec.shiftLeft_eq_mul_twoPow]
  simp

/-! The index of slea, under each type that it accepts. -/

theorem State.sbi_n32 {w : Long} (h : xType w.x = tN32) (r : State) :
    BitVec.ofInt 64 (r.sbi w) = (r.sreg w.b.toNat).setWidth 64 := by
  have hsbi : r.sbi w = (((r.sreg w.b.toNat).toNat % 2 ^ 32 : Nat) : Int) := by rw [State.sbi, h]; rfl
  rw [hsbi, Nat.mod_eq_of_lt (r.sreg w.b.toNat).isLt, BitVec.ofInt_natCast, BitVec.ofNat_toNat]

theorem State.sbi_s32 {w : Long} (h : xType w.x = tS32) (r : State) :
    BitVec.ofInt 64 (r.sbi w) = (r.sreg w.b.toNat).signExtend 64 := by
  have hsbi : r.sbi w = sext (r.sreg w.b.toNat).toNat 32 := by rw [State.sbi, h]; rfl
  rw [hsbi, sext_toNat (by decide)]
  rfl

theorem State.sbi_s64 {w : Long} (h : xType w.x = tS64) (r : State) : BitVec.ofInt 64 (r.sbi w) = r.spair w.b.toNat := by
  have hsbi : r.sbi w = sext (r.spair w.b.toNat).toNat 64 := by rw [State.sbi, h]; rfl
  rw [hsbi, sext_toNat (by decide), BitVec.ofInt_toInt]

theorem exec_slea (w : Long) (s : State) : exec (.slea w) s = s.issueLong true 0x015 w (fun r =>
    .done (r.setS2 w.d.toNat (BitVec.ofInt 64 (((r.spair w.a.toNat).toNat : Int) + r.sbi w * ((2 ^ xSub w.x : Nat) : Int))))) := rfl

/-- slea adds the index that its type reads, scaled, wherever that index is a word `idx`. -/
theorem slea_longRuns {t : Nat} {idx : Long → State → D} (hidx : ∀ w r, xType w.x = t → BitVec.ofInt 64 (r.sbi w) = idx w r) :
    LongRuns .slea true 0x015 (fun w _ => xType w.x = t)
      (fun w r => r.setS2 w.d.toNat (r.spair w.a.toNat + (idx w r <<< xSub w.x))) :=
  longRuns_intro _ exec_slea (fun w r ht => by rw [ofInt_base_add_scaled, hidx w r ht]) (fun _ _ => State.setS2_todoNow _ _ _)

theorem slea_refused_field {w : Long} {s : State} (hf : s.focus ≠ .idle)
    (h : 4 ≤ xSub w.x ∨ xType w.x ∉ [tS32, tN32, tS64] ∨ w.c ≠ 0) :
    exec (.slea w) s = .next (s.illegal 6 ⟨s.pcNow, encHead true 0x015 w.d w.a w.m, w.b ++ w.c ++ w.x⟩) := by
  have hxok : 4 ≤ xSub w.x ∨ xType w.x ∉ [tS32, tN32, tS64] → xok w.x [tS32, tN32, tS64] 3 0 false = false := by
    intro hx
    rw [← Bool.not_eq_true, xok_eq_true_iff]
    rintro ⟨hty, hsub, -⟩
    rcases hx with hx | hx
    · omega
    · exact hx hty
  have hfield : (uniSpec s.fenv 0x015 w).c = .z ∧ w.c ≠ 0 ∨ (uniSpec s.fenv 0x015 w).x = false := by
    rcases h with h | h | h
    · exact .inr (hxok (.inl h))
    · exact .inr (hxok (.inr h))
    · exact .inl ⟨rfl, h⟩
  exact (exec_slea w s).trans (State.issueLong_refused hf rfl (by decide) (FSpec.checkLong_badField hfield _) _)

theorem slea_refused_reg {w : Long} {s : State} (hf : s.focus ≠ .idle) (hm : w.m = 0) (hc : w.c = 0)
    (hx : xok w.x [tS32, tN32, tS64] 3 0 false = true)
    (h : w.d.toNat % 2 = 1 ∨ w.a.toNat % 2 = 1 ∨ xType w.x = tS64 ∧ w.b.toNat % 2 = 1 ∨ s.fenv.sallot ≤ w.b.toNat) :
    exec (.slea w) s = .next (s.illegal 7 ⟨s.pcNow, encHead true 0x015 w.d w.a w.m, w.b ++ w.c ++ w.x⟩) := by
  have hodd : ∀ {v : Nat}, v % 2 = 1 → (FC.s 2 2).regOk s.fenv v = false :=
    fun hv => FC.regOk_s_misaligned (by omega) _
  have hreg : (FC.s 2 2).regOk s.fenv w.d.toNat = false ∨ (FC.s 2 2).regOk s.fenv w.a.toNat = false ∨
      (st (xType w.x)).regOk s.fenv w.b.toNat = false := by
    rcases h with hd | ha | ⟨ht, hb⟩ | hb
    · exact .inl (hodd hd)
    · exact .inr (.inl (hodd ha))
    · exact .inr (.inr (by rw [ht]; exact hodd hb))
    · have hpos := tyRegs_pos (xType w.x)
      exact .inr (.inr (FC.regOk_s_beyond (by omega) _))
  have hzero : FC.z.zeroOk w.c.toNat = true := by rw [hc]; rfl
  have hbad : (uniSpec s.fenv 0x015 w).checkLong s.fenv w = some 7 :=
    FSpec.checkLong_badReg ⟨rfl, rfl, rfl, hzero⟩ hm hx hreg
  exact (exec_slea w s).trans (State.issueLong_refused hf rfl (by decide) hbad _)

/-- Settles O14: modulo 2^64 the sum of integers is the sum of words, for the index of each type. -/
theorem sleaAddress : Obligations.SleaAddress := by
  refine ⟨fun w hm hc => encLong_uniform (by decide) hm hc, slea_longRuns (fun _ r h => r.sbi_n32 h),
    slea_longRuns (fun _ r h => r.sbi_s32 h), slea_longRuns (fun _ r h => r.sbi_s64 h), fun w s => slea_refused_field, ?_⟩
  intro w s hf hm hc hsub hty hbsel hrnd
  have hx : xok w.x [tS32, tN32, tS64] 3 0 false = true :=
    (xok_eq_true_iff _ _ _ _ _).mpr ⟨hty, by omega, by omega, .inr hbsel⟩
  exact slea_refused_reg hf hm hc hx

/-! ### trap, brkpt and nop (04 R98, R99) -/

theorem exec_trap (w : Short) (s : State) :
    exec (.trap w) s = s.issueShort true 0x075 w (fun _ => .trap ⟨.softwareTrap, w.b.toNat, 0, 0⟩) := rfl

theorem exec_brkpt (w : Short) (s : State) :
    exec (.brkpt w) s = s.issueShort true 0x076 w (fun _ => .trap ⟨.breakpoint, 0, 0, 0⟩) := rfl

theorem exec_nop (w : Short) (s : State) : exec (.nop w) s = s.issueShort true 0x077 w (fun r => .done r) := rfl

theorem trap_refused {w : Short} {s : State} (hf : s.focus ≠ .idle) (hplace : s.placeBad true 0x075 = false) (h : w.d ≠ 0 ∨ w.a ≠ 0) :
    exec (.trap w) s = .next (s.illegal 6 ⟨s.pcNow, encShort true 0x075 w, 0⟩) := by
  have hbad : (uniShort s.fenv 0x075 w).checkShort s.fenv w = some 6 :=
    FSpec.checkShort_badField (h.imp (fun hd => ⟨rfl, hd⟩) (fun ha => .inl ⟨rfl, ha⟩)) _
  exact (exec_trap w s).trans (State.issueShort_refused hf rfl hplace (by decide) hbad _)

theorem brkpt_refused {w : Short} {s : State} (hf : s.focus ≠ .idle) (hplace : s.placeBad true 0x076 = false) (h : w ≠ ⟨0, 0, 0⟩) :
    exec (.brkpt w) s = .next (s.illegal 6 ⟨s.pcNow, encShort true 0x076 w, 0⟩) :=
  (exec_brkpt w s).trans (State.issueShort_refused hf rfl hplace (by decide) (FSpec.checkShort_allZero h _) _)

theorem nop_refused {w : Short} {s : State} (hf : s.focus ≠ .idle) (h : w ≠ ⟨0, 0, 0⟩) :
    exec (.nop w) s = .next (s.illegal 6 ⟨s.pcNow, encShort true 0x077 w, 0⟩) :=
  (exec_nop w s).trans (State.issueShort_refused hf rfl s.placeBad_nop (by decide) (FSpec.checkShort_allZero h _) _)

theorem nop_shortRuns : ShortRuns .nop true 0x077 always (fun _ r => r) :=
  shortRuns_intro _ exec_nop (fun _ _ _ => rfl) (fun _ _ => rfl)

/-- Settles O19: trap and brkpt fault in their own body (`issue_trap`), nop has an empty one, and other encodings fail check 8. -/
theorem trapAndNop : Obligations.TrapAndNop :=
  ⟨fun w s hgo => (exec_trap w s).trans (State.issue_trap hgo rfl),
   fun w s hgo => (exec_brkpt w s).trans (State.issue_trap hgo rfl),
   fun _ => ⟨rfl, rfl⟩,
   fun n => congrArg (fun v => [v]) (encShort_uniform_b (op9 := 0x075) (by decide) n),
   congrArg (fun v => [v]) (encShort_uniform_b (op9 := 0x076) (by decide) 0),
   fun _ _ => trap_refused,
   fun _ _ => brkpt_refused,
   nop_shortRuns,
   congrArg (fun v => [v]) (encShort_uniform_b (op9 := 0x077) (by decide) 0),
   fun _ hw _ hf => nop_refused hf hw,
   State.placeBad_nop⟩

end Sys2Proof.Machine

/-! ### Decoding and encoding (03 R55, R56) -/

namespace Sys2Proof.Machine

section Fields
variable {uni : Bool} {op9 : Nat} (hop : op9 < 512)
include hop

/-- Word 0 of a long or literal form as a number: its fields in their places (03 Table 3.1). -/
theorem encHead_toNat (d a : BitVec 8) (m : BitVec 5) : (encHead uni op9 d a m).toNat =
    ((((uni.toNat * 2 + 1) * 2 ^ 9 + op9) * 2 ^ 8 + d.toNat) * 2 ^ 8 + a.toNat) * 2 ^ 5 + m.toNat := by
  have h : (BitVec.ofNat 9 op9).toNat = op9 := by rw [BitVec.toNat_ofNat, Nat.mod_eq_of_lt hop]
  cases uni <;> simp only [encHead, toNat_append_eq_add, h] <;> simp

theorem encShort_toNat (w : Short) : (encShort uni op9 w).toNat =
    (((uni.toNat * 2 * 2 ^ 9 + op9) * 2 ^ 7 + w.d.toNat) * 2 ^ 7 + w.a.toNat) * 2 ^ 7 + w.b.toNat := by
  have h : (BitVec.ofNat 9 op9).toNat = op9 := by rw [BitVec.toNat_ofNat, Nat.mod_eq_of_lt hop]
  cases uni <;> simp only [encShort, toNat_append_eq_add, h] <;> simp
end Fields

theorem getLsbD_eq_decide {n : Nat} (x : BitVec n) (i : Nat) : x.getLsbD i = decide (x.toNat / 2 ^ i % 2 = 1) := by
  rw [← BitVec.testBit_toNat, Nat.testBit_eq_decide_div_mod_eq]

theorem extractLsb'_toNat_div {n : Nat} (x : BitVec n) (i k : Nat) : (x.extractLsb' i k).toNat = x.toNat / 2 ^ i % 2 ^ k := by
  rw [BitVec.extractLsb'_toNat, Nat.shiftRight_eq_div_pow]

/-- A field of a word is the bit vector with the field's number. -/
theorem extractLsb'_eq_of_toNat {n k : Nat} {x : BitVec n} {i : Nat} {y : BitVec k} (h : x.toNat / 2 ^ i % 2 ^ k = y.toNat) :
    x.extractLsb' i k = y := BitVec.eq_of_toNat_eq ((extractLsb'_toNat_div x i k).trans h)

/-! The fields that decoding reads of an encoded word. -/

section Fields
variable {uni : Bool} {op9 : Nat} (hop : op9 < 512)
include hop

theorem encHead_set (d a : BitVec 8) (m : BitVec 5) : (encHead uni op9 d a m).getLsbD 31 = uni := by
  rw [getLsbD_eq_decide, encHead_toNat hop]
  have := d.isLt; have := a.isLt; have := m.isLt
  cases uni <;> simp only [Bool.toNat, cond, decide_eq_true_eq, decide_eq_false_iff_not] <;> omega

theorem encHead_form (d a : BitVec 8) (m : BitVec 5) : (encHead uni op9 d a m).getLsbD 30 = true := by
  rw [getLsbD_eq_decide, encHead_toNat hop, decide_eq_true_eq]
  have := d.isLt; have := a.isLt; have := m.isLt
  omega

theorem encHead_op9 (d a : BitVec 8) (m : BitVec 5) : op9Of (encHead uni op9 d a m) = op9 := by
  rw [op9Of, extractLsb'_toNat_div, encHead_toNat hop]
  have := d.isLt; have := a.isLt; have := m.isLt
  omega

theorem longOf_encLong (w : Long) : longOf (encHead uni op9 w.d w.a w.m) (w.b ++ w.c ++ w.x) = w := by
  obtain ⟨d, a, m, b, c, x⟩ := w
  have := d.isLt; have := a.isLt; have := m.isLt; have := b.isLt; have := c.isLt; have := x.isLt
  simp only [longOf, Long.mk.injEq]
  refine ⟨?_, ?_, ?_, ?_, ?_, ?_⟩ <;> apply extractLsb'_eq_of_toNat <;>
    simp only [encHead_toNat hop, toNat_append_eq_add] <;> omega

theorem litOf_encLit (w : Lit) : litOf (encHead uni op9 w.d w.a w.m) w.lit = w := by
  obtain ⟨d, a, m, l⟩ := w
  have := d.isLt; have := a.isLt; have := m.isLt
  simp only [litOf, Lit.mk.injEq, and_true]
  refine ⟨?_, ?_, ?_⟩ <;> apply extractLsb'_eq_of_toNat <;> simp only [encHead_toNat hop] <;> omega

theorem encShort_set (w : Short) : (encShort uni op9 w).getLsbD 31 = uni := by
  rw [getLsbD_eq_decide, encShort_toNat hop]
  have := w.d.isLt; have := w.a.isLt; have := w.b.isLt
  cases uni <;> simp only [Bool.toNat, cond, decide_eq_true_eq, decide_eq_false_iff_not] <;> omega

theorem encShort_form (w : Short) : (encShort uni op9 w).getLsbD 30 = false := by
  rw [getLsbD_eq_decide, encShort_toNat hop, decide_eq_false_iff_not]
  have := w.d.isLt; have := w.a.isLt; have := w.b.isLt
  omega

theorem encShort_op9 (w : Short) : op9Of (encShort uni op9 w) = op9 := by
  rw [op9Of, extractLsb'_toNat_div, encShort_toNat hop]
  have := w.d.isLt; have := w.a.isLt; have := w.b.isLt
  omega

theorem shortOf_encShort (w : Short) : shortOf (encShort uni op9 w) = w := by
  obtain ⟨d, a, b⟩ := w
  have := d.isLt; have := a.isLt; have := b.isLt
  simp only [shortOf, Short.mk.injEq]
  refine ⟨?_, ?_, ?_⟩ <;> apply extractLsb'_eq_of_toNat <;> simp only [encShort_toNat hop] <;> omega
end Fields

/-! ### Encoding the fields of words gives the words back -/

theorem op9Of_lt (w0 : W) : op9Of w0 < 512 := (w0.extractLsb' 21 9).isLt

theorem encHead_of_fields {w0 : W} (h : w0.getLsbD 30 = true) :
    encHead (w0.getLsbD 31) (op9Of w0) (w0.extractLsb' 13 8) (w0.extractLsb' 5 8) (w0.extractLsb' 0 5) = w0 := by
  apply BitVec.eq_of_toNat_eq
  rw [getLsbD_eq_decide, decide_eq_true_eq] at h
  rw [encHead_toNat (op9Of_lt w0), op9Of, getLsbD_eq_decide]
  simp only [extractLsb'_toNat_div, Bool.toNat, Bool.cond_decide]
  have := w0.isLt
  split <;> omega

theorem encShort_of_fields {w0 : W} (h : w0.getLsbD 30 = false) : encShort (w0.getLsbD 31) (op9Of w0) (shortOf w0) = w0 := by
  apply BitVec.eq_of_toNat_eq
  rw [getLsbD_eq_decide, decide_eq_false_iff_not] at h
  rw [encShort_toNat (op9Of_lt w0), op9Of, getLsbD_eq_decide]
  simp only [shortOf, extractLsb'_toNat_div, Bool.toNat, Bool.cond_decide]
  have := w0.isLt
  split <;> omega

theorem encLong_of_fields {w0 : W} (h : w0.getLsbD 30 = true) (w1 : W) :
    encLong (w0.getLsbD 31) (op9Of w0) (longOf w0 w1) = [w0, w1] := by
  have tail : w1.extractLsb' 24 8 ++ w1.extractLsb' 16 8 ++ w1.extractLsb' 0 16 = w1 := by
    apply BitVec.eq_of_toNat_eq
    simp only [toNat_append_eq_add, extractLsb'_toNat_div]
    have := w1.isLt
    omega
  rw [encLong, longOf, encHead_of_fields h, tail]

theorem encLit_of_fields {w0 : W} (h : w0.getLsbD 30 = true) (w1 : W) :
    encLit (w0.getLsbD 31) (op9Of w0) (litOf w0 w1) = [w0, w1] := by
  rw [encLit, litOf, encHead_of_fields h]

/-! ### Each form decodes from its words -/

section Forms
variable {op9 : Nat} {i : Instr}

theorem decode_uniShort {w : Short} (hm : op9 ∈ uniShorts) (hi : uniShortI op9 w = some i) (w1 : W) :
    decodeWords (encShort true op9 w) w1 = .ok i 4 := by
  have hop : op9 < 512 := (by decide : ∀ n ∈ uniShorts, n < 512) op9 hm
  simp only [decodeWords, encShort_set hop, encShort_form hop, encShort_op9 hop, shortOf_encShort hop, hm, hi, List.contains_eq_mem, decide_true, Bool.false_eq_true, if_true, if_false]

theorem decode_laneShort {w : Short} (hm : op9 ∈ laneShorts) (hi : laneShortI op9 w = some i) (w1 : W) :
    decodeWords (encShort false op9 w) w1 = .ok i 4 := by
  have hop : op9 < 512 := (by decide : ∀ n ∈ laneShorts, n < 512) op9 hm
  simp only [decodeWords, encShort_set hop, encShort_form hop, encShort_op9 hop, shortOf_encShort hop, hm, hi, List.contains_eq_mem, decide_true, Bool.false_eq_true, if_true, if_false]

theorem decode_uniLong {w : Long} (hm : op9 ∈ uniLongs) (hi : uniLongI op9 w = some i) :
    decodeWords (encHead true op9 w.d w.a w.m) (w.b ++ w.c ++ w.x) = .ok i 8 := by
  have hop : op9 < 512 := (by decide : ∀ n ∈ uniLongs, n < 512) op9 hm
  have hs : op9 ∉ uniShorts := (by decide : ∀ n ∈ uniLongs, n ∉ uniShorts) op9 hm
  simp only [decodeWords, encHead_set hop, encHead_form hop, encHead_op9 hop, longOf_encLong hop, hs, hm, hi, List.contains_eq_mem, decide_true, decide_false, Bool.not_true, Bool.false_eq_true, if_true, if_false]

theorem decode_laneLong {w : Long} (hm : op9 ∈ laneLongs) (hi : laneLongI op9 w = some i) :
    decodeWords (encHead false op9 w.d w.a w.m) (w.b ++ w.c ++ w.x) = .ok i 8 := by
  have hop : op9 < 512 := (by decide : ∀ n ∈ laneLongs, n < 512) op9 hm
  have hs : op9 ∉ laneShorts := (by decide : ∀ n ∈ laneLongs, n ∉ laneShorts) op9 hm
  simp only [decodeWords, encHead_set hop, encHead_form hop, encHead_op9 hop, longOf_encLong hop, hs, hm, hi, List.contains_eq_mem, decide_true, decide_false, Bool.not_true, Bool.false_eq_true, if_true, if_false]

theorem decode_uniLit {w : Lit} (hm : op9 ∈ uniLits) (hi : uniLitI op9 w = some i) :
    decodeWords (encHead true op9 w.d w.a w.m) w.lit = .ok i 8 := by
  have hop : op9 < 512 := (by decide : ∀ n ∈ uniLits, n < 512) op9 hm
  have hs : op9 ∉ uniShorts := (by decide : ∀ n ∈ uniLits, n ∉ uniShorts) op9 hm
  have hl : op9 ∉ uniLongs := (by decide : ∀ n ∈ uniLits, n ∉ uniLongs) op9 hm
  simp only [decodeWords, encHead_set hop, encHead_form hop, encHead_op9 hop, litOf_encLit hop, hs, hl, hm, hi, List.contains_eq_mem, decide_true, decide_false, Bool.not_true, Bool.false_eq_true, if_true, if_false]

theorem decode_laneLit {w : Lit} (hm : op9 ∈ laneLits) (hi : laneLitI op9 w = some i) :
    decodeWords (encHead false op9 w.d w.a w.m) w.lit = .ok i 8 := by
  have hop : op9 < 512 := (by decide : ∀ n ∈ laneLits, n < 512) op9 hm
  have hs : op9 ∉ laneShorts := (by decide : ∀ n ∈ laneLits, n ∉ laneShorts) op9 hm
  have hl : op9 ∉ laneLongs := (by decide : ∀ n ∈ laneLits, n ∉ laneLongs) op9 hm
  simp only [decodeWords, encHead_set hop, encHead_form hop, encHead_op9 hop, litOf_encLit hop, hs, hl, hm, hi, List.contains_eq_mem, decide_true, decide_false, Bool.not_true, Bool.false_eq_true, if_true, if_false]

/-! ### The tables of instructions and their encodings name the same op9 -/

theorem encode_of_laneLongI {w : Long} (h : laneLongI op9 w = some i) : encode i = encLong false op9 w := by
  unfold laneLongI at h
  split at h <;> cases h <;> rfl

theorem encode_of_laneShortI {w : Short} (h : laneShortI op9 w = some i) : encode i = [encShort false op9 w] := by
  unfold laneShortI at h
  split at h <;> cases h <;> rfl

theorem encode_of_laneLitI {w : Lit} (h : laneLitI op9 w = some i) : encode i = encLit false op9 w := by
  unfold laneLitI at h
  split at h <;> cases h <;> rfl

theorem encode_of_uniLitI {w : Lit} (h : uniLitI op9 w = some i) : encode i = encLit true op9 w := by
  unfold uniLitI at h
  split at h <;> cases h <;> rfl

theorem encode_of_uniShortI {w : Short} (h : uniShortI op9 w = some i) : encode i = [encShort true op9 w] := by
  unfold uniShortI at h
  split at h
  case h_19 =>
    split at h <;> cases h <;> rfl
  all_goals cases h
  all_goals rfl

theorem encode_of_uniLongI {w : Long} (h : uniLongI op9 w = some i) : encode i = encLong true op9 w := by
  unfold uniLongI at h
  split at h
  case h_9 => split at h <;> cases h <;> rfl
  case h_24 => cases h; split <;> rfl
  case h_25 => cases h; split <;> rfl
  case h_42 => split at h <;> cases h <;> rfl
  all_goals cases h
  all_goals rfl
end Forms

/-- What decoding can answer: an instruction of the short, long or literal table of the set that bit 31 names, in the form of bit 30. -/
theorem decodeWords_ok {w0 w1 : W} {i : Instr} {n : Nat} (h : decodeWords w0 w1 = .ok i n) :
    (w0.getLsbD 30 = false ∧ n = 4 ∧
      (if w0.getLsbD 31 then uniShortI (op9Of w0) (shortOf w0) else laneShortI (op9Of w0) (shortOf w0)) = some i) ∨
    (w0.getLsbD 30 = true ∧ n = 8 ∧
      ((if w0.getLsbD 31 then uniLongI (op9Of w0) (longOf w0 w1) else laneLongI (op9Of w0) (longOf w0 w1)) = some i ∨
       (if w0.getLsbD 31 then uniLitI (op9Of w0) (litOf w0 w1) else laneLitI (op9Of w0) (litOf w0 w1)) = some i)) := by
  unfold decodeWords at h
  cases hs : w0.getLsbD 31 <;> cases hf : w0.getLsbD 30 <;>
    simp only [hs, hf, Bool.not_true, Bool.not_false, Bool.false_eq_true, if_true, if_false] at h ⊢
  all_goals repeat' split at h
  all_goals simp_all

/-- Words that decode are the words of what they decode to. -/
theorem encode_of_decodeWords {w0 w1 : W} {i : Instr} {n : Nat} (h : decodeWords w0 w1 = .ok i n) :
    encode i = if n = 8 then [w0, w1] else [w0] := by
  obtain ⟨hf, rfl, hi⟩ | ⟨hf, rfl, hi | hi⟩ := decodeWords_ok h
  · have e : encode i = [encShort (w0.getLsbD 31) (op9Of w0) (shortOf w0)] := by
      cases hs : w0.getLsbD 31 <;> rw [hs] at hi
      · exact encode_of_laneShortI hi
      · exact encode_of_uniShortI hi
    rw [e, encShort_of_fields hf]; rfl
  · have e : encode i = encLong (w0.getLsbD 31) (op9Of w0) (longOf w0 w1) := by
      cases hs : w0.getLsbD 31 <;> rw [hs] at hi
      · exact encode_of_laneLongI hi
      · exact encode_of_uniLongI hi
    rw [e, encLong_of_fields hf]; rfl
  · have e : encode i = encLit (w0.getLsbD 31) (op9Of w0) (litOf w0 w1) := by
      cases hs : w0.getLsbD 31 <;> rw [hs] at hi
      · exact encode_of_laneLitI hi
      · exact encode_of_uniLitI hi
    rw [e, encLit_of_fields hf]; rfl

/-- A well-formed instruction comes back from its words: a row that is a variant of its op9 has the code that selects it. -/
theorem decodeWords_encode {i : Instr} (he : encode i ≠ []) (hw : wellFormed i = true) :
    decodeWords ((encode i).getD 0 0) ((encode i).getD 1 0) = .ok i (4 * (encode i).length) := by
  cases i
  case vadd | vsub | vaddc | vmul | vmulh | vmad | vabs | vperm | vshl | vshr | vsra | vmin | vmax | vsel | vcmp | vbfx | vbfi
      | fadd | fsub | fmul | ffma | fmin | fmax | fcmp | fclass | frnd | cvt | npack | nunpack | ipack4 | iunpack4 | sclcalc
      | frcp | frsq | fsqrt | fexp2 | flog2 | fsin | fcos | lutld | lutsel | luteval | xlane | xlaneLo | xlaneHi | xlaneFlip
      | pollAny | pollAll | pollMask | same | sameAll | redx | redf | scanx | rank | selk | ld | st | lds | sts | ldsm | ldsmT
      | ldblk | ldAcq | stRel | atom | upd | pfch w =>
    exact decode_laneLong (by decide) rfl
  case vaddLit | vsubLit | vmulLit | vandLit | vorLit | vxorLit | vshlLit | vshrLit | vsraLit | vminLit | vmaxLit | faddLit
      | fsubLit | fmulLit | fminLit | fmaxLit w =>
    exact decode_laneLit (by decide) rfl
  case smovi | saddLit | smulLit | sandLit | sorLit | sxorLit | sshlLit | sshrLit | ssraLit | kset | bra | brz | brnz | call
      | bany | ball | bnone | bdiv w =>
    exact decode_uniLit (by decide) rfl
  case smin | smax | ssel | scmp | sbfx | sbfi | slea | pblk | rdspec | enq | deq | cwb | cinv | cwbinv | cpy | cpy2d | gath
      | rcpy | rsig | tlget | tlwait | tlsig | barArr | barWait | barArrw | barSync | lbar | spawn | post | join | leave | msend
      | mrecv | mrec | wld | mmaz | mma | mepi | mrestart | mfence | csrrd | csrwr w =>
    exact decode_uniLong (by decide) rfl
  case vand | vor | vxor | vnot | vpopc | vclz | vbrev w =>
    exact decode_laneShort (by decide) rfl _
  case sadd | ssub | smul | smulh | sand | sor | sxor | snot | sshl | sshr | ssra | smov | spopc | sclz | kand | kor | kxor | knot
      | kpopc | kfirst | jmp | ret | converge | setpart | role | exit | trap | brkpt | nop | pub | snap | phase | txbeg | txend
      | txabort | rfe | rdenergy w =>
    exact decode_uniShort (by decide) rfl _
  case setfmt | setfmtFlags | setfmtImm | waitc | waitcG | barInit | barInitFree | mclrZ | mclrLd w =>
    simp only [wellFormed, Bool.and_eq_true, beq_iff_eq] at hw
    exact decode_uniLong (by decide) (by simp [uniLongI, hw.2])
  case kmovKFromK | kmovKFromS | kmovSFromK w =>
    simp only [wellFormed, Bool.and_eq_true, beq_iff_eq] at hw
    exact decode_uniShort (by decide) (by simp [uniShortI, hw.2]) _
  all_goals exact absurd rfl he

/-- Settles O3: each form decodes from its words (`decodeWords_encode`), and each leaf of the decoder gives its words back. -/
theorem decodeEncode : Obligations.DecodeEncode :=
  ⟨fun _ he hw => decodeWords_encode he hw, fun _ _ _ _ h => encode_of_decodeWords h⟩
end Sys2Proof.Machine

/-! # Proofs: words of the encodings, refused words, the step's turn, the checks at issue (03 R55 to R65, 10 R218) -/

namespace Sys2Proof.Machine

/-- Settles O2: each pair of words is decoded by evaluation. -/
theorem decodeWords_table : Obligations.DecodeWords := by
  unfold Obligations.DecodeWords
  decide

/-! ### Refused words (03 Table 3.7) -/

/-- A short word does not look at word 1: the long and literal branches are reached with a long op9 only. -/
theorem decodeWords_short {w0 : W} (h : isLong w0 = false) (w1 w2 : W) : decodeWords w0 w1 = decodeWords w0 w2 := by
  unfold isLong at h
  unfold decodeWords
  cases hs : w0.getLsbD 31 <;> cases hf : w0.getLsbD 30 <;>
    simp only [hs, hf, Bool.true_and, Bool.false_eq_true, if_true, if_false, Bool.or_eq_false_iff, Bool.not_false, Bool.not_true] at h ⊢
  · simp only [h.1, h.2, Bool.false_eq_true, if_false]
  · simp only [h.1, h.2, Bool.false_eq_true, if_false]

theorem uniShorts_not_uniLong : ∀ n ∈ uniLongs ++ uniLits, uniShorts.contains n = false := by decide
theorem laneShorts_not_laneLong : ∀ n ∈ laneLongs ++ laneLits, laneShorts.contains n = false := by decide

/-- Settles O4: each clause is one leaf of the decoder. -/
theorem refusedWords : Obligations.RefusedWords := by
  refine ⟨fun w0 w1 hs hop => ?_, fun w0 w1 hs hop => ?_, fun w0 w1 hs hf hop => ?_, fun w0 w1 hs hf hop => ?_,
    fun w0 w1 hs hf hop => ?_, fun w0 w1 hs hf hop => ?_, fun w0 w1 w2 h => decodeWords_short h w1 w2⟩
  · simp only [List.mem_append, not_or] at hop
    simp only [decodeWords, hs, hop, List.contains_eq_mem, decide_false, Bool.false_eq_true, if_true, if_false]
  · simp only [List.mem_append, not_or] at hop
    simp only [decodeWords, hs, hop, List.contains_eq_mem, decide_false, Bool.false_eq_true, if_false]
  · simp only [decodeWords, hs, hf, List.contains_eq_mem, hop, decide_true, if_true]
  · have hshort := uniShorts_not_uniLong _ hop
    simp only [List.mem_append] at hop
    simp only [decodeWords, hs, hf, hshort, Bool.false_eq_true, Bool.not_false, if_true, if_false, List.contains_eq_mem, decide_eq_true_eq]
    rcases hop with h | h <;> simp only [h, if_true, ite_self]
  · simp only [decodeWords, hs, hf, List.contains_eq_mem, hop, decide_true, Bool.false_eq_true, if_true, if_false]
  · have hshort := laneShorts_not_laneLong _ hop
    simp only [List.mem_append] at hop
    simp only [decodeWords, hs, hf, hshort, Bool.false_eq_true, Bool.not_false, if_true, if_false, List.contains_eq_mem, decide_eq_true_eq]
    rcases hop with h | h <;> simp only [h, if_true, ite_self]

/-! ### The turn of a step (10 R218) -/

/-- A fetch that finds the words of an instruction runs it. -/
theorem State.fetch_run {t : State} {w0 w1 : W} {i : Instr} {n : Nat} (h0 : t.fetchWord t.pcNow.toNat = .word w0)
    (h1 : isLong w0 = true → t.fetchWord (t.pcNow.toNat + 4) = .word w1) (hd : decodeWords w0 w1 = .ok i n) : t.fetch = .run i t := by
  unfold State.fetch
  simp only [h0]
  cases hl : isLong w0 with
  | true => simp only [h1 hl, State.decoded, hd, if_true]
  | false => simp only [State.decoded, decodeWords_short hl 0 w1, hd, Bool.false_eq_true, if_false]

/-- A squad at a boundary with nothing asynchronous to take fetches for its split. -/
theorem State.boundary_fetch {b : State} (hsave : b.saveTakes = false) (hstop : (b.sq.stopReq && b.sq.between) = false)
    (heng : ((b.modSq (fun q => q.pick.mergeIn)).sq.engFault && (b.modSq (fun q => q.pick.mergeIn)).sq.got.isEmpty &&
      !(b.modSq (fun q => q.pick.mergeIn)).sq.handler) = false) : b.boundary = (b.modSq (fun q => q.pick.mergeIn)).fetch := by
  unfold State.boundary
  simp only [hsave, hstop, heng, Bool.false_eq_true, if_false]

/-- An agent that may issue is not in the middle of an instruction. -/
theorem Squad.goesOn_of_mayIssue {q : Squad} (h : q.mayIssue = true) : q.goesOn = false := by
  simp only [Squad.mayIssue, Squad.goesOn, Bool.and_eq_true] at *
  simp only [h.1.2, Bool.not_true, Bool.and_false, Bool.false_and]

theorem Mcc.goesOn_of_mayIssue {m : Mcc} (h : m.mayIssue = true) : m.goesOn = false := by
  simp only [Mcc.mayIssue, Mcc.goesOn, Bool.and_eq_true] at *
  simp only [h.1.2, Bool.not_true, Bool.and_false]

theorem State.unfocus_agenda (u : State) : u.unfocus.agenda = u.agenda := by
  unfold State.unfocus
  split <;> rfl

theorem State.noteFull_agenda (u : State) : u.noteFull.agenda = u.agenda := by
  unfold State.noteFull
  repeat' split
  all_goals rfl

/-- The plan of a step whose agenda has a head. -/
theorem State.plan_agenda {s : State} {x : Turn} {l : List Turn} (h : s.agenda = x :: l) :
    s.plan = ({ (s.tick 1).unfocus.noteFull.notePasses with agenda := l } : State).turn x := by
  have ha : ((s.tick 1).unfocus.noteFull.notePasses).agenda = x :: l :=
    ((s.tick 1).unfocus.noteFull_agenda.trans (s.tick 1).unfocus_agenda).trans h
  unfold State.plan
  generalize (s.tick 1).unfocus.noteFull.notePasses = t at ha ⊢
  simp only []
  rw [ha]

theorem step_of_plan_run {s t : State} {i : Instr} (h : s.plan = .run i t) : step s = exec i t := by unfold step; rw [h]
theorem step_of_plan_done {s t : State} (h : s.plan = .done t) : step s = .next t := by unfold step; rw [h]

/-- A squad that is alone in its sub-partition issues; else the sub-partition chooses. -/
theorem State.chooseIssue_alone {a : State} (h : a.mates = []) : a.chooseIssue = a.boundary := by
  unfold State.chooseIssue
  rw [h]; rfl

theorem State.chooseIssue_mate {a : State} {q : Squad} (h : a.mates ≠ []) (hq : issueChoice a.contenders = some q) :
    a.chooseIssue = ((({ a with free := a.free + 1 } : State).focusOn q.id).grow
      ((a.contenders.filter (·.id != q.id)).map (·.id))).boundary := by
  unfold State.chooseIssue
  rw [if_neg (by simpa using h)]
  simp only []
  rw [hq]

/-- The turn of a squad that may issue. -/
theorem State.issueTurn_squad {s a : State} {id : Nat} (ha : a = s.focusOn id) (hf : a.focus = .squad) (hmay : a.sq.mayIssue = true) :
    s.issueTurn id = a.chooseIssue := by
  unfold State.issueTurn
  simp only [← ha, hf, Squad.goesOn_of_mayIssue hmay, hmay, Bool.false_eq_true, if_false, if_true]

theorem State.issueTurn_mcc {s a : State} {id : Nat} (ha : a = s.focusOn id) (hf : a.focus = .mcc)
    (hsave : (a.savingMcc && a.mcc.running && !a.mcc.stamped) = false) (hmay : a.mcc.mayIssue = true)
    (heng : (a.mcc.engFault && a.mcc.got.isEmpty) = false) : s.issueTurn id = a.fetch := by
  unfold State.issueTurn
  simp only [← ha, hf, hsave, Mcc.goesOn_of_mayIssue hmay, hmay, heng, Bool.not_true, Bool.false_eq_true, if_false]

/-- An agent in the middle of an instruction goes on. -/
theorem State.issueTurn_goesOn {s a : State} {id : Nat} (ha : a = s.focusOn id)
    (h : a.focus = .squad ∧ a.sq.goesOn = true ∧ a.saveTakes = false ∨
      a.focus = .mcc ∧ a.mcc.goesOn = true ∧ (a.savingMcc && a.mcc.running && !a.mcc.stamped) = false) :
    s.issueTurn id = .done a.runTodo := by
  unfold State.issueTurn
  obtain ⟨hf, hgo, hsave⟩ | ⟨hf, hgo, hsave⟩ := h
  · simp only [← ha, hf, hgo, hsave, Bool.false_eq_true, if_true, if_false]
  · simp only [← ha, hf, hgo, hsave, Bool.false_eq_true, if_true, if_false]

/-- Settles O5: the turn of an agent that may issue is a fetch, of one that goes on its parts, of an event the event. -/
theorem stepRunsDecoded : Obligations.StepRunsDecoded := by
  refine ⟨?_, ?_, fun s i l h => step_of_plan_run ((State.plan_agenda h).trans rfl)⟩
  · intro s a b t id n l w0 w1 i h ha hcase h0 h1 hd
    refine step_of_plan_run ((State.plan_agenda h).trans ?_)
    have hfetch := State.fetch_run h0 h1 hd
    obtain ⟨hf, hmay, hb, hsave, hstop, rfl, heng⟩ | ⟨hf, hsave, hmay, heng, rfl⟩ := hcase
    · refine (State.issueTurn_squad ha hf hmay).trans (Eq.trans ?_ ((State.boundary_fetch hsave hstop heng).trans hfetch))
      obtain ⟨hm, rfl⟩ | ⟨q, hm, hq, rfl⟩ := hb
      · exact State.chooseIssue_alone hm
      · exact State.chooseIssue_mate hm hq
    · exact (State.issueTurn_mcc ha hf hsave hmay heng).trans hfetch
  · intro s a id l h ha hgo
    exact step_of_plan_done ((State.plan_agenda h).trans (State.issueTurn_goesOn ha hgo))

/-! ### The checks at issue (03 Table 3.7) -/

section Checks
variable {s : State} {f : Form}

theorem State.lanes_beq_false (h : f.uni = true ∨ s.lanes ≠ 0) : (!f.uni && s.lanes == 0) = false := by
  rcases h with h | h
  · simp [h]
  · have : s.lanes ≠ 0#32 := h
    simp [this]

/-- Past the checks, an instruction of the lane set with no lane in it only moves on. -/
theorem State.issue_noLanes (hf : s.focus ≠ .idle) (hr : s.refusal f = none) (hu : f.uni = false) (hl : s.lanes = 0) (ht : s.todoNow = [])
    (body : State → Res) : s.issue f body = .next (s.ended f.len (s.started f)) := by
  unfold State.issue
  rw [if_neg hf]
  have : (!f.uni && s.lanes == 0) = true := by rw [hu, hl]; rfl
  simp only [hr, this, if_true]
  exact congrArg Host.Outcome.next (State.runTodo_nil ((s.moved_todoNow f.len _).trans ((s.started_todoNow f).trans ht)))

theorem State.issue_mode {n : Nat} (hf : s.focus ≠ .idle) (hr : s.refusal f = none) (hl : f.uni = true ∨ s.lanes ≠ 0)
    (hm : s.modeBad f = some n) (body : State → Res) : s.issue f body = .next (s.illegal n ⟨s.pcNow, f.w0, f.w1⟩) := by
  unfold State.issue
  rw [if_neg hf]
  simp only [hr, State.lanes_beq_false hl, hm, Bool.false_eq_true, if_false]

theorem State.issue_poisoned {l : Nat} (hf : s.focus ≠ .idle) (hr : s.refusal f = none) (hl : f.uni = true ∨ s.lanes ≠ 0)
    (hm : s.modeBad f = none) (hb : (s.ready f).badLane f = some l) (body : State → Res) :
    s.issue f body = .next ((s.ready f).takeTrap ⟨.poisonedData, 0, 0, l⟩ ⟨s.pcNow, f.w0, f.w1⟩) := by
  unfold State.issue
  rw [if_neg hf]
  simp only [hr, State.lanes_beq_false hl, hm, hb, Bool.false_eq_true, if_false]

theorem State.refusal_who (h : s.whoBad f.uni f.op9 = true) : s.refusal f = some 3 := by simp [State.refusal, h]
theorem State.refusal_place (h : s.whoBad f.uni f.op9 = false) (hp : s.placeBad f.uni f.op9 = true) : s.refusal f = some 4 := by
  simp [State.refusal, h, hp]
theorem State.refusal_priv (h : s.whoBad f.uni f.op9 = false) (hp : s.placeBad f.uni f.op9 = false) (hv : s.privBad f = true) :
    s.refusal f = some 5 := by
  simp [State.refusal, h, hp, hv]
end Checks

/-- Supervisor CSRs need the privilege, the frame CSRs of a handler apart. -/
theorem State.privBad_csr {s : State} {f : Form} {n : Nat} (hc : f.csr = some n) (hn : 0x8020 ≤ n) (hs : s.supOf s.ctxNow = false) :
    s.privBad f = true := by
  have h1 : 0x8000 ≤ n := by omega
  have h2 : ¬ n ≤ 0x801F := by omega
  simp [State.privBad, hc, hs, h1, h2]

/-- Settles O6: each check that fails first is the refusal, and the later tests are asked in their order. -/
theorem issueChecks : Obligations.IssueChecks := by
  refine ⟨fun s f body hf => ⟨fun h => State.issue_refused hf (State.refusal_who h) body,
    fun h hp => State.issue_refused hf (State.refusal_place h hp) body,
    fun h hp hv => State.issue_refused hf (State.refusal_priv h hp hv) body,
    fun n h hp hv hb => State.issue_refused hf ((State.refusal_eq_bad h hp hv).trans hb) body,
    fun hr hu hl ht => State.issue_noLanes hf hr hu hl ht body, fun n hr hl hm => State.issue_mode hf hr hl hm body,
    fun l hr hl hm hb => State.issue_poisoned hf hr hl hm hb body⟩, ?_, ?_, fun s f n hc hn hs => State.privBad_csr hc hn hs, ?_⟩
  · intro s op9 hm hb hle hne
    simp [State.placeBad, hm, hb, hle, hne]
  · intro s f hu ho hh
    simp [State.privBad, hu, ho, hh]
  · intro s f hm hu hh hmem
    simp [State.modeBad, hm, hu, hh, hmem]

end Sys2Proof.Machine

/-! # Proofs: the registers (02 R36 to R40, 05 R100) -/

namespace Sys2Proof.Machine

/-! ### Lists of registers -/

theorem nth_set_same {α : Type} {d v : α} {l : List α} {n : Nat} (h : n < l.length) : nth d (l.set n v) n = v := by
  simp [nth, h]

theorem nth_set_ne {α : Type} {d v : α} {l : List α} {n m : Nat} (h : m ≠ n) : nth d (l.set n v) m = nth d l m := by
  simp [nth, List.getD_eq_getElem?_getD, List.getElem?_set_ne (Ne.symm h)]

@[simp] theorem loW_pair (h l : W) : loW (pair h l) = l := by
  apply BitVec.eq_of_toNat_eq
  rw [loW, pair, extractLsb'_toNat_div, toNat_append_eq_add]
  have := l.isLt
  omega

@[simp] theorem hiW_pair (h l : W) : hiW (pair h l) = h := by
  apply BitVec.eq_of_toNat_eq
  rw [hiW, pair, extractLsb'_toNat_div, toNat_append_eq_add]
  have := h.isLt
  have := l.isLt
  omega

@[simp] theorem pair_hiW_loW (v : D) : pair (hiW v) (loW v) = v := by
  apply BitVec.eq_of_toNat_eq
  rw [pair, toNat_append_eq_add, hiW, loW, extractLsb'_toNat_div, extractLsb'_toNat_div]
  have := v.isLt
  omega

/-! ### s-registers -/

/-- The s-registers of the issuer. -/
def State.sfile (s : State) : List W := if s.isM then s.mcc.sregs else s.sq.sregs

theorem State.sreg_eq_nth (s : State) (n : Nat) : s.sreg n = nth 0 s.sfile n := rfl

theorem State.sfile_setS (s : State) (n : Nat) (v : W) : (s.setS n v).sfile = s.sfile.set n v := by
  unfold State.setS State.sfile
  cases h : s.isM <;> simp only [Bool.false_eq_true, if_false, if_true] <;>
    simp only [State.isM, State.modSq, State.modMcc] at * <;> simp [h]

theorem State.sreg_setS_same {s : State} {n : Nat} (h : n < s.sfile.length) (v : W) : (s.setS n v).sreg n = v := by
  rw [State.sreg_eq_nth, State.sfile_setS, nth_set_same h]

theorem State.sreg_setS_ne (s : State) {n m : Nat} (h : m ≠ n) (v : W) : (s.setS n v).sreg m = s.sreg m := by
  rw [State.sreg_eq_nth, State.sfile_setS, nth_set_ne h, State.sreg_eq_nth]

theorem State.spair_setS2_same {s : State} {n : Nat} (h : n + 1 < s.sfile.length) (v : D) : (s.setS2 n v).spair n = v := by
  have hlo : (s.setS2 n v).sreg n = loW v := by
    rw [State.setS2, State.sreg_setS_ne _ (by omega), State.sreg_setS_same (by omega)]
  have hhi : (s.setS2 n v).sreg (n + 1) = hiW v := by
    rw [State.setS2, State.sreg_setS_same (by rw [State.sfile_setS, List.length_set]; exact h)]
  rw [State.spair, hlo, hhi, pair_hiW_loW]

/-! What a write of an s-register leaves alone. -/

section SetS
variable (s : State) (n : Nat) (v : W)

@[simp] theorem State.setS_isM : (s.setS n v).isM = s.isM := by
  unfold State.setS
  split <;> rfl

@[simp] theorem State.setS_scc : (s.setS n v).scc = s.scc := by
  unfold State.scc
  rw [State.setS_isM]
  unfold State.setS
  cases s.isM <;> rfl

@[simp] theorem State.setS_fmtNow : (s.setS n v).fmtNow = s.fmtNow := by
  unfold State.fmtNow
  rw [State.setS_isM]
  unfold State.setS
  cases s.isM <;> rfl

@[simp] theorem State.setS_pcNow : (s.setS n v).pcNow = s.pcNow := by
  unfold State.pcNow
  rw [State.setS_isM]
  unfold State.setS
  cases s.isM <;> rfl

@[simp] theorem State.setS_flagsNow : (s.setS n v).flagsNow = s.flagsNow := by
  unfold State.flagsNow
  rw [State.setS_isM]
  unfold State.setS
  cases s.isM <;> rfl

@[simp] theorem State.setS_mem : (s.setS n v).mem = s.mem := by
  unfold State.setS
  split <;> rfl
end SetS

/-! ### scc, fmt, masks and flags -/

theorem State.scc_setScc (s : State) (b : Bool) : (s.setScc b).scc = b := by
  unfold State.setScc State.scc
  cases h : s.isM <;> simp only [Bool.false_eq_true, if_false, if_true] <;> simp only [State.isM, State.modSq, State.modMcc] at * <;> simp [h]

theorem State.fmtNow_setFmt (s : State) (n : Nat) : (s.setFmt n).fmtNow = BitVec.ofNat 32 (n % 65536) := by
  unfold State.setFmt State.fmtNow
  cases h : s.isM <;> simp only [Bool.false_eq_true, if_false, if_true] <;> simp only [State.isM, State.modSq, State.modMcc] at * <;> simp [h, w32]

theorem Squad.k_setK_same {q : Squad} {n : Nat} (h1 : 1 ≤ n) (h : n ≤ q.kregs.length) (v : Mask) : (q.setK n v).k n = v := by
  unfold Squad.k Squad.setK
  rw [if_neg (by omega), nth_set_same (by omega)]

theorem Squad.k_setK_ne (q : Squad) {n m : Nat} (h1 : 1 ≤ n) (h : m ≠ n) (v : Mask) : (q.setK n v).k m = q.k m := by
  unfold Squad.k Squad.setK
  split
  · rfl
  · rw [nth_set_ne (by omega)]

/-- Flags are only added: conditions of an instruction in flight wait with its result. -/
theorem State.flagsNow_orFlags (s : State) (f : Nat) {i : Nat} (h : s.flagsNow.getLsbD i = true) : (s.orFlags f).flagsNow.getLsbD i = true := by
  unfold State.orFlags State.flagsNow at *
  cases hm : s.isM <;> simp only [hm, Bool.false_eq_true, if_false, if_true] at h ⊢ <;>
    simp only [State.isM, State.modSq, State.modMcc] at *
  · simp only [hm, Bool.false_eq_true, if_false, Squad.orFlags]
    repeat' split
    all_goals simp [h]
  · simp [hm, h]

/-- Settles O8: a read after a write, one lemma per register file. -/
theorem registerLaws : Obligations.RegisterLaws :=
  ⟨fun _ _ v h => State.sreg_setS_same h v, fun s _ _ v h => s.sreg_setS_ne h v, fun _ _ v h => State.spair_setS2_same h v,
    fun s n v => ⟨s.setS_scc n v, s.setS_fmtNow n v, s.setS_pcNow n v, s.setS_flagsNow n v, s.setS_mem n v⟩,
    State.scc_setScc, State.fmtNow_setFmt, fun _ => rfl, fun s _ v h1 h => Squad.k_setK_same (q := s.sq) h1 h v,
    fun s _ _ v h1 h => s.sq.k_setK_ne h1 h v, fun s f _ _ h => s.flagsNow_orFlags f h⟩

end Sys2Proof.Machine

/-! # Proofs: the exact integers of the types (05 R102, R103, 03 Table 3.5) -/

namespace Sys2Proof.Machine

/-! ### Numbers of the types -/

theorem tyVal_tS32 (v : W) : tyVal tS32 v.toNat = v.toInt := sext_toNat (by decide) v
theorem tyVal_tS64 (v : D) : tyVal tS64 v.toNat = v.toInt := sext_toNat (by decide) v

theorem tyVal_tN32 (v : W) : tyVal tN32 v.toNat = (v.toNat : Int) := by
  show ((v.toNat % 2 ^ 32 : Nat) : Int) = _
  rw [Nat.mod_eq_of_lt v.isLt]

theorem tyVal_tN64 (v : D) : tyVal tN64 v.toNat = (v.toNat : Int) := by
  show ((v.toNat % 2 ^ 64 : Nat) : Int) = _
  rw [Nat.mod_eq_of_lt v.isLt]

/-- Wrap is the library's cut of an integer to n bits. -/
theorem wrapI_eq_ofInt (x : Int) (n : Nat) : wrapI x n = (BitVec.ofInt n x).toNat := by
  rw [wrapI, BitVec.toNat_ofInt]

theorem clampI_eq (x : Int) {lo hi : Int} (h : lo ≤ hi) : clampI x lo hi = max lo (min x hi) := by
  unfold clampI
  split
  · omega
  · split <;> omega

/-! ### Shifts -/

theorem shiftL_eq {n : Nat} (v : BitVec n) (k : Nat) : shiftL n v.toNat k = (v <<< k).toNat := by
  rw [BitVec.toNat_shiftLeft, Nat.shiftLeft_eq, shiftL]
  split
  · next h =>
    obtain ⟨d, rfl⟩ := Nat.exists_eq_add_of_le h
    rw [pow_add, mul_comm (2 ^ n), ← mul_assoc, Nat.mul_mod_left]
  · rfl

theorem shiftR_eq {n : Nat} (v : BitVec n) (k : Nat) : shiftR n v.toNat k = (v >>> k).toNat := by
  rw [BitVec.toNat_ushiftRight, Nat.shiftRight_eq_div_pow, shiftR, Nat.mod_eq_of_lt v.isLt]
  split
  · next h => rw [Nat.div_eq_of_lt (v.isLt.trans_le (Nat.pow_le_pow_right (by decide) h))]
  · rfl

/-- A shift by more than the width leaves the sign, as one by the width does. -/
theorem toInt_div_pow_of_le {n k : Nat} (v : BitVec n) (h : n ≤ k) : v.toInt / ((2 ^ k : Nat) : Int) = v.toInt / ((2 ^ n : Nat) : Int) := by
  have hk : (2 ^ n : Nat) ≤ 2 ^ k := Nat.pow_le_pow_right (by decide) h
  have hpos : (0 : Int) < ((2 ^ n : Nat) : Int) := by positivity
  have hlo : -((2 ^ n : Nat) : Int) ≤ v.toInt := by
    have := BitVec.le_two_mul_toInt (x := v); push_cast at *; linarith
  have hhi : v.toInt < ((2 ^ n : Nat) : Int) := by
    have := BitVec.two_mul_toInt_lt (x := v); push_cast at *; linarith
  by_cases hs : v.toInt < 0
  · rw [Int.ediv_eq_neg_one_of_neg_of_le hs (by omega), Int.ediv_eq_neg_one_of_neg_of_le hs (by omega)]
  · rw [Int.ediv_eq_zero_of_lt (by omega) (by omega), Int.ediv_eq_zero_of_lt (by omega) hhi]

theorem shiftA_eq {n : Nat} (hn : n ≠ 0) (v : BitVec n) (k : Nat) : shiftA n v.toNat k = (v.sshiftRight k).toNat := by
  have hmin : v.toInt / ((2 ^ min k n : Nat) : Int) = v.toInt / ((2 ^ k : Nat) : Int) := by
    rcases Nat.le_total k n with h | h
    · rw [Nat.min_eq_left h]
    · rw [Nat.min_eq_right h, toInt_div_pow_of_le v h]
  rw [shiftA, sext_toNat hn, hmin, wrapI_eq_ofInt]
  congr 1
  apply BitVec.eq_of_toInt_eq
  rw [BitVec.toInt_sshiftRight, Int.shiftRight_eq_div_pow, BitVec.toInt_ofInt]
  rw [← Int.shiftRight_eq_div_pow, ← BitVec.toInt_sshiftRight, BitVec.toInt_bmod_cancel]

/-- Settles O23: a type's number, its wrap and clamp, and the shifts, each as the library's operation on words. -/
theorem integerTypes : Obligations.IntegerTypes := by
  refine ⟨fun v => ⟨tyVal_tS32 v, tyVal_tN32 v⟩, fun v => ⟨tyVal_tS64 v, tyVal_tN64 v⟩,
    fun x => ⟨wrapI_eq_ofInt x 32, wrapI_eq_ofInt x 32, wrapI_eq_ofInt x 64, wrapI_eq_ofInt x 64⟩, fun x => ⟨?_, ?_, ?_⟩,
    fun v k => ⟨shiftL_eq v k, shiftR_eq v k, shiftA_eq (by decide) v k⟩, fun v k => ⟨shiftL_eq v k, shiftR_eq v k, shiftA_eq (by decide) v k⟩⟩
  · rw [← clampI_eq x (by decide)]; exact wrapI_eq_ofInt _ 32
  · rw [← clampI_eq x (by decide)]; exact wrapI_eq_ofInt _ 32
  · rw [← clampI_eq x (by decide)]; exact wrapI_eq_ofInt _ 64

end Sys2Proof.Machine

/-! # Proofs: results of the scalar, mask and branch instructions (04 R79 to R88) -/

namespace Sys2Proof.Machine

/-! ### Short and literal scalar instructions (04 R79, R80) -/

section Scalar
variable {op9 : Nat} {f g : W → W → W}

/-- A short scalar instruction of an operation f has the effect of any g that agrees with it. -/
theorem scalar_shortRuns {i : Short → Instr} (f : W → W → W) (hx : ∀ w s, exec (i w) s = s.issueShort true op9 w (fun r => .done (r.scalarOp w f)))
    (h : ∀ a b, f a b = g a b) :
    ShortRuns i true op9 always (fun w r => r.setS w.d.toNat (g (r.sreg w.a.toNat) (r.sreg w.b.toNat))) :=
  shortRuns_intro _ hx (fun w r _ => by rw [State.scalarOp, h]) (fun _ _ => State.setS_todoNow _ _ _)

theorem scalar_litRuns {i : Lit → Instr} (f : W → W → W) (hx : ∀ w s, exec (i w) s = s.issueLit true op9 w (fun r => .done (r.scalarLit w f)))
    (h : ∀ a b, f a b = g a b) : LitRuns i true op9 always (fun w r => r.setS w.d.toNat (g (r.sreg w.a.toNat) w.lit)) :=
  litRuns_intro _ hx (fun w r _ => by rw [State.scalarLit, h]) (fun _ _ => State.setS_todoNow _ _ _)
end Scalar

theorem w32_toNat (v : W) : w32 v.toNat = v := by rw [w32, BitVec.ofNat_toNat, BitVec.setWidth_eq]

theorem sShl_eq (a b : W) : sShl a b = a <<< b.toNat := by rw [sShl, shiftL_eq, w32_toNat]
theorem sShr_eq (a b : W) : sShr a b = a >>> b.toNat := by rw [sShr, shiftR_eq, w32_toNat]
theorem sSra_eq (a b : W) : sSra a b = a.sshiftRight b.toNat := by rw [sSra, shiftA_eq (by decide), w32_toNat]

theorem sMulh_eq (a b : W) : sMulh a b = (a.setWidth 64 * b.setWidth 64).extractLsb' 32 32 := by
  apply BitVec.eq_of_toNat_eq
  have hab : a.toNat * b.toNat < 2 ^ 64 := by
    have := Nat.mul_lt_mul'' a.isLt b.isLt; omega
  rw [extractLsb'_toNat_div, BitVec.toNat_mul, BitVec.toNat_setWidth_of_le (by decide), BitVec.toNat_setWidth_of_le (by decide),
    Nat.mod_eq_of_lt hab, sMulh, w32, BitVec.toNat_ofNat]
  rfl

theorem popc_toNat (a : W) : popc a.toNat 32 = ((List.range 32).filter (fun i => a.getLsbD i)).length := by
  simp only [popc, BitVec.testBit_toNat]

theorem clz_toNat (a : W) : clz a.toNat 32 = if a = 0 then 32 else 31 - Nat.log2 a.toNat := by
  rw [clz, Nat.mod_eq_of_lt a.isLt]
  by_cases h : a = 0
  · subst h; rfl
  · have : a.toNat ≠ 0 := fun hv => h (BitVec.eq_of_toNat_eq (by simpa using hv))
    rw [if_neg this, if_neg h]
    omega

/-- Settles O11: each row of Table 4.2 is its operation on words. -/
theorem scalarResults : Obligations.ScalarResults :=
  ⟨scalar_shortRuns (g := (· + ·)) (· + ·) (fun _ _ => rfl) (fun _ _ => rfl),
   scalar_shortRuns (g := (· - ·)) (· - ·) (fun _ _ => rfl) (fun _ _ => rfl),
   scalar_shortRuns (g := (· * ·)) (· * ·) (fun _ _ => rfl) (fun _ _ => rfl),
   scalar_shortRuns (g := (fun a b => (a.setWidth 64 * b.setWidth 64).extractLsb' 32 32)) sMulh (fun _ _ => rfl) sMulh_eq,
   scalar_shortRuns (g := (· &&& ·)) (· &&& ·) (fun _ _ => rfl) (fun _ _ => rfl),
   scalar_shortRuns (g := (· ||| ·)) (· ||| ·) (fun _ _ => rfl) (fun _ _ => rfl),
   scalar_shortRuns (g := (· ^^^ ·)) (· ^^^ ·) (fun _ _ => rfl) (fun _ _ => rfl),
   scalar_shortRuns (g := (fun a _ => ~~~a)) (fun a _ => ~~~a) (fun _ _ => rfl) (fun _ _ => rfl),
   scalar_shortRuns (g := (fun a b => a <<< b.toNat)) sShl (fun _ _ => rfl) sShl_eq,
   scalar_shortRuns (g := (fun a b => a >>> b.toNat)) sShr (fun _ _ => rfl) sShr_eq,
   scalar_shortRuns (g := (fun a b => a.sshiftRight b.toNat)) sSra (fun _ _ => rfl) sSra_eq,
   scalar_shortRuns (g := (fun a _ => a)) (fun a _ => a) (fun _ _ => rfl) (fun _ _ => rfl),
   scalar_shortRuns (g := (fun a _ => BitVec.ofNat 32 ((List.range 32).filter (fun i => a.getLsbD i)).length)) (fun a _ => w32 (popc a.toNat 32)) (fun _ _ => rfl) (fun a _ => congrArg w32 (popc_toNat a)),
   scalar_shortRuns (g := (fun a _ => BitVec.ofNat 32 (if a = 0 then 32 else 31 - Nat.log2 a.toNat))) (fun a _ => w32 (clz a.toNat 32)) (fun _ _ => rfl) (fun a _ => congrArg w32 (clz_toNat a)),
   scalar_litRuns (g := (· + ·)) (· + ·) (fun _ _ => rfl) (fun _ _ => rfl),
   scalar_litRuns (g := (· * ·)) (· * ·) (fun _ _ => rfl) (fun _ _ => rfl),
   scalar_litRuns (g := (· &&& ·)) (· &&& ·) (fun _ _ => rfl) (fun _ _ => rfl),
   scalar_litRuns (g := (· ||| ·)) (· ||| ·) (fun _ _ => rfl) (fun _ _ => rfl),
   scalar_litRuns (g := (· ^^^ ·)) (· ^^^ ·) (fun _ _ => rfl) (fun _ _ => rfl),
   scalar_litRuns (g := (fun a b => a <<< b.toNat)) sShl (fun _ _ => rfl) sShl_eq,
   scalar_litRuns (g := (fun a b => a >>> b.toNat)) sShr (fun _ _ => rfl) sShr_eq,
   scalar_litRuns (g := (fun a b => a.sshiftRight b.toNat)) sSra (fun _ _ => rfl) sSra_eq,
   scalar_litRuns (g := (fun _ b => b)) (fun _ b => b) (fun _ _ => rfl) (fun _ _ => rfl)⟩

/-! ### Typed scalar instructions (04 R81, R83) -/

theorem exec_smin (w : Long) (s : State) : exec (.smin w) s = s.issueLong true 0x00B w
    (fun r => .done (r.putS (xType w.x) w.d.toNat (tyOut (xType w.x) false (lesser (r.sai w) (r.sbi w))))) := rfl
theorem exec_smax (w : Long) (s : State) : exec (.smax w) s = s.issueLong true 0x00C w
    (fun r => .done (r.putS (xType w.x) w.d.toNat (tyOut (xType w.x) false (greater (r.sai w) (r.sbi w))))) := rfl
theorem exec_scmp (w : Long) (s : State) : exec (.scmp w) s = s.issueLong true 0x010 w
    (fun r => .done (r.setScc (condHolds (xSub w.x) (decide (r.sai w < r.sbi w)) (decide (r.sai w = r.sbi w))))) := rfl
theorem exec_sbfx (w : Long) (s : State) : exec (.sbfx w) s = s.issueLong true 0x011 w
    (fun r => .done (r.setS w.d.toNat (w32 (fieldX w.x (r.sreg w.a.toNat).toNat)))) := rfl
theorem exec_sbfi (w : Long) (s : State) : exec (.sbfi w) s = s.issueLong true 0x012 w
    (fun r => .done (r.setS w.d.toNat (w32 (fieldI w.x (r.sreg w.a.toNat).toNat (r.sreg w.b.toNat).toNat)))) := rfl

/-- A result under a type goes to the register, or the pair, as a word. -/
theorem State.putS_word (r : State) {t : Nat} (h : is64 t = false) (d : Nat) (x : Int) :
    r.putS t d (tyOut t false x) = r.setS d (BitVec.ofInt 32 x) := by
  rw [State.putS, tyOut, h]
  simp only [Bool.false_eq_true, if_false]
  rw [wrapI_eq_ofInt, w32_toNat]

theorem State.putS_pair (r : State) {t : Nat} (h : is64 t = true) (d : Nat) (x : Int) :
    r.putS t d (tyOut t false x) = r.setS2 d (BitVec.ofInt 64 x) := by
  rw [State.putS, tyOut, h]
  simp only [Bool.false_eq_true, if_false, if_true]
  rw [wrapI_eq_ofInt, BitVec.ofNat_toNat, BitVec.setWidth_eq]

/-! The operands a and b under each type. -/

section Operands
variable (r : State) {w : Long}

theorem State.sai_tS32 (h : xType w.x = tS32) : r.sai w = (r.sreg w.a.toNat).toInt := by rw [State.sai, h]; exact tyVal_tS32 _
theorem State.sbi_tS32 (h : xType w.x = tS32) : r.sbi w = (r.sreg w.b.toNat).toInt := by rw [State.sbi, h]; exact tyVal_tS32 _
theorem State.sai_tN32 (h : xType w.x = tN32) : r.sai w = ((r.sreg w.a.toNat).toNat : Int) := by rw [State.sai, h]; exact tyVal_tN32 _
theorem State.sbi_tN32 (h : xType w.x = tN32) : r.sbi w = ((r.sreg w.b.toNat).toNat : Int) := by rw [State.sbi, h]; exact tyVal_tN32 _
theorem State.sai_tS64 (h : xType w.x = tS64) : r.sai w = (r.spair w.a.toNat).toInt := by rw [State.sai, h]; exact tyVal_tS64 _
theorem State.sbi_tS64 (h : xType w.x = tS64) : r.sbi w = (r.spair w.b.toNat).toInt := by rw [State.sbi, h]; exact tyVal_tS64 _
theorem State.sai_tN64 (h : xType w.x = tN64) : r.sai w = ((r.spair w.a.toNat).toNat : Int) := by rw [State.sai, h]; exact tyVal_tN64 _
theorem State.sbi_tN64 (h : xType w.x = tN64) : r.sbi w = ((r.spair w.b.toNat).toNat : Int) := by rw [State.sbi, h]; exact tyVal_tN64 _
end Operands

/-! The lesser and the greater of two words under an order of their numbers. -/

section Order
variable {n : Nat} {val : BitVec n → Int} {le : BitVec n → BitVec n → Bool} (hval : ∀ a, BitVec.ofInt n (val a) = a)
  (hle : ∀ a b, le a b = decide (val a ≤ val b))
include hval hle

theorem ofInt_lesser (a b : BitVec n) : BitVec.ofInt n (lesser (val a) (val b)) = if le a b = true then a else b := by
  have h : le a b = true ↔ val a ≤ val b := by rw [hle, decide_eq_true_eq]
  by_cases hlt : val b < val a
  · rw [lesser, if_pos hlt, if_neg (by rw [h]; omega), hval]
  · rw [lesser, if_neg hlt, if_pos (by rw [h]; omega), hval]

theorem ofInt_greater (a b : BitVec n) : BitVec.ofInt n (greater (val a) (val b)) = if le a b = false then a else b := by
  have h : le a b = false ↔ ¬ val a ≤ val b := by rw [hle, decide_eq_false_iff_not]
  by_cases hlt : val a < val b
  · rw [greater, if_pos hlt, if_neg (by rw [h]; omega), hval]
  · rw [greater, if_neg hlt, hval]
    split
    · rfl
    · next hle' =>
      have heq : val a = val b := by rw [h] at hle'; omega
      rw [← hval a, heq, hval]
end Order

theorem ofInt_natCast_toNat {n : Nat} (a : BitVec n) : BitVec.ofInt n (a.toNat : Int) = a := by
  rw [BitVec.ofInt_natCast, BitVec.ofNat_toNat, BitVec.setWidth_eq]
theorem sle_decide {n : Nat} (a b : BitVec n) : a.sle b = decide (a.toInt ≤ b.toInt) := rfl
theorem ule_decide {n : Nat} (a b : BitVec n) : a.ule b = decide ((a.toNat : Int) ≤ (b.toNat : Int)) := by
  simp only [BitVec.ule, Nat.cast_le]

/-- smin and smax under each type. -/
theorem smin_smax_longRuns : ∀ i ∈ [(Instr.smin, 0x00B, true), (Instr.smax, 0x00C, false)],
    LongRuns i.1 true i.2.1 (fun w _ => xType w.x = tS32) (fun w r =>
      r.setS w.d.toNat (if (r.sreg w.a.toNat).sle (r.sreg w.b.toNat) = i.2.2 then r.sreg w.a.toNat else r.sreg w.b.toNat)) ∧
    LongRuns i.1 true i.2.1 (fun w _ => xType w.x = tN32) (fun w r =>
      r.setS w.d.toNat (if (r.sreg w.a.toNat).ule (r.sreg w.b.toNat) = i.2.2 then r.sreg w.a.toNat else r.sreg w.b.toNat)) ∧
    LongRuns i.1 true i.2.1 (fun w _ => xType w.x = tS64) (fun w r =>
      r.setS2 w.d.toNat (if (r.spair w.a.toNat).sle (r.spair w.b.toNat) = i.2.2 then r.spair w.a.toNat else r.spair w.b.toNat)) ∧
    LongRuns i.1 true i.2.1 (fun w _ => xType w.x = tN64) (fun w r =>
      r.setS2 w.d.toNat (if (r.spair w.a.toNat).ule (r.spair w.b.toNat) = i.2.2 then r.spair w.a.toNat else r.spair w.b.toNat)) := by
  intro i hi
  simp only [List.mem_cons, List.not_mem_nil, or_false] at hi
  rcases hi with rfl | rfl
  · refine ⟨longRuns_intro _ exec_smin (fun w r h => ?_) (fun _ _ => State.setS_todoNow _ _ _),
      longRuns_intro _ exec_smin (fun w r h => ?_) (fun _ _ => State.setS_todoNow _ _ _),
      longRuns_intro _ exec_smin (fun w r h => ?_) (fun _ _ => State.setS2_todoNow _ _ _),
      longRuns_intro _ exec_smin (fun w r h => ?_) (fun _ _ => State.setS2_todoNow _ _ _)⟩
    · rw [r.sai_tS32 h, r.sbi_tS32 h, r.putS_word (by rw [h]; rfl), ofInt_lesser (fun _ => BitVec.ofInt_toInt) sle_decide]
    · rw [r.sai_tN32 h, r.sbi_tN32 h, r.putS_word (by rw [h]; rfl), ofInt_lesser ofInt_natCast_toNat ule_decide]
    · rw [r.sai_tS64 h, r.sbi_tS64 h, r.putS_pair (by rw [h]; rfl), ofInt_lesser (fun _ => BitVec.ofInt_toInt) sle_decide]
    · rw [r.sai_tN64 h, r.sbi_tN64 h, r.putS_pair (by rw [h]; rfl), ofInt_lesser ofInt_natCast_toNat ule_decide]
  · refine ⟨longRuns_intro _ exec_smax (fun w r h => ?_) (fun _ _ => State.setS_todoNow _ _ _),
      longRuns_intro _ exec_smax (fun w r h => ?_) (fun _ _ => State.setS_todoNow _ _ _),
      longRuns_intro _ exec_smax (fun w r h => ?_) (fun _ _ => State.setS2_todoNow _ _ _),
      longRuns_intro _ exec_smax (fun w r h => ?_) (fun _ _ => State.setS2_todoNow _ _ _)⟩
    · rw [r.sai_tS32 h, r.sbi_tS32 h, r.putS_word (by rw [h]; rfl), ofInt_greater (fun _ => BitVec.ofInt_toInt) sle_decide]
    · rw [r.sai_tN32 h, r.sbi_tN32 h, r.putS_word (by rw [h]; rfl), ofInt_greater ofInt_natCast_toNat ule_decide]
    · rw [r.sai_tS64 h, r.sbi_tS64 h, r.putS_pair (by rw [h]; rfl), ofInt_greater (fun _ => BitVec.ofInt_toInt) sle_decide]
    · rw [r.sai_tN64 h, r.sbi_tN64 h, r.putS_pair (by rw [h]; rfl), ofInt_greater ofInt_natCast_toNat ule_decide]

/-- A comparison code on an order holds as each of its tests says (04 Table 4.3). -/
theorem condHolds_order {n : Nat} {val : BitVec n → Int} {lt le : BitVec n → BitVec n → Bool} (hval : ∀ a, BitVec.ofInt n (val a) = a)
    (hlt : ∀ a b, lt a b = decide (val a < val b)) (hle : ∀ a b, le a b = decide (val a ≤ val b)) (a b : BitVec n) :
    condHolds 0 (decide (val a < val b)) (decide (val a = val b)) = (a == b) ∧
    condHolds 1 (decide (val a < val b)) (decide (val a = val b)) = (a != b) ∧
    condHolds 2 (decide (val a < val b)) (decide (val a = val b)) = lt a b ∧
    condHolds 3 (decide (val a < val b)) (decide (val a = val b)) = le a b ∧
    condHolds 4 (decide (val a < val b)) (decide (val a = val b)) = lt b a ∧
    ∀ c, condHolds (c + 5) (decide (val a < val b)) (decide (val a = val b)) = le b a := by
  have heq : val a = val b ↔ a = b := ⟨fun h => by rw [← hval a, h, hval], fun h => by rw [h]⟩
  have hbeq : decide (val a = val b) = (a == b) := by rw [Bool.eq_iff_iff]; simp [heq]
  refine ⟨hbeq, ?_, (hlt a b).symm, ?_, ?_, fun c => ?_⟩
  · show (!decide (val a = val b)) = _
    rw [hbeq]; rfl
  · show (decide (val a < val b) || decide (val a = val b)) = _
    rw [hle, Bool.eq_iff_iff]; simp; omega
  · show (!decide (val a < val b) && !decide (val a = val b)) = _
    rw [hlt, Bool.eq_iff_iff]; simp; omega
  · show (!decide (val a < val b)) = _
    rw [hle, Bool.eq_iff_iff]; simp

theorem slt_decide {n : Nat} (a b : BitVec n) : a.slt b = decide (a.toInt < b.toInt) := rfl
theorem ult_decide {n : Nat} (a b : BitVec n) : a.ult b = decide ((a.toNat : Int) < (b.toNat : Int)) := by
  simp only [BitVec.ult, Nat.cast_lt]

/-- scmp under a type writes what the conditions of the type's order say. -/
theorem scmp_longRuns {t : Nat} {e : Long → State → Bool} (h : ∀ w r, xType w.x = t →
    condHolds (xSub w.x) (decide (r.sai w < r.sbi w)) (decide (r.sai w = r.sbi w)) = e w r) :
    LongRuns .scmp true 0x010 (fun w _ => xType w.x = t) (fun w r => r.setScc (e w r)) :=
  longRuns_intro _ exec_scmp (fun w r ht => by rw [h w r ht]) (fun _ _ => State.setScc_todoNow _ _)

/-! ### Fields (04 R83) -/

theorem bits_field {pos len : Nat} (h : 1 ≤ len) (a : Nat) : bits a (pos + len - 1) pos = a / 2 ^ pos % 2 ^ len := by
  rw [bits, Nat.shiftRight_eq_div_pow, show pos + len - 1 - pos + 1 = len by omega]

/-- A field that is taken, its sign extended with x[13]. -/
theorem fieldX_word {x : BitVec 16} (h : 1 ≤ bfLen x) (a : W) : w32 (fieldX x a.toNat) =
    if x.getLsbD 13 then (a.extractLsb' (bfPos x) (bfLen x)).signExtend 32 else (a.extractLsb' (bfPos x) (bfLen x)).setWidth 32 := by
  have hv : bits a.toNat (bfPos x + bfLen x - 1) (bfPos x) = (a.extractLsb' (bfPos x) (bfLen x)).toNat := by
    rw [bits_field h, extractLsb'_toNat_div]
  simp only [fieldX, hv, bit, BitVec.testBit_toNat]
  split
  · rw [sext_toNat (by omega), wrapI_eq_ofInt, w32_toNat]; rfl
  · rw [w32, BitVec.ofNat_toNat]

/-- A field that is replaced: the bits below it, the new ones, the bits above it. -/
theorem fieldI_eq {x : BitVec 16} (h : 1 ≤ bfLen x) (a b : Nat) : fieldI x a b =
    a % 2 ^ bfPos x + b % 2 ^ bfLen x * 2 ^ bfPos x + a / 2 ^ (bfPos x + bfLen x) * 2 ^ (bfPos x + bfLen x) := by
  simp only [fieldI, bits_field h]
  generalize bfPos x = p
  generalize bfLen x = l
  have h1 : a = a % 2 ^ p + 2 ^ p * (a / 2 ^ p) := (Nat.mod_add_div a (2 ^ p)).symm
  have h2 : a / 2 ^ p = a / 2 ^ p % 2 ^ l + 2 ^ l * (a / 2 ^ p / 2 ^ l) := (Nat.mod_add_div (a / 2 ^ p) (2 ^ l)).symm
  have h3 : a = a % 2 ^ p + a / 2 ^ p % 2 ^ l * 2 ^ p + a / 2 ^ (p + l) * 2 ^ (p + l) := by
    calc a = a % 2 ^ p + 2 ^ p * (a / 2 ^ p) := h1
      _ = a % 2 ^ p + 2 ^ p * (a / 2 ^ p % 2 ^ l + 2 ^ l * (a / 2 ^ p / 2 ^ l)) := by rw [← h2]
      _ = _ := by rw [Nat.div_div_eq_div_mul, ← pow_add, pow_add]; ring
  generalize b % 2 ^ l * 2 ^ p = v
  omega

/-- Settles O12: under each type the operands are the numbers of words, and the results words again. -/
theorem typedScalarResults : Obligations.TypedScalarResults := by
  refine ⟨smin_smax_longRuns, scmp_longRuns (fun w r ht => ?_), scmp_longRuns (fun w r ht => ?_), scmp_longRuns (fun w r ht => ?_),
    scmp_longRuns (fun w r ht => ?_), fun pos len hlen _ => ⟨?_, ?_⟩⟩
  · rw [r.sai_tS32 ht, r.sbi_tS32 ht]
    obtain ⟨h0, h1, h2, h3, h4, h5⟩ := condHolds_order (fun _ => BitVec.ofInt_toInt) slt_decide sle_decide (r.sreg w.a.toNat) (r.sreg w.b.toNat)
    rcases xSub w.x with _ | _ | _ | _ | _ | c
    exacts [h0, h1, h2, h3, h4, h5 c]
  · rw [r.sai_tN32 ht, r.sbi_tN32 ht]
    obtain ⟨h0, h1, h2, h3, h4, h5⟩ := condHolds_order ofInt_natCast_toNat ult_decide ule_decide (r.sreg w.a.toNat) (r.sreg w.b.toNat)
    rcases xSub w.x with _ | _ | _ | _ | _ | c
    exacts [h0, h1, h2, h3, h4, h5 c]
  · rw [r.sai_tS64 ht, r.sbi_tS64 ht]
    obtain ⟨h0, h1, h2, h3, h4, h5⟩ := condHolds_order (fun _ => BitVec.ofInt_toInt) slt_decide sle_decide (r.spair w.a.toNat) (r.spair w.b.toNat)
    rcases xSub w.x with _ | _ | _ | _ | _ | c
    exacts [h0, h1, h2, h3, h4, h5 c]
  · rw [r.sai_tN64 ht, r.sbi_tN64 ht]
    obtain ⟨h0, h1, h2, h3, h4, h5⟩ := condHolds_order ofInt_natCast_toNat ult_decide ule_decide (r.spair w.a.toNat) (r.spair w.b.toNat)
    rcases xSub w.x with _ | _ | _ | _ | _ | c
    exacts [h0, h1, h2, h3, h4, h5 c]
  · refine longRuns_intro _ exec_sbfx (fun w r h => ?_) (fun _ _ => State.setS_todoNow _ _ _)
    obtain ⟨rfl, rfl⟩ := h
    rw [fieldX_word hlen]
  · refine longRuns_intro _ exec_sbfi (fun w r h => ?_) (fun _ _ => State.setS_todoNow _ _ _)
    obtain ⟨rfl, rfl⟩ := h
    rw [fieldI_eq hlen]; rfl

/-! ### Masks (04 R85, R86) -/

theorem lowBit_eq {v : W} {n : Nat} (hn : n ≤ 32) (hlow : ∀ i < n, v.getLsbD i = false) (h : n = 32 ∨ v.getLsbD n = true) :
    lowBit v.toNat 32 = n := by
  unfold lowBit
  simp only [BitVec.testBit_toNat]
  rcases h with rfl | h
  · have : (List.range 32).find? (fun i => v.getLsbD i) = none := by
      rw [List.find?_eq_none]
      intro i hi
      rw [hlow i (List.mem_range.mp hi)]; decide
    rw [this]; rfl
  · have hlt : n < 32 := by
      by_contra hge
      rw [BitVec.getLsbD_of_ge v n (by omega)] at h
      cases h
    have : (List.range 32).find? (fun i => v.getLsbD i) = some n := by
      rw [List.find?_range_eq_some]
      exact ⟨h, List.mem_range.mpr hlt, fun i hi => by rw [hlow i hi]; rfl⟩
    rw [this]; rfl

/-- Settles O15: the bodies of the mask instructions are the rows of Table 4.4. -/
theorem maskResults : Obligations.MaskResults :=
  ⟨shortRuns_intro _ (fun _ _ => rfl) (fun _ _ _ => rfl) (fun _ _ => rfl),
   shortRuns_intro _ (fun _ _ => rfl) (fun _ _ _ => rfl) (fun _ _ => rfl),
   shortRuns_intro _ (fun _ _ => rfl) (fun _ _ _ => rfl) (fun _ _ => rfl),
   shortRuns_intro _ (fun _ _ => rfl) (fun _ _ _ => rfl) (fun _ _ => rfl),
   shortRuns_intro _ (fun _ _ => rfl) (fun _ _ _ => rfl) (fun _ _ => rfl),
   shortRuns_intro _ (fun _ _ => rfl) (fun _ _ _ => rfl) (fun _ _ => rfl),
   shortRuns_intro _ (fun _ _ => rfl) (fun _ _ _ => rfl) (fun _ _ => State.setS_todoNow _ _ _),
   litRuns_intro _ (fun _ _ => rfl) (fun _ _ _ => rfl) (fun _ _ => rfl),
   shortRuns_intro (fun w r => .done (r.setS w.d.toNat (w32 (popc (r.sq.k w.a.toNat).toNat 32)))) (fun _ _ => rfl)
     (fun w r _ => by rw [popc_toNat]; rfl) (fun _ _ => State.setS_todoNow _ _ _),
   fun n hn => shortRuns_intro (fun w r => .done (r.setS w.d.toNat (w32 (lowBit (r.sq.k w.a.toNat).toNat 32)))) (fun _ _ => rfl)
     (fun w r h => by rw [lowBit_eq hn h.1 h.2]; rfl) (fun _ _ => State.setS_todoNow _ _ _)⟩

/-! ### Branches (04 R87, R88) -/

/-- A branch of literal form jumps where its condition holds and falls through where not. -/
theorem branch_litJumps {i : Lit → Instr} {op9 : Nat} {taken : Lit → State → Bool} {ok : Lit → State → Prop}
    (hx : ∀ w s, exec (i w) s = s.issueLit true op9 w (fun r => r.branch w (taken w r))) (h : ∀ w r, ok w r → taken w r = true) :
    LitJumps i true op9 ok (fun w r => r.setPc (r.pcNow + w.lit.signExtend 64)) :=
  litJumps_intro _ hx (fun w r hok => by rw [State.branch, h w r hok]; rfl) (fun _ _ => State.setPc_todoNow _ _)

theorem branch_litRuns {i : Lit → Instr} {op9 : Nat} {taken : Lit → State → Bool} {ok : Lit → State → Prop}
    (hx : ∀ w s, exec (i w) s = s.issueLit true op9 w (fun r => r.branch w (taken w r))) (h : ∀ w r, ok w r → taken w r = false) :
    LitRuns i true op9 ok (fun _ r => r) :=
  litRuns_intro _ hx (fun w r hok => by rw [State.branch, h w r hok]; rfl) (fun _ _ => rfl)

/-- Both outcomes of a branch whose condition is a test of the mask a on the active mask. -/
theorem maskBranch {i : Lit → Instr} {op9 : Nat} {test cond : Mask → Mask → Bool}
    (hx : ∀ w s, exec (i w) s = s.issueLit true op9 w (fun r => r.branch w (test (r.sq.k w.a.toNat) (r.sq.k 0))))
    (h : ∀ k m, test k m = cond k m) :
    LitJumps i true op9 (fun w r => cond (r.sq.k w.a.toNat) r.sq.sp.mask = true) (fun w r => r.setPc (r.pcNow + w.lit.signExtend 64)) ∧
    LitRuns i true op9 (fun w r => cond (r.sq.k w.a.toNat) r.sq.sp.mask = false) (fun _ r => r) :=
  ⟨branch_litJumps hx (fun _ _ hc => (h _ _).trans hc), branch_litRuns hx (fun _ _ hc => (h _ _).trans hc)⟩

/-- A jump to a pair goes to a multiple of 4 and refuses another address, reason 8. -/
theorem jump_pair {i : Short → Instr} {op9 : Nat} (hx : ∀ w s, exec (i w) s = s.issueShort true op9 w (fun r => r.jumpTo w)) :
    ShortJumps i true op9 (fun w r => (r.spair w.a.toNat).extractLsb' 0 2 = 0) (fun w r => r.setPc (r.spair w.a.toNat)) ∧
    (∀ (w : Short) (s : State), s.Goes (s.formShort true op9 w) →
      ((s.atIssue (s.formShort true op9 w)).spair w.a.toNat).extractLsb' 0 2 ≠ 0 →
      exec (i w) s = .next ((s.ready (s.formShort true op9 w)).illegal 8 ⟨s.pcNow, encShort true op9 w, 0⟩)) := by
  have hmod : ∀ v : D, v.extractLsb' 0 2 = 0 ↔ v.toNat % 4 = 0 := by
    intro v
    rw [← BitVec.toNat_inj, extractLsb'_toNat_div]
    simp
  refine ⟨shortJumps_intro _ hx (fun w r h => by rw [State.jumpTo, if_pos ((hmod _).mp h)]) (fun _ _ => State.setPc_todoNow _ _), ?_⟩
  intro w s hgo h
  exact (hx w s).trans (State.issue_trap hgo (by rw [State.jumpTo, if_neg (fun hv => h ((hmod _).mpr hv))]))

/-- Settles O16: each branch is `State.branch` with its condition, jmp and ret are `State.jumpTo`. -/
theorem branchTargets : Obligations.BranchTargets := by
  refine ⟨branch_litJumps (taken := fun _ _ => true) (fun _ _ => rfl) (fun _ _ _ => rfl),
    branch_litJumps (taken := fun _ r => !r.scc) (fun _ _ => rfl) (fun _ _ h => by rw [h]; rfl),
    branch_litRuns (taken := fun _ r => !r.scc) (fun _ _ => rfl) (fun _ _ h => by rw [h]; rfl),
    branch_litJumps (taken := fun _ r => r.scc) (fun _ _ => rfl) (fun _ _ h => h),
    branch_litRuns (taken := fun _ r => r.scc) (fun _ _ => rfl) (fun _ _ h => h), ?_, ?_, ?_⟩
  · intro i hi
    simp only [List.mem_cons, List.not_mem_nil, or_false] at hi
    rcases hi with rfl | rfl
    · exact jump_pair (fun _ _ => rfl)
    · exact jump_pair (fun _ _ => rfl)
  · exact litJumps_intro (fun w r => .jump ((r.setS2 w.d.toNat (r.pcNow + 8)).setPc (r.target w))) (fun _ _ => rfl) (fun _ _ _ => rfl)
      (fun _ _ => by rw [State.setPc_todoNow, State.setS2_todoNow])
  · intro i hi
    simp only [List.mem_cons, List.not_mem_nil, or_false] at hi
    rcases hi with rfl | rfl | rfl
    · exact maskBranch (test := fun k m => k &&& m != 0) (fun _ _ => rfl) (fun k m => by rw [Bool.eq_iff_iff]; simp)
    · exact maskBranch (test := fun k m => k &&& m == m) (fun _ _ => rfl) (fun k m => by rw [Bool.eq_iff_iff]; simp)
    · exact maskBranch (test := fun k m => k &&& m == 0) (fun _ _ => rfl) (fun k m => by rw [Bool.eq_iff_iff]; simp)

end Sys2Proof.Machine

/-! # Refutation: a scalar write of the MCC clears the poison mark of its register (22 R350) -/

namespace Sys2Proof.Machine

/-- An MCC at reset whose register s1 is poisoned. -/
def poisonedMcc : State := { State.reset with focus := .mcc, mcc := { Mcc.blank with badRegs := [1] } }

/-- sadd s1, s2, s3 issues there: the poisoned register is no source. -/
theorem poisonedMcc_goes : poisonedMcc.Goes (poisonedMcc.formShort true 0x000 ⟨1, 2, 3⟩) where
  focus := by decide
  rest := rfl
  legal := by decide
  lanes := .inl rfl
  mode := rfl
  clean := rfl
  free := rfl
  queue := rfl

/-- An instruction that has ended in an MCC leaves its poison marks as its effect left them. -/
theorem poisonedMcc_sadd : exec (.sadd ⟨1, 2, 3⟩) poisonedMcc =
    .next (poisonedMcc.ended 4 ((poisonedMcc.atIssue (poisonedMcc.formShort true 0x000 ⟨1, 2, 3⟩)).setS 1 0)) :=
  (scalar_shortRuns (g := (· + ·)) (· + ·) (fun _ _ => rfl) (fun _ _ => rfl) ⟨1, 2, 3⟩ poisonedMcc poisonedMcc_goes trivial).trans rfl

/-- Refutes O58: the frame of a scalar instruction leaves out `badRegs` of the MCC, from which a write of s[d] takes the mark of s[d]
(22 R350): with s1 poisoned, sadd s1, s2, s3 of an MCC changes it. -/
theorem not_scalarFrames : ¬ Obligations.ScalarFrames := by
  intro h
  obtain ⟨u, hu, honly⟩ := h.1 (Instr.sadd, 0x000) (by simp) ⟨1, 2, 3⟩ poisonedMcc poisonedMcc_goes
  have hfocus : u.focus = .mcc := congrArg State.focus honly.world
  have hsampled : u.sampled = u := by simp [State.sampled, State.isM, hfocus]
  rw [poisonedMcc_sadd, hsampled] at hu
  have hend : u.mcc.badRegs = [] := by cases hu; rfl
  have hframe : u.mcc.badRegs = [1] := congrArg Mcc.badRegs honly.mcc
  rw [hend] at hframe
  cases hframe

end Sys2Proof.Machine

/-! # Proofs: results of the lane integer and float instructions, and what a lane result writes (05 R100 to R109) -/

namespace Sys2Proof.Machine

/-! ### The lane integer instructions (05 R102 to R105) -/

/-- A long form that writes one value per lane. -/
theorem laneOp_longRuns {i : Long → Instr} {uni : Bool} {op9 : Nat} {ok : Long → State → Prop} {t : Long → Nat} {f g : Long → State → Nat → Nat × Nat}
    (hx : ∀ w s, exec (i w) s = s.issueLong uni op9 w (fun r => .done (r.laneOp (t w) w.d.toNat (f w r))))
    (h : ∀ w r l, ok w r → f w r l = g w r l) : LongRuns i uni op9 ok (fun w r => r.laneOp (t w) w.d.toNat (g w r)) :=
  longRuns_intro _ hx (fun w r hok => by rw [show f w r = g w r from funext (fun l => h w r l hok)]) (fun _ _ => State.laneOp_todoNow _ _ _ _)

theorem laneOp_litRuns {i : Lit → Instr} {uni : Bool} {op9 : Nat} {t : Nat} {f g : Lit → State → Nat → Nat × Nat}
    (hx : ∀ w s, exec (i w) s = s.issueLit uni op9 w (fun r => .done (r.laneOp t w.d.toNat (f w r))))
    (h : ∀ w r l, f w r l = g w r l) : LitRuns i uni op9 always (fun w r => r.laneOp t w.d.toNat (g w r)) :=
  litRuns_intro _ hx (fun w r _ => by rw [show f w r = g w r from funext (h w r)]) (fun _ _ => State.laneOp_todoNow _ _ _ _)

theorem laneOp_shortRuns {i : Short → Instr} {uni : Bool} {op9 : Nat} {t : Nat} {f g : Short → State → Nat → Nat × Nat}
    (hx : ∀ w s, exec (i w) s = s.issueShort uni op9 w (fun r => .done (r.laneOp t w.d.toNat (f w r))))
    (h : ∀ w r l, f w r l = g w r l) : ShortRuns i uni op9 always (fun w r => r.laneOp t w.d.toNat (g w r)) :=
  shortRuns_intro _ hx (fun w r _ => by rw [show f w r = g w r from funext (h w r)]) (fun _ _ => State.laneOp_todoNow _ _ _ _)

/-- A long form that writes one bit of a mask per lane. -/
theorem laneK_longRuns {i : Long → Instr} {uni : Bool} {op9 : Nat} {f g : Long → State → Nat → Bool × Nat}
    (hx : ∀ w s, exec (i w) s = s.issueLong uni op9 w (fun r => .done (r.laneK w.d.toNat (f w r))))
    (h : ∀ w r l, f w r l = g w r l) : LongRuns i uni op9 always (fun w r => r.laneK w.d.toNat (g w r)) :=
  longRuns_intro _ hx (fun w r _ => by rw [show f w r = g w r from funext (h w r)]) (fun _ _ => State.laneK_todoNow _ _ _)

theorem lesser_eq_min (a b : Int) : lesser a b = min a b := by unfold lesser; split <;> omega
theorem greater_eq_max (a b : Int) : greater a b = max a b := by unfold greater; split <;> omega

/-- The carry of a lane sum is its bit 32. -/
theorem State.addcSum_carry (r : State) (w : Long) (l : Nat) : bit (r.addcSum w l) 32 = decide (2 ^ 32 ≤ r.addcSum w l) := by
  have hlt : r.addcSum w l < 2 ^ 33 := by
    have := (r.sq.v w.a.toNat l).isLt
    have := (r.bw w l).isLt
    unfold State.addcSum b2n
    split <;> omega
  rw [bit, Nat.testBit_eq_decide_div_mod_eq, Bool.eq_iff_iff, decide_eq_true_eq, decide_eq_true_eq]
  omega

theorem exec_vaddc (w : Long) (s : State) : exec (.vaddc w) s = s.issueLong false 0x003 w (fun r =>
    .done (if xSub w.x = 0 then r.laneOp tN32 w.d.toNat (fun l => (r.addcSum w l, 0))
      else (r.laneOp tN32 w.d.toNat (fun l => (r.addcSum w l, 0))).laneK (xSub w.x) (fun l => (bit (r.addcSum w l) 32, 0)))) := rfl

/-! The literal forms of the exact results. -/

section Literal
variable {op9 : Nat}

theorem litOp_litRuns {i : Lit → Instr} (f : Int → Int → Int) {g : Int → Int → Int}
    (hx : ∀ w s, exec (i w) s = s.issueLit false op9 w (fun r => .done (r.litOp w tS32 f))) (h : ∀ a b, f a b = g a b) :
    LitRuns i false op9 always (fun w r => r.laneOp tS32 w.d.toNat (fun l =>
      (tyOut tS32 (satOf w.m) (g (r.sq.v w.a.toNat l).toInt w.lit.toInt), 0))) :=
  laneOp_litRuns hx (fun w r l => by rw [tyVal_tS32, tyVal_tS32, h])

theorem lane_literals : ∀ i ∈ [(Instr.vaddLit, 0x020, fun (a b : Int) => a + b), (Instr.vsubLit, 0x021, fun a b => a - b),
      (Instr.vmulLit, 0x022, fun a b => a * b), (Instr.vminLit, 0x029, fun a b => min a b), (Instr.vmaxLit, 0x02A, fun a b => max a b)],
    LitRuns i.1 false i.2.1 always (fun w r => r.laneOp tS32 w.d.toNat (fun l =>
      (tyOut tS32 (satOf w.m) (i.2.2 (r.sq.v w.a.toNat l).toInt w.lit.toInt), 0))) := by
  intro i hi
  simp only [List.mem_cons, List.not_mem_nil, or_false] at hi
  rcases hi with rfl | rfl | rfl | rfl | rfl
  · exact litOp_litRuns (· + ·) (fun _ _ => rfl) (fun _ _ => rfl)
  · exact litOp_litRuns (· - ·) (fun _ _ => rfl) (fun _ _ => rfl)
  · exact litOp_litRuns (· * ·) (fun _ _ => rfl) (fun _ _ => rfl)
  · exact litOp_litRuns lesser (fun _ _ => rfl) lesser_eq_min
  · exact litOp_litRuns greater (fun _ _ => rfl) greater_eq_max
end Literal

/-! Bit patterns (05 R104). -/

/-- Step k of the reversal has put bits 0 to k - 1 of the word into the places from 31 down. -/
theorem brev_getLsbD (a : W) (k : Nat) (hk : k ≤ 32) (j : Nat) :
    (w32 ((List.range k).foldl (fun m i => if a.toNat.testBit i then m + 2 ^ (31 - i) else m) 0)).getLsbD j =
      (decide (32 - k ≤ j ∧ j < 32) && a.getLsbD (31 - j)) := by
  induction k generalizing j with
  | zero =>
    have : ¬ (32 - 0 ≤ j ∧ j < 32) := by omega
    simp [w32, this]
  | succ k ih =>
    rw [List.range_succ, List.foldl_append]
    simp only [List.foldl_cons, List.foldl_nil, BitVec.testBit_toNat]
    simp only [BitVec.testBit_toNat] at ih
    generalize hm : List.foldl (fun m i => if a.getLsbD i = true then m + 2 ^ (31 - i) else m) 0 (List.range k) = m at ih ⊢
    have hsame : j ≠ 31 - k → decide (32 - (k + 1) ≤ j ∧ j < 32) = decide (32 - k ≤ j ∧ j < 32) := by
      intro hj; rw [decide_eq_decide]; omega
    split
    · next hbit =>
      have hone : w32 (m + 2 ^ (31 - k)) = w32 m ||| BitVec.twoPow 32 (31 - k) := by
        have htwo : BitVec.ofNat 32 (2 ^ (31 - k)) = BitVec.twoPow 32 (31 - k) :=
          BitVec.eq_of_toNat_eq (by rw [BitVec.toNat_ofNat, BitVec.toNat_twoPow])
        rw [w32, BitVec.ofNat_add, htwo, ← w32]
        apply BitVec.add_eq_or_of_and_eq_zero
        apply BitVec.eq_of_getLsbD_eq
        intro i hi
        rw [BitVec.getLsbD_and, BitVec.getLsbD_twoPow, ih (by omega)]
        by_cases hi' : 31 - k = i
        · rw [decide_eq_false (by omega), Bool.false_and, Bool.false_and, BitVec.getLsbD_zero]
        · simp [hi']
      rw [hone, BitVec.getLsbD_or, ih (by omega), BitVec.getLsbD_twoPow]
      by_cases hj : j = 31 - k
      · subst hj
        have h1 : 32 - (k + 1) ≤ 31 - k ∧ 31 - k < 32 := by omega
        rw [decide_eq_true h1, show 31 - (31 - k) = k by omega, hbit]
        simp [h1.2]
      · rw [hsame hj]
        simp [Ne.symm hj]
    · next hbit =>
      rw [ih (by omega)]
      by_cases hj : j = 31 - k
      · subst hj
        rw [show 31 - (31 - k) = k by omega, Bool.eq_false_iff.mpr hbit, Bool.and_false, Bool.and_false]
      · rw [hsame hj]

theorem brev_toNat (a : W) : w32 (brev a.toNat 32) = a.reverse := by
  apply BitVec.eq_of_getLsbD_eq
  intro j hj
  rw [BitVec.getLsbD_reverse, BitVec.getMsbD_eq_getLsbD]
  refine (brev_getLsbD a 32 (le_refl _) j).trans ?_
  simp [hj]

theorem shortOp_shortRuns {i : Short → Instr} {op9 : Nat} (f : W → W → W) {g : W → W → W}
    (hx : ∀ w s, exec (i w) s = s.issueShort false op9 w (fun r => .done (r.shortOp w f))) (h : ∀ a b, f a b = g a b) :
    ShortRuns i false op9 always (fun w r => r.laneOp tB32 w.d.toNat (fun l => ((g (r.sq.v w.a.toNat l) (r.sq.v w.b.toNat l)).toNat, 0))) :=
  laneOp_shortRuns hx (fun w r l => by rw [h])

theorem lane_shorts : ∀ i ∈ [(Instr.vand, 0x008, fun (a b : W) => a &&& b), (Instr.vor, 0x009, fun a b => a ||| b),
      (Instr.vxor, 0x00A, fun a b => a ^^^ b), (Instr.vnot, 0x00B, fun a _ => ~~~a),
      (Instr.vpopc, 0x00C, fun a _ => BitVec.ofNat 32 (popc a.toNat 32)),
      (Instr.vclz, 0x00D, fun a _ => BitVec.ofNat 32 (clz a.toNat 32)), (Instr.vbrev, 0x00E, fun a _ => a.reverse)],
    ShortRuns i.1 false i.2.1 always (fun w r => r.laneOp tB32 w.d.toNat (fun l =>
      ((i.2.2 (r.sq.v w.a.toNat l) (r.sq.v w.b.toNat l)).toNat, 0))) := by
  intro i hi
  simp only [List.mem_cons, List.not_mem_nil, or_false] at hi
  rcases hi with rfl | rfl | rfl | rfl | rfl | rfl | rfl
  · exact shortOp_shortRuns (· &&& ·) (fun _ _ => rfl) (fun _ _ => rfl)
  · exact shortOp_shortRuns (· ||| ·) (fun _ _ => rfl) (fun _ _ => rfl)
  · exact shortOp_shortRuns (· ^^^ ·) (fun _ _ => rfl) (fun _ _ => rfl)
  · exact shortOp_shortRuns (fun a _ => ~~~a) (fun _ _ => rfl) (fun _ _ => rfl)
  · exact shortOp_shortRuns (fun a _ => w32 (popc a.toNat 32)) (fun _ _ => rfl) (fun _ _ => rfl)
  · exact shortOp_shortRuns (fun a _ => w32 (clz a.toNat 32)) (fun _ _ => rfl) (fun _ _ => rfl)
  · exact shortOp_shortRuns (fun a _ => w32 (brev a.toNat 32)) (fun _ _ => rfl) (fun a _ => brev_toNat a)

theorem litBits_litRuns {i : Lit → Instr} {op9 : Nat} (f : W → W → W)
    (hx : ∀ w s, exec (i w) s = s.issueLit false op9 w (fun r => .done (r.litBits w f))) :
    LitRuns i false op9 always (fun w r => r.laneOp tB32 w.d.toNat (fun l => ((f (r.sq.v w.a.toNat l) w.lit).toNat, 0))) :=
  laneOp_litRuns hx (fun _ _ _ => rfl)

theorem shiftOp_longRuns {i : Long → Instr} {op9 : Nat} (f : Nat → Nat → Nat → Nat)
    (hx : ∀ w s, exec (i w) s = s.issueLong false op9 w (fun r => .done (r.shiftOp w f))) :
    LongRuns i false op9 always (fun w r => r.laneOp (xType w.x) w.d.toNat (fun l =>
      (f (tyWidth (xType w.x)) (r.vn (xType w.x) w.a.toNat l) (r.bw w l).toNat, 0))) :=
  laneOp_longRuns hx (fun _ _ _ _ => rfl)

theorem shiftLit_litRuns {i : Lit → Instr} {op9 : Nat} (f : Nat → Nat → Nat → Nat)
    (hx : ∀ w s, exec (i w) s = s.issueLit false op9 w (fun r => .done (r.shiftLit w f))) :
    LitRuns i false op9 always (fun w r => r.laneOp tB32 w.d.toNat (fun l => (f 32 (r.sq.v w.a.toNat l).toNat w.lit.toNat, 0))) :=
  laneOp_litRuns hx (fun _ _ _ => rfl)

theorem floatLit_litRuns {i : Lit → Instr} {op9 : Nat} (f : FV → FV → Nat × Nat)
    (hx : ∀ w s, exec (i w) s = s.issueLit false op9 w (fun r => .done (r.floatLit w f))) :
    LitRuns i false op9 always (fun w r => r.laneOp tB32 w.d.toNat (fun l => f (modA w.m (f32 (r.sq.v w.a.toNat l))) (f32 w.lit))) :=
  laneOp_litRuns hx (fun _ _ _ => rfl)

theorem floatOp_longRuns {i : Long → Instr} {op9 : Nat} (f : Long → State → IFmt → Nat → Nat → Nat × Nat)
    (hx : ∀ w s, exec (i w) s = s.issueLong false op9 w (fun r => .done (r.floatOp w (f w r)))) :
    LongRuns i false op9 always (fun w r => r.laneOp tB32 w.d.toNat (fun l => floatEach (xType w.x) (f w r (fmtOfTy (xType w.x)) l))) :=
  laneOp_longRuns hx (fun _ _ _ _ => rfl)

theorem intOp_longRuns {i : Long → Instr} {op9 : Nat} (f g : Long → State → Nat → Int)
    (hx : ∀ w s, exec (i w) s = s.issueLong false op9 w (fun r => .done (r.intOp w (f w r)))) (h : ∀ w r l, f w r l = g w r l) :
    LongRuns i false op9 always (fun w r => r.laneOp (xType w.x) w.d.toNat (fun l => (tyOut (xType w.x) (satOf w.m) (g w r l), 0))) :=
  laneOp_longRuns hx (fun w r l _ => by rw [h])

theorem patOp_longRuns {i : Long → Instr} {op9 : Nat} (f g : Long → State → Nat → Nat)
    (hx : ∀ w s, exec (i w) s = s.issueLong false op9 w (fun r => .done (r.patOp w (f w r)))) (h : ∀ w r l, f w r l = g w r l) :
    LongRuns i false op9 always (fun w r => r.laneOp (xType w.x) w.d.toNat (fun l => (g w r l, 0))) :=
  laneOp_longRuns hx (fun w r l _ => by rw [h])

theorem lane_bitLiterals : ∀ i ∈ [(Instr.vandLit, 0x023, fun (a b : W) => a &&& b), (Instr.vorLit, 0x024, fun a b => a ||| b),
      (Instr.vxorLit, 0x025, fun a b => a ^^^ b)],
    LitRuns i.1 false i.2.1 always (fun w r => r.laneOp tB32 w.d.toNat (fun l => ((i.2.2 (r.sq.v w.a.toNat l) w.lit).toNat, 0))) := by
  intro i hi
  simp only [List.mem_cons, List.not_mem_nil, or_false] at hi
  rcases hi with rfl | rfl | rfl
  · exact litBits_litRuns (· &&& ·) (fun _ _ => rfl)
  · exact litBits_litRuns (· ||| ·) (fun _ _ => rfl)
  · exact litBits_litRuns (· ^^^ ·) (fun _ _ => rfl)

theorem lane_shifts : ∀ i ∈ [(Instr.vshl, 0x010, shiftL), (Instr.vshr, 0x011, shiftR), (Instr.vsra, 0x012, shiftA)],
    LongRuns i.1 false i.2.1 always (fun w r => r.laneOp (xType w.x) w.d.toNat (fun l =>
      (i.2.2 (tyWidth (xType w.x)) (r.vn (xType w.x) w.a.toNat l) (r.bw w l).toNat, 0))) := by
  intro i hi
  simp only [List.mem_cons, List.not_mem_nil, or_false] at hi
  rcases hi with rfl | rfl | rfl
  · exact shiftOp_longRuns shiftL (fun _ _ => rfl)
  · exact shiftOp_longRuns shiftR (fun _ _ => rfl)
  · exact shiftOp_longRuns shiftA (fun _ _ => rfl)

theorem lane_shiftLiterals : ∀ i ∈ [(Instr.vshlLit, 0x026, shiftL), (Instr.vshrLit, 0x027, shiftR), (Instr.vsraLit, 0x028, shiftA)],
    LitRuns i.1 false i.2.1 always (fun w r => r.laneOp tB32 w.d.toNat (fun l =>
      (i.2.2 32 (r.sq.v w.a.toNat l).toNat w.lit.toNat, 0))) := by
  intro i hi
  simp only [List.mem_cons, List.not_mem_nil, or_false] at hi
  rcases hi with rfl | rfl | rfl
  · exact shiftLit_litRuns shiftL (fun _ _ => rfl)
  · exact shiftLit_litRuns shiftR (fun _ _ => rfl)
  · exact shiftLit_litRuns shiftA (fun _ _ => rfl)

theorem exec_vmad (w : Long) (s : State) : exec (.vmad w) s = s.issueLong false 0x006 w (fun r =>
    .done (r.laneOp (if xSub w.x = 1 then tB64 else tB32) w.d.toNat (fun l =>
      (wrapI (r.ai w l * r.bi w l + (r.vn (if xSub w.x = 1 then tB64 else tB32) w.c.toNat l : Int))
        (tyWidth (if xSub w.x = 1 then tB64 else tB32)), 0)))) := rfl

theorem exec_vcmp (w : Long) (s : State) : exec (.vcmp w) s = s.issueLong false 0x016 w (fun r => .done (r.laneK w.d.toNat (fun l =>
    (condHolds (xSub w.x) (decide (r.ai w l < r.bi w l)) (decide (r.ai w l = r.bi w l)), 0)))) := rfl

/-- A comparison code on the order of two exact integers. -/
theorem condHolds_int (a b : Int) :
    condHolds 0 (decide (a < b)) (decide (a = b)) = decide (a = b) ∧ condHolds 1 (decide (a < b)) (decide (a = b)) = decide (a ≠ b) ∧
    condHolds 2 (decide (a < b)) (decide (a = b)) = decide (a < b) ∧ condHolds 3 (decide (a < b)) (decide (a = b)) = decide (a ≤ b) ∧
    condHolds 4 (decide (a < b)) (decide (a = b)) = decide (b < a) ∧
    ∀ c, condHolds (c + 5) (decide (a < b)) (decide (a = b)) = decide (b ≤ a) := by
  refine ⟨rfl, (decide_not).symm, rfl, ?_, ?_, fun c => ?_⟩
  · show (decide (a < b) || decide (a = b)) = _
    rw [← Bool.decide_or, decide_eq_decide]; omega
  · show (!decide (a < b) && !decide (a = b)) = _
    rw [← decide_not, ← decide_not, ← Bool.decide_and, decide_eq_decide]; omega
  · show (!decide (a < b)) = _
    rw [← decide_not, decide_eq_decide]; omega

/-- Settles O21: the body of each instruction computes, lane by lane, what the statement writes. -/
theorem laneIntegerResults : Obligations.LaneIntegerResults := by
  refine ⟨intOp_longRuns (fun w r l => r.ai w l + r.bi w l) _ (fun _ _ => rfl) (fun _ _ _ => rfl),
    intOp_longRuns (fun w r l => r.ai w l - r.bi w l) _ (fun _ _ => rfl) (fun _ _ _ => rfl),
    intOp_longRuns (fun w r l => r.ai w l * r.bi w l) _ (fun _ _ => rfl) (fun _ _ _ => rfl),
    intOp_longRuns (fun w r l => r.ai w l * r.bi w l / 4294967296) _ (fun _ _ => rfl) (fun _ _ _ => by norm_num),
    intOp_longRuns (fun w r l => ((r.ai w l).natAbs : Int)) _ (fun _ _ => rfl) (fun _ _ _ => Int.natCast_natAbs _),
    intOp_longRuns (fun w r l => lesser (r.ai w l) (r.bi w l)) _ (fun _ _ => rfl) (fun _ _ _ => lesser_eq_min _ _),
    intOp_longRuns (fun w r l => greater (r.ai w l) (r.bi w l)) _ (fun _ _ => rfl) (fun _ _ _ => greater_eq_max _ _),
    ?_, ?_, lane_literals, ?_, ?_,
    patOp_longRuns (fun w r l => if (r.sq.k w.c.toNat).getLsbD l then (r.sq.v w.a.toNat l).toNat else (r.bw w l).toNat) _ (fun _ _ => rfl)
      (fun _ _ _ => rfl),
    laneK_longRuns exec_vcmp (fun w r l => ?_),
    patOp_longRuns (fun w r l => permWord (r.sq.v w.c.toNat l).toNat ((r.sq.v w.a.toNat l).toNat + 4294967296 * (r.bw w l).toNat)) _
      (fun _ _ => rfl) (fun w r l => ?_),
    laneOp_longRuns (t := fun _ => tB32) (f := fun w r l => (fieldX w.x (r.sq.v w.a.toNat l).toNat, 0)) (fun _ _ => rfl) (fun _ _ _ _ => rfl),
    laneOp_longRuns (t := fun _ => tB32) (f := fun w r l => (fieldI w.x (r.sq.v w.a.toNat l).toNat (r.sq.v w.b.toNat l).toNat, 0)) (fun _ _ => rfl)
      (fun _ _ _ _ => rfl),
    lane_shifts, lane_shiftLiterals, lane_shorts, lane_bitLiterals⟩
  · exact longRuns_intro _ exec_vmad (fun w r h => by rw [if_neg (by omega)]; rfl) (fun _ _ => State.laneOp_todoNow _ _ _ _)
  · exact longRuns_intro _ exec_vmad (fun w r h => by rw [if_pos h]; rfl) (fun _ _ => State.laneOp_todoNow _ _ _ _)
  · exact longRuns_intro _ exec_vaddc (fun w r h => by rw [if_pos h]; rfl) (fun _ _ => State.laneOp_todoNow _ _ _ _)
  · refine longRuns_intro _ exec_vaddc (fun w r h => ?_) (fun _ _ => (State.laneK_todoNow _ _ _).trans (State.laneOp_todoNow _ _ _ _))
    rw [if_neg h, show (fun l => (bit (r.addcSum w l) 32, 0)) = (fun l => (decide (2 ^ 32 ≤ r.addcSum w l), 0)) from
      funext (fun l => by rw [r.addcSum_carry])]
    rfl
  · obtain ⟨h0, h1, h2, h3, h4, h5⟩ := condHolds_int (r.ai w l) (r.bi w l)
    refine Prod.ext ?_ rfl
    rcases xSub w.x with _ | _ | _ | _ | _ | c
    exacts [h0, h1, h2, h3, h4, h5 c]
  · rw [pair, toNat_append_eq_add]
    congr 1
    omega

/-- Settles O24: the bodies of the float instructions are the statement's, element by element. -/
theorem laneFloatResults : Obligations.LaneFloatResults := by
  refine ⟨floatOp_longRuns (fun w r f l i => f.addR (r.mode (xRnd w.x)) (r.fa w l i) (r.fb w l i)) (fun _ _ => rfl),
    floatOp_longRuns (fun w r f l i => f.addR (r.mode (xRnd w.x)) (r.fa w l i) ((r.fb w l i).mods false true)) (fun _ _ => rfl),
    floatOp_longRuns (fun w r f l i => f.mulR (r.mode (xRnd w.x)) (r.fa w l i) (r.fb w l i)) (fun _ _ => rfl),
    floatOp_longRuns (fun w r f l i => f.fma (r.mode (xRnd w.x)) (r.fa w l i) (r.fb w l i) (r.fc w l i)) (fun _ _ => rfl), ?_,
    laneK_longRuns (f := fun w r l => (floatCond (xSub w.x) (r.fa w l 0) (r.fb w l 0), sigFlag [r.fa w l 0, r.fb w l 0]))
      (fun _ _ => rfl) (fun _ _ _ => rfl),
    laneOp_longRuns (t := fun _ => tB32) (f := fun w r l => ((fmtOfTy (xType w.x)).classOf (r.fa w l 0), 0)) (fun _ _ => rfl)
      (fun _ _ _ _ => rfl),
    floatOp_longRuns (fun w r f l i => f.rint (r.mode (xRnd w.x)) (r.fa w l i)) (fun _ _ => rfl), ?_⟩
  · intro i hi
    simp only [List.mem_cons, List.not_mem_nil, or_false] at hi
    rcases hi with rfl | rfl
    · exact floatOp_longRuns (fun w r f l e => f.minmaxR false (xSub w.x == 1) (r.fa w l e) (r.fb w l e)) (fun _ _ => rfl)
    · exact floatOp_longRuns (fun w r f l e => f.minmaxR true (xSub w.x == 1) (r.fa w l e) (r.fb w l e)) (fun _ _ => rfl)
  · intro i hi
    simp only [List.mem_cons, List.not_mem_nil, or_false] at hi
    rcases hi with rfl | rfl | rfl | rfl | rfl
    · exact floatLit_litRuns (fp32.addR .rne) (fun _ _ => rfl)
    · exact floatLit_litRuns (fun a b => fp32.addR .rne a (b.mods false true)) (fun _ _ => rfl)
    · exact floatLit_litRuns (fp32.mulR .rne) (fun _ _ => rfl)
    · exact floatLit_litRuns (fp32.minmaxR false false) (fun _ _ => rfl)
    · exact floatLit_litRuns (fp32.minmaxR true false) (fun _ _ => rfl)

end Sys2Proof.Machine

/-! # Proofs: what a lane result and a mask result write (02 R39, R40, 05 R100) -/

namespace Sys2Proof.Machine

/-! ### Masks and flags over lanes -/

theorem bitAt_getLsbD (l : Nat) (b : Bool) {j : Nat} (hj : j < 32) : (bitAt l b).getLsbD j = (decide (j = l) && b) := by
  unfold bitAt
  cases b
  · simp
  · rw [if_pos rfl, BitVec.getLsbD_ofNat, Nat.testBit_two_pow, decide_eq_true hj, Bool.true_and, Bool.and_true, decide_eq_decide]
    exact eq_comm

theorem foldl_bitAt_getLsbD (f : Nat → Bool) (ls : List Nat) (m : Mask) {j : Nat} (hj : j < 32) :
    (ls.foldl (fun m l => m ||| bitAt l (f l)) m).getLsbD j = (m.getLsbD j || (decide (j ∈ ls) && f j)) := by
  induction ls generalizing m with
  | nil => simp
  | cons l ls ih =>
    rw [List.foldl_cons, ih, BitVec.getLsbD_or, bitAt_getLsbD _ _ hj]
    by_cases h : j = l
    · subst h; cases m.getLsbD j <;> cases f j <;> simp
    · simp [h]

/-- The mask of a predicate holds its value at every lane. -/
theorem maskOf_getLsbD (f : Nat → Bool) {j : Nat} (hj : j < 32) : (maskOf f).getLsbD j = f j := by
  rw [maskOf, foldl_bitAt_getLsbD _ _ _ hj]
  simp [hj]

theorem mem_lanesOf (m : Mask) (l : Nat) : l ∈ lanesOf m ↔ l < 32 ∧ m.getLsbD l = true := by
  simp only [lanesOf, List.mem_filter, List.mem_range]

theorem foldl_or_testBit (f : Nat → Nat) (ls : List Nat) (a b : Nat) :
    (ls.foldl (fun a l => a ||| f l) a).testBit b = true ↔ a.testBit b = true ∨ ∃ l ∈ ls, (f l).testBit b = true := by
  induction ls generalizing a with
  | nil => simp
  | cons l ls ih => rw [List.foldl_cons, ih, Nat.testBit_or, Bool.or_eq_true]; simp [or_assoc]

/-- A condition over lanes is one of a lane of the mask. -/
theorem flagsOver_testBit (m : Mask) (f : Nat → Nat) (b : Nat) :
    (flagsOver m f).testBit b = true ↔ ∃ l < 32, m.getLsbD l = true ∧ (f l).testBit b = true := by
  rw [flagsOver, foldl_or_testBit]
  simp [mem_lanesOf, and_assoc]

theorem flagsOver_zero (m : Mask) : flagsOver m (fun _ => 0) = 0 := by
  unfold flagsOver
  induction lanesOf m with
  | nil => rfl
  | cons l ls ih => rw [List.foldl_cons, Nat.or_zero, ih]

/-! ### Reads after a lane write -/

theorem nth_blend (m : Mask) (new old : Nat → W) {l : Nat} (hl : l < 32) :
    nth 0 (blend m new old) l = if m.getLsbD l then new l else old l := by
  simp [nth, blend, List.getD_eq_getElem?_getD, hl]

section SetV
variable (q : Squad) (m : Mask) (d : Nat) (f : Nat → W)

theorem Squad.setV_v_same (h : d < q.vregs.length) {l : Nat} (hl : l < 32) :
    (q.setV m d f).v d l = if m.getLsbD l then f l else q.v d l := by
  rw [Squad.v, Squad.setV, nth_set_same h, nth_blend _ _ _ hl]

theorem Squad.setV_v_ne {n : Nat} (h : n ≠ d) (l : Nat) : (q.setV m d f).v n l = q.v n l := by
  rw [Squad.v, Squad.setV, nth_set_ne h, Squad.v]

/-- A lane outside the mask keeps its value, whatever the register. -/
theorem Squad.setV_v_lane {l : Nat} (hl : l < 32) (hm : m.getLsbD l = false) (n : Nat) : (q.setV m d f).v n l = q.v n l := by
  by_cases h : n = d
  · subst h
    by_cases hd : n < q.vregs.length
    · rw [Squad.setV_v_same _ _ _ _ hd hl, hm]; rfl
    · simp [Squad.v, Squad.setV, List.set_eq_of_length_le (Nat.le_of_not_lt hd)]
  · exact Squad.setV_v_ne _ _ _ _ h l

@[simp] theorem Squad.setV_length : (q.setV m d f).vregs.length = q.vregs.length := List.length_set
end SetV

theorem Squad.setV2_v2_same (q : Squad) (m : Mask) (d : Nat) (f : Nat → D) (h : d + 1 < q.vregs.length) {l : Nat} (hl : l < 32) :
    (q.setV2 m d f).v2 d l = if m.getLsbD l then f l else q.v2 d l := by
  have hhi : (q.setV2 m d f).v (d + 1) l = if m.getLsbD l then hiW (f l) else q.v (d + 1) l := by
    rw [Squad.setV2, Squad.setV_v_same _ _ _ _ (by simpa using h) hl, Squad.setV_v_ne _ _ _ _ (by omega)]
  have hlo : (q.setV2 m d f).v d l = if m.getLsbD l then loW (f l) else q.v d l := by
    rw [Squad.setV2, Squad.setV_v_ne _ _ _ _ (by omega), Squad.setV_v_same _ _ _ _ (by omega) hl]
  rw [Squad.v2, hhi, hlo]
  split
  · exact pair_hiW_loW _
  · rfl

theorem Squad.setV2_v_ne (q : Squad) (m : Mask) (d : Nat) (f : Nat → D) {n : Nat} (h : n ≠ d) (h1 : n ≠ d + 1) (l : Nat) :
    (q.setV2 m d f).v n l = q.v n l := by
  rw [Squad.setV2, Squad.setV_v_ne _ _ _ _ h1, Squad.setV_v_ne _ _ _ _ h]

theorem Squad.setV2_v_lane (q : Squad) (m : Mask) (d : Nat) (f : Nat → D) {l : Nat} (hl : l < 32) (hm : m.getLsbD l = false) (n : Nat) :
    (q.setV2 m d f).v n l = q.v n l := by
  rw [Squad.setV2, Squad.setV_v_lane _ _ _ _ hl hm, Squad.setV_v_lane _ _ _ _ hl hm]

theorem Squad.setKBits_k_same (q : Squad) (m : Mask) (d : Nat) (f : Nat → Bool) (h1 : 1 ≤ d) (h : d ≤ q.kregs.length) {l : Nat} (hl : l < 32) :
    ((q.setKBits m d f).k d).getLsbD l = if m.getLsbD l then f l else (q.k d).getLsbD l := by
  have hk : (q.setKBits m d f).k d = (q.k d &&& ~~~m) ||| (maskOf f &&& m) := by
    rw [Squad.k, if_neg (by omega), Squad.setKBits, nth_set_same (by omega)]
  rw [hk, BitVec.getLsbD_or, BitVec.getLsbD_and, BitVec.getLsbD_and, BitVec.getLsbD_not, maskOf_getLsbD _ hl]
  cases m.getLsbD l <;> simp [hl]

theorem Squad.setKBits_k_ne (q : Squad) (m : Mask) (d : Nat) (f : Nat → Bool) (h1 : 1 ≤ d) {n : Nat} (h : n ≠ d) :
    (q.setKBits m d f).k n = q.k n := by
  unfold Squad.k Squad.setKBits
  split
  · rfl
  · exact nth_set_ne (by omega)

/-! ### Conditions -/

/-- What conditions leave alone: all but the flags and the entries in flight. -/
theorem Squad.orFlags_eq (f : W) (q : Squad) : Squad.orFlags f q =
    { q with flags := (Squad.orFlags f q).flags, late := (Squad.orFlags f q).late } := by
  unfold Squad.orFlags
  repeat' split
  all_goals rfl

@[simp] theorem Squad.orFlags_v (f : W) (q : Squad) (n l : Nat) : (Squad.orFlags f q).v n l = q.v n l := by
  rw [Squad.orFlags_eq]; rfl

@[simp] theorem Squad.orFlags_v2 (f : W) (q : Squad) (n l : Nat) : (Squad.orFlags f q).v2 n l = q.v2 n l := by
  rw [Squad.v2, Squad.orFlags_v, Squad.orFlags_v, Squad.v2]

@[simp] theorem Squad.orFlags_k (f : W) (q : Squad) (n : Nat) : (Squad.orFlags f q).k n = q.k n := by
  rw [Squad.orFlags_eq]; rfl

/-- The conditions join those that the squad and its instruction have raised. -/
theorem Squad.raised_orFlags (f : W) (q : Squad) : (Squad.orFlags f q).raised = q.raised ||| f := by
  unfold Squad.orFlags Squad.raised
  cases h : q.late.getLast? with
  | none => simp [h]
  | some e =>
    by_cases hc : e.cur = q.cur
    · simp [hc, BitVec.or_assoc]
    · simp [hc, h]

/-- What conditions do to the squad in focus, an MCC in focus or not. -/
theorem State.orFlags_sq (s : State) (f : Nat) : (s.orFlags f).sq = if s.isM then s.sq else Squad.orFlags (w32 f) s.sq := by
  unfold State.orFlags
  split <;> rfl

@[simp] theorem State.orFlags_v (s : State) (f n l : Nat) : (s.orFlags f).sq.v n l = s.sq.v n l := by
  rw [State.orFlags_sq]; split <;> simp

@[simp] theorem State.orFlags_v2 (s : State) (f n l : Nat) : (s.orFlags f).sq.v2 n l = s.sq.v2 n l := by
  rw [State.orFlags_sq]; split <;> simp

@[simp] theorem State.orFlags_k (s : State) (f n : Nat) : (s.orFlags f).sq.k n = s.sq.k n := by
  rw [State.orFlags_sq]; split <;> simp

/-! ### Lane results -/

theorem State.putV_narrow {t : Nat} (ht : is64 t = false) (r : State) (d : Nat) (f : Nat → Nat) :
    r.putV t d f = r.modSq (fun q => q.setV r.lanes d (fun l => w32 (f l))) := by
  unfold State.putV; rw [ht]; rfl

theorem State.putV_wide {t : Nat} (ht : is64 t = true) (r : State) (d : Nat) (f : Nat → Nat) :
    r.putV t d f = r.modSq (fun q => q.setV2 r.lanes d (fun l => BitVec.ofNat 64 (f l))) := by
  unfold State.putV; rw [ht]; rfl

theorem State.laneOp_reads (r : State) {t d : Nat} (f : Nat → Nat × Nat) (ht : is64 t = false) (hd : d < r.sq.vregs.length) :
    (∀ l < 32, (r.laneOp t d f).sq.v d l = if r.lanes.getLsbD l then BitVec.ofNat 32 (f l).1 else r.sq.v d l) ∧
    (∀ n l, n ≠ d → (r.laneOp t d f).sq.v n l = r.sq.v n l) := by
  refine ⟨fun l hl => ?_, fun n l hn => ?_⟩
  · rw [State.laneOp, State.orFlags_v, State.putV_narrow ht]
    exact Squad.setV_v_same _ _ _ _ hd hl
  · rw [State.laneOp, State.orFlags_v, State.putV_narrow ht]
    exact Squad.setV_v_ne _ _ _ _ hn l

theorem State.laneOp_reads2 (r : State) {t d : Nat} (f : Nat → Nat × Nat) (ht : is64 t = true) (hd : d + 1 < r.sq.vregs.length) :
    (∀ l < 32, (r.laneOp t d f).sq.v2 d l = if r.lanes.getLsbD l then BitVec.ofNat 64 (f l).1 else r.sq.v2 d l) ∧
    (∀ n l, n ≠ d → n ≠ d + 1 → (r.laneOp t d f).sq.v n l = r.sq.v n l) := by
  refine ⟨fun l hl => ?_, fun n l hn hn1 => ?_⟩
  · rw [State.laneOp, State.orFlags_v2, State.putV_wide ht]
    exact Squad.setV2_v2_same _ _ _ _ hd hl
  · rw [State.laneOp, State.orFlags_v, State.putV_wide ht]
    exact Squad.setV2_v_ne _ _ _ _ hn hn1 l

@[simp] theorem State.putV_isM (r : State) (t d : Nat) (f : Nat → Nat) : (r.putV t d f).isM = r.isM := by
  unfold State.putV; split <;> rfl

/-- A write of lanes raises nothing of itself. -/
theorem State.putV_raised (r : State) (t d : Nat) (f : Nat → Nat) : (r.putV t d f).sq.raised = r.sq.raised := by
  unfold State.putV; split <;> rfl

theorem State.laneOp_raised (r : State) (t d : Nat) (f : Nat → Nat × Nat) (h : r.isM = false) (b : Nat) :
    (r.laneOp t d f).sq.raised.getLsbD b = true ↔
      r.sq.raised.getLsbD b = true ∨ (b < 32 ∧ ∃ l < 32, r.lanes.getLsbD l = true ∧ (f l).2.testBit b = true) := by
  rw [State.laneOp, State.orFlags_sq, State.putV_isM, h, if_neg Bool.false_ne_true, Squad.raised_orFlags, State.putV_raised,
    BitVec.getLsbD_or, Bool.or_eq_true, w32, BitVec.getLsbD_ofNat, Bool.and_eq_true, decide_eq_true_eq, flagsOver_testBit]

theorem State.laneK_reads (r : State) {d : Nat} (f : Nat → Bool × Nat) (h1 : 1 ≤ d) (hd : d ≤ r.sq.kregs.length) :
    (∀ l < 32, ((r.laneK d f).sq.k d).getLsbD l = if r.lanes.getLsbD l then (f l).1 else (r.sq.k d).getLsbD l) ∧
    (∀ n, n ≠ d → (r.laneK d f).sq.k n = r.sq.k n) := by
  refine ⟨fun l hl => ?_, fun n hn => ?_⟩
  · rw [State.laneK, State.orFlags_k]
    exact Squad.setKBits_k_same _ _ _ _ h1 hd hl
  · rw [State.laneK, State.orFlags_k]
    exact Squad.setKBits_k_ne _ _ _ _ h1 hn

/-- Settles O22: reads after a lane result, and the conditions that it raises. -/
theorem laneWrites : Obligations.LaneWrites :=
  ⟨fun r _ _ f ht hd _ => r.laneOp_reads f ht hd, fun r _ _ f ht hd _ => r.laneOp_reads2 f ht hd,
    fun r t d f h b => r.laneOp_raised t d f h b, fun r _ f h1 hd => r.laneK_reads f h1 hd⟩

end Sys2Proof.Machine

/-! # Proofs: what the lane instructions leave alone (02 R39, R40, 05 R100) -/

namespace Sys2Proof.Machine

/-! ### Who is in focus at the issue -/

theorem State.homeWrite_focus (s : State) (k : Nat) (b : List Byte) : (s.homeWrite k b).focus = s.focus := by
  induction b generalizing s k with
  | nil => rfl
  | cons x xs ih => rw [State.homeWrite, ih]

theorem State.putSample_focus (s : State) (b : List Byte) : (s.putSample b).focus = s.focus := by
  unfold State.putSample
  split
  · rw [State.ringPut, State.setCsr_focus, State.physWrite, State.homeWrite_focus]
  · rfl

theorem State.sampleEnd_focus (s : State) (n : Nat) (c : Cur) (b : Bool) : (s.sampleEnd n c b).focus = s.focus := by
  unfold State.sampleEnd
  split
  · rfl
  · exact State.putSample_focus _ _

theorem State.retireSfu_focus (s : State) (e : SfuEnt) : (s.retireSfu e).focus = s.focus :=
  (State.sampleEnd_focus _ _ _ _).trans rfl

/-- What a fold of steps keeps, each step keeping it. -/
theorem foldl_kept {σ α β : Type} (p : σ → β) {f : σ → α → σ} (h : ∀ s a, p (f s a) = p s) (l : List α) (s : σ) : p (l.foldl f s) = p s := by
  induction l generalizing s with
  | nil => rfl
  | cons a l ih => exact (ih _).trans (h s a)

theorem State.drain_focus (s : State) (p : SfuEnt → Bool) : (s.drain p).focus = s.focus :=
  foldl_kept State.focus State.retireSfu_focus _ _

theorem State.ready_isM {s : State} {f : Form} (h : s.isM = false) : (s.ready f).isM = false := by
  unfold State.ready
  rw [if_neg (by simp [h])]
  split
  · show ((s.drainAll).focus == .mcc) = false
    rw [State.drainAll, State.drain_focus]; exact h
  · show ((s.drain _).focus == .mcc) = false
    rw [State.drain_focus]; exact h

theorem State.started_isM {s : State} {f : Form} (h : s.isM = false) : (s.started f).isM = false := by
  unfold State.started
  rw [if_neg (by simp [h])]
  show ((s.sampleIssue _ _ _ _).focus == .mcc) = false
  rw [(s.sampleIssue_kept _ _ _ _).2.2]; exact h

/-- A squad that issues is in focus when its instruction acts. -/
theorem State.atIssue_isM {s : State} {f : Form} (h : s.isM = false) : (s.atIssue f).isM = false :=
  State.started_isM (State.ready_isM h)

/-- A lane instruction that issues is a squad's. -/
theorem State.Goes.squad {s : State} {f : Form} (h : s.Goes f) (hu : f.uni = false) : s.isM = false := by
  have hl := h.legal
  unfold State.refusal at hl
  split at hl
  · exact absurd hl (by simp)
  · next hw => simpa [State.whoBad, hu] using hw

/-! ### The end of a squad's instruction but for its sample -/

@[simp] theorem State.modSq_isM (s : State) (f : Squad → Squad) : (s.modSq f).isM = s.isM := rfl

/-- The account of the end of an instruction: PC, block position, energy, run state. -/
def Squad.shut (turn len : Nat) (q : Squad) : Squad :=
  { q with
    turn := turn, sp := { q.sp.stepBlock with pc := q.sp.pc + BitVec.ofNat 64 len }
    st := if q.st = .exiting then .exiting else .ready
    wake := none, todo := [], energy := satAdd q.energy q.due, due := 0, inLine := none, got := [], heldRfe := false }

theorem State.advance_squad {u : State} (h : u.isM = false) (len : Nat) : u.advance len =
    u.modSq (fun q => { q with sp := { q.sp.stepBlock with pc := q.sp.pc + BitVec.ofNat 64 len } }) := by
  unfold State.advance; rw [h]; rfl

theorem State.complete_squad {u : State} (h : u.isM = false) : u.complete = (u.modSq (fun q => { q with
    st := if q.st = .exiting then .exiting else .ready
    wake := none, todo := [], energy := satAdd q.energy q.due, due := 0, inLine := none, got := [], heldRfe := false })).sampled := by
  unfold State.complete State.sampled; rw [h, State.modSq_isM, h]; rfl

/-- A squad's instruction that changed its squad alone ends with its account, and its sample. -/
theorem State.ended_modSq {r : State} (h : r.isM = false) (s : State) (len : Nat) (g : Squad → Squad) :
    s.ended len (r.modSq g) = (r.modSq (fun q => (g q).shut s.sq.sp.num len)).sampled := by
  have hM (f : Squad → Squad) : (r.modSq f).isM = false := h
  have ht : (r.modSq g).setTurn s.sq.sp.num = r.modSq (fun q => { g q with turn := s.sq.sp.num }) := rfl
  have hm : s.moved len (r.modSq g) = r.modSq (fun q => { g q with
      turn := s.sq.sp.num, sp := { (g q).sp.stepBlock with pc := (g q).sp.pc + BitVec.ofNat 64 len } }) := by
    rw [State.moved, ht, State.advance_squad (hM _)]; rfl
  rw [State.ended, hm, State.complete_squad (hM _)]
  rfl

/-- A change of the squad in focus leaves the rest of the package. -/
theorem State.same_modSq (r : State) (g : Squad → Squad) : r.Same (r.modSq g) := ⟨rfl, fun _ _ => rfl, fun _ => rfl⟩

theorem Split.stepBlock_eq (p : Split) : p.stepBlock = { p with blkPos := p.stepBlock.blkPos } := by
  unfold Split.stepBlock; split <;> rfl

/-- The account of an end is of what every issue keeps account of. -/
theorem Squad.shut_book (n len : Nat) (q b : Squad) : (q.shut n len).book b = q.book b := by
  unfold Squad.book Squad.shut
  dsimp only
  rw [Split.stepBlock_eq]

/-- The book of a squad with its split, and the like, as they were. -/
theorem Squad.book_self (q : Squad) : q.book q = q := rfl

/-! ### Lane results -/

/-- What a lane result does to the squad. -/
def Squad.lane (t d : Nat) (f : Nat → Nat) (fl : W) (m : Mask) (q : Squad) : Squad :=
  Squad.orFlags fl (if is64 t then q.setV2 m d (fun l => BitVec.ofNat 64 (f l)) else q.setV m d (fun l => w32 (f l)))

theorem State.laneOp_eq_modSq {r : State} (h : r.isM = false) (t d : Nat) (f : Nat → Nat × Nat) :
    r.laneOp t d f = r.modSq (Squad.lane t d (fun l => (f l).1) (w32 (flagsOver r.lanes (fun l => (f l).2))) r.lanes) := by
  rw [State.laneOp, State.orFlags, if_neg (by rw [State.putV_isM, h]; exact Bool.false_ne_true)]
  unfold State.putV Squad.lane
  split <;> rfl

theorem Squad.orFlags_flags (f : W) (q : Squad) : q.flags &&& (Squad.orFlags f q).flags = q.flags := by
  unfold Squad.orFlags
  repeat' split
  all_goals (apply BitVec.eq_of_getLsbD_eq; intro i _; simp only [BitVec.getLsbD_and, BitVec.getLsbD_or]; cases q.flags.getLsbD i <;> rfl)

/-- It changes vector registers, flags and entries in flight alone. -/
theorem Squad.lane_eq (t d : Nat) (f : Nat → Nat) (fl : W) (m : Mask) (q : Squad) : Squad.lane t d f fl m q =
    { q with vregs := (Squad.lane t d f fl m q).vregs, badRegs := (Squad.lane t d f fl m q).badRegs,
             flags := (Squad.lane t d f fl m q).flags, late := (Squad.lane t d f fl m q).late } := by
  unfold Squad.lane
  rw [Squad.orFlags_eq]
  split <;> rfl

theorem Squad.lane_flags (t d : Nat) (f : Nat → Nat) (fl : W) (m : Mask) (q : Squad) : q.flags &&& (Squad.lane t d f fl m q).flags = q.flags := by
  unfold Squad.lane
  split
  · exact Squad.orFlags_flags fl (q.setV2 m d _)
  · exact Squad.orFlags_flags fl (q.setV m d _)

/-- Registers not named, and lanes outside the mask, keep their values. -/
theorem Squad.lane_v (t d : Nat) (f : Nat → Nat) (fl : W) (m : Mask) (q : Squad) {n l : Nat} (hl : l < 32)
    (h : ¬ (n = d ∨ is64 t = true ∧ n = d + 1) ∨ m.getLsbD l = false) : (Squad.lane t d f fl m q).v n l = q.v n l := by
  unfold Squad.lane
  rw [Squad.orFlags_v]
  split
  · next ht =>
    rcases h with h | h
    · exact Squad.setV2_v_ne _ _ _ _ (fun e => h (.inl e)) (fun e => h (.inr ⟨ht, e⟩)) l
    · exact Squad.setV2_v_lane _ _ _ _ hl h n
  · rcases h with h | h
    · exact Squad.setV_v_ne _ _ _ _ (fun e => h (.inl e)) l
    · exact Squad.setV_v_lane _ _ _ _ hl h n

/-- The registers of a destination under a type. -/
def dstRegs (t d n : Nat) : Prop := n = d ∨ is64 t = true ∧ n = d + 1

theorem dstRegs_narrow {t d : Nat} (h : is64 t = false) : dstRegs t d = (· = d) := by
  funext n; simp [dstRegs, h]

/-- A lane result, its account made, changes what OnlyV names. -/
theorem State.laneOp_onlyV (r : State) (t d : Nat) (f : Nat → Nat) (fl : W) (k len : Nat) :
    r.OnlyV (r.modSq (fun q => (Squad.lane t d f fl r.lanes q).shut k len)) (dstRegs t d) where
  toSame := r.same_modSq _
  squad := by
    show ((Squad.lane t d f fl r.lanes r.sq).shut k len).book r.sq = _
    rw [Squad.shut_book, Squad.lane_eq]
    rfl
  mcc := rfl
  regs n l hl h := Squad.lane_v t d f fl r.lanes r.sq hl h
  flags := Squad.lane_flags t d f fl r.lanes r.sq

section Leaves
variable {uni : Bool} {op9 : Nat} {f : Form} {s : State}

/-- An instruction of the lane set whose effect is a lane result. -/
theorem leaves_laneOp {i : Instr} {t d : Nat} {g : Nat → Nat × Nat} (hu : f.uni = false)
    (h : s.Goes f → exec i s = .next (s.ended f.len ((s.atIssue f).laneOp t d g))) :
    Leaves i s f (fun r u => r.OnlyV u (dstRegs t d)) := by
  intro hg
  have hM := State.atIssue_isM (f := f) (hg.squad hu)
  rw [h hg, State.laneOp_eq_modSq hM, State.ended_modSq hM]
  exact ⟨_, rfl, State.laneOp_onlyV (s.atIssue f) t d (fun l => (g l).1) _ s.sq.sp.num f.len⟩

theorem LongRuns.leaves {i : Long → Instr} {t : Long → Nat} {g : Long → State → Nat → Nat × Nat}
    (h : LongRuns i false op9 always (fun w r => r.laneOp (t w) w.d.toNat (g w r))) (w : Long) (s : State) :
    Leaves (i w) s (s.formLong false op9 w) (fun r u => r.OnlyV u (dstRegs (t w) w.d.toNat)) :=
  leaves_laneOp rfl (fun hg => h w s hg trivial)

theorem LongRuns.leaves_narrow {i : Long → Instr} {t : Nat} {g : Long → State → Nat → Nat × Nat} (ht : is64 t = false)
    (h : LongRuns i false op9 always (fun w r => r.laneOp t w.d.toNat (g w r))) (w : Long) (s : State) :
    Leaves (i w) s (s.formLong false op9 w) (fun r u => r.OnlyV u (fun n => n = w.d.toNat)) := by
  rw [← dstRegs_narrow ht]; exact h.leaves w s

theorem LitRuns.leaves {i : Lit → Instr} {t : Nat} {g : Lit → State → Nat → Nat × Nat} (ht : is64 t = false)
    (h : LitRuns i false op9 always (fun w r => r.laneOp t w.d.toNat (g w r))) (w : Lit) (s : State) :
    Leaves (i w) s (s.formLit false op9 w) (fun r u => r.OnlyV u (fun n => n = w.d.toNat)) := by
  rw [← dstRegs_narrow ht]; exact leaves_laneOp rfl (fun hg => h w s hg trivial)

theorem ShortRuns.leaves {i : Short → Instr} {t : Nat} {g : Short → State → Nat → Nat × Nat} (ht : is64 t = false)
    (h : ShortRuns i false op9 always (fun w r => r.laneOp t w.d.toNat (g w r))) (w : Short) (s : State) :
    Leaves (i w) s (s.formShort false op9 w) (fun r u => r.OnlyV u (fun n => n = w.d.toNat)) := by
  rw [← dstRegs_narrow ht]; exact leaves_laneOp rfl (fun hg => h w s hg trivial)
end Leaves

/-! ### Comparisons -/

/-- What a lane comparison does to the squad. -/
def Squad.laneBits (d : Nat) (f : Nat → Bool) (fl : W) (m : Mask) (q : Squad) : Squad := Squad.orFlags fl (q.setKBits m d f)

theorem State.laneK_eq_modSq {r : State} (h : r.isM = false) (d : Nat) (f : Nat → Bool × Nat) :
    r.laneK d f = r.modSq (Squad.laneBits d (fun l => (f l).1) (w32 (flagsOver r.lanes (fun l => (f l).2))) r.lanes) := by
  unfold State.laneK State.orFlags
  rw [State.modSq_isM, h]
  rfl

/-- Conditions that are none change nothing. -/
theorem Squad.orFlags_zero (q : Squad) : Squad.orFlags 0 q = q := by
  unfold Squad.orFlags
  split
  · next e he =>
    split
    · have hl : q.late.dropLast ++ [e] = q.late := by
        obtain ⟨l, hl⟩ := List.getLast?_eq_some_iff.mp he
        rw [hl, List.dropLast_concat]
      simp [hl]
    · simp
  · simp

/-- Check 9 has passed for the destination of a long form that issues. -/
theorem FSpec.checkLong_dest {e : FEnv} {f : FSpec} {w : Long} (h : f.checkLong e w = none) : f.d.regOk e w.d.toNat = true := by
  unfold FSpec.checkLong at h
  split at h
  · exact absurd h (by simp)
  split at h
  · exact absurd h (by simp)
  · next hr =>
    simp only [Bool.not_eq_true, Bool.not_eq_false', Bool.and_eq_true] at hr
    exact hr.1.1.1

theorem State.Goes.fields {s : State} {f : Form} (h : s.Goes f) : f.bad = none := by
  have hl := h.legal
  unfold State.refusal at hl
  split at hl
  · exact absurd hl (by simp)
  split at hl
  · exact absurd hl (by simp)
  split at hl
  · exact absurd hl (by simp)
  · exact hl

/-- A comparison names a mask other than k0. -/
theorem State.Goes.compareDest {s : State} {w : Long} {op9 : Nat} (h : s.Goes (s.formLong false op9 w))
    (hd : (laneSpec s.fenv op9 w).d = .kd 1) : 1 ≤ w.d.toNat := by
  have hr := FSpec.checkLong_dest (f := laneSpec s.fenv op9 w) h.fields
  rw [hd] at hr
  exact (of_decide_eq_true hr).1

theorem Squad.laneBits_eq (d : Nat) (f : Nat → Bool) (fl : W) (m : Mask) (q : Squad) : Squad.laneBits d f fl m q =
    { q with kregs := (Squad.laneBits d f fl m q).kregs, flags := (Squad.laneBits d f fl m q).flags, late := (Squad.laneBits d f fl m q).late } := by
  unfold Squad.laneBits
  rw [Squad.orFlags_eq]
  rfl

theorem Squad.laneBits_k (d : Nat) (f : Nat → Bool) (fl : W) (m : Mask) (q : Squad) (h1 : 1 ≤ d) {n : Nat} (h : n ≠ d) :
    (Squad.laneBits d f fl m q).k n = q.k n := by
  rw [Squad.laneBits, Squad.orFlags_k, Squad.setKBits_k_ne _ _ _ _ h1 h]

theorem Squad.shut_k (n len : Nat) (q : Squad) (j : Nat) : (q.shut n len).k j = q.k j := by
  unfold Squad.k Squad.shut
  rw [Split.stepBlock_eq]

/-- Without conditions only the mask has changed. -/
theorem Squad.laneBits_zero_book (d : Nat) (f : Nat → Bool) (m : Mask) (q : Squad) (k len : Nat) :
    ((Squad.laneBits d f 0 m q).shut k len).book q = { q with kregs := ((Squad.laneBits d f 0 m q).shut k len).kregs } := by
  rw [Squad.laneBits, Squad.orFlags_zero, Squad.shut_book]
  rfl

/-- An instruction that writes one bit of a mask per lane. -/
theorem LongRuns.compares {i : Long → Instr} {op9 : Nat} {g : Long → State → Nat → Bool × Nat}
    (h : LongRuns i false op9 always (fun w r => r.laneK w.d.toNat (g w r))) (w : Long) (s : State) (hg : s.Goes (s.formLong false op9 w)) :
    ∃ (k : Nat) (fl : W), exec (i w) s = .next (State.sampled ((s.atIssue (s.formLong false op9 w)).modSq (fun q =>
        (Squad.laneBits w.d.toNat (fun l => (g w (s.atIssue (s.formLong false op9 w)) l).1) fl (s.atIssue (s.formLong false op9 w)).lanes q).shut k 8))) ∧
      fl = w32 (flagsOver (s.atIssue (s.formLong false op9 w)).lanes (fun l => (g w (s.atIssue (s.formLong false op9 w)) l).2)) := by
  have hM := State.atIssue_isM (f := s.formLong false op9 w) (hg.squad rfl)
  rw [h w s hg trivial]
  dsimp only
  rw [State.laneK_eq_modSq hM, State.ended_modSq hM]
  exact ⟨_, _, rfl, rfl⟩

theorem vcmp_leaves (w : Long) (s : State) : Leaves (.vcmp w) s (s.formLong false 0x016 w) (fun r u => r.OnlyK u w.d.toNat) := by
  intro hg
  obtain ⟨k, fl, hx, hfl⟩ := LongRuns.compares (laneK_longRuns exec_vcmp (fun _ _ _ => rfl)) w s hg
  have h1 := hg.compareDest rfl
  rw [show fl = 0 from hfl.trans (by rw [flagsOver_zero]; rfl)] at hx
  refine ⟨_, hx, State.same_modSq _ _, ?_, rfl, fun m hm => ?_⟩
  · exact Squad.laneBits_zero_book _ _ _ _ _ _
  · exact (Squad.shut_k _ _ _ _).trans (Squad.laneBits_k _ _ _ _ _ h1 hm)

theorem fcmp_leaves (w : Long) (s : State) : Leaves (.fcmp w) s (s.formLong false 0x046 w) (fun r u => r.Same u ∧
    (∀ m, m ≠ w.d.toNat → u.sq.k m = r.sq.k m) ∧ u.sq.vregs = r.sq.vregs ∧ u.sq.sregs = r.sq.sregs ∧ u.sq.scc = r.sq.scc ∧
    r.sq.flags &&& u.sq.flags = r.sq.flags) := by
  intro hg
  obtain ⟨k, fl, hx, -⟩ := LongRuns.compares
    (laneK_longRuns (i := .fcmp) (op9 := 0x046) (f := fun w r l => (floatCond (xSub w.x) (r.fa w l 0) (r.fb w l 0), sigFlag [r.fa w l 0, r.fb w l 0])) (fun _ _ => rfl)
      (fun _ _ _ => rfl)) w s hg
  have h1 := hg.compareDest rfl
  generalize s.atIssue (s.formLong false 0x046 w) = r at hx ⊢
  have he : ∀ f, ((Squad.laneBits w.d.toNat f fl r.lanes r.sq).shut k 8).vregs = r.sq.vregs ∧
      ((Squad.laneBits w.d.toNat f fl r.lanes r.sq).shut k 8).sregs = r.sq.sregs ∧
      ((Squad.laneBits w.d.toNat f fl r.lanes r.sq).shut k 8).scc = r.sq.scc := fun f => by
    rw [Squad.laneBits_eq]; exact ⟨rfl, rfl, rfl⟩
  refine ⟨_, hx, State.same_modSq _ _, fun m hm => ?_, (he _).1, (he _).2.1, (he _).2.2, ?_⟩
  · exact (Squad.shut_k _ _ _ _).trans (Squad.laneBits_k _ _ _ _ _ h1 hm)
  · exact Squad.orFlags_flags fl (r.sq.setKBits r.lanes w.d.toNat _)

/-! ### The frames -/

/-- Settles O59: an instruction of the lane set changes its squad alone, and of it what its one write names. -/
theorem laneFrames : Obligations.LaneFrames := by
  obtain ⟨hadd, hsub, hmul, hmulh, habs, hmin, hmax, -, -, hlits, -, -, hsel, -, hperm, hbfx, hbfi, hsh, hshl, hshort, hbits⟩ := laneIntegerResults
  obtain ⟨fadd, fsub, fmul, ffma, fminmax, -, fclass, frnd, flits⟩ := laneFloatResults
  refine ⟨?_, ?_, ?_, ?_, vcmp_leaves, fcmp_leaves⟩
  · intro i hi
    simp only [List.mem_cons, List.not_mem_nil, or_false] at hi
    rcases hi with rfl | rfl | rfl | rfl | rfl | rfl | rfl | rfl | rfl | rfl | rfl | rfl
    · exact LongRuns.leaves hadd
    · exact LongRuns.leaves hsub
    · exact LongRuns.leaves hmul
    · exact LongRuns.leaves hmulh
    · exact LongRuns.leaves habs
    · exact LongRuns.leaves hperm
    · exact LongRuns.leaves (hsh (.vshl, 0x010, shiftL) (by simp))
    · exact LongRuns.leaves (hsh (.vshr, 0x011, shiftR) (by simp))
    · exact LongRuns.leaves (hsh (.vsra, 0x012, shiftA) (by simp))
    · exact LongRuns.leaves hmin
    · exact LongRuns.leaves hmax
    · exact LongRuns.leaves hsel
  · intro i hi
    simp only [List.mem_cons, List.not_mem_nil, or_false] at hi
    rcases hi with rfl | rfl | rfl | rfl | rfl | rfl | rfl | rfl | rfl | rfl
    · exact LongRuns.leaves_narrow rfl hbfx
    · exact LongRuns.leaves_narrow rfl hbfi
    · exact LongRuns.leaves_narrow rfl fadd
    · exact LongRuns.leaves_narrow rfl fsub
    · exact LongRuns.leaves_narrow rfl fmul
    · exact LongRuns.leaves_narrow rfl ffma
    · exact LongRuns.leaves_narrow rfl (fminmax (.fmin, 0x044, false) (by simp))
    · exact LongRuns.leaves_narrow rfl (fminmax (.fmax, 0x045, true) (by simp))
    · exact LongRuns.leaves_narrow rfl fclass
    · exact LongRuns.leaves_narrow rfl frnd
  · intro i hi
    simp only [List.mem_cons, List.not_mem_nil, or_false] at hi
    rcases hi with rfl | rfl | rfl | rfl | rfl | rfl | rfl | rfl | rfl | rfl | rfl | rfl | rfl | rfl | rfl | rfl
    · exact LitRuns.leaves rfl (hlits (.vaddLit, 0x020, fun a b => a + b) (by simp))
    · exact LitRuns.leaves rfl (hlits (.vsubLit, 0x021, fun a b => a - b) (by simp))
    · exact LitRuns.leaves rfl (hlits (.vmulLit, 0x022, fun a b => a * b) (by simp))
    · exact LitRuns.leaves rfl (hbits (.vandLit, 0x023, fun a b => a &&& b) (by simp))
    · exact LitRuns.leaves rfl (hbits (.vorLit, 0x024, fun a b => a ||| b) (by simp))
    · exact LitRuns.leaves rfl (hbits (.vxorLit, 0x025, fun a b => a ^^^ b) (by simp))
    · exact LitRuns.leaves rfl (hshl (.vshlLit, 0x026, shiftL) (by simp))
    · exact LitRuns.leaves rfl (hshl (.vshrLit, 0x027, shiftR) (by simp))
    · exact LitRuns.leaves rfl (hshl (.vsraLit, 0x028, shiftA) (by simp))
    · exact LitRuns.leaves rfl (hlits (.vminLit, 0x029, fun a b => min a b) (by simp))
    · exact LitRuns.leaves rfl (hlits (.vmaxLit, 0x02A, fun a b => max a b) (by simp))
    · exact LitRuns.leaves rfl (flits _ (List.mem_cons_self))
    · exact LitRuns.leaves rfl (flits _ (.tail _ (.head _)))
    · exact LitRuns.leaves rfl (flits _ (.tail _ (.tail _ (.head _))))
    · exact LitRuns.leaves rfl (flits _ (.tail _ (.tail _ (.tail _ (.head _)))))
    · exact LitRuns.leaves rfl (flits _ (.tail _ (.tail _ (.tail _ (.tail _ (.head _))))))
  · intro i hi
    simp only [List.mem_cons, List.not_mem_nil, or_false] at hi
    rcases hi with rfl | rfl | rfl | rfl | rfl | rfl | rfl
    · exact ShortRuns.leaves rfl (hshort _ (.head _))
    · exact ShortRuns.leaves rfl (hshort _ (.tail _ (.head _)))
    · exact ShortRuns.leaves rfl (hshort _ (.tail _ (.tail _ (.head _))))
    · exact ShortRuns.leaves rfl (hshort _ (.tail _ (.tail _ (.tail _ (.head _)))))
    · exact ShortRuns.leaves rfl (hshort _ (.tail _ (.tail _ (.tail _ (.tail _ (.head _))))))
    · exact ShortRuns.leaves rfl (hshort _ (.tail _ (.tail _ (.tail _ (.tail _ (.tail _ (.head _)))))))
    · exact ShortRuns.leaves rfl (hshort _ (.tail _ (.tail _ (.tail _ (.tail _ (.tail _ (.tail _ (.head _))))))))

end Sys2Proof.Machine

/-! # Proofs: the cold reset, and bytes by version (00 R3, R6, 11 R222, R225, 07 R139) -/

namespace Sys2Proof.Machine

/-! ### The order of stamps (00 R11) -/

theorem Stamp.lt_iff_not_le (a b : Stamp) : a.lt b = true ↔ b.le a = false := by
  simp only [Stamp.lt, Stamp.le, Bool.or_eq_true, Bool.and_eq_true, Bool.or_eq_false_iff, Bool.and_eq_false_iff, decide_eq_true_eq,
    decide_eq_false_iff_not, beq_iff_eq, beq_eq_false_iff_ne]
  omega

theorem upTo_some (t st : Stamp) : upTo (some t) st = st.le t := rfl

/-! ### Bytes of publication events -/

section PubByte
variable (t : Option Stamp) (line off : Nat)

/-- An event of another line, above the stamp, or without the byte is not seen. -/
theorem pubByte_cons_unseen {p : Pub} (h : p.line ≠ line ∨ upTo t p.st = false ∨ get? p.bytes off = none) (r : List Pub) :
    pubByte t line off (p :: r) = pubByte t line off r := by
  rw [pubByte]
  split
  · next hp =>
    rcases h with h | h | h
    · exact absurd hp.1 h
    · rw [h] at hp; exact absurd hp.2 Bool.false_ne_true
    · rw [h]
  · rfl

theorem pubByte_append_unseen {p : Pub} (h : p.line ≠ line ∨ upTo t p.st = false ∨ get? p.bytes off = none) (l : List Pub) :
    pubByte t line off (l ++ [p]) = pubByte t line off l := by
  induction l with
  | nil => exact pubByte_cons_unseen t line off h []
  | cons q l ih => rw [List.cons_append, pubByte, pubByte, ih]

/-- No event of the line: no byte of one. -/
theorem pubByte_none {l : List Pub} (h : ∀ p ∈ l, p.line ≠ line) : pubByte t line off l = none := by
  induction l with
  | nil => rfl
  | cons p l ih =>
    rw [pubByte_cons_unseen t line off (.inl (h p (.head _))), ih (fun q hq => h q (.tail _ hq))]

/-- An event above every other that is seen supplies the byte. -/
theorem pubByte_append_newest {p : Pub} {b : Byte} {l : List Pub} (hl : p.line = line) (ht : upTo t p.st = true) (hb : get? p.bytes off = some b)
    (hnew : ∀ q ∈ l, q.line = line → upTo t q.st = true → q.st.lt p.st = true) : pubByte t line off (l ++ [p]) = some (p.st, b) := by
  induction l with
  | nil => rw [List.nil_append, pubByte, if_pos ⟨hl, ht⟩, hb]; rfl
  | cons q l ih =>
    rw [List.cons_append, pubByte, ih (fun x hx => hnew x (.tail _ hx))]
    split
    · next hq =>
      have hlt := (Stamp.lt_iff_not_le _ _).mp (hnew q (.head _) hq.1 hq.2)
      cases get? q.bytes off with
      | none => rfl
      | some c => simp only [hlt, Bool.false_eq_true, if_false]
    · rfl
end PubByte

/-- What a landed event shows. -/
theorem State.byteAt_land_new {s : State} {line ctx key : Nat} {st t : Stamp} {bytes : List (Nat × Byte)} {b : Byte} (hl : lineOf key = line)
    (hb : get? bytes (key % 128) = some b) (ht : st.le t = true) (hnew : ∀ p ∈ s.pubs, p.line = line → p.st.le t = true → p.st.lt st = true) :
    (s.land line st bytes ctx).byteAt (some t) key = b := by
  have h : pubByte (some t) (lineOf key) (key % 128) (s.land line st bytes ctx).pubs = some (st, b) :=
    pubByte_append_newest (p := ⟨line, st, bytes, ctx⟩) _ _ _ hl.symm ht hb (fun q hq e => hnew q hq (e.trans hl))
  unfold State.byteAt
  rw [h]

theorem State.byteAt_land_unseen (s : State) {line ctx key : Nat} {st : Stamp} {t : Option Stamp} {bytes : List (Nat × Byte)}
    (h : lineOf key ≠ line ∨ upTo t st = false ∨ get? bytes (key % 128) = none) :
    (s.land line st bytes ctx).byteAt t key = s.byteAt t key := by
  have e : pubByte t (lineOf key) (key % 128) (s.land line st bytes ctx).pubs = pubByte t (lineOf key) (key % 128) s.pubs :=
    pubByte_append_unseen (p := ⟨line, st, bytes, ctx⟩) t _ _ (h.imp_left Ne.symm) s.pubs
  unfold State.byteAt
  rw [e]
  rfl

/-! ### Writes at a home and in a scratchpad -/

theorem modAll_of_forall_not {α : Type} {p : α → Bool} {f : α → α} {l : List α} (h : ∀ x ∈ l, p x = false) : modAll p f l = l := by
  induction l with
  | nil => rfl
  | cons x l ih =>
    have hx : p x = false := h x (.head _)
    have hl : modAll p f l = l := ih (fun y hy => h y (.tail _ hy))
    rw [modAll, List.map_cons, hx, ← modAll, hl]
    rfl

/-- A write of lines without versions is one of the base bytes. -/
theorem State.homeWrite_unversioned {s : State} {key : Nat} {b : List Byte} (h : ∀ p ∈ s.pubs, ∀ i < b.length, p.line ≠ lineOf (key + i)) :
    (s.homeWrite key b).pubs = s.pubs ∧ (s.homeWrite key b).mem = putAll 0 s.mem key b := by
  induction b generalizing s key with
  | nil => exact ⟨rfl, rfl⟩
  | cons x b ih =>
    have hp : modAll (·.line == lineOf key) (fun p : Pub => { p with bytes := drop1 p.bytes (key % 128) }) s.pubs = s.pubs :=
      modAll_of_forall_not (fun p hp => beq_eq_false_iff_ne.mpr (h p hp 0 (Nat.succ_pos _)))
    unfold State.homeWrite
    rw [hp]
    refine ih (fun p hp i hi => ?_)
    rw [Nat.add_assoc, Nat.add_comm 1 i]
    exact h p hp (i + 1) (Nat.succ_lt_succ hi)

theorem look_putAll {α : Type} [DecidableEq α] {d : α} {l : List (Nat × α)} (h : canon d l = true) (a k : Nat) (xs : List α) :
    look d (putAll d l a xs) k = if a ≤ k ∧ k < a + xs.length then nth d xs (k - a) else look d l k := by
  split
  · next hk =>
    have e := look_putAll_same h a (k - a) xs (by omega)
    rw [show a + (k - a) = k by omega] at e
    rw [e, nth, List.getD_eq_getElem?_getD, List.getElem?_eq_getElem (by omega), Option.getD_some]
  · next hk => exact look_putAll_other h a k xs (by omega)

theorem State.scrByte_scrWrite {s : State} {key k : Nat} {b : List Byte} (h : canon 0 s.scratch = true) (ho : s.objAt k = none) :
    (s.scrWrite key b).scrByte k = if key ≤ k ∧ k < key + b.length then nth 0 b (k - key) else s.scrByte k := by
  have ho' : (s.scrWrite key b).objAt k = none := ho
  unfold State.scrByte
  rw [ho, ho']
  exact look_putAll h key k b

theorem State.byteAt_homeWrite {s : State} {key k : Nat} {b : List Byte} {t : Option Stamp} (h : s.MemOk)
    (hp : ∀ p ∈ s.pubs, ∀ i < b.length, p.line ≠ lineOf (key + i)) :
    (s.homeWrite key b).byteAt t k = if key ≤ k ∧ k < key + b.length then nth 0 b (k - key) else s.byteAt t k := by
  obtain ⟨hpubs, hmem⟩ := State.homeWrite_unversioned hp
  unfold State.byteAt
  rw [hpubs, hmem, look_putAll h]
  by_cases hk : key ≤ k ∧ k < key + b.length
  · have hno : ∀ p ∈ s.pubs, p.line ≠ lineOf k := fun p hm => by
      have e := hp p hm (k - key) (by omega)
      rwa [show key + (k - key) = k by omega] at e
    rw [pubByte_none t _ _ hno, if_pos hk]
  · rw [if_neg hk, if_neg hk]

/-! ### Numbers in bytes -/

theorem bytesLE_length (n v : Nat) : (bytesLE n v).length = n := by
  induction n generalizing v with
  | zero => rfl
  | succ n ih => rw [bytesLE, List.length_cons, ih]

theorem natLE_bytesLE (n v : Nat) : natLE (bytesLE n v) = v % 2 ^ (8 * n) := by
  induction n generalizing v with
  | zero => simp [bytesLE, natLE, Nat.mod_one]
  | succ n ih =>
    rw [bytesLE, natLE, ih, BitVec.toNat_ofNat, show 8 * (n + 1) = 8 + 8 * n by ring, pow_add, Nat.mod_mul, show 2 ^ 8 = 256 from rfl]

/-- Settles O9: one lemma for a landed event that is seen, one for one that is not, one for each kind of write. -/
theorem bytesByVersion : Obligations.BytesByVersion :=
  ⟨fun _ _ _ _ _ _ _ _ hl hb ht hnew => State.byteAt_land_new hl hb ht hnew,
    fun s _ _ _ _ t _ h => s.byteAt_land_unseen (.inr (.inl ((upTo_some t _).trans h))),
    fun s _ _ _ _ _ _ h => s.byteAt_land_unseen (h.imp_right .inr), fun _ _ _ _ _ => rfl,
    fun _ _ _ _ h ho => State.scrByte_scrWrite h ho, fun _ _ _ _ _ h hp => State.byteAt_homeWrite h hp,
    fun n v => ⟨bytesLE_length n v, natLE_bytesLE n v⟩⟩

/-! ### The cold reset -/

/-- A CSR that nobody has written holds its Reset value. -/
theorem State.reset_csr (scope n : Nat) : State.reset.csr scope n = csrReset n := rfl

/-- Settles O1: the reset state is written out, and each write of bytes keeps the canonical form. -/
theorem resetState : Obligations.ResetState := by
  refine ⟨rfl, rfl, rfl, rfl, fun _ _ => rfl, fun _ => rfl, rfl, rfl, rfl, rfl, rfl, rfl, rfl, rfl, fun scope p hp => ?_, rfl, rfl,
    fun m a x h => canon_put h a x, fun s key b h => ⟨s.homeWrite_memOk h key b, s.physWrite_memOk h key b⟩, fun _ _ _ _ _ h => h,
    fun s key b h => s.scrWrite_canon h key b⟩
  rw [State.reset_csr]
  revert p
  decide

end Sys2Proof.Machine

/-! # Proofs: what every operation keeps: the canonical form of memory and scratchpads, and, where asked, who is in focus

`State.Kept φ m c t`: in `t` the focus is `x` where `φ` is `some x`; memory is in canonical form where `m` holds, the scratchpads where `c`
does. One lemma for each operation of the model: from `Kept φ m c s` it concludes the same of the operation's result, or, where the operation
brings another agent into focus, the same without the focus. The lemmas are named after the operations, so that a proof reads as the
definition does: `h.modTeam.modSquads` for `(s.modTeam i f).modSquads p g`. -/

namespace Sys2Proof.Machine

/-- The fields that the predicate speaks of. -/
structure Keeps (φ : Option Focus) (m c : Prop) (f : Focus) (mem scr : List Host.Cell) : Prop where
  focus : ∀ x, φ = some x → f = x
  mem   : m → canon 0 mem = true
  scr   : c → canon 0 scr = true

def State.Kept (φ : Option Focus) (m c : Prop) (t : State) : Prop := Keeps φ m c t.focus t.mem t.scratch

/-- Every state that a result holds. -/
def MRes.Kept (φ : Option Focus) (m c : Prop) : MRes → Prop
  | .ok t | .wait _ t _ | .more t _ | .redo t | .trap _ t => t.Kept φ m c

def Res.Kept (φ : Option Focus) (m c : Prop) : Res → Prop
  | .done t | .jump t | .piped t | .park t | .over t => t.Kept φ m c
  | .trap _ | .hold => True

def Plan.Kept (φ : Option Focus) (m c : Prop) : Plan → Prop
  | .done t | .run _ t => t.Kept φ m c

/-- The next state of an outcome. -/
def OutKept (φ : Option Focus) (m c : Prop) : Out → Prop
  | .next t => t.Kept φ m c
  | _ => True

/-- The state that an operation leaves where it answers one. -/
def OptKept (φ : Option Focus) (m c : Prop) (o : Option State) : Prop := ∀ t, o = some t → t.Kept φ m c

/-- The same where it answers a value with it. -/
def OptSndKept {α : Type} (φ : Option Focus) (m c : Prop) (o : Option (α × State)) : Prop := ∀ p, o = some p → p.2.Kept φ m c

section
variable {φ : Option Focus} {m c : Prop}

/-! Both branches of a choice. -/

section
variable {p : Prop} [Decidable p]
theorem State.Kept.ite {a b : State} (ha : a.Kept φ m c) (hb : b.Kept φ m c) : (if p then a else b).Kept φ m c := by split <;> assumption
theorem State.Kept.pair {α : Type} {x : α} {s : State} (h : s.Kept φ m c) : ((x, s) : α × State).2.Kept φ m c := h
theorem State.Kept.iteSnd {α : Type} {a b : α × State} (ha : a.2.Kept φ m c) (hb : b.2.Kept φ m c) : (if p then a else b).2.Kept φ m c := by
  split <;> assumption
theorem MRes.Kept.ite {a b : MRes} (ha : a.Kept φ m c) (hb : b.Kept φ m c) : (if p then a else b).Kept φ m c := by split <;> assumption
theorem Res.Kept.ite {a b : Res} (ha : a.Kept φ m c) (hb : b.Kept φ m c) : (if p then a else b).Kept φ m c := by split <;> assumption
theorem Plan.Kept.ite {a b : Plan} (ha : a.Kept φ m c) (hb : b.Kept φ m c) : (if p then a else b).Kept φ m c := by split <;> assumption
theorem OutKept.ite {a b : Out} (ha : OutKept φ m c a) (hb : OutKept φ m c b) : OutKept φ m c (if p then a else b) := by split <;> assumption
end

theorem OutKept.next {t : State} (h : t.Kept φ m c) : OutKept φ m c (.next t) := h

/-! Answers that may be none. -/

theorem OptKept.none : OptKept φ m c none := fun _ e => absurd e (Option.some_ne_none _).symm
theorem OptKept.some {t : State} (h : t.Kept φ m c) : OptKept φ m c (some t) := fun _ e => Option.some.inj e ▸ h
theorem OptKept.ite {p : Prop} [Decidable p] {a b : Option State} (ha : OptKept φ m c a) (hb : OptKept φ m c b) :
    OptKept φ m c (if p then a else b) := by split <;> assumption
theorem OptKept.getD {o : Option State} {s : State} (ho : OptKept φ m c o) (h : s.Kept φ m c) : (o.getD s).Kept φ m c := by
  cases o with
  | none => exact h
  | some t => exact ho t rfl
theorem OptKept.bind {o : Option State} {f : State → Option State} (ho : OptKept φ m c o) (hf : ∀ {t}, t.Kept φ m c → OptKept φ m c (f t)) :
    OptKept φ m c (o.bind f) := by
  cases o with
  | none => exact OptKept.none
  | some t => exact hf (ho t rfl)
theorem OptKept.map {o : Option State} {f : State → State} (ho : OptKept φ m c o) (hf : ∀ {t}, t.Kept φ m c → (f t).Kept φ m c) :
    OptKept φ m c (o.map f) := by
  cases o with
  | none => exact OptKept.none
  | some t => exact .some (hf (ho t rfl))
theorem OptSndKept.none {α : Type} : OptSndKept (α := α) φ m c none := fun _ e => absurd e (Option.some_ne_none _).symm
theorem OptSndKept.some {α : Type} {x : α} {t : State} (h : t.Kept φ m c) : OptSndKept φ m c (some (x, t)) := fun _ e => Option.some.inj e ▸ h
theorem OptSndKept.ite {α : Type} {p : Prop} [Decidable p] {a b : Option (α × State)} (ha : OptSndKept φ m c a) (hb : OptSndKept φ m c b) :
    OptSndKept φ m c (if p then a else b) := by split <;> assumption

/-- Steps over a list that each keep it. -/
theorem State.Kept.foldl {α : Type} {l : List α} {f : State → α → State} {s : State} (h : s.Kept φ m c)
    (hf : ∀ {t a}, t.Kept φ m c → (f t a).Kept φ m c) : (l.foldl f s).Kept φ m c := by
  induction l generalizing s with
  | nil => exact h
  | cons a l ih => exact ih (hf h)

/-- A record with focus, memory and scratchpads of another, written out field by field. -/
theorem State.Kept.upd {t : State}
    {x0 x1 x2 x3 x4 x5 x6 x7 x8 x9 x10 x11 x12 x13 x14 x15 x16 x17 x18 x19 x20 x21 x22 x23 x24 x25 x26 x27 x28 x29 x30 x31 x32 x33
      x34 x35 x36 x37 x38 x39 x40 x41 x42 x43 x44 x45 x46 x47 x48 x49 x50 x51 x52 x53 x54 x55 x56 x57 x58 x59 x60 x61 x62 x63 x64
      x65 x66 x67 x68 x69 x70 x71 x72 x73 x74 x75 x76 x77 x78 x79 x80 x81 x82 x83 x84 x85 x86 x87 x88 x89 x90 x91}
    (h : t.Kept φ m c) :
    (State.mk t.focus x0 x1 x2 x3 x4 x5 x6 x7 x8 t.mem x9 x10 x11 x12 x13 x14 x15 x16 x17 x18 x19 x20 x21 x22 x23 x24 x25 x26
      t.scratch x27 x28 x29 x30 x31 x32 x33 x34 x35 x36 x37 x38 x39 x40 x41 x42 x43 x44 x45 x46 x47 x48 x49 x50 x51 x52 x53 x54
      x55 x56 x57 x58 x59 x60 x61 x62 x63 x64 x65 x66 x67 x68 x69 x70 x71 x72 x73 x74 x75 x76 x77 x78 x79 x80 x81 x82 x83 x84 x85
      x86 x87 x88 x89 x90 x91).Kept φ m c := h

/-- The same with another agent in focus. -/
theorem State.Kept.refocus {t : State} {f : Focus}
    {x0 x1 x2 x3 x4 x5 x6 x7 x8 x9 x10 x11 x12 x13 x14 x15 x16 x17 x18 x19 x20 x21 x22 x23 x24 x25 x26 x27 x28 x29 x30 x31 x32 x33
      x34 x35 x36 x37 x38 x39 x40 x41 x42 x43 x44 x45 x46 x47 x48 x49 x50 x51 x52 x53 x54 x55 x56 x57 x58 x59 x60 x61 x62 x63 x64
      x65 x66 x67 x68 x69 x70 x71 x72 x73 x74 x75 x76 x77 x78 x79 x80 x81 x82 x83 x84 x85 x86 x87 x88 x89 x90 x91}
    (h : t.Kept φ m c) :
    (State.mk f x0 x1 x2 x3 x4 x5 x6 x7 x8 t.mem x9 x10 x11 x12 x13 x14 x15 x16 x17 x18 x19 x20 x21 x22 x23 x24 x25 x26 t.scratch
      x27 x28 x29 x30 x31 x32 x33 x34 x35 x36 x37 x38 x39 x40 x41 x42 x43 x44 x45 x46 x47 x48 x49 x50 x51 x52 x53 x54 x55 x56 x57
      x58 x59 x60 x61 x62 x63 x64 x65 x66 x67 x68 x69 x70 x71 x72 x73 x74 x75 x76 x77 x78 x79 x80 x81 x82 x83 x84 x85 x86 x87 x88
      x89 x90 x91).Kept none m c := ⟨nofun, h.mem, h.scr⟩

end

end Sys2Proof.Machine

/-! # Proofs: every operation keeps the canonical form: registers, homes and memory -/

namespace Sys2Proof.Machine

section
variable {φ : Option Focus} {m c : Prop}

/-! ## Base -/

theorem State.Kept.unfocus {s : State} (h : s.Kept none m c) : (s.unfocus).Kept none m c := by
  unfold State.unfocus
  split
  · exact h
  · exact h.refocus
  · exact h.refocus

theorem State.Kept.focusOn {s : State} {id : Nat} (h : s.Kept none m c) : (s.focusOn id).Kept none m c := by
  unfold State.focusOn
  extract_lets
  split
  · exact h.unfocus.refocus
  · split
    · exact h.unfocus.refocus
    · exact h.unfocus

theorem State.Kept.modSquads {s : State} {p : Squad → Bool} {f : Squad → Squad} (h : s.Kept φ m c) : (s.modSquads p f).Kept φ m c := h.upd
theorem State.Kept.modMccs {s : State} {p : Mcc → Bool} {f : Mcc → Mcc} (h : s.Kept φ m c) : (s.modMccs p f).Kept φ m c := h.upd
theorem State.Kept.modSq {s : State} {f : Squad → Squad} (h : s.Kept φ m c) : (s.modSq f).Kept φ m c := h.upd
theorem State.Kept.modMcc {s : State} {f : Mcc → Mcc} (h : s.Kept φ m c) : (s.modMcc f).Kept φ m c := h.upd
theorem State.Kept.modTeam {s : State} {id : Nat} {f : Team → Team} (h : s.Kept φ m c) : (s.modTeam id f).Kept φ m c := h.upd
theorem State.Kept.modLaunch {s : State} {id : Nat} {f : Launch → Launch} (h : s.Kept φ m c) : (s.modLaunch id f).Kept φ m c := h.upd
theorem State.Kept.modCtx {s : State} {tag : Nat} {f : Ctx → Ctx} (h : s.Kept φ m c) : (s.modCtx tag f).Kept φ m c := h.upd
theorem State.Kept.fresh {s : State} (h : s.Kept φ m c) : (s.fresh).2.Kept φ m c := h.upd.pair
theorem State.Kept.observe {s : State} {st : Stamp} (h : s.Kept φ m c) : (s.observe st).Kept φ m c := h.modMcc.ite h.modSq
theorem State.Kept.raiseTide {s : State} {st : Stamp} (h : s.Kept φ m c) : (s.raiseTide st).Kept φ m c := h.modMcc.ite h.modSq
theorem State.Kept.tick {s : State} {n : Nat} (h : s.Kept φ m c) : (s.tick n).Kept φ m c := h.upd
theorem State.Kept.takeStamp {s : State} {die agent : Nat} (h : s.Kept φ m c) : (s.takeStamp die agent).2.Kept φ m c := h.upd.pair
theorem State.Kept.cuStamp {s : State} {cache : Nat} (h : s.Kept φ m c) : (s.cuStamp cache).2.Kept φ m c := h.takeStamp
theorem State.Kept.ownStamp {s : State} (h : s.Kept φ m c) : (s.ownStamp).2.Kept φ m c := h.takeStamp.iteSnd h.cuStamp
theorem State.Kept.setCsr {s : State} {scope n : Nat} {v : W} (h : s.Kept φ m c) : (s.setCsr scope n v).Kept φ m c := h.upd

theorem State.Kept.homeWrite {s : State} {key : Nat} {b : List Byte} (h : s.Kept φ m c) : (s.homeWrite key b).Kept φ m c := by
  induction b generalizing s key with
  | nil => exact h
  | cons x b ih => exact ih ⟨h.focus, fun hm => canon_put (h.mem hm) key x, h.scr⟩

theorem State.Kept.physWrite {s : State} {pa : Nat} {b : List Byte} (h : s.Kept φ m c) : (s.physWrite pa b).Kept φ m c := h.homeWrite
theorem State.Kept.carryPoison {s : State} {line : Nat} {a b : PoisonAt} {st : Stamp} (h : s.Kept φ m c) :
    (s.carryPoison line a b st).Kept φ m c := h.upd
theorem State.Kept.endPoison {s : State} {line : Nat} {a : PoisonAt} (h : s.Kept φ m c) : (s.endPoison line a).Kept φ m c := h.upd
theorem State.Kept.land {s : State} {line : Nat} {st : Stamp} {bytes : List (Nat × Byte)} {ctx : Nat} (h : s.Kept φ m c) :
    (s.land line st bytes ctx).Kept φ m c := h.upd
theorem State.Kept.ringPut {s : State} {r : Ring} {size : Nat} {b : List Byte} (h : s.Kept φ m c) :
    (s.ringPut r size b).Kept φ m c := h.physWrite.setCsr
theorem State.Kept.raiseHirq {s : State} {k : Nat} (h : s.Kept φ m c) : (s.raiseHirq k).Kept φ m c := h.ite h.upd

theorem State.Kept.flushErr {n : Nat} {s : State} (h : s.Kept φ m c) : (State.flushErr n s).Kept φ m c := by
  induction n generalizing s with
  | zero => exact h
  | succ n ih =>
    rw [State.flushErr]
    split
    · exact h
    · split
      · exact ih h.upd.ringPut.raiseHirq
      · exact ih h.upd.ringPut.raiseHirq
      · exact h

theorem State.Kept.error {s : State} {e : ErrRec} (h : s.Kept φ m c) : (s.error e).Kept φ m c := (h.upd.ite h.setCsr).flushErr
theorem State.Kept.report {s : State} {st : Stamp} {ctx kind addr detail : Nat} (h : s.Kept φ m c) :
    (s.report st ctx kind addr detail).Kept φ m c := h.upd.error

theorem State.Kept.flushFq {n : Nat} {s : State} (h : s.Kept φ m c) : (State.flushFq n s).Kept φ m c := by
  induction n generalizing s with
  | zero => exact h
  | succ n ih =>
    rw [State.flushFq]
    split
    · exact h
    · exact (ih h.upd.ringPut.raiseHirq).ite h

theorem State.Kept.flushStop {s : State} {tag n : Nat} (h : s.Kept φ m c) : (s.flushStop tag n).Kept φ m c := by
  induction n generalizing s with
  | zero => exact h
  | succ n ih =>
    rw [State.flushStop]
    split
    · exact h
    · exact (ih h.upd.ringPut).ite h

theorem State.Kept.setS {s : State} {n : Nat} {v : W} (h : s.Kept φ m c) : (s.setS n v).Kept φ m c := h.modMcc.ite h.modSq
theorem State.Kept.setS2 {s : State} {n : Nat} {v : D} (h : s.Kept φ m c) : (s.setS2 n v).Kept φ m c := h.setS.setS
theorem State.Kept.setScc {s : State} {b : Bool} (h : s.Kept φ m c) : (s.setScc b).Kept φ m c := h.modMcc.ite h.modSq
theorem State.Kept.setFmt {s : State} {v : Nat} (h : s.Kept φ m c) : (s.setFmt v).Kept φ m c := h.modMcc.ite h.modSq
theorem State.Kept.orFlags {s : State} {f : Nat} (h : s.Kept φ m c) : (s.orFlags f).Kept φ m c := h.modMcc.ite h.modSq
theorem State.Kept.setFlags {s : State} {v : Nat} (h : s.Kept φ m c) : (s.setFlags v).Kept φ m c := h.modMcc.ite h.modSq
theorem State.Kept.setPc {s : State} {pc : D} (h : s.Kept φ m c) : (s.setPc pc).Kept φ m c := h.modMcc.ite h.modSq
theorem State.Kept.advance {s : State} {len : Nat} (h : s.Kept φ m c) : (s.advance len).Kept φ m c := h.modMcc.ite h.modSq

/-! ## Observe -/

theorem State.Kept.setSampler {s : State} {p : Sampler} (h : s.Kept φ m c) : (s.setSampler p).Kept φ m c := h.upd
theorem State.Kept.sampleIssue {s : State} {cur : Cur} {isRet : Bool} {level : Nat} {lanes : Mask} (h : s.Kept φ m c) :
    (s.sampleIssue cur isRet level lanes).Kept φ m c := h.ite (h.ite (h.setSampler.upd.ite h.setSampler))
theorem State.Kept.putSample {s : State} {b : List Byte} (h : s.Kept φ m c) : (s.putSample b).Kept φ m c := h.ringPut.ite h.setCsr
theorem State.Kept.endTag {s : State} {p : Sampler} (h : s.Kept φ m c) : (s.endTag p).Kept φ m c := h.setSampler

theorem State.Kept.sampleEnd {s : State} {id : Nat} {cur : Cur} {replay : Bool} (h : s.Kept φ m c) : (s.sampleEnd id cur replay).Kept φ m c := by
  unfold State.sampleEnd
  split
  · exact h
  · exact h.endTag.putSample.upd

theorem State.Kept.sampleBack {s : State} (h : s.Kept φ m c) : (s.sampleBack).Kept φ m c := by
  unfold State.sampleBack
  split
  · exact h
  · extract_lets
    split
    · exact h.setSampler.ite h
    · exact h.setSampler

theorem State.Kept.sampleQuit {s : State} {id : Nat} (h : s.Kept φ m c) : (s.sampleQuit id).Kept φ m c := h.foldl (fun h => h.endTag)

theorem State.Kept.sampleDrop {s : State} {id : Nat} {cur : Cur} (h : s.Kept φ m c) : (s.sampleDrop id cur).Kept φ m c := by
  unfold State.sampleDrop
  split
  · exact h
  · exact h.endTag

/-! ## Ops -/

theorem State.Kept.toReplay {s : State} {id : Nat} (h : s.Kept φ m c) : (s.toReplay id).Kept φ m c := h.modSquads.upd.foldl (fun h => h.sampleEnd)
theorem State.Kept.fatalSquad {s : State} {t' : TrapInfo} {cur : Cur} (h : s.Kept φ m c) :
    (s.fatalSquad t' cur).Kept φ m c := (((h.ite h.modTeam.modSquads).toReplay).modSq).report
theorem State.Kept.fatalMcc {s : State} {t' : TrapInfo} {cur : Cur} (h : s.Kept φ m c) : (s.fatalMcc t' cur).Kept φ m c := h.modMcc.report

theorem State.Kept.takeTrap {s : State} {t' : TrapInfo} {cur : Cur} (h : s.Kept φ m c) :
    (s.takeTrap t' cur).Kept φ m c :=
  (((h.report.ite h).ite ((h.report.ite h).sampleDrop)).fatalMcc).ite ((((h.report.ite h).ite ((h.report.ite h).sampleDrop)).fatalSquad).ite ((((h.report.ite h).ite ((h.report.ite h).sampleDrop)).toReplay).modSq))

theorem State.Kept.haltSquad {s : State} (h : s.Kept φ m c) : (s.haltSquad).Kept φ m c := h.toReplay.modSq

/-! ## Memory -/

theorem State.Kept.scrWrite {s : State} {key : Nat} {b : List Byte} (h : s.Kept φ m c) : (s.scrWrite key b).Kept φ m c :=
  ⟨h.focus, h.mem, fun hc => s.scrWrite_canon (h.scr hc) key b⟩
theorem State.Kept.noteFull {s : State} (h : s.Kept φ m c) : s.noteFull.Kept φ m c := h.ite (h.upd.ite h.upd)

theorem State.Kept.reclaim {s : State} {line : Nat} (h : s.Kept φ m c) : (s.reclaim line).Kept φ m c := by
  refine State.Kept.noteFull ⟨h.focus, fun hm => ?_, h.scr⟩
  generalize List.foldl _ [] _ = l
  have hmem := h.mem hm
  revert hmem
  generalize s.mem = k
  induction l generalizing k with
  | nil => exact id
  | cons p l ih => exact fun hk => ih _ (foldPub_canon hk p)

theorem State.Kept.toPort {s : State} {dst req : Nat} {via : Option Nat} {b : FabBody} (h : s.Kept φ m c) :
    (s.toPort dst req via b).Kept φ m c := h.upd
theorem State.Kept.demandAs {s : State} {id dst die : Nat} {b : FabBody} {ctx : optParam Nat 32768} (h : s.Kept φ m c) :
    (s.demandAs id dst die b ctx).Kept φ m c := (h.ite h.toPort).upd
theorem State.Kept.demand {s : State} {dst die : Nat} {b : FabBody} {ctx : optParam Nat 32768} (h : s.Kept φ m c) :
    (s.demand dst die b ctx).Kept φ m c := h.fresh.demandAs
theorem State.Kept.demandOnce {s : State} {dst die : Nat} {b : FabBody} {ctx : optParam Nat 32768} (h : s.Kept φ m c) :
    (s.demandOnce dst die b ctx).Kept φ m c := h.ite h.demand
theorem State.Kept.sendMsg {s : State} {m' : Msg} (h : s.Kept φ m c) : (s.sendMsg m').Kept φ m c := h.fresh.upd.ite h.fresh.upd.demandAs
theorem State.Kept.send {s : State} {line : Nat} {st : Stamp} {bytes : List (Nat × Byte)} {man : Bool} {ctx : Nat} {squad mcc cmd : Option Nat} {pre : optParam (Option Stamp) none} (h : s.Kept φ m c) :
    (s.send line st bytes man ctx squad mcc cmd pre).Kept φ m c := h.sendMsg
theorem State.Kept.sendHeld {s : State} {line : Nat} {st : Stamp} {bytes : List (Nat × Byte)} {ctx : Nat} {squad : Option Nat} (h : s.Kept φ m c) :
    (s.sendHeld line st bytes ctx squad).Kept φ m c := h.sendMsg
theorem State.Kept.invalFar {s : State} {line : Nat} {st : Stamp} {pkgs : List Nat} (h : s.Kept φ m c) :
    (s.invalFar line st pkgs).Kept φ m c := h.foldl (fun h => h.demand)
theorem State.Kept.landed {s : State} {line : Nat} {st : Stamp} {bytes : List (Nat × Byte)} {ctx : Nat} (h : s.Kept φ m c) :
    (s.landed line st bytes ctx).Kept φ m c := h.sendHeld.ite (h.land.reclaim.noteFull.ite h.land.reclaim.noteFull.upd.invalFar)
theorem State.Kept.manualCopy {s : State} {place ctx line : Nat} (h : s.Kept φ m c) : (s.manualCopy place ctx line).Kept φ m c := h.upd
theorem State.Kept.mergeManual {s : State} {place line ctx : Nat} {bytes : List (Nat × Byte)} {dirty : Bool} (h : s.Kept φ m c) :
    (s.mergeManual place line ctx bytes dirty).Kept φ m c := (h.ite h.manualCopy).upd
theorem State.Kept.mergeHome {s : State} {line : Nat} {bytes : List (Nat × Byte)} (h : s.Kept φ m c) :
    (s.mergeHome line bytes).Kept φ m c := (h.foldl (fun h => h.homeWrite)).upd
theorem State.Kept.spreadPoison {s : State} {m' : Manual} {dest : PoisonAt} (h : s.Kept φ m c) : (s.spreadPoison m' dest).Kept φ m c := h.upd

theorem State.Kept.writeBack {s : State} {squad : Option Nat} {m' : Manual} (h : s.Kept φ m c) :
    (s.writeBack squad m').Kept φ m c :=
  ((((h.mergeManual.spreadPoison.ite h).mergeHome).spreadPoison).ite ((h.mergeManual.spreadPoison.ite h).ite ((((h.mergeManual.spreadPoison.ite h).send).modSquads).spreadPoison))).upd

theorem State.Kept.depart {s : State} {cache line : Nat} {next : Option L1St} (h : s.Kept φ m c) : (s.depart cache line next).Kept φ m c := by
  unfold State.depart
  extract_lets
  split
  · exact (h.ite h.cuStamp.landed.carryPoison).upd
  · exact (h.ite h.cuStamp.landed.carryPoison).upd

theorem State.Kept.sendBytes {s : State} {cache line ctx : Nat} {w : List (Nat × Byte)} (h : s.Kept φ m c) :
    (s.sendBytes cache line ctx w).Kept φ m c := ((h.fresh.pair.iteSnd h.fresh.cuStamp).upd).carryPoison
theorem State.Kept.keepPoison {s : State} {line : Nat} {c' : Stamp} {p : List Poison} (h : s.Kept φ m c) :
    (s.keepPoison line c' p).Kept φ m c := h.upd
theorem State.Kept.collapseAt {s : State} {h' : Home} {c' : Stamp} (h : s.Kept φ m c) :
    (s.collapseAt h' c').Kept φ m c := h.modSquads.landed.keepPoison.upd
theorem State.Kept.stampOver {s : State} {die agent : Nat} {lines : List Nat} (h : s.Kept φ m c) :
    (s.stampOver die agent lines).2.Kept φ m c := h.takeStamp.iteSnd h.upd.takeStamp

theorem State.Kept.collapse {s : State} {line die agent : Nat} (h : s.Kept φ m c) : (s.collapse line die agent).2.Kept φ m c := by
  unfold State.collapse
  split
  · exact h.pair
  · exact h.stampOver.collapseAt.pair

theorem State.Kept.collapseCu {s : State} {cache line : Nat} (h : s.Kept φ m c) : (s.collapseCu cache line).2.Kept φ m c := h.collapse
theorem State.Kept.trimFilter {s : State} {die line : Nat} (h : s.Kept φ m c) : (s.trimFilter die line).Kept φ m c := h.upd
theorem State.Kept.forgetOwner {s : State} {cache line : Nat} (h : s.Kept φ m c) : (s.forgetOwner cache line).Kept φ m c := h.upd

theorem State.Kept.evict {s : State} {v : Victim} (h : s.Kept φ m c) : (s.evict v).Kept φ m c := by
  unfold State.evict
  split
  · exact h.upd.trimFilter
  · exact ((h.ite h.writeBack).upd).endPoison
  · exact h.sendBytes.upd.ite h.depart.forgetOwner.trimFilter
  · exact h.upd

theorem State.Kept.makeWay {s : State} {cache line extra : Nat} (h : s.Kept φ m c) : OptKept φ m c (s.makeWay cache line extra) := by
  unfold State.makeWay
  split
  · exact .some h
  · split
    · exact .none
    · exact .some h.upd.evict

theorem State.Kept.wayFor {s : State} {cache line : Nat} (h : s.Kept φ m c) : (s.wayFor cache line).Kept φ m c := h.makeWay.getD h

theorem State.Kept.makeWays {cache : Nat} {seen l : List Nat} {s : State} (h : s.Kept φ m c) : (State.makeWays cache seen l s).Kept φ m c := by
  induction l generalizing seen s with
  | nil => exact h
  | cons x l ih => exact ih (h.makeWay.getD h)

theorem State.Kept.dropFromDie {s : State} {die line : Nat} (h : s.Kept φ m c) :
    (s.dropFromDie die line).Kept φ m c := (h.foldl (fun h => h.depart.forgetOwner)).upd

theorem State.Kept.filterRoom {s : State} {die line : Nat} (h : s.Kept φ m c) : (s.filterRoom die line).Kept φ m c := by
  unfold State.filterRoom
  split
  · exact h
  · split
    · exact h
    · exact h.upd.dropFromDie

theorem State.Kept.filterNote {s : State} {die line : Nat} {cs : List Nat} (h : s.Kept φ m c) : (s.filterNote die line cs).Kept φ m c := by
  unfold State.filterNote
  split
  · exact h.ite h.upd
  · exact h.filterRoom.upd

theorem State.Kept.filterAdd {s : State} {cache line : Nat} (h : s.Kept φ m c) : (s.filterAdd cache line).Kept φ m c := h.filterNote
theorem State.Kept.takeWay {s : State} {cache line : Nat} (h : s.Kept φ m c) : OptKept φ m c (s.takeWay cache line) := .ite h.makeWay .none

theorem State.Kept.l2Way {s : State} {die line : Nat} (h : s.Kept φ m c) : (s.l2Way die line).Kept φ m c := by
  unfold State.l2Way
  extract_lets
  split
  · exact h
  · exact h.ite h.upd.evict

theorem State.Kept.fillL2 {s : State} {die line : Nat} {t' : Stamp} (h : s.Kept φ m c) :
    (s.fillL2 die line t').Kept φ m c := h.ite h.l2Way.upd.filterNote
theorem State.Kept.manualL2 {s : State} {die ctx line : Nat} (h : s.Kept φ m c) : (s.manualL2 die ctx line).Kept φ m c := h.ite h.l2Way.manualCopy

theorem State.Kept.fillCopy {s : State} {cache line : Nat} {t' : Stamp} (h : s.Kept φ m c) : (s.fillCopy cache line t').Kept φ m c := by
  unfold State.fillCopy
  split
  · exact h
  · extract_lets
    split
    · exact ((((((h.ite h.upd).fillL2).takeWay) _ ‹_›)).upd).filterAdd
    · exact (h.ite h.upd).fillL2

theorem State.Kept.fill {s : State} {cache ctx : Nat} {l : Leaf} {t' : Stamp} {key : Nat} (h : s.Kept φ m c) :
    (s.fill cache ctx l t' key).Kept φ m c := by
  unfold State.fill
  extract_lets
  split
  · split
    · exact h
    · split
      · exact (h.manualL2.makeWay _ ‹_›).manualCopy
      · exact h.manualL2
  · exact h.fillCopy

theorem State.Kept.trimCopies {s : State} (h : s.Kept φ m c) : (s.trimCopies).Kept φ m c := h.upd

theorem State.Kept.preCollapse {s : State} {cache : Nat} {l : List PLine} (h : s.Kept φ m c) : (s.preCollapse cache l).Kept φ m c := by
  induction l generalizing s with
  | nil => exact h
  | cons p l ih => exact ih (h.collapseCu.ite h)

theorem State.Kept.preStamp {s : State} {lines : List PLine} {take : State → Stamp × State} (h : s.Kept φ m c) (htake : ∀ {t}, t.Kept φ m c → (take t).2.Kept φ m c) :
    (s.preStamp lines take).2.Kept φ m c := ((htake h).pair).iteSnd h.pair

theorem State.Kept.sendLines {s : State} {pre : Option Stamp} {st : Stamp} {l : List PLine} (h : s.Kept φ m c) :
    (s.sendLines pre st l).Kept φ m c := by
  induction l generalizing s with
  | nil => exact h
  | cons p l ih => exact ih (h.wayFor.mergeManual.carryPoison.ite h.send.carryPoison.modSq)

theorem State.Kept.sendOwned {s : State} {st : Stamp} {l : List L1} (h : s.Kept φ m c) : (s.sendOwned st l).Kept φ m c := by
  induction l generalizing s with
  | nil => exact h
  | cons e l ih => exact ih h.sendHeld.carryPoison.modSq.upd

theorem State.Kept.publishSome {s : State} {p : PLine → Bool} {all : Bool} (h : s.Kept φ m c) :
    (s.publishSome p all).Kept φ m c := h.ite (((((h.upd.preCollapse.preStamp (fun h => h.cuStamp)).cuStamp).sendLines).sendOwned).modSq)

theorem State.Kept.publishEpi {s : State} {p : PLine → Bool} (h : s.Kept φ m c) :
    (s.publishEpi p).Kept φ m c :=
  h.ite ((((((h.foldl (fun h => h.collapse.ite h)).preStamp (fun h => h.ownStamp)).ownStamp).foldl (fun h => (h.foldl (fun h => h.scrWrite)).ite h.send.modMcc)).modLaunch).modMcc)

theorem State.Kept.publish {s : State} (h : s.Kept φ m c) : (s.publish).Kept φ m c := h.publishEpi.ite h.publishSome
theorem State.Kept.settle {s : State} (h : s.Kept φ m c) : (s.settle).Kept φ m c := h.upd
theorem State.Kept.renew {s : State} (h : s.Kept φ m c) : (s.renew).Kept φ m c := h.modMcc.ite h.modSq.trimCopies
theorem State.Kept.setHome {s : State} {h' : Home} (h : s.Kept φ m c) : (s.setHome h').Kept φ m c := h.upd
theorem State.Kept.recallOthers {s : State} {cache line : Nat} {share : Bool} (h : s.Kept φ m c) :
    (s.recallOthers cache line share).Kept φ m c := h.foldl (fun h => h.depart.ite (h.ite h.depart.trimFilter))

theorem State.Kept.gain {s : State} {cache line ctx : Nat} {excl : Bool} (h : s.Kept φ m c) : (s.gain cache line ctx excl).Kept φ m c := by
  unfold State.gain
  split
  · exact h.ite (h.recallOthers.upd.setHome.ite h)
  · exact h.recallOthers.wayFor.upd.setHome.filterAdd

theorem State.Kept.ownWrite {s : State} {cache squad key : Nat} {b : List Byte} (h : s.Kept φ m c) :
    (s.ownWrite cache squad key b).Kept φ m c := h.upd
theorem State.Kept.ordered {s : State} {line : Nat} {excl : Bool} (h : s.Kept φ m c) : (s.ordered line excl).Kept φ m c := h.collapseCu.gain

theorem State.Kept.obtainA {s : State} {cache line op ty : Nat} (h : s.Kept φ m c) :
    (s.obtainA cache line op ty).Kept φ m c :=
  (((((((((h.ite h.collapseCu).recallOthers).depart).ite ((h.ite h.collapseCu).recallOthers)).ite ((((((h.ite h.collapseCu).recallOthers).depart).ite ((h.ite h.collapseCu).recallOthers)).cuStamp).setHome)).setHome).wayFor).upd).ite ((((((((h.ite h.collapseCu).recallOthers).depart).ite ((h.ite h.collapseCu).recallOthers)).ite ((((((h.ite h.collapseCu).recallOthers).depart).ite ((h.ite h.collapseCu).recallOthers)).cuStamp).setHome)).setHome).wayFor).upd)).filterAdd

theorem State.Kept.foldInto {s : State} {cache line op ty i v : Nat} (h : s.Kept φ m c) :
    (s.foldInto cache line op ty i v).Kept φ m c := h.upd.orFlags

end

end Sys2Proof.Machine

/-! # Proofs: every operation keeps the canonical form: homes, synchronisation and issue -/

namespace Sys2Proof.Machine

section
variable {φ : Option Focus} {m c : Prop}

/-! ## Home -/

theorem State.Kept.ackMsg {s : State} {id : Nat} (h : s.Kept φ m c) : (s.ackMsg id).Kept φ m c := by
  unfold State.ackMsg
  split
  · exact h
  · exact (((by split; exacts [h.upd.toPort, h.upd] : State.Kept _ _ _ _).modSquads).modMccs).upd

theorem State.Kept.ask {s : State} {n : Need} {line : Nat} (h : s.Kept φ m c) : (s.ask n line).Kept φ m c := by
  unfold State.ask
  extract_lets
  split
  · split
    · exact h.demandOnce
    · exact h.demandOnce
  · split
    · exact h.ite h.ownStamp.demand
    · exact h.demandOnce

theorem State.Kept.askData {s : State} {die ctx line : Nat} {man : Bool} {t' : Stamp} (h : s.Kept φ m c) :
    (s.askData die ctx line man t').Kept φ m c := h.demandOnce
theorem State.Kept.leaveLines {s : State} {agent : Nat} (h : s.Kept φ m c) : (s.leaveLines agent).Kept φ m c := h.upd
theorem State.Kept.sendData {s : State} {line c' : Nat} {t' : Option Stamp} (h : s.Kept φ m c) : (s.sendData line c' t').Kept φ m c := h.toPort

theorem State.Kept.grantTo {s : State} {h' : Home} {r : HomeReq} (h : s.Kept φ m c) : (s.grantTo h' r).Kept φ m c := by
  unfold State.grantTo
  split
  · exact h.setHome.sendData.ite (h.setHome.ite h.setHome)
  · exact h.setHome
  · exact h.setHome.toPort.ite h.setHome
  · exact h

theorem State.Kept.sendPart {s : State} {h' : Home} {die : Nat} {words : List (Nat × D)} (h : s.Kept φ m c) :
    (s.sendPart h' die words).Kept φ m c := h.demand

theorem State.Kept.startCollapse {s : State} {h' : Home} {r : HomeReq} (h : s.Kept φ m c) : (s.startCollapse h' r).Kept φ m c := by
  unfold State.startCollapse
  split
  · exact h.setHome.foldl (fun h => h.demand)
  · split
    · exact ((h.foldl (fun h => h.sendPart)).setHome).ite ((h.foldl (fun h => h.sendPart)).setHome)
    · exact h.setHome.demandOnce

theorem State.Kept.recallGrants {s : State} {p : Grant → Bool} (h : s.Kept φ m c) :
    (s.recallGrants p).Kept φ m c := (h.upd.foldl (fun h => h.demandOnce)).foldl (fun h => h.startCollapse.ite h.setHome)
theorem State.Kept.callBack {s : State} {line : Nat} {n : Need} {pkg : Nat} (h : s.Kept φ m c) : (s.callBack line n pkg).Kept φ m c := h.recallGrants
theorem State.Kept.eventStamp {s : State} {m' : Msg} (h : s.Kept φ m c) : (s.eventStamp m').2.Kept φ m c := h.pair.iteSnd h.stampOver

theorem State.Kept.publishAt {s : State} {h' : Home} {id : Nat} (h : s.Kept φ m c) : (s.publishAt h' id).Kept φ m c := by
  unfold State.publishAt
  split
  · exact h
  · exact (((h.ite h.setCsr).upd).setHome).ite (h.eventStamp.land.carryPoison.reclaim.noteFull.upd.ackMsg.ite h.eventStamp.land.carryPoison.reclaim.noteFull.upd.setHome.invalFar)

theorem State.Kept.staleFrom {s : State} {line : Nat} {st : Stamp} (h : s.Kept φ m c) : (s.staleFrom line st).Kept φ m c := h.upd
theorem State.Kept.invalHere {s : State} {h' : Home} {pkg req : Nat} {st : Stamp} (h : s.Kept φ m c) :
    (s.invalHere h' pkg req st).Kept φ m c := h.staleFrom.setHome.ite h.staleFrom.toPort
theorem State.Kept.readAt {s : State} {c' line : Nat} {t' : Stamp} (h : s.Kept φ m c) : (s.readAt c' line t').Kept φ m c := h.sendData.ite h.fillCopy

theorem State.Kept.serve {s : State} {line : Nat} {r : HomeReq} (h : s.Kept φ m c) : (s.serve line r).Kept φ m c := by
  unfold State.serve
  extract_lets
  split
  · exact h.grantTo.ite h.startCollapse
  · exact h.invalHere
  · exact h.startCollapse.ite h.readAt
  · exact h.startCollapse
  · exact h.readAt
  · exact h.foldl (fun h => h.sendPart)
  · exact h
  · exact h
  · exact h.setHome
  · exact h.publishAt
  · exact h.grantTo
  · exact h.setHome.ite h.grantTo
  · exact h.setHome.ite h.grantTo

theorem State.Kept.tidyHome {s : State} {line : Nat} (h : s.Kept φ m c) : (s.tidyHome line).Kept φ m c := h.upd

theorem State.Kept.serveNext {line n : Nat} {s : State} (h : s.Kept φ m c) : (State.serveNext line n s).Kept φ m c := by
  induction n generalizing s with
  | zero => exact h.tidyHome
  | succ n ih =>
    rw [State.serveNext]
    split
    · exact h.ite h.setHome.tidyHome
    · exact h
    · exact h.callBack.ite (ih h.setHome.serve)

theorem State.Kept.serveAll {s : State} {line : Nat} (h : s.Kept φ m c) : (s.serveAll line).Kept φ m c := h.serveNext
theorem State.Kept.arrive {s : State} {line : Nat} {r : HomeReq} (h : s.Kept φ m c) : (s.arrive line r).Kept φ m c := (h.ite h.setHome).serveAll
theorem State.Kept.arriveFirst {s : State} {line : Nat} {r : HomeReq} (h : s.Kept φ m c) : (s.arriveFirst line r).Kept φ m c := h.setHome.serveAll
theorem State.Kept.joinLine {s : State} {agent line : Nat} (h : s.Kept φ m c) : (s.joinLine agent line).Kept φ m c := h.ite h.leaveLines.setHome
theorem State.Kept.standIn {s : State} {line : Nat} (h : s.Kept φ m c) : (s.standIn line).Kept φ m c := h.modMcc.ite h.modSq

theorem State.Kept.awaitAs {s : State} {agent src : Nat} {n : Need} {line : Nat} (h : s.Kept φ m c) :
    (s.awaitAs agent src n line).Kept φ m c :=
  (((h.setCsr.ite h).callBack).joinLine).ite (((((h.setCsr.ite h).callBack).joinLine).demandOnce).ite (((((h.setCsr.ite h).callBack).joinLine).startCollapse).ite (((h.setCsr.ite h).callBack).joinLine)))

theorem State.Kept.await {s : State} {n : Need} {line : Nat} (h : s.Kept φ m c) : (s.await n line).Kept φ m c := h.standIn.awaitAs

/-! ## Sync -/

theorem State.Kept.makeSet {s : State} {ctx cl : Nat} (h : s.Kept φ m c) : (s.makeSet ctx cl).Kept φ m c := h.ite h.upd
theorem State.Kept.modTl {s : State} {ctx cl place : Nat} {f : Timeline → Timeline} (h : s.Kept φ m c) :
    (s.modTl ctx cl place f).Kept φ m c := h.makeSet.upd
theorem State.Kept.issueCmd {s : State} {kind : CmdKind} {place : Nat} {group : List W} {mode : Nat} {two : Bool} {comp compEa : Nat} {addend : W} {key : Nat} {lines : List Nat} (h : s.Kept φ m c) :
    (s.issueCmd kind place group mode two comp compEa addend key lines).Kept φ m c := h.fresh.modTl.upd
theorem State.Kept.raiseArrival {s : State} {cache : Nat} {st : Stamp} (h : s.Kept φ m c) : (s.raiseArrival cache st).Kept φ m c := h.upd
theorem State.Kept.addCounter {s : State} {key addend : Nat} {st : Stamp} (h : s.Kept φ m c) :
    (s.addCounter key addend st).Kept φ m c := h.scrWrite.raiseArrival
theorem State.Kept.letGo {s : State} {who : Squad → Bool} {p : MOp → Bool} {g : Stamp} (h : s.Kept φ m c) :
    (s.letGo who p g).Kept φ m c := h.modSquads.upd
theorem State.Kept.arriveAt {s : State} {o : BarObj} {st : Stamp} (h : s.Kept φ m c) : (s.arriveAt o st).Kept φ m c := h.upd.ite h.upd.letGo.modMccs
theorem State.Kept.setObj {s : State} {o : BarObj} (h : s.Kept φ m c) : (s.setObj o).Kept φ m c := h.upd
theorem State.Kept.releaseLevel {s : State} {b : LvlBar} {g : Stamp} (h : s.Kept φ m c) : (s.releaseLevel b g).Kept φ m c := h.letGo
theorem State.Kept.testLevels {s : State} {l : Launch} (h : s.Kept φ m c) :
    (s.testLevels l).Kept φ m c := h.upd.foldl (fun h => h.releaseLevel.foldl (fun h => h.demand))

theorem State.Kept.joinLevels {s : State} {u : Team} (h : s.Kept φ m c) : (s.joinLevels u).Kept φ m c := by
  unfold State.joinLevels
  split
  · exact h
  · exact (h.foldl (fun h => (by split; exacts [h, h.modTeam.upd.ite h] : State.Kept _ _ _ _))).testLevels

theorem State.Kept.arriveLevel {s : State} {u : Team} {b : LvlBar} (h : s.Kept φ m c) : (s.arriveLevel u b).Kept φ m c := h.upd.modTeam.joinLevels
theorem State.Kept.testBar {s : State} {u : Team} {bid : Nat} {b : HwBar} (h : s.Kept φ m c) :
    (s.testBar u bid b).Kept φ m c := h.modTeam.ite h.modTeam.letGo

theorem State.Kept.recheck {s : State} {team : Nat} (h : s.Kept φ m c) : (s.recheck team).Kept φ m c := by
  unfold State.recheck
  cases s.teams.find? (·.id == team) with
  | none => dsimp only; split; exacts [h.joinLevels, h]
  | some u =>
    have hf := h.foldl (l := List.range 16)
      (f := fun s i => if (nth HwBar.zero u.bars i).count = 0 then s.testBar u i (nth HwBar.zero u.bars i) else s) (fun h => h.testBar.ite h)
    dsimp only
    split
    exacts [hf.joinLevels, hf]

theorem State.Kept.setChan {s : State} {c' : Chan} (h : s.Kept φ m c) : (s.setChan c').Kept φ m c := h.upd

theorem State.Kept.dropWaits {s : State} {m' : Mcc} (h : s.Kept φ m c) : (s.dropWaits m').Kept φ m c :=
  h.foldl (fun {s o} h => by
    split
    · next k _ =>
      cases s.objOf k
      exacts [h, h.setObj]
    · exact h.setChan
    · exact h)

theorem State.Kept.landRec {s : State} {cl : Nat} {l : Launch} {entry : D} {words : List W} {obs : Stamp} (h : s.Kept φ m c) :
    OptKept φ m c (s.landRec cl l entry words obs) := by
  unfold State.landRec
  extract_lets
  split
  · exact .some h.upd
  · split
    · exact .some h.upd
    · exact .none

theorem State.Kept.setQueue {s : State} {r : Queue} (h : s.Kept φ m c) : (s.setQueue r).Kept φ m c := h.upd
theorem State.Kept.landAtHome {s : State} {die agent key : Nat} {st : Stamp} {b : List Byte} (h : s.Kept φ m c) :
    (s.landAtHome die agent key st b).Kept φ m c := h.collapse.recallOthers.landed
theorem State.Kept.takeRole {s : State} {n : Nat} (h : s.Kept φ m c) : (s.takeRole n).Kept φ m c := h.modSq

theorem State.Kept.lutPair {s : State} (h : s.Kept φ m c) : OptSndKept φ m c (s.lutPair) := by
  unfold State.lutPair
  split
  · exact .none
  · split
    · exact .some h
    · split
      · exact .some h.modTeam.upd
      · exact .none

theorem State.Kept.lutWrite {s : State} {n : Nat} {flip : Bool} {base : Nat} {lanes : Mask} {vals slopes : List W} (h : s.Kept φ m c) :
    (s.lutWrite n flip base lanes vals slopes).Kept φ m c := h.upd
theorem State.Kept.walkCopy {s : State} {op : Nat} {whole : Bool} {m' : Manual} (h : s.Kept φ m c) :
    (s.walkCopy op whole m').Kept φ m c := (h.ite (h.writeBack.ite h)).ite (((h.ite (h.writeBack.ite h)).upd).endPoison)

theorem State.Kept.walkLine {s : State} {op ctx place die line : Nat} {whole : Bool} (h : s.Kept φ m c) :
    (s.walkLine op ctx place die line whole).Kept φ m c := by
  unfold State.walkLine
  cases s.manual.find? (fun m => m.place == place && m.line == line && m.ctx == ctx) with
  | none => dsimp only; split; exacts [h.walkCopy, h]
  | some k =>
    have hk : State.Kept φ m c (if place < 512 then s.walkCopy op whole k else s) := h.walkCopy.ite h
    dsimp only
    split
    exacts [hk.walkCopy, hk]

theorem State.Kept.walkRange {s : State} {op lo len : Nat} (h : s.Kept φ m c) :
    (s.walkRange op lo len).Kept φ m c := h.ite (h.foldl (fun h => h.walkLine))
theorem State.Kept.ringWrite {s : State} {va : Nat} {st : Stamp} {b : List Byte} (h : s.Kept φ m c) : (s.ringWrite va st b).Kept φ m c := h.landAtHome
theorem State.Kept.enqAt {s : State} {va : Nat} {es : List D} (h : s.Kept φ m c) :
    (s.enqAt va es).Kept φ m c := h.stampOver.setScc.ite (((h.stampOver.foldl (fun h => h.ringWrite.upd)).ringWrite).setScc)
theorem State.Kept.deqAt {s : State} {va d c' : Nat} {lanes : Mask} (h : s.Kept φ m c) :
    (s.deqAt va d c' lanes).Kept φ m c := ((h.stampOver.ringWrite.modSq.ite h.stampOver.ringWrite.modSq.modSq).setScc).observe

theorem State.Kept.atomLane {s : State} {op ty d : Nat} {rel : Bool} {lane key : Nat} (h : s.Kept φ m c) :
    (s.atomLane op ty d rel lane key).Kept φ m c :=
  ((h.ordered.ownWrite.orFlags.modSq.ite h.ordered.ownWrite.orFlags.modSq).upd).ite (h.ordered.ownWrite.orFlags.modSq.ite h.ordered.ownWrite.orFlags.modSq)

theorem State.Kept.atLines {s : State} {k : AKind} {n : Need} {remote : Bool} {vas : List Nat} {m' : MOp} {go : State → State} (h : s.Kept φ m c) (hgo : ∀ {t}, t.Kept φ m c → (go t).Kept φ m c) :
    (s.atLines k n remote vas m' go).Kept φ m c := by
  unfold State.atLines
  split
  · exact h
  · split
    · exact .ite h.ask h.ask
    · split
      · exact h.await
      · exact .ite (hgo h) h

theorem State.Kept.acqNow {s : State} {d w : Nat} {acc : List (Nat × Nat)} (h : s.Kept φ m c) :
    (s.acqNow d w acc).Kept φ m c := h.foldl (fun h => h.ordered.modSq.observe)
theorem State.Kept.relNow {s : State} {acc : List (Nat × Nat × Nat × Nat)} (h : s.Kept φ m c) :
    (s.relNow acc).Kept φ m c := h.foldl (fun h => h.ordered.ownWrite.upd)
theorem State.Kept.atomNow {s : State} {op ty d : Nat} {acq rel : Bool} {acc : List (Nat × Nat)} (h : s.Kept φ m c) :
    (s.atomNow op ty d acq rel acc).Kept φ m c := ((h.foldl (fun h => h.atomLane)).observe).ite (h.foldl (fun h => h.atomLane))

theorem State.Kept.collapseFor {s : State} {l : List Nat} (h : s.Kept φ m c) : (s.collapseFor l).Kept φ m c := by
  induction l generalizing s with
  | nil => exact h
  | cons x l ih =>
    refine ih ?_
    split
    exacts [h.collapseCu.observe, h.collapseCu]

theorem State.Kept.ldsNow {s : State} {d w : Nat} {acc : List (Nat × Nat × Nat)} (h : s.Kept φ m c) : (s.ldsNow d w acc).Kept φ m c := h.modSq
theorem State.Kept.ldsmNow {s : State} {op9 c' d : Nat} {rows : List (Nat × Nat)} {lanes : Mask} (h : s.Kept φ m c) :
    (s.ldsmNow op9 c' d rows lanes).Kept φ m c := h.modSq
theorem State.Kept.stsNow {s : State} {acc : List (Nat × Nat × Nat × Nat)} (h : s.Kept φ m c) :
    (s.stsNow acc).Kept φ m c := h.foldl (fun h => h.scrWrite)

theorem State.Kept.atScratch {s : State} {reads : Bool} {spans : List (Nat × Nat × Nat)} {m' : MOp} {go : State → State} (h : s.Kept φ m c) (hgo : ∀ {t}, t.Kept φ m c → (go t).Kept φ m c) :
    (s.atScratch reads spans m' go).Kept φ m c := by
  unfold State.atScratch
  split
  · exact h
  · split
    · exact h
    · exact hgo h

theorem State.Kept.rcpyNow {s : State} {d x : Nat} {group : List W} (h : s.Kept φ m c) :
    (s.rcpyNow d x group).Kept φ m c := (((h.modTeam.ite h).issueCmd).modSq).setS2
theorem State.Kept.leaveTx {s : State} {code : Nat} {ok : Bool} (h : s.Kept φ m c) : (s.leaveTx code ok).Kept φ m c := h.modSq.upd

theorem State.Kept.txLockStep {s : State} {st : Stamp} {lines : List Nat} (h : s.Kept φ m c) : (s.txLockStep st lines).Kept φ m c := by
  unfold State.txLockStep
  split
  · exact h.leaveTx
  · exact h.leaveTx
  · extract_lets f take
    have htake {t : State} (h : t.Kept φ m c) : (take t).Kept φ m c :=
      .ite h.upd.collapseCu.leaveTx (.ite h.upd.collapseCu.upd h.upd.collapseCu)
    split
    · exact h.ask
    split
    · exact h.await
    split
    · exact htake h
    · exact .ite h.await (.ite h.leaveTx (htake h.upd.modSquads))

theorem State.Kept.txCommitNow {s : State} {c' : Stamp} (h : s.Kept φ m c) :
    (s.txCommitNow c').Kept φ m c := (((h.foldl (fun h => h.recallOthers.landed.carryPoison)).modSq).leaveTx).observe

theorem State.Kept.txCommitStep {s : State} {c' : Stamp} (h : s.Kept φ m c) : (s.txCommitStep c').Kept φ m c := by
  unfold State.txCommitStep
  split
  · exact h.leaveTx
  · split
    · exact h.await
    · exact h.txCommitNow

theorem State.Kept.publishStep {s : State} {m' : MOp} (h : s.Kept φ m c) : (s.publishStep m').Kept φ m c := by
  unfold State.publishStep
  split
  · exact h
  · split
    · exact h.await
    · exact h.publish

theorem State.Kept.exitPublish {s : State} (h : s.Kept φ m c) : (s.exitPublish).Kept φ m c := h.publish.modLaunch.modSq

theorem State.Kept.exitStep {s : State} (h : s.Kept φ m c) : (s.exitStep).Kept φ m c := by
  unfold State.exitStep
  split
  · exact h
  · split
    · exact h.await
    · exact h.exitPublish

theorem State.Kept.fenceOver {s : State} {sig : Option (Nat × Nat)} (h : s.Kept φ m c) : (s.fenceOver sig).Kept φ m c := by
  unfold State.fenceOver
  extract_lets
  split
  · exact h.modTl.modMcc.addCounter
  · exact h.modTl.modMcc

theorem State.Kept.postNow {s : State} {ea q ring lsize : Nat} (h : s.Kept φ m c) :
    (s.postNow ea q ring lsize).Kept φ m c := h.stampOver.landAtHome.setQueue.setScc
theorem State.Kept.wordRead {s : State} {line : Nat} (h : s.Kept φ m c) : (s.wordRead line).Kept φ m c := h.collapse.recallOthers.ite h.ordered

theorem State.Kept.runOp {o : MOp} {s : State} (h : s.Kept φ m c) : (Machine.runOp o s).Kept φ m c := by
  unfold Machine.runOp
  split
  · exact h.publishStep
  · exact .ite h h
  · exact h.observe
  · exact .ite h.settle.renew h.settle
  · exact h.modSq
  · exact h.atLines (fun h => h.relNow)
  · split
    · exact h.await
    · exact h.collapseFor
  · exact h.atLines (fun h => h.acqNow)
  · exact h.atLines (fun h => h.atomNow)
  · exact h.txLockStep
  · exact h.txCommitStep
  · exact h
  · split
    · exact h
    · split
      · exact h
      · dsimp only
        split
        · split; exacts [h.arriveAt.setS, h.arriveAt]
        · split
          · refine State.Kept.observe ?_
            split; exacts [h.arriveAt.setS, h.arriveAt]
          · refine State.Kept.setObj ?_
            split; exacts [h.arriveAt.setS, h.arriveAt]
  · split
    · exact h
    · exact .ite h.observe h
  · split
    · exact h
    · exact .ite h (.ite h.testBar.observe h.testBar)
  · split
    · exact h
    · exact .ite h.observe h
  · split
    · split
      · exact h
      · exact .ite h.arriveLevel.observe h.arriveLevel
    · exact h
  · split
    · split
      · exact h
      · exact .ite h.observe h
    · exact h
  · exact .ite h.observe h
  · split
    · exact h
    · split
      · exact h
      · exact .ite h.observe h
  · split
    · exact h
    · extract_lets
      split
      · split; exacts [h.ask, h.await, h]
      · exact .ite h.wordRead.observe h.wordRead.leaveLines
  · exact h.atScratch (fun h => h.ldsNow)
  · exact h.atScratch (fun h => h.ldsmNow)
  · exact h.atScratch (fun h => h.stsNow)
  · split
    · exact h
    · split
      · exact (h.landRec _ ‹_›)
      · exact h
  · extract_lets
    split
    · exact h
    · split
      · exact h
      · split
        · exact h
        · exact .ite h.setQueue.setScc (.ite h.await h.postNow)
  · exact .ite h.setChan (.ite h.setChan h)
  · extract_lets
    split
    · exact h
    · exact h.setChan.setS2.observe
  · exact .ite h.takeRole h
  · extract_lets
    split
    · exact h
    · exact h.scrWrite
  · exact .ite h (.ite h h.rcpyNow)
  · split
    · exact h
    · split
      · exact h
      · exact (h.lutPair _ ‹_›).lutWrite
  · exact .ite h h.modTeam
  · exact h.walkRange
  · exact .ite h h
  · exact h.fenceOver
  · exact h.modLaunch.modMcc
  · exact h.exitStep

theorem State.Kept.setTodo {s : State} {l : List MOp} (h : s.Kept φ m c) : (s.setTodo l).Kept φ m c := h.modMcc.ite h.modSq
theorem State.Kept.block {s : State} {w : Wake} {l : List MOp} (h : s.Kept φ m c) : (s.block w l).Kept φ m c := h.modMcc.ite h.modSq
theorem State.Kept.stay {s : State} {l : List MOp} (h : s.Kept φ m c) : (s.stay l).Kept φ m c := h.modMcc.ite h.modSq
theorem State.Kept.complete {s : State} (h : s.Kept φ m c) : (s.complete).Kept φ m c := h.modMcc.ite h.modSq.sampleEnd
theorem State.Kept.again {s : State} (h : s.Kept φ m c) : (s.again).Kept φ m c := h.modMcc.ite h.modSq
theorem State.Kept.rewind {s : State} (h : s.Kept φ m c) : (s.rewind).Kept φ m c := h.modMcc.ite h.modSq

theorem State.Kept.runList {l : List MOp} {s : State} (h : s.Kept φ m c) : (Machine.runList l s).Kept φ m c := by
  induction l generalizing s with
  | nil => exact h.complete
  | cons o l ih =>
    have hr := h.runOp (o := o)
    by_cases ho : o = .reissue
    · subst ho; exact h.rewind.again
    · rw [Machine.runList]
      · revert hr
        cases Machine.runOp o s with
        | ok t => exact fun hr => ih hr
        | wait w t p => exact fun hr => State.Kept.block hr
        | more t p => exact fun hr => State.Kept.stay hr
        | redo t => exact fun hr => (State.Kept.sampleBack hr).rewind.again
        | trap i t => exact fun hr => (State.Kept.rewind hr).takeTrap
      · exact ho

/-! ## Issue -/

theorem State.Kept.retireSfu {s : State} {e : SfuEnt} (h : s.Kept φ m c) : (s.retireSfu e).Kept φ m c := h.upd.modSquads.sampleEnd
theorem State.Kept.drain {s : State} {p : SfuEnt → Bool} (h : s.Kept φ m c) : (s.drain p).Kept φ m c := h.foldl (fun h => h.retireSfu)
theorem State.Kept.drainAll {s : State} (h : s.Kept φ m c) : (s.drainAll).Kept φ m c := h.drain

theorem State.Kept.epiAdd {s : State} {l : PLine} (h : s.Kept φ m c) : (s.epiAdd l).Kept φ m c := by
  unfold State.epiAdd
  extract_lets
  split
  · exact (h.publishEpi.ite h).modMcc
  · exact (h.publishEpi.ite h).modMcc

theorem State.Kept.notePasses {s : State} (h : s.Kept φ m c) : (s.notePasses).Kept φ m c := h.upd

theorem State.Kept.retirePass {s : State} (h : s.Kept φ m c) : (s.retirePass).Kept φ m c := by
  unfold State.retirePass
  split
  · exact h
  · split
    · exact h
    · split
      · exact h.await
      · exact ((by split; exacts [h.upd, h] : State.Kept _ _ _ _).modMcc).foldl (fun h => h.epiAdd)

theorem State.Kept.drainQueue {s : State} (h : s.Kept φ m c) : (s.drainQueue).Kept φ m c := h.foldl (fun h => h.retirePass)
theorem State.Kept.started {s : State} {f : Form} (h : s.Kept φ m c) : (s.started f).Kept φ m c := h.modMcc.ite h.sampleIssue.modSq
theorem State.Kept.settleLate {s : State} {names : List Nat} (h : s.Kept φ m c) : (s.settleLate names).Kept φ m c := h.modSq
theorem State.Kept.ready {s : State} {f : Form} (h : s.Kept φ m c) :
    (s.ready f).Kept φ m c := (h.drainQueue.ite h).ite (h.drainAll.modSq.ite h.drain.settleLate)
theorem State.Kept.runTodo {s : State} (h : s.Kept φ m c) : (s.runTodo).Kept φ m c := h.runList
theorem State.Kept.setTurn {s : State} {n : Nat} (h : s.Kept φ m c) : (s.setTurn n).Kept φ m c := h.modSq
theorem State.Kept.unissued {s s1 : State} (h : s.Kept φ m c) : (s.unissued s1).Kept φ m c := h.ite h.modSq.upd

theorem State.Kept.finishIssue {len num : Nat} {s : State} {cur : Cur} {r : Res} (h : s.Kept φ m c) (hr : r.Kept φ m c) :
    OutKept φ m c (Machine.finishIssue len num s cur r) := by
  match r, hr with
  | .done u, hr => exact (State.Kept.setTurn hr).advance.runTodo
  | .jump u, hr => exact (State.Kept.setTurn hr).runTodo
  | .piped u, hr => exact (State.Kept.setTurn hr).advance
  | .trap i, _ => exact h.takeTrap
  | .park u, hr => exact State.Kept.unissued hr
  | .over u, hr => exact hr
  | .hold, _ => exact h

theorem State.Kept.illegal {s : State} {reason : Nat} {cur : Cur} (h : s.Kept φ m c) : (s.illegal reason cur).Kept φ m c := h.takeTrap

theorem State.Kept.issue {s : State} {f : Form} {body : State → Res} (h : s.Kept φ m c) (hbody : ∀ {t}, t.Kept φ m c → (body t).Kept φ m c) :
    OutKept φ m c (s.issue f body) := by
  unfold State.issue
  split
  · exact trivial
  · extract_lets
    split
    · exact h.illegal
    · split
      · exact h.finishIssue h.started
      · split
        · exact h.illegal
        · split
          · exact h.ready.takeTrap
          · exact .ite h.modSq (.ite h.ready (h.ready.finishIssue (hbody h.ready.started)))

theorem State.Kept.issueLong {s : State} {uni : Bool} {op9 : Nat} {w : Long} {body : State → Res} (h : s.Kept φ m c) (hbody : ∀ {t}, t.Kept φ m c → (body t).Kept φ m c) :
    OutKept φ m c (s.issueLong uni op9 w body) := h.issue (fun h => hbody h)
theorem State.Kept.issueShort {s : State} {uni : Bool} {op9 : Nat} {w : Short} {body : State → Res} (h : s.Kept φ m c) (hbody : ∀ {t}, t.Kept φ m c → (body t).Kept φ m c) :
    OutKept φ m c (s.issueShort uni op9 w body) := h.issue (fun h => hbody h)
theorem State.Kept.issueLit {s : State} {uni : Bool} {op9 : Nat} {w : Lit} {body : State → Res} (h : s.Kept φ m c) (hbody : ∀ {t}, t.Kept φ m c → (body t).Kept φ m c) :
    OutKept φ m c (s.issueLit uni op9 w body) := h.issue (fun h => hbody h)

theorem State.Kept.joinWalk {s : State} {ctx va kind src : Nat} (h : s.Kept φ m c) : (s.joinWalk ctx va kind src).2.Kept φ m c := by
  unfold State.joinWalk
  split
  · exact h.pair
  · exact h.fresh.upd.pair

theorem State.Kept.missAt {s : State} {k : AKind} {va lane : Nat} (h : s.Kept φ m c) :
    (s.missAt k va lane).Kept φ m c := h.joinWalk.upd.modMcc.ite h.joinWalk.upd.modSq
theorem State.Kept.waitFar {s : State} {n : Need} {line : Nat} (h : s.Kept φ m c) : (s.waitFar n line).Kept φ m c := h.ask.modSq
theorem State.Kept.waitData {s : State} {r : Nat × Bool × Stamp} (h : s.Kept φ m c) : (s.waitData r).Kept φ m c := h.askData.modSq
theorem State.Kept.waitDataM {s : State} {r : Nat × Bool × Stamp} (h : s.Kept φ m c) : (s.waitDataM r).Kept φ m c := h.askData.modMcc
theorem State.Kept.waitNear {s : State} {n : Need} {line : Nat} (h : s.Kept φ m c) :
    (s.waitNear n line).Kept φ m c := ((h.await.ite h.ask).modMcc).ite ((h.await.ite h.ask).modSq)

theorem State.Kept.whenOpen {s : State} {n : Need} {lines : List Nat} {go : Unit → Res} (h : s.Kept φ m c) (hgo : ∀ {x0}, (go x0).Kept φ m c) :
    (s.whenOpen n lines go).Kept φ m c := by
  unfold State.whenOpen
  split
  · exact h.waitNear
  · exact hgo

theorem State.Kept.checked {s : State} {k : AKind} {al : Nat} {accs : List Acc} {go : Unit → Res} (h : s.Kept φ m c) (hgo : ∀ {x0}, (go x0).Kept φ m c) :
    (s.checked k al accs go).Kept φ m c := by
  unfold State.checked
  split
  · exact trivial
  · exact h.missAt
  · exact hgo

theorem State.Kept.andThen {s : State} {l : List MOp} (h : s.Kept φ m c) : (s.andThen l).Kept φ m c := h.setTodo

/-! ## Operands -/

theorem State.Kept.putV {s : State} {t' d : Nat} {f : Nat → Nat} (h : s.Kept φ m c) : (s.putV t' d f).Kept φ m c := h.modSq.ite h.modSq
theorem State.Kept.laneOp {s : State} {t' d : Nat} {f : Nat → Nat × Nat} (h : s.Kept φ m c) : (s.laneOp t' d f).Kept φ m c := h.putV.orFlags
theorem State.Kept.laneK {s : State} {d : Nat} {f : Nat → Bool × Nat} (h : s.Kept φ m c) : (s.laneK d f).Kept φ m c := h.modSq.orFlags

end

end Sys2Proof.Machine

/-! # Proofs: every operation keeps the canonical form: memory instructions, engines, barriers, control flow and matrix passes -/

namespace Sys2Proof.Machine

section
variable {φ : Option Focus} {m c : Prop}

/-! ## MemoryOps -/

theorem State.Kept.fillAccs {s : State} {accs : List Acc} (h : s.Kept φ m c) : (s.fillAccs accs).Kept φ m c := by
  unfold State.fillAccs
  exact h.foldl (fun h => (by split; exacts [h.fill, h] : State.Kept _ _ _ _))

theorem State.Kept.plainLoad {s : State} {al : Nat} {accs : List Acc} {zero go : State → State} (h : s.Kept φ m c) (hzero : ∀ {t}, t.Kept φ m c → (zero t).Kept φ m c) (hgo : ∀ {t}, t.Kept φ m c → (go t).Kept φ m c) :
    (s.plainLoad al accs zero go).Kept φ m c := by
  unfold State.plainLoad
  split
  · exact hzero h
  · exact h.checked ((by split; exacts [h.waitFar, (by split; exacts [(by split; exacts [h.waitData, (hgo h).fillAccs]), h.setTodo.runTodo])]))

theorem State.Kept.putWide {s : State} {d w : Nat} {v : Nat → Nat} (h : s.Kept φ m c) : (s.putWide d w v).Kept φ m c := h.foldl (fun h => h.modSq)
theorem State.Kept.execLd {w : Long} {s : State} (h : s.Kept φ m c) :
    OutKept φ m c (Machine.execLd w s) := h.issueLong (fun h => h.plainLoad (fun h => h.putWide) (fun h => h.putWide))
theorem State.Kept.execLdblk {s : State} {w : Long} (h : s.Kept φ m c) : OutKept φ m c (Machine.execLdblk w s) :=
  h.issueLong (fun h => h.plainLoad (fun h => h.foldl (fun h => h.modSq)) (fun h => h.foldl (fun h => h.modSq)))

theorem State.Kept.pendBytes {s : State} {va : Nat} {l : List Byte} (h : s.Kept φ m c) : (s.pendBytes va l).Kept φ m c := by
  induction l generalizing s va with
  | nil => exact h
  | cons b l ih =>
    refine ih ?_
    split
    exacts [h.modSq, h]

theorem State.Kept.pendAll {s : State} {d w : Nat} {accs : List Acc} (h : s.Kept φ m c) :
    (s.pendAll d w accs).Kept φ m c := h.foldl (fun h => h.pendBytes)
theorem State.Kept.storeNow {s : State} {d w : Nat} {accs : List Acc} {lines new : List Nat} (h : s.Kept φ m c) :
    (s.storeNow d w accs lines new).Kept φ m c := ((h.foldl (fun h => h.collapseCu)).makeWays).pendAll

theorem State.Kept.execSt {w : Long} {s : State} (h : s.Kept φ m c) :
    OutKept φ m c (Machine.execSt w s) :=
  h.issueLong (fun h => .ite h (h.checked (h.whenOpen (.ite (.ite h.modSq h.storeNow) (.ite h.storeNow (.ite trivial h.setTodo.runTodo))))))

theorem State.Kept.checkedScr {s : State} {al : Nat} {store : Bool} {accs : List Acc} {go : Unit → Res} (_ : s.Kept φ m c) (hgo : ∀ {x0}, (go x0).Kept φ m c) :
    (s.checkedScr al store accs go).Kept φ m c := by
  unfold State.checkedScr
  split
  · exact trivial
  · exact hgo

theorem State.Kept.execLds {w : Long} {s : State} (h : s.Kept φ m c) :
    OutKept φ m c (Machine.execLds w s) := h.issueLong (fun h => .ite h.putWide (h.checkedScr (h.andThen)))
theorem State.Kept.execSts {w : Long} {s : State} (h : s.Kept φ m c) :
    OutKept φ m c (Machine.execSts w s) := h.issueLong (fun h => h.checkedScr (h.andThen))
theorem State.Kept.fragLoad {s : State} {op9 : Nat} {w : Long} (h : s.Kept φ m c) :
    (s.fragLoad op9 w).Kept φ m c := .ite h.modSq (h.checkedScr (h.andThen))
theorem State.Kept.execLdsm {w : Long} {s : State} (h : s.Kept φ m c) : OutKept φ m c (Machine.execLdsm w s) := h.issueLong (fun h => h.fragLoad)
theorem State.Kept.execLdsmT {w : Long} {s : State} (h : s.Kept φ m c) : OutKept φ m c (Machine.execLdsmT w s) := h.issueLong (fun h => h.fragLoad)
theorem State.Kept.execLdAcq {w : Long} {s : State} (h : s.Kept φ m c) :
    OutKept φ m c (Machine.execLdAcq w s) := h.issueLong (fun h => h.checked (h.andThen))
theorem State.Kept.execStRel {w : Long} {s : State} (h : s.Kept φ m c) :
    OutKept φ m c (Machine.execStRel w s) := h.issueLong (fun h => h.checked (h.andThen))
theorem State.Kept.execAtom {w : Long} {s : State} (h : s.Kept φ m c) :
    OutKept φ m c (Machine.execAtom w s) := h.issueLong (fun h => h.checked (h.andThen))
theorem State.Kept.updLane {s : State} {op ty d : Nat} {a : Acc} (h : s.Kept φ m c) : (s.updLane op ty d a).Kept φ m c := (h.ite h.obtainA).foldInto
theorem State.Kept.execUpd {w : Long} {s : State} (h : s.Kept φ m c) :
    OutKept φ m c (Machine.execUpd w s) := h.issueLong (fun h => h.checked (h.whenOpen (.ite (h.foldl (fun h => h.updLane)) trivial)))

theorem State.Kept.prefetch {level : Nat} {s : State} {a : Acc} (h : s.Kept φ m c) : (State.prefetch level s a).Kept φ m c := by
  unfold State.prefetch
  split
  · exact h.ite (h.ask.ite (h.askData.ite (h.fill.ite h.fillL2)))
  · exact h

theorem State.Kept.execPfch {w : Long} {s : State} (h : s.Kept φ m c) :
    OutKept φ m c (Machine.execPfch w s) := h.issueLong (fun h => h.foldl (fun h => h.prefetch))

/-! ## Engine -/

theorem State.Kept.sendCmd {s : State} {kind : CmdKind} {place d : Nat} {g : List W} {mode : Nat} {two : Bool} {comp ea : Nat} {addend : W} {key : Nat} {lines : List Nat} (h : s.Kept φ m c) :
    (s.sendCmd kind place d g mode two comp ea addend key lines).Kept φ m c := h.issueCmd.setS2

theorem State.Kept.copyCmd {s : State} {w : Long} {two : Bool} (h : s.Kept φ m c) : (s.copyCmd w two).Kept φ m c := by
  unfold State.copyCmd
  extract_lets
  split
  · exact trivial
  · exact h.sendCmd

theorem State.Kept.execCpy {w : Long} {s : State} (h : s.Kept φ m c) : OutKept φ m c (Machine.execCpy w s) := h.issueLong (fun h => h.copyCmd)
theorem State.Kept.execCpy2d {w : Long} {s : State} (h : s.Kept φ m c) : OutKept φ m c (Machine.execCpy2d w s) := h.issueLong (fun h => h.copyCmd)

theorem State.Kept.execGath {w : Long} {s : State} (h : s.Kept φ m c) : OutKept φ m c (Machine.execGath w s) := by
  unfold Machine.execGath
  exact h.issueLong (fun h => (by dsimp only; split; exacts [trivial, h.sendCmd]))

theorem State.Kept.execRcpy {w : Long} {s : State} (h : s.Kept φ m c) : OutKept φ m c (Machine.execRcpy w s) := by
  unfold Machine.execRcpy
  exact h.issueLong (fun h => (by dsimp only; split; exacts [trivial, h.andThen]))

theorem State.Kept.execRsig {w : Long} {s : State} (h : s.Kept φ m c) :
    OutKept φ m c (Machine.execRsig w s) := h.issueLong (fun h => h.checked (.ite trivial h.sendCmd.modSq))
theorem State.Kept.execTlget {w : Long} {s : State} (h : s.Kept φ m c) : OutKept φ m c (Machine.execTlget w s) := h.issueLong (fun h => h.setS2)
theorem State.Kept.execTlwait {w : Long} {s : State} (h : s.Kept φ m c) : OutKept φ m c (Machine.execTlwait w s) := h.issueLong (fun h => h.andThen)

theorem State.Kept.execTlsig {w : Long} {s : State} (h : s.Kept φ m c) : OutKept φ m c (Machine.execTlsig w s) := by
  unfold Machine.execTlsig
  exact h.issueLong (fun h => (by dsimp only; split; exacts [trivial, h.sendCmd]))

theorem State.Kept.execWaitc {w : Long} {s : State} (h : s.Kept φ m c) : OutKept φ m c (Machine.execWaitc w s) := by
  unfold Machine.execWaitc
  exact h.issueLong (fun h => (by dsimp only; split; exacts [trivial, h.checkedScr (h.andThen)]))

theorem State.Kept.execWaitcG {w : Long} {s : State} (h : s.Kept φ m c) :
    OutKept φ m c (Machine.execWaitcG w s) := h.issueLong (fun h => h.checked (h.andThen))

/-! ## Barrier -/

theorem State.Kept.barAt {s : State} {ea : Nat} {go : Unit → Res} (h : s.Kept φ m c) (hgo : ∀ {x0}, (go x0).Kept φ m c) :
    (s.barAt ea go).Kept φ m c := h.checkedScr (.ite trivial hgo)

theorem State.Kept.barObj {s : State} {ea : Nat} {go : BarObj → Res} (h : s.Kept φ m c) (hgo : ∀ {x0}, (go x0).Kept φ m c) :
    (s.barObj ea go).Kept φ m c := by
  unfold State.barObj
  exact h.barAt ((by split; exacts [trivial, hgo]))

theorem State.Kept.execBarInit {w : Long} {s : State} (h : s.Kept φ m c) :
    OutKept φ m c (Machine.execBarInit w s) := h.issueLong (fun h => h.barAt (.ite trivial (.ite trivial (.ite trivial h.setObj))))
theorem State.Kept.untype {s : State} {o : BarObj} (h : s.Kept φ m c) : (s.untype o).Kept φ m c := h.upd.scrWrite
theorem State.Kept.execBarInitFree {w : Long} {s : State} (h : s.Kept φ m c) :
    OutKept φ m c (Machine.execBarInitFree w s) := h.issueLong (fun h => h.barObj (.ite h.untype trivial))
theorem State.Kept.execBarArr {w : Long} {s : State} (h : s.Kept φ m c) :
    OutKept φ m c (Machine.execBarArr w s) := h.issueLong (fun h => h.barObj (h.andThen))
theorem State.Kept.execBarWait {w : Long} {s : State} (h : s.Kept φ m c) :
    OutKept φ m c (Machine.execBarWait w s) := h.issueLong (fun h => h.barObj ((h.ite h.setObj).andThen))
theorem State.Kept.execBarArrw {w : Long} {s : State} (h : s.Kept φ m c) :
    OutKept φ m c (Machine.execBarArrw w s) := h.issueLong (fun h => h.barObj (h.andThen))
theorem State.Kept.execBarSync {w : Long} {s : State} (h : s.Kept φ m c) : OutKept φ m c (Machine.execBarSync w s) := h.issueLong (fun h => h.andThen)
theorem State.Kept.execLbar {w : Long} {s : State} (h : s.Kept φ m c) : OutKept φ m c (Machine.execLbar w s) := h.issueLong (fun h => h.andThen)
theorem State.Kept.execSpawn {w : Long} {s : State} (h : s.Kept φ m c) :
    OutKept φ m c (Machine.execSpawn w s) := h.issueLong (fun h => .ite trivial h.andThen)

theorem State.Kept.execPost {w : Long} {s : State} (h : s.Kept φ m c) : OutKept φ m c (Machine.execPost w s) := by
  unfold Machine.execPost
  exact h.issueLong (fun h => (by dsimp only; split; exacts [trivial, (by split; exacts [.ite h.andThen trivial, trivial])]))

theorem State.Kept.execJoin {w : Long} {s : State} (h : s.Kept φ m c) : OutKept φ m c (Machine.execJoin w s) := by
  unfold Machine.execJoin
  exact h.issueLong (fun h => (by dsimp only; split; exacts [trivial, .ite h (by split; exacts [trivial, .ite trivial h.modTeam])]))

theorem State.Kept.execLeave {w : Long} {s : State} (h : s.Kept φ m c) : OutKept φ m c (Machine.execLeave w s) := h.issueLong (fun h => h.andThen)
theorem State.Kept.execMsend {w : Long} {s : State} (h : s.Kept φ m c) :
    OutKept φ m c (Machine.execMsend w s) := h.issueLong (fun h => .ite (.ite h.setChan.setScc.andThen h.setScc) h.andThen)
theorem State.Kept.execMrecv {w : Long} {s : State} (h : s.Kept φ m c) :
    OutKept φ m c (Machine.execMrecv w s) := h.issueLong (fun h => .ite (.ite h.setScc h.setScc.andThen) h.andThen)

/-! ## Control -/

theorem State.Kept.branch {s : State} {w : Lit} {taken : Bool} (h : s.Kept φ m c) : (s.branch w taken).Kept φ m c := .ite h.setPc h
theorem State.Kept.jumpTo {s : State} {w : Short} (h : s.Kept φ m c) : (s.jumpTo w).Kept φ m c := .ite h.setPc trivial
theorem State.Kept.execBra {w : Lit} {s : State} (h : s.Kept φ m c) : OutKept φ m c (Machine.execBra w s) := h.issueLit (fun h => h.branch)
theorem State.Kept.execBrz {w : Lit} {s : State} (h : s.Kept φ m c) : OutKept φ m c (Machine.execBrz w s) := h.issueLit (fun h => h.branch)
theorem State.Kept.execBrnz {w : Lit} {s : State} (h : s.Kept φ m c) : OutKept φ m c (Machine.execBrnz w s) := h.issueLit (fun h => h.branch)
theorem State.Kept.execJmp {w : Short} {s : State} (h : s.Kept φ m c) : OutKept φ m c (Machine.execJmp w s) := h.issueShort (fun h => h.jumpTo)
theorem State.Kept.execCall {w : Lit} {s : State} (h : s.Kept φ m c) : OutKept φ m c (Machine.execCall w s) := h.issueLit (fun h => h.setS2.setPc)
theorem State.Kept.execRet {w : Short} {s : State} (h : s.Kept φ m c) : OutKept φ m c (Machine.execRet w s) := h.issueShort (fun h => h.jumpTo)
theorem State.Kept.execBany {w : Lit} {s : State} (h : s.Kept φ m c) : OutKept φ m c (Machine.execBany w s) := h.issueLit (fun h => h.branch)
theorem State.Kept.execBall {w : Lit} {s : State} (h : s.Kept φ m c) : OutKept φ m c (Machine.execBall w s) := h.issueLit (fun h => h.branch)
theorem State.Kept.execBnone {w : Lit} {s : State} (h : s.Kept φ m c) : OutKept φ m c (Machine.execBnone w s) := h.issueLit (fun h => h.branch)
theorem State.Kept.execBdiv {w : Lit} {s : State} (h : s.Kept φ m c) :
    OutKept φ m c (Machine.execBdiv w s) := h.issueLit (fun h => .ite h (.ite h.setPc (.ite h.modSq (.ite trivial h.modSq))))
theorem State.Kept.execConverge {w : Short} {s : State} (h : s.Kept φ m c) :
    OutKept φ m c (Machine.execConverge w s) := h.issueShort (fun h => h.modSq)
theorem State.Kept.execPblk {w : Long} {s : State} (h : s.Kept φ m c) : OutKept φ m c (Machine.execPblk w s) := h.issueLong (fun h => h.modSq)
theorem State.Kept.mccExit {s : State} (h : s.Kept φ m c) : (s.mccExit).Kept φ m c := h.modTl.modMcc.setTodo

theorem State.Kept.execExit {w : Short} {s : State} (h : s.Kept φ m c) : OutKept φ m c (Machine.execExit w s) := by
  unfold Machine.execExit
  exact h.issueShort (fun h => .ite h.mccExit (by split; exacts [h.modSq, .ite h.setTodo h.modSq]))

theorem State.Kept.execSetfmt {w : Long} {s : State} (h : s.Kept φ m c) :
    OutKept φ m c (Machine.execSetfmt w s) := h.issueLong (fun h => .ite h.setFmt trivial)
theorem State.Kept.execSetfmtFlags {w : Long} {s : State} (h : s.Kept φ m c) :
    OutKept φ m c (Machine.execSetfmtFlags w s) := h.issueLong (fun h => h.setFlags)
theorem State.Kept.execSetfmtImm {w : Long} {s : State} (h : s.Kept φ m c) :
    OutKept φ m c (Machine.execSetfmtImm w s) := h.issueLong (fun h => h.setFmt)
theorem State.Kept.execSetpart {w : Short} {s : State} (h : s.Kept φ m c) : OutKept φ m c (Machine.execSetpart w s) := h.issueShort (fun h => h.modSq)
theorem State.Kept.latchGts {s : State} (h : s.Kept φ m c) : (s.latchGts).Kept φ m c := h.modMcc.ite h.modSq
theorem State.Kept.execRdspec {w : Long} {s : State} (h : s.Kept φ m c) :
    OutKept φ m c (Machine.execRdspec w s) := h.issueLong (fun h => .ite h.modSq ((h.latchGts.ite h).setS))
theorem State.Kept.execRole {w : Short} {s : State} (h : s.Kept φ m c) :
    OutKept φ m c (Machine.execRole w s) := h.issueShort (fun h => h.modSq.setTodo)
theorem State.Kept.execTrap {w : Short} {s : State} (h : s.Kept φ m c) : OutKept φ m c (Machine.execTrap w s) := h.issueShort (fun _ => trivial)
theorem State.Kept.execBrkpt {w : Short} {s : State} (h : s.Kept φ m c) : OutKept φ m c (Machine.execBrkpt w s) := h.issueShort (fun _ => trivial)
theorem State.Kept.execNop {w : Short} {s : State} (h : s.Kept φ m c) : OutKept φ m c (Machine.execNop w s) := h.issueShort (fun h => h)

/-! ## Matrix -/

theorem State.Kept.mccPresent {s : State} {keys : List Nat} {go : Unit → Res} (h : s.Kept φ m c) (hgo : ∀ {x0}, (go x0).Kept φ m c) :
    (s.mccPresent keys go).Kept φ m c := by
  unfold State.mccPresent
  split
  · exact h.modMcc
  · exact hgo

theorem State.Kept.recAt {s : State} {ea : Nat} {use : RecUse} {go : ARec → Res} (h : s.Kept φ m c) (hgo : ∀ {x0}, (go x0).Kept φ m c) :
    (s.recAt ea use go).Kept φ m c := by
  unfold State.recAt
  exact h.checkedScr (h.mccPresent ((by dsimp only; split; exacts [trivial, .ite trivial hgo])))

theorem State.Kept.checkBoth {s : State} {k : AKind} {store : Bool} {scr glob : List Span} {go : Unit → Res} (h : s.Kept φ m c) (hgo : ∀ {x0}, (go x0).Kept φ m c) :
    (s.checkBoth k store scr glob go).Kept φ m c := by
  unfold State.checkBoth
  dsimp only
  split
  · exact hgo
  · exact trivial
  · exact trivial
  · exact .ite trivial trivial
  · exact .ite trivial h.missAt
  · exact h.missAt

theorem State.Kept.engineCollapse {s : State} {leaf : Nat → Option Leaf} {launch : Nat} {tide : Stamp} {die agent : Nat} {vas : List Nat}
    (h : s.Kept φ m c) : (s.engineCollapse leaf launch tide die agent vas).2.Kept φ m c := by
  unfold State.engineCollapse
  generalize ([] : List (Nat × Stamp)) = l
  induction vas generalizing s l with
  | nil => exact h
  | cons va vas ih =>
    rw [List.foldl_cons]
    split
    · exact ih h l
    · split
      · exact ih h l
      · exact ih h.collapse _

theorem State.Kept.noteMcc {s : State} {lines : List Nat} (h : s.Kept φ m c) : (s.noteMcc lines).Kept φ m c := h.ite h.modMcc

theorem State.Kept.operands {s : State} {width : Nat} {els scr glob : List Span} {go : State → List (Nat × Stamp) → Res} (h : s.Kept φ m c) (hgo : ∀ {t x1}, t.Kept φ m c → (go t x1).Kept φ m c) :
    (s.operands width els scr glob go).Kept φ m c := by
  unfold State.operands
  split
  · exact trivial
  · exact h.checkBoth (h.mccPresent ((by dsimp only; split; exacts [h.waitNear, h.noteMcc.whenOpen ((by split; exacts [h.noteMcc.waitDataM, hgo h.noteMcc.engineCollapse]))])))

theorem State.Kept.drainQ {s : State} {p : MPass → Bool} (h : s.Kept φ m c) : (s.drainQ p).Kept φ m c := h.foldl (fun h => h.retirePass)
theorem State.Kept.afterDrain {s : State} {p : MPass → Bool} {go : State → Res} (h : s.Kept φ m c) (hgo : ∀ {t}, t.Kept φ m c → (go t).Kept φ m c) :
    (s.afterDrain p go).Kept φ m c := .ite trivial (hgo h.drainQ)
theorem State.Kept.enqueue {s : State} {cycles : Nat} {p : MPass} (h : s.Kept φ m c) : (s.enqueue cycles p).Kept φ m c := h.modMcc

theorem State.Kept.execMrec {w : Long} {s : State} (h : s.Kept φ m c) : OutKept φ m c (Machine.execMrec w s) := by
  unfold Machine.execMrec
  exact h.issueLong (fun h => (by dsimp only; split; exacts [.ite trivial (.ite trivial trivial), .ite trivial h.andThen]))

theorem State.Kept.wldGo {s : State} {w : Long} {r m' : ARec} (h : s.Kept φ m c) : (s.wldGo w r m').Kept φ m c := by
  unfold State.wldGo
  extract_lets
  split
  · exact trivial
  · split
    · exact trivial
    · exact h.operands (fun h => (by split; exacts [trivial, h.afterDrain (fun h => h.enqueue)]))

theorem State.Kept.execWld {w : Long} {s : State} (h : s.Kept φ m c) :
    OutKept φ m c (Machine.execWld w s) := h.issueLong (fun h => h.recAt (.ite h.wldGo (h.recAt (h.wldGo))))
theorem State.Kept.mmaRun {s : State} {w : Long} {zero : Bool} (h : s.Kept φ m c) :
    (s.mmaRun w zero).Kept φ m c := h.recAt (h.afterDrain (fun h => .ite trivial (.ite trivial (.ite trivial (h.operands (fun h => h.enqueue))))))
theorem State.Kept.execMmaz {w : Long} {s : State} (h : s.Kept φ m c) : OutKept φ m c (Machine.execMmaz w s) := h.issueLong (fun h => h.mmaRun)
theorem State.Kept.execMma {w : Long} {s : State} (h : s.Kept φ m c) : OutKept φ m c (Machine.execMma w s) := h.issueLong (fun h => h.mmaRun)
theorem State.Kept.execMclrZ {w : Long} {s : State} (h : s.Kept φ m c) :
    OutKept φ m c (Machine.execMclrZ w s) := h.issueLong (fun h => h.afterDrain (fun h => h.enqueue))

theorem State.Kept.execMclrLd {w : Long} {s : State} (h : s.Kept φ m c) :
    OutKept φ m c (Machine.execMclrLd w s) :=
  h.issueLong (fun h => h.recAt (.ite trivial (.ite trivial (h.operands (fun h => h.afterDrain (fun h => h.enqueue))))))

theorem State.Kept.execMepi {w : Long} {s : State} (h : s.Kept φ m c) : OutKept φ m c (Machine.execMepi w s) := by
  unfold Machine.execMepi
  exact h.issueLong (fun h => h.recAt (.ite trivial ((by dsimp only; split; exacts [trivial, h.checkBoth (h.afterDrain (fun h => h.enqueue))]))))

theorem State.Kept.execMrestart {w : Long} {s : State} (h : s.Kept φ m c) :
    OutKept φ m c (Machine.execMrestart w s) := h.issueLong (fun h => h.modMcc)
theorem State.Kept.fenced {s : State} (h : s.Kept φ m c) : (s.fenced).Kept φ m c := h.modTl.modMcc

theorem State.Kept.execMfence {w : Long} {s : State} (h : s.Kept φ m c) : OutKept φ m c (Machine.execMfence w s) :=
  h.issueLong (fun h =>
    .ite (h.checkedScr (h.afterDrain (fun h => h.fenced.andThen))) (h.afterDrain (fun h => h.fenced.andThen)))

/-! ## Command -/

theorem State.Kept.modCmd {s : State} {id : Nat} {f : Cmd → Cmd} (h : s.Kept φ m c) : (s.modCmd id f).Kept φ m c := h.upd
theorem State.Kept.cmdStamp {s : State} {c' : Cmd} (h : s.Kept φ m c) : (s.cmdStamp c').2.Kept φ m c := h.takeStamp

theorem State.Kept.cmdNotify {s : State} {c' : Cmd} {cause : Cause} (h : s.Kept φ m c) : (s.cmdNotify c' cause).Kept φ m c := by
  unfold State.cmdNotify
  exact (((by split; exacts [h.modTeam.modSquads, h.modMccs] : State.Kept _ _ _ _).report).ite (by split; exacts [h.modTeam.modSquads, h.modMccs] : State.Kept _ _ _ _)).report

theorem State.Kept.cmdLand {s : State} {c' : Cmd} (h : s.Kept φ m c) : (s.cmdLand c').Kept φ m c := h.upd
theorem State.Kept.cmdFail {s : State} {c' : Cmd} {cause : Cause} (h : s.Kept φ m c) :
    (s.cmdFail c' cause).Kept φ m c := h.cmdLand.cmdStamp.leaveLines.cmdNotify.modCmd

theorem State.Kept.cmdPut {s : State} {k : Cmd} {ea : Int} {b : List Byte} (h : s.Kept φ m c) : (s.cmdPut k ea b).Kept φ m c :=
  h.foldl (fun h => by
    split
    · exact ⟨h.focus, h.mem, fun hc => canon_put (h.scr hc) _ _⟩
    · exact h)

theorem State.Kept.cmdUnpoison {s : State} {keys : List Nat} (h : s.Kept φ m c) : (s.cmdUnpoison keys).Kept φ m c := h.upd
theorem State.Kept.cmdCollapse {s : State} {c' : Cmd} {l : List PLine} (h : s.Kept φ m c) :
    (s.cmdCollapse c' l).Kept φ m c := h.foldl (fun h => h.collapse.ite h)

theorem State.Kept.cmdMove {s : State} {c' : Cmd} {ms : List Move} (h : s.Kept φ m c) :
    (s.cmdMove c' ms).Kept φ m c :=
  (((((h.engineCollapse.foldl (fun h => h.cmdPut)).cmdUnpoison).cmdLand).cmdStamp).modCmd).ite ((((h.engineCollapse.cmdCollapse.preStamp (fun h => h.cmdStamp)).cmdStamp).foldl (fun h => h.send)).modCmd)

theorem State.Kept.addAt {s : State} {die agent key addend ctx : Nat} (h : s.Kept φ m c) :
    (s.addAt die agent key addend ctx).2.Kept φ m c := h.collapse.recallOthers.stampOver.landed.upd.pair
theorem State.Kept.cmdAdd {s : State} {c' : Cmd} (h : s.Kept φ m c) : (s.cmdAdd c').Kept φ m c := h.addAt.modCmd.ite h.cmdStamp.sendMsg.modCmd
theorem State.Kept.cmdMiss {s : State} {c' : Cmd} {va : Nat} {k : AKind} (h : s.Kept φ m c) : (s.cmdMiss c' va k).Kept φ m c := h.joinWalk.upd.modCmd
theorem State.Kept.disarm {s : State} {c' : Cmd} (h : s.Kept φ m c) : (s.disarm c').Kept φ m c := h.ite h.upd

theorem State.Kept.cmdSignal {s : State} {c' : Cmd} {e : Stamp} (h : s.Kept φ m c) : (s.cmdSignal c' e).Kept φ m c := by
  unfold State.cmdSignal
  split
  · exact h
  · split
    · exact h.cmdNotify
    · split
      · exact h.addCounter
      · split
        · exact h.arriveAt
        · exact h.cmdNotify

theorem State.Kept.cmdDone {s : State} {c' : Cmd} {e : Stamp} (h : s.Kept φ m c) :
    (s.cmdDone c' e).Kept φ m c := ((h.cmdSignal.modTl.disarm.modSquads.ite h.cmdSignal.modTl.disarm).modLaunch).upd
theorem State.Kept.cmdNote {s : State} {c' : Cmd} {lines : List Nat} {t' : Option Stamp} (h : s.Kept φ m c) :
    (s.cmdNote c' lines t').Kept φ m c := h.ite h.modCmd

theorem State.Kept.cmdWhen {s : State} {c' : Cmd} {ms : List Move} {go : State → State} (h : s.Kept φ m c) (hgo : ∀ {t}, t.Kept φ m c → (go t).Kept φ m c) :
    (s.cmdWhen c' ms go).Kept φ m c := by
  unfold State.cmdWhen
  extract_lets
  split
  · exact h.cmdNote.ask
  · split
    · exact h.cmdNote.awaitAs
    · split
      · exact (h.cmdNote.ite h.cmdNote.cmdNote).askData
      · exact hgo h.cmdNote.leaveLines

theorem State.Kept.cmdTurn {s : State} {c' : Cmd} (h : s.Kept φ m c) : (s.cmdTurn c').Kept φ m c := by
  unfold State.cmdTurn
  split
  · exact h.cmdDone.ite h
  · split
    · exact h
    · split
      · exact h.modCmd.cmdDone.ite h
      · exact (h.cmdWhen (fun h => h.cmdAdd)).ite h
      · split
        · exact h
        · extract_lets
          split
          · exact h.cmdMiss
          · exact h.cmdFail
          · exact h.cmdWhen (fun h => h.cmdMove)

theorem State.Kept.execEngineCommandRun {cmd : Nat} {s : State} (h : s.Kept none m c) : OutKept none m c (Machine.execEngineCommandRun cmd s) := by
  unfold Machine.execEngineCommandRun
  extract_lets
  split
  · exact h.unfocus.cmdTurn
  · exact h.unfocus

end

end Sys2Proof.Machine

/-! # Proofs: every operation keeps the canonical form: agents, placement and the ends of squads and teams -/

namespace Sys2Proof.Machine

section
variable {φ : Option Focus} {m c : Prop}

/-! ## Sched -/

theorem State.Kept.fetchFault {s : State} {c' : Cause} {va : Nat} {w0 : W} (h : s.Kept φ m c) : (s.fetchFault c' va w0).Kept φ m c := h.takeTrap

theorem State.Kept.fetchMiss {s : State} {va : Nat} {w0 : W} (h : s.Kept φ m c) : (s.fetchMiss va w0).Kept φ m c := by
  unfold State.fetchMiss
  extract_lets cur t
  have hr : (t.missAt .fetch va 0).Kept φ m c := (h.modMcc.ite h.modSq).missAt
  split
  · next u hu => rw [hu] at hr; exact hr
  · exact h

theorem State.Kept.fetchFar {s : State} {line : Nat} {manual : Bool} {t' : Stamp} (h : s.Kept φ m c) :
    (s.fetchFar line manual t').Kept φ m c := h.askData.ite h.ask

theorem State.Kept.decoded {s : State} {w0 w1 : W} (h : s.Kept φ m c) : (s.decoded w0 w1).Kept φ m c := by
  unfold State.decoded
  split
  · exact h
  · exact h.illegal

theorem State.Kept.fetch {s : State} (h : s.Kept φ m c) : (s.fetch).Kept φ m c := by
  unfold State.fetch
  extract_lets
  split
  · exact h.fetchMiss
  · exact h.fetchFault
  · exact h.fetchFar
  · split
    · split
      · exact h.fetchMiss
      · exact h.fetchFault
      · exact h.fetchFar
      · exact h.decoded
    · exact h.decoded

theorem State.Kept.preemptMccs {s : State} {tag : Nat} (h : s.Kept φ m c) : (s.preemptMccs tag).Kept φ m c := h.upd.foldl (fun h => h.dropWaits)
theorem State.Kept.preemptNow {s : State} (h : s.Kept φ m c) : (s.preemptNow).Kept φ m c := h.dropWaits.modMcc
theorem State.Kept.leaveRange {s : State} (h : s.Kept φ m c) : (s.leaveRange).Kept φ m c := h.rewind.again.ite h
theorem State.Kept.takeSquad {s : State} (h : s.Kept φ m c) : (s.takeSquad).Kept φ m c := ((((h.modSq.ite h).leaveRange).toReplay).publish).modSq

theorem State.Kept.saveSquad {s : State} (h : s.Kept φ m c) : (s.saveSquad).Kept φ m c := by
  unfold State.saveSquad
  split
  · exact h.await
  · exact h.takeSquad.ite h

theorem State.Kept.takeEngFault {s : State} (h : s.Kept φ m c) : (s.takeEngFault).Kept φ m c := h.modSq.takeTrap
theorem State.Kept.boundary {s : State} (h : s.Kept φ m c) :
    (s.boundary).Kept φ m c := .ite h.saveSquad (.ite h.haltSquad (.ite h.modSq.takeEngFault h.modSq.fetch))
theorem State.Kept.grow {s : State} {ids : List Nat} (h : s.Kept φ m c) : (s.grow ids).Kept φ m c := h.upd

theorem State.Kept.chooseIssue {s : State} (h : s.Kept none m c) : (s.chooseIssue).Kept none m c := by
  unfold State.chooseIssue
  split
  · exact h.boundary
  · extract_lets
    split
    · exact h.upd.focusOn.grow.boundary
    · exact h.upd.boundary

theorem State.Kept.issueTurn {s : State} {id : Nat} (h : s.Kept none m c) : (s.issueTurn id).Kept none m c := by
  unfold State.issueTurn
  extract_lets
  split
  · exact h.focusOn
  · exact .ite h.focusOn.preemptNow (.ite h.focusOn.runTodo (.ite h.focusOn (.ite h.focusOn.modMcc.takeTrap h.focusOn.fetch)))
  · exact .ite (h.focusOn.saveSquad.ite h.focusOn.runTodo) (.ite h.focusOn.chooseIssue h.focusOn)

theorem State.Kept.place {s : State} {code : List Byte} {mcc : Bool} (h : s.Kept none m c) :
    (s.place code mcc).Kept none m c := h.unfocus.homeWrite.upd.setCsr

/-! ## EvSquad -/

theorem State.Kept.execSfuRetire {cu sub : Nat} {s : State} (h : s.Kept none m c) : OutKept none m c (Machine.execSfuRetire cu sub s) := by
  unfold Machine.execSfuRetire
  extract_lets
  split
  · exact h.unfocus.retireSfu
  · exact h.unfocus

theorem State.Kept.execMatrixPassRetire {cl : Nat} {s : State} (h : s.Kept none m c) : OutKept none m c (Machine.execMatrixPassRetire cl s) := by
  unfold Machine.execMatrixPassRetire
  extract_lets
  split
  · exact h.unfocus.focusOn.retirePass
  · exact h.unfocus

theorem State.Kept.execSamplerCountZero {cu sub : Nat} {s : State} (h : s.Kept none m c) :
    OutKept none m c (Machine.execSamplerCountZero cu sub s) := .ite h.unfocus.setSampler h.unfocus

theorem State.Kept.execAsyncEventTake {id : Nat} {s : State} (h : s.Kept none m c) : OutKept none m c (Machine.execAsyncEventTake id s) := by
  unfold Machine.execAsyncEventTake
  extract_lets
  split
  · exact h.focusOn
  · exact .ite h.focusOn.modMcc.takeTrap h.focusOn
  · exact .ite h.focusOn.saveSquad (.ite h.focusOn (.ite h.focusOn.haltSquad (.ite h.focusOn.leaveRange.haltSquad (.ite h.focusOn.leaveRange.takeEngFault (.ite h.focusOn.modSq.takeEngFault h.focusOn)))))

theorem State.Kept.wakeNow {s : State} {w : Wake} (h : s.Kept φ m c) :
    (s.wakeNow w).Kept φ m c :=
  ((h.modMcc.takeTrap.ite h.modSq.takeTrap).ite (h.ite h.again)).ite (((h.ite h.again).ite (h.ite h.again)).ite (h.ite (h.takeTrap.ite h.runTodo)))

theorem State.Kept.execSquadWake {id : Nat} {s : State} (h : s.Kept none m c) : OutKept none m c (Machine.execSquadWake id s) := by
  unfold Machine.execSquadWake
  extract_lets
  split
  · exact h.focusOn
  · split
    · exact .ite h.focusOn.preemptNow (.ite h.focusOn.wakeNow h.focusOn)
    · exact h.focusOn
  · split
    · exact .ite h.focusOn (.ite h.focusOn.saveSquad h.focusOn.wakeNow)
    · exact h.focusOn

theorem State.Kept.putTlb {s : State} {t' : Tlb} (h : s.Kept φ m c) : (s.putTlb t').Kept φ m c := h.ite (h.upd.ite h.upd)
theorem State.Kept.openTicket {s : State} {t' : Ticket} {rest : List Byte} (h : s.Kept φ m c) : (s.openTicket t' rest).Kept φ m c := h.upd.flushFq

theorem State.Kept.letIn {n : Nat} {s : State} (h : s.Kept φ m c) : (State.letIn n s).Kept φ m c := by
  induction n generalizing s with
  | zero => exact h
  | succ n ih =>
    rw [State.letIn]
    split
    · exact h
    · exact h.ite (ih h.modSquads.modMccs.upd.openTicket)

theorem State.Kept.closeTicket {s : State} {num : Nat} (h : s.Kept φ m c) : (s.closeTicket num).Kept φ m c := h.upd.letIn
theorem State.Kept.putEnergy {s : State} {ctx : Nat} {b : List Byte} (h : s.Kept φ m c) : (s.putEnergy ctx b).Kept φ m c := h.ite h.ringPut
theorem State.Kept.freeSets {s : State} (h : s.Kept φ m c) : (s.freeSets).Kept φ m c := h.upd
theorem State.Kept.slotsFreed {s s1 : State} (_ : s.Kept φ m c) (h1 : s1.Kept φ m c) : (s.slotsFreed s1).Kept φ m c := h1.upd
theorem State.Kept.freeSlots {s : State} (h : s.Kept φ m c) : (s.freeSlots).Kept φ m c := h.slotsFreed h.upd
/-- Entries left out of a list leave it in canonical form. -/
theorem Above.filter {d : Byte} {b : Nat} {l : List Host.Cell} (h : Above d b l) (p : Host.Cell → Bool) : Above d b (l.filter p) := by
  induction l generalizing b with
  | nil => trivial
  | cons x l ih =>
    obtain ⟨h1, h2, h3⟩ := h
    rw [List.filter_cons]
    split
    · exact ⟨h1, h2, ih h3⟩
    · exact (ih h3).weaken (by omega)

theorem canon_filter {l : List Host.Cell} (h : canon 0 l = true) (p : Host.Cell → Bool) : canon 0 (l.filter p) = true := by
  rw [canon_iff] at *; exact h.filter p

theorem State.Kept.trimScratch {s : State} {cache : Nat} (h : s.Kept φ m c) : (s.trimScratch cache).Kept φ m c :=
  ⟨h.focus, h.mem, fun hc => canon_filter (h.scr hc) _⟩
theorem State.Kept.freeTeam {s : State} {u : Team} (h : s.Kept φ m c) : (s.freeTeam u).Kept φ m c := h.upd.trimScratch
theorem State.Kept.clearChans {s : State} {cl : Nat} (h : s.Kept φ m c) : (s.clearChans cl).Kept φ m c := h.ite h.upd

theorem State.Kept.exitTeam {s : State} {u : Team} (h : s.Kept φ m c) : (s.exitTeam u).Kept φ m c := by
  unfold State.exitTeam
  exact (((by split; exacts [(h.upd.modTeam.ite h.upd.freeTeam.clearChans).testLevels, h.upd.modTeam.ite h.upd.freeTeam.clearChans] : State.Kept _ _ _ _)).freeSets).freeSlots

theorem State.Kept.execSquadRetire {id : Nat} {s : State} (h : s.Kept none m c) : OutKept none m c (Machine.execSquadRetire id s) := by
  unfold Machine.execSquadRetire
  extract_lets
  split
  · exact h.unfocus
  · exact .ite h.unfocus.putEnergy.upd.modTeam.recheck.trimCopies h.unfocus

theorem State.Kept.execTeamExit {team : Nat} {s : State} (h : s.Kept none m c) : OutKept none m c (Machine.execTeamExit team s) := by
  unfold Machine.execTeamExit
  extract_lets
  split
  · exact .ite h.unfocus.exitTeam h.unfocus
  · exact h.unfocus

theorem State.Kept.releaseCluster {s : State} {launch cl : Nat} (h : s.Kept φ m c) :
    (s.releaseCluster launch cl).Kept φ m c := (h.foldl (fun h => h.freeTeam)).clearChans

theorem State.Kept.execMccProgramEnd {cl : Nat} {s : State} (h : s.Kept none m c) : OutKept none m c (Machine.execMccProgramEnd cl s) := by
  unfold Machine.execMccProgramEnd
  extract_lets
  split
  · exact h.unfocus
  · exact .ite h.unfocus.putEnergy.upd.releaseCluster.freeSets.freeSlots h.unfocus

/-! ## Place -/

theorem State.Kept.needCtx {s : State} {tag : Nat} (h : s.Kept φ m c) : (s.needCtx tag).Kept φ m c := h.ite h.upd
theorem State.Kept.takeSlot {s : State} {tag : Nat} (h : s.Kept φ m c) : (s.takeSlot tag).Kept φ m c := h.needCtx.modCtx.upd

theorem State.Kept.squeezeSet {cache set w n : Nat} {s : State} (h : s.Kept none m c) : (State.squeezeSet cache set w n s).Kept none m c := by
  induction n generalizing s with
  | zero => exact h
  | succ n ih =>
    rw [State.squeezeSet]
    refine h.ite ?_
    dsimp only
    split
    · exact ih h.upd.evict
    · refine State.Kept.ite (ih h.upd.modSquads) ?_
      split
      · exact h.upd.focusOn.await.unfocus
      · exact (ih h.upd.focusOn.publish.unfocus).ite h.upd
    · exact h.upd

theorem State.Kept.squeeze {s : State} {cache w : Nat} (h : s.Kept none m c) : (s.squeeze cache w).Kept none m c := h.foldl (fun h => h.squeezeSet)
section
variable {s : State} {f : State → Option State}

/-- What making room leaves, where a placement that keeps it is tried. -/
theorem State.Kept.whenClear (h : s.Kept none m c) : (s.whenClear f).2.Kept none m c := by
  unfold State.whenClear
  split
  · exact h
  · refine h.pair.iteSnd ?_
    extract_lets u
    have hu : u.Kept none m c := h.foldl (fun h => h.ite h.squeeze)
    split
    exacts [hu, hu]

theorem State.Kept.whenClear_snd (h : s.Kept none m c) {o : Option State} {u : State} (he : s.whenClear f = (o, u)) : u.Kept none m c := by
  have hu := h.whenClear (f := f)
  rwa [he] at hu

/-- And the placement itself. -/
theorem State.Kept.whenClear_fst (h : s.Kept none m c) (hf : ∀ {t : State}, t.Kept none m c → OptKept none m c (f t)) :
    OptKept none m c (s.whenClear f).1 := by
  unfold State.whenClear
  split
  · exact .none
  · next t ht =>
    split
    · exact .some (hf h t ht)
    · extract_lets u
      have hu : u.Kept none m c := h.foldl (fun h => h.ite h.squeeze)
      split
      · exact .none
      · next v hv => exact .ite (.some (hf hu v hv)) .none
end
theorem State.Kept.putTeam {s : State} {l : Launch} {num n cache : Nat} {tide : Stamp} (h : s.Kept φ m c) :
    (s.putTeam l num n cache tide).Kept φ m c := h.takeSlot.makeSet.upd
theorem State.Kept.putMcc {s : State} {l : Launch} {cl : Nat} {tide : Stamp} (h : s.Kept φ m c) : (s.putMcc l cl tide).Kept φ m c := h.upd
theorem State.Kept.putCluster {s : State} {l : Launch} {num cl : Nat} {tide : Stamp} (h : s.Kept φ m c) :
    (s.putCluster l num cl tide).Kept φ m c := (h.foldl (fun h => h.putTeam)).putMcc

theorem OptKept.map_of {α : Type} {o : Option α} {f : α → State} (hf : ∀ {a}, (f a).Kept φ m c) : OptKept φ m c (o.map f) := by
  cases o with
  | none => exact .none
  | some a => exact .some hf

theorem State.Kept.putOne {l : Launch} {tide : Stamp} {caches : List Nat} {num : Nat} {s : State} (h : s.Kept φ m c) :
    OptKept φ m c (State.putOne l tide caches num s) :=
  .ite (.map_of h.putCluster) (.map_of h.putTeam)
/-- A chain of placements, each of which keeps it. -/
theorem OptKept.chain {α : Type} {f : State → α → Option State} (hf : ∀ {t a}, t.Kept φ m c → OptKept φ m c (f t a)) {l : List α} {o : Option State}
    (ho : OptKept φ m c o) : OptKept φ m c (l.foldl (fun o a => o.bind (fun t => f t a)) o) := by
  induction l generalizing o with
  | nil => exact ho
  | cons a l ih => exact ih (ho.bind (fun h => hf h))

theorem OptKept.findSome {α : Type} {f : α → Option State} (hf : ∀ {a}, OptKept φ m c (f a)) {l : List α} : OptKept φ m c (l.findSome? f) := by
  intro t ht
  obtain ⟨a, -, ha⟩ := List.exists_of_findSome?_eq_some ht
  exact hf t ha

theorem State.Kept.putInst {l : Launch} {tide : Stamp} {parts : List (Nat × Nat)} {caches : List Nat} {num : Nat} {s : State} (h : s.Kept φ m c) :
    OptKept φ m c (State.putInst l tide parts caches num s) := by
  induction parts generalizing caches num s with
  | nil => exact h.putOne
  | cons p rest ih =>
    unfold State.putInst
    exact .findSome (.chain (fun h => ih h) (.some h))

theorem State.Kept.putPart {s : State} {l : Launch} {rest : List (Nat × Nat)} {sub : Nat} {tide : Stamp} {caches : List Nat} {n : Nat}
    (h : s.Kept φ m c) : OptSndKept φ m c (s.putPart l rest sub tide caches n) := by
  induction n with
  | zero => exact .none
  | succ n ih =>
    rw [State.putPart]
    split
    · next t ht => exact .some (OptKept.chain (fun h => h.putInst) (.some h) t ht)
    · exact ih

theorem State.Kept.putNext {s : State} {l : Launch} {dies : List Nat} {tide : Stamp} (h : s.Kept φ m c) : OptKept φ m c (s.putNext l dies tide) := by
  unfold State.putNext
  extract_lets caches
  split
  · next t ht => exact .some (h.putInst t ht)
  · refine .ite .none ?_
    intro v hv
    obtain ⟨p, hp, rfl⟩ := Option.map_eq_some_iff.mp hv
    exact (h.putPart p hp).upd.modLaunch
  · exact .none

end

end Sys2Proof.Machine

/-! # Proofs: every operation keeps the canonical form: events of homes, contexts, queues and translation -/

namespace Sys2Proof.Machine

section
variable {φ : Option Focus} {m c : Prop}

/-! ## EvHome -/

theorem State.Kept.setL1 {s : State} {cache line : Nat} {st : L1St} {op ty : Nat} (h : s.Kept φ m c) : (s.setL1 cache line st op ty).Kept φ m c := by
  unfold State.setL1
  split
  · exact h.upd
  · exact h.upd

theorem State.Kept.dropL1 {s : State} {cache line : Nat} (h : s.Kept φ m c) : (s.dropL1 cache line).Kept φ m c := h.upd

theorem State.Kept.request {s : State} {cache line : Nat} {st : L1St} {op ty : Nat} {n : Need} {r : HomeReq} (h : s.Kept φ m c) :
    (s.request cache line st op ty n r).Kept φ m c := by
  unfold State.request
  have hw : OptKept φ m c (if (s.l1Of cache line).isSome then some s else s.takeWay cache line) := .ite (.some h) h.takeWay
  refine h.ask.ite ?_
  split
  · next t ht => exact (hw t ht).setL1.arrive
  · exact h

theorem State.Kept.execHomeSharedRequest {line cache : Nat} {s : State} (h : s.Kept none m c) :
    OutKept none m c (Machine.execHomeSharedRequest line cache s) := by
  unfold Machine.execHomeSharedRequest
  extract_lets
  split
  · exact h.unfocus.request
  · exact h.unfocus.serveAll

theorem State.Kept.execHomeExclusiveRequest {line cache : Nat} {s : State} (h : s.Kept none m c) :
    OutKept none m c (Machine.execHomeExclusiveRequest line cache s) := by
  unfold Machine.execHomeExclusiveRequest
  extract_lets
  split
  · exact h.unfocus.request
  · exact .ite h.unfocus.request h.unfocus.serveAll

theorem State.Kept.execHomeUpdateOnlyRequest {line cache op ty : Nat} {firstA : Stamp} {s : State} (h : s.Kept none m c) :
    OutKept none m c (Machine.execHomeUpdateOnlyRequest line cache op ty firstA s) := by
  unfold Machine.execHomeUpdateOnlyRequest
  extract_lets
  split
  · split
    · exact .ite h.unfocus.upd.arrive h.unfocus
    · exact h.unfocus
  · split
    · exact h.unfocus.serveAll
    · split
      · exact .ite h.unfocus.evict (.ite h.unfocus (((h.unfocus.ite h.unfocus.cuStamp).dropL1).request))
      · exact .ite h.unfocus (.ite (h.unfocus.ite h.unfocus.cuStamp.demand) ((h.unfocus.ite h.unfocus.cuStamp).request))

theorem State.Kept.execHomePlainRead {line cache : Nat} {t' : Stamp} {s : State} (h : s.Kept none m c) :
    OutKept none m c (Machine.execHomePlainRead line cache t' s) :=
  .ite h.unfocus (.ite (h.unfocus.askData.ite h.unfocus.ask) (.ite h.unfocus.arrive h.unfocus.fillCopy))

theorem State.Kept.execHomeCollapseRequest {line agent : Nat} {s : State} (h : s.Kept none m c) :
    OutKept none m c (Machine.execHomeCollapseRequest line agent s) := h.unfocus.arrive

theorem State.Kept.execHomePublicationEvent {msg : Nat} {s : State} (h : s.Kept none m c) :
    OutKept none m c (Machine.execHomePublicationEvent msg s) := by
  unfold Machine.execHomePublicationEvent
  extract_lets
  split
  · exact h.unfocus
  · exact .ite h.unfocus (.ite h.unfocus.mergeHome.ackMsg h.unfocus.arrive)

theorem State.Kept.invalidate {s : State} {cache line : Nat} (h : s.Kept φ m c) : (s.invalidate cache line).Kept φ m c := by
  unfold State.invalidate
  split
  · exact h.dropL1.ite h
  · exact h

theorem State.Kept.execL1Invalidate {cache line : Nat} {s : State} (h : s.Kept none m c) :
    OutKept none m c (Machine.execL1Invalidate cache line s) := .ite h.unfocus.invalidate h.unfocus
theorem State.Kept.answered {s : State} {data : Bool} {line pkg die : Nat} (h : s.Kept φ m c) :
    (s.answered data line pkg die).Kept φ m c := (h.upd.ite h).setHome
theorem State.Kept.answerIn {s : State} {data : Bool} {line die : Nat} (h : s.Kept φ m c) : (s.answerIn data line die).Kept φ m c := h.upd

theorem State.Kept.answerRecall {s : State} {cache line : Nat} (h : s.Kept φ m c) : (s.answerRecall cache line).Kept φ m c := by
  unfold State.answerRecall
  extract_lets
  split
  · exact h
  · split
    · exact h.sendBytes
    · split
      · extract_lets
        split
        · exact h.sendBytes.upd
        · exact h.sendBytes.dropL1
      · exact h.ite h.sendBytes.dropL1

theorem State.Kept.execL1Recall {cache line : Nat} {s : State} (h : s.Kept none m c) :
    OutKept none m c (Machine.execL1Recall cache line s) := h.unfocus.answerRecall
theorem State.Kept.stallMsg {s : State} {id : Nat} (h : s.Kept φ m c) : (s.stallMsg id).Kept φ m c := (h.setCsr.ite h).upd

theorem State.Kept.execHomeOwnerBytes {line : Nat} {s : State} (h : s.Kept none m c) : OutKept none m c (Machine.execHomeOwnerBytes line s) := by
  unfold Machine.execHomeOwnerBytes
  extract_lets
  split
  · exact h.unfocus
  · exact .ite h.unfocus (.ite h.unfocus.stallMsg (.ite (((h.unfocus.upd.ite h.unfocus.upd.landed.carryPoison).setHome).serveAll) (.ite (((h.unfocus.upd.ite h.unfocus.upd.landed.carryPoison).setHome).serveAll) (h.unfocus.upd.ite h.unfocus.upd.landed.carryPoison))))

theorem State.Kept.execL1PutAck {cache line : Nat} {s : State} (h : s.Kept none m c) : OutKept none m c (Machine.execL1PutAck cache line s) := by
  unfold Machine.execL1PutAck
  extract_lets
  split
  · exact .ite h.unfocus.dropL1.serveAll h.unfocus
  · exact h.unfocus

theorem State.Kept.execL1CollapseRecall {cache line : Nat} {s : State} (h : s.Kept none m c) :
    OutKept none m c (Machine.execL1CollapseRecall cache line s) := .ite h.unfocus.upd h.unfocus

theorem State.Kept.execMergePortCollapse {die line : Nat} {s : State} (h : s.Kept none m c) :
    OutKept none m c (Machine.execMergePortCollapse die line s) :=
  .ite (.ite h.unfocus.upd.setHome.answered (.ite h.unfocus.upd.sendPart.setHome.serveAll h.unfocus.upd.sendPart.setHome)) h.unfocus

theorem State.Kept.endCollapse {s : State} {k : Home} (h : s.Kept φ m c) : (s.endCollapse k).Kept φ m c := by
  unfold State.endCollapse
  dsimp only
  split
  exacts [h.collapseAt.serveAll, h.stampOver.collapseAt.serveAll]

theorem State.Kept.lastPartial {s : State} {h' : Home} {first : Bool} (h : s.Kept φ m c) :
    (s.lastPartial h' first).Kept φ m c := (h.setCsr.ite h).ite h.endCollapse

theorem State.Kept.partIn {s : State} {line pkg die : Nat} (h : s.Kept φ m c) : (s.partIn line pkg die).Kept φ m c := by
  unfold State.partIn
  split
  · exact (h.upd.toPort.setHome.ite h.upd.toPort.setHome.upd).ite h.upd.toPort
  · exact h

theorem State.Kept.execHomeDiePartial {line pkg die : Nat} {s : State} (h : s.Kept none m c) :
    OutKept none m c (Machine.execHomeDiePartial line pkg die s) :=
  .ite (.ite (((((h.unfocus.ite h.unfocus.partIn).answerIn).ite (h.unfocus.ite h.unfocus.partIn)).setHome).lastPartial) ((((h.unfocus.ite h.unfocus.partIn).answerIn).ite (h.unfocus.ite h.unfocus.partIn)).setHome)) (.ite ((((h.unfocus.ite h.unfocus.partIn).answerIn).ite (h.unfocus.ite h.unfocus.partIn)).lastPartial) (((h.unfocus.ite h.unfocus.partIn).answerIn).ite (h.unfocus.ite h.unfocus.partIn)))

theorem State.Kept.execSnoopFilterMessage {die line : Nat} {s : State} (h : s.Kept none m c) :
    OutKept none m c (Machine.execSnoopFilterMessage die line s) :=
  .ite (((h.unfocus.foldl (fun h => h.invalidate)).trimFilter).answered) (.ite h.unfocus.answerRecall (.ite h.unfocus.upd h.unfocus))

theorem State.Kept.takeAck {s : State} {line : Nat} {a : Nat × Nat} (h : s.Kept φ m c) : (s.takeAck line a).Kept φ m c := by
  unfold State.takeAck
  extract_lets
  split
  · split
    · exact h.setHome
    · split
      · exact (by split; exacts [h.setHome.ackMsg, h.setHome.toPort, h.setHome] : State.Kept _ _ _ _).serveAll
      · split
        · exact h.grantTo
        · exact h.setHome
  · exact h

theorem State.Kept.farAnswer {s : State} {line pkg : Nat} (h : s.Kept φ m c) : (s.farAnswer line pkg).Kept φ m c := by
  unfold State.farAnswer
  split
  · exact h.upd.serveAll
  · exact h.takeAck

theorem State.Kept.execHomeInvalidationAck {line die : Nat} {s : State} (h : s.Kept none m c) :
    OutKept none m c (Machine.execHomeInvalidationAck line die s) := by
  unfold Machine.execHomeInvalidationAck
  exact (by split; exacts [h.unfocus.upd.farAnswer, h.unfocus] : State.Kept _ _ _ _).ite (h.unfocus.ite h.unfocus.answerIn.takeAck)

theorem State.Kept.execL1Grant {cache line : Nat} {s : State} (h : s.Kept none m c) : OutKept none m c (Machine.execL1Grant cache line s) := by
  unfold Machine.execL1Grant
  dsimp only
  split
  · exact ((by split; exacts [h.unfocus.filterAdd.setL1, h.unfocus.filterAdd.setL1, h.unfocus.filterAdd.dropL1.upd.ite h.unfocus.filterAdd.dropL1.upd, h.unfocus.filterAdd] : State.Kept _ _ _ _).setHome).serveAll
  · exact h.unfocus

theorem State.Kept.handOver {s : State} {page : Nat} (h : s.Kept φ m c) :
    (s.handOver page).Kept φ m c := ((h.foldl (fun h => h.collapse)).foldl (fun h => h.depart)).upd

theorem State.Kept.giveGrants {s : State} {l : List Grant} (h : s.Kept φ m c) : (s.giveGrants l).Kept φ m c := by
  induction l generalizing s with
  | nil => exact h
  | cons g r ih =>
    rw [State.giveGrants]
    refine (ih h).ite ?_
    split
    · exact (ih h).ite (ih (h.handOver.ite h).upd.toPort)
    · exact ih h.recallGrants

theorem State.Kept.execPageGrantRequest {pkg page kind op ty : Nat} {s : State} (h : s.Kept none m c) :
    OutKept none m c (Machine.execPageGrantRequest pkg page kind op ty s) := by
  unfold Machine.execPageGrantRequest
  extract_lets
  split
  · exact h.unfocus
  · split
    · exact .ite h.unfocus.demandOnce h.unfocus
    · split
      · exact h.unfocus
      · exact .ite h.unfocus.upd h.unfocus.upd.upd.giveGrants

theorem State.Kept.leavePage {s : State} {page : Nat} (h : s.Kept φ m c) : (s.leavePage page).Kept φ m c := h.upd.foldl (fun h => h.evict.ite h)
theorem State.Kept.dropPage {s : State} {page : Nat} (h : s.Kept φ m c) : (s.dropPage page).Kept φ m c := h.upd

theorem State.Kept.execPageGrantRecall {pkg page : Nat} {s : State} (h : s.Kept none m c) :
    OutKept none m c (Machine.execPageGrantRecall pkg page s) := by
  unfold Machine.execPageGrantRecall
  extract_lets
  split
  · exact h.unfocus.recallGrants
  · split
    · exact h.unfocus
    · exact .ite h.unfocus.leavePage.upd.dropPage.toPort h.unfocus.leavePage

theorem State.Kept.execPageGrantRecallAck {pkg page : Nat} {s : State} (h : s.Kept none m c) :
    OutKept none m c (Machine.execPageGrantRecallAck pkg page s) := by
  unfold Machine.execPageGrantRecallAck
  extract_lets
  split
  · exact h.unfocus
  · exact h.unfocus.upd.giveGrants.foldl (fun h => h.serveAll)

theorem State.Kept.execEbbCollectorPass {line : Nat} {s : State} (h : s.Kept none m c) :
    OutKept none m c (Machine.execEbbCollectorPass line s) := h.unfocus.reclaim
theorem State.Kept.revoke {s : State} {st : Stamp} {p : Nat → Bool} (h : s.Kept φ m c) : (s.revoke st p).Kept φ m c := h.modSquads.upd
theorem State.Kept.sendRevocation {s : State} {st : Stamp} (h : s.Kept φ m c) : (s.sendRevocation st).Kept φ m c := h.foldl (fun h => h.demand)

theorem State.Kept.execVersionStoreFullTimeout {s : State} (h : s.Kept none m c) : OutKept none m c (Machine.execVersionStoreFullTimeout s) := by
  unfold Machine.execVersionStoreFullTimeout
  extract_lets
  split
  · exact .ite h.unfocus.sendRevocation.revoke.upd h.unfocus
  · exact h.unfocus

theorem State.Kept.execSnapshotAgeLimit {s : State} (h : s.Kept none m c) :
    OutKept none m c (Machine.execSnapshotAgeLimit s) := .ite h.unfocus h.unfocus.revoke

theorem State.Kept.execSnapshotRevocation {st : Stamp} {s : State} (h : s.Kept none m c) :
    OutKept none m c (Machine.execSnapshotRevocation st s) := by
  unfold Machine.execSnapshotRevocation
  extract_lets
  split
  · exact h.unfocus.upd.toPort.revoke
  · exact h.unfocus

/-! ## EvContext -/

theorem State.Kept.setResult {s : State} {tag r : Nat} (h : s.Kept φ m c) : (s.setResult tag r).Kept φ m c := h.needCtx.modCtx
theorem State.Kept.poisonOut {s : State} {u : Team} (h : s.Kept φ m c) : (s.poisonOut u).Kept φ m c := h.upd
theorem State.Kept.poisonIn {s : State} {u : Team} (h : s.Kept φ m c) : (s.poisonIn u).Kept φ m c := h.upd
theorem State.Kept.writeSeg {s : State} {pa free : Nat} {g : Nat × Piece} (h : s.Kept φ m c) : (s.writeSeg pa free g).Kept φ m c := h.physWrite.upd
theorem State.Kept.trySave {s : State} {id : Nat} (h : s.Kept none m c) : (s.trySave id).Kept none m c := (h.focusOn.saveSquad.ite h.focusOn).unfocus
theorem State.Kept.saveSquads {s : State} {tag : Nat} (h : s.Kept none m c) : (s.saveSquads tag).Kept none m c := h.foldl (fun h => h.trySave)
theorem State.Kept.stowHuddles {s : State} {tag : Nat} (h : s.Kept φ m c) : (s.stowHuddles tag).Kept φ m c := h.modCtx.upd
theorem State.Kept.stowCluster {tag : Nat} {s : State} {cl : Nat} (h : s.Kept φ m c) : (State.stowCluster tag s cl).Kept φ m c := h.ite h.modCtx.upd

theorem State.Kept.finishSave {s : State} {tag : Nat} (h : s.Kept φ m c) :
    (s.finishSave tag).Kept φ m c :=
  h.ite (((h.preemptMccs.stowHuddles.foldl (fun h => h.stowCluster)).trimCopies).ite (((((h.preemptMccs.stowHuddles.foldl (fun h => h.stowCluster)).upd).foldl (fun h => h.writeSeg)).slotsFreed ((((h.preemptMccs.stowHuddles.foldl (fun h => h.stowCluster)).upd).foldl (fun h => h.writeSeg)).modCtx)).trimCopies))

theorem State.Kept.execCtxcmdSave {ctx : Nat} {s : State} (h : s.Kept none m c) : OutKept none m c (Machine.execCtxcmdSave ctx s) := by
  unfold Machine.execCtxcmdSave
  extract_lets
  split
  · exact h.unfocus.needCtx
  · exact .ite h.unfocus.needCtx.setResult (.ite h.unfocus.needCtx.setResult h.unfocus.needCtx.modCtx.preemptMccs.stowHuddles.saveSquads.finishSave)

theorem State.Kept.execGraceWindowClose {ctx : Nat} {s : State} (h : s.Kept none m c) : OutKept none m c (Machine.execGraceWindowClose ctx s) := by
  unfold Machine.execGraceWindowClose
  extract_lets
  split
  · exact .ite h.unfocus.saveSquads.finishSave h.unfocus
  · exact h.unfocus

theorem State.Kept.stowTeam {s : State} {u : Team} (h : s.Kept φ m c) : (s.stowTeam u).Kept φ m c := by
  unfold State.stowTeam
  dsimp only
  refine State.Kept.freeTeam (State.Kept.poisonOut ⟨h.focus, h.mem, fun hc => canon_filter (h.scr hc) _⟩)

theorem State.Kept.execTeamSaveRecord {team : Nat} {s : State} (h : s.Kept none m c) : OutKept none m c (Machine.execTeamSaveRecord team s) := by
  unfold Machine.execTeamSaveRecord
  extract_lets
  split
  · exact .ite h.unfocus.stowTeam.finishSave h.unfocus
  · exact h.unfocus

theorem State.Kept.execCtxcmdRestore {ctx : Nat} {s : State} (h : s.Kept none m c) : OutKept none m c (Machine.execCtxcmdRestore ctx s) := by
  unfold Machine.execCtxcmdRestore
  extract_lets
  split
  · exact h.unfocus.needCtx
  · exact .ite h.unfocus.needCtx.setResult (.ite h.unfocus.needCtx.setResult (h.unfocus.needCtx.upd.modCtx.takeSlot.ite h.unfocus.needCtx.upd.modCtx))

theorem State.Kept.putSquad {s : State} {u : Team} {q : Squad} (h : s.Kept φ m c) : (s.putSquad u q).Kept φ m c := h.upd
theorem State.Kept.putHeld {s : State} {u : Team} {h' : Nat × Nat × Nat × Nat} (h : s.Kept φ m c) : (s.putHeld u h').Kept φ m c := h.modTeam

theorem State.Kept.putSaved {s : State} {v : Saved} {u : Team} {cl : Nat} (h : s.Kept φ m c) : OptSndKept φ m c (s.putSaved v u cl) := by
  unfold State.putSaved
  extract_lets
  split
  · exact .none
  · exact .ite .none (.some (((h.upd.foldl (fun h => h.putSquad)).foldl (fun h => h.putHeld)).raiseArrival))

theorem State.Kept.putSavedAll {v : Saved} {cl : Nat} {l : List Team} {done : List (Team × Team)} {s : State} (h : s.Kept φ m c) :
    OptSndKept φ m c (State.putSavedAll v cl l done s) := by
  induction l generalizing done s with
  | nil => exact .some h
  | cons u l ih =>
    rw [State.putSavedAll]
    split
    · exact .none
    · next w t ht => exact ih (h.putSaved _ ht)

theorem State.Kept.putHuddle {s : State} {cl : Nat} {h' : Huddle} (h : s.Kept φ m c) : (s.putHuddle cl h').Kept φ m c := h.upd

theorem State.Kept.putRestOf {s : State} {v : Saved} {old cl : Nat} {l : List (Team × Team)} (h : s.Kept φ m c) :
    (s.putRestOf v old cl l).Kept φ m c := by
  unfold State.putRestOf
  extract_lets cells lines objs cmds ids t t1 t2
  have ht : t.Kept φ m c := by
    refine ⟨h.focus, h.mem, fun hc => ?_⟩
    show canon 0 (cells.foldl (fun m c => put 0 m (reKey l c.1) c.2) s.scratch) = true
    have hscr := h.scr hc
    revert hscr
    generalize s.scratch = k
    induction cells generalizing k with
    | nil => exact id
    | cons e cells ih => exact fun hk => ih _ (canon_put hk _ _)
  exact (ht.modSquads.foldl (fun h => h.poisonIn)).foldl (fun h => h.putHuddle)

theorem State.Kept.putGroup {s : State} {ctx old cl : Nat} (h : s.Kept φ m c) : OptKept φ m c (s.putGroup ctx old cl) := by
  unfold State.putGroup
  split
  · exact .none
  · extract_lets
    split
    · exact .none
    · split
      · exact .none
      · exact .some ((h.putSavedAll _ ‹_›).putRestOf)

theorem State.Kept.putGroups {ctx : Nat} {v : Saved} {l : List Nat} {done : List (Nat × Nat)} {s : State} (h : s.Kept φ m c) :
    OptKept φ m c (State.putGroups ctx v l done s) := by
  induction l generalizing done s with
  | nil => exact .some h
  | cons o r ih =>
    rw [State.putGroups]
    refine .findSome (OptKept.ite ?_ .none)
    split
    · next t ht => exact ih (h.putGroup t ht)
    · exact .none

theorem State.Kept.unlist {s : State} {ctx : Nat} {olds : List Nat} (h : s.Kept φ m c) : (s.unlist ctx olds).Kept φ m c := h.modCtx.modCtx.freeSlots

theorem OptSndKept.findSome {α β : Type} {f : α → Option (β × State)} (hf : ∀ {a}, OptSndKept φ m c (f a)) {l : List α} :
    OptSndKept φ m c (l.findSome? f) := by
  intro t ht
  obtain ⟨a, -, ha⟩ := List.exists_of_findSome?_eq_some ht
  exact hf t ha

theorem State.Kept.restorable {s : State} {ctx : Nat} (h : s.Kept φ m c) : OptSndKept φ m c (s.restorable ctx) := by
  unfold State.restorable
  split
  · exact .none
  · refine .ite .none (.ite (.some h) (.findSome ?_))
    intro a p hp
    obtain ⟨t, ht, rfl⟩ := Option.map_eq_some_iff.mp hp
    exact h.putGroups t ht

theorem State.Kept.retest {s : State} {id : Nat} (h : s.Kept none m c) : (s.retest id).Kept none m c := by
  unfold State.retest
  exact (by split; exacts [h.focusOn.wakeNow.ite h.focusOn, h.focusOn] : State.Kept _ _ _ _).unfocus

theorem State.Kept.failSaved {s : State} (h : s.Kept φ m c) : (s.failSaved).Kept φ m c := h.foldl (fun h => h.cmdFail)

theorem State.Kept.execContextRestorePlace {ctx : Nat} {s : State} (h : s.Kept none m c) :
    OutKept none m c (Machine.execContextRestorePlace ctx s) := by
  unfold Machine.execContextRestorePlace
  dsimp only
  split
  · exact h.unfocus
  · next olds u ho =>
    have hf {t : State} (h : t.Kept none m c) :
        OptKept none m c ((t.restorable ctx).bind (fun p => if p.1 == olds then some p.2 else none)) := by
      intro v hv
      obtain ⟨p, hp, hv⟩ := Option.bind_eq_some_iff.mp hv
      split at hv
      · exact Option.some.inj hv ▸ h.restorable p hp
      · exact absurd hv.symm (Option.some_ne_none _)
    have hw := h.unfocus.whenClear_fst hf
    split
    · next u he => exact h.unfocus.whenClear_snd he
    · next t _ he =>
      rw [he] at hw
      exact (hw t rfl).takeSlot.failSaved.unlist.foldl (fun h => h.retest)

theorem State.Kept.cmdForce {s : State} {c' : Cmd} (h : s.Kept φ m c) : (s.cmdForce c').Kept φ m c := by
  unfold State.cmdForce
  split
  · exact h.cmdDone
  · split
    · exact h.cmdFail
    · split
      · exact h.cmdTurn
      · exact h.cmdAdd.ite h
      · split
        · exact h
        · extract_lets
          split
          · split
            · exact h.putTlb
            · exact h.cmdFail
          · exact h.cmdFail
          · exact h.cmdMove

theorem State.Kept.runOut {ctx n : Nat} {s : State} (h : s.Kept φ m c) : (State.runOut ctx n s).Kept φ m c := by
  induction n generalizing s with
  | zero => exact h
  | succ n ih =>
    rw [State.runOut]
    refine h.ite (ih (h.foldl (fun h => ?_)))
    split
    exacts [h.cmdForce, h]

theorem State.Kept.disableQueues {s : State} {ctx : Nat} (h : s.Kept φ m c) : (s.disableQueues ctx).Kept φ m c := by
  unfold State.disableQueues
  split
  · exact h.foldl (fun h => (by split; exacts [h.physWrite.ite h, h] : State.Kept _ _ _ _))
  · exact h

theorem State.Kept.wipe {s : State} {ctx : Nat} (h : s.Kept φ m c) :
    (s.wipe ctx).Kept φ m c := (((h.foldl (fun h => h.sampleQuit)).upd).foldl (fun h => h.freeTeam)).upd

theorem State.Kept.execCtxcmdKill {ctx : Nat} {s : State} (h : s.Kept none m c) :
    OutKept none m c (Machine.execCtxcmdKill ctx s) :=
  (((h.unfocus.needCtx.runOut.wipe.slotsFreed h.unfocus.needCtx.runOut.wipe.modCtx).trimCopies).letIn).disableQueues

theorem State.Kept.stopOn {s : State} {ctx : Nat} {f : State → State} (h : s.Kept none m c) (hf : ∀ {t}, t.Kept none m c → (f t).Kept none m c) :
    (s.stopOn ctx f).Kept none m c := (hf h.unfocus.needCtx.modCtx).ite h.unfocus.needCtx.modCtx
theorem State.Kept.stopTeam {s : State} {u : Team} (h : s.Kept φ m c) : (s.stopTeam u).Kept φ m c := h.ite h.modTeam.modSquads
theorem State.Kept.execStopcmdStop {ctx team : Nat} {s : State} (h : s.Kept none m c) :
    OutKept none m c (Machine.execStopcmdStop ctx team s) := h.stopOn (fun h => h.foldl (fun h => h.stopTeam))

theorem State.Kept.execStopComplete {team : Nat} {s : State} (h : s.Kept none m c) : OutKept none m c (Machine.execStopComplete team s) := by
  unfold Machine.execStopComplete
  extract_lets
  split
  · exact h.unfocus
  · exact .ite h.unfocus.modTeam.upd.flushStop h.unfocus

theorem State.Kept.resumeTeam {s : State} {u : Team} (h : s.Kept none m c) :
    (s.resumeTeam u).Kept none m c := h.ite (h.modTeam.modSquads.foldl (fun h => h.retest))
theorem State.Kept.execStopcmdResume {ctx team : Nat} {s : State} (h : s.Kept none m c) :
    OutKept none m c (Machine.execStopcmdResume ctx team s) := h.stopOn (fun h => h.foldl (fun h => h.resumeTeam))
theorem State.Kept.execStopcmdResumeAll {ctx : Nat} {s : State} (h : s.Kept none m c) :
    OutKept none m c (Machine.execStopcmdResumeAll ctx s) := h.stopOn (fun h => h.foldl (fun h => h.resumeTeam))

/-! ## EvSched -/

theorem State.Kept.modQueue {s : State} {q : Nat} {f : Queue → Queue} (h : s.Kept φ m c) : (s.modQueue q f).Kept φ m c := h.setQueue
theorem State.Kept.lookAll {s : State} (h : s.Kept φ m c) : (s.lookAll).Kept φ m c := h.upd
theorem State.Kept.finishEntry {s : State} {q n : Nat} {st : Stamp} (h : s.Kept φ m c) : (s.finishEntry q n st).Kept φ m c := h.modQueue.lookAll

theorem State.Kept.qtailWrite {s : State} {q n : Nat} {st : Option Stamp} (h : s.Kept φ m c) : (s.qtailWrite q n st).Kept φ m c := by
  unfold State.qtailWrite
  dsimp only
  split
  · exact h.setQueue
  · refine h.setQueue.ite (h.setQueue.lookAll.ite ?_)
    split
    exacts [h.setQueue.lookAll, h.takeStamp.setQueue.lookAll]

theorem State.Kept.execQtailWrite {q : Nat} {v : D} {s : State} (h : s.Kept none m c) :
    OutKept none m c (Machine.execQtailWrite q v s) := .ite h.unfocus h.unfocus.qtailWrite
theorem State.Kept.execQfaultClear {q : Nat} {s : State} (h : s.Kept none m c) :
    OutKept none m c (Machine.execQfaultClear q s) := .ite h.unfocus.setQueue.finishEntry h.unfocus

theorem State.Kept.execQtbaseWrite {hi : Bool} {v : W} {s : State} (h : s.Kept none m c) :
    OutKept none m c (Machine.execQtbaseWrite hi v s) :=
  .ite h.unfocus (.ite (.ite h.unfocus.setCsr h.unfocus.setCsr.lookAll) (.ite h.unfocus.setCsr h.unfocus.setCsr.lookAll))

theorem State.Kept.takeEntry {s : State} {r : Queue} {d : QDesc} {e : QEntry} (h : s.Kept φ m c) : (s.takeEntry r d e).Kept φ m c := by
  unfold State.takeEntry
  extract_lets
  split
  · exact h.setQueue.report
  · exact h.setQueue.finishEntry
  · exact h.setQueue.fresh.upd

theorem State.Kept.execArbiterTakeEntry {s : State} (h : s.Kept none m c) : OutKept none m c (Machine.execArbiterTakeEntry s) := by
  unfold Machine.execArbiterTakeEntry
  extract_lets
  split
  · exact h.unfocus.settle
  · split
    · exact h.unfocus.settle.lookAll.upd.takeEntry
    · exact h.unfocus.settle.lookAll

theorem State.Kept.execEntryClassAge {q : Nat} {s : State} (h : s.Kept none m c) :
    OutKept none m c (Machine.execEntryClassAge q s) := .ite h.unfocus.setQueue h.unfocus
theorem State.Kept.execHuddleTimerExpire {cl h' : Nat} {s : State} (h : s.Kept none m c) :
    OutKept none m c (Machine.execHuddleTimerExpire cl h' s) := h.unfocus.upd

theorem State.Kept.execHuddlePlace {cl k : Nat} {s : State} (h : s.Kept none m c) : OutKept none m c (Machine.execHuddlePlace cl k s) := by
  unfold Machine.execHuddlePlace
  extract_lets t
  have ht : t.Kept none m c := h.unfocus.settle
  split
  · exact ht
  split
  · exact ht
  refine .ite ht ?_
  extract_lets hl tide fill load open_
  have ho {u : State} (h : u.Kept none m c) : (open_ u).Kept none m c := h.fresh.upd
  split
  · next u he => exact ht.whenClear_snd he
  · next v u he => exact (ht.whenClear_fst (fun h => .some (ho h).putTeam) v (congrArg Prod.fst he)).modSquads

theorem State.Kept.execPlaceTeam {launch : Nat} {s : State} (h : s.Kept none m c) : OutKept none m c (Machine.execPlaceTeam launch s) := by
  unfold Machine.execPlaceTeam
  extract_lets t
  have ht : t.Kept none m c := h.unfocus.settle
  split
  · exact ht
  refine .ite ht ?_
  split
  · next u he => exact ht.whenClear_snd he
  · next v u he => exact (ht.whenClear_fst (fun h => h.putNext) v (congrArg Prod.fst he)).modLaunch.modQueue.lookAll

theorem State.Kept.execPlacerOldestWaitExpire {s : State} (h : s.Kept none m c) : OutKept none m c (Machine.execPlacerOldestWaitExpire s) := by
  unfold Machine.execPlacerOldestWaitExpire
  extract_lets
  split
  · exact .ite h.unfocus.modLaunch h.unfocus
  · exact h.unfocus

theorem State.Kept.execLaunchComplete {launch : Nat} {s : State} (h : s.Kept none m c) : OutKept none m c (Machine.execLaunchComplete launch s) := by
  unfold Machine.execLaunchComplete
  extract_lets
  split
  · exact h.unfocus
  · exact .ite h.unfocus (.ite h.unfocus.upd.upd (h.unfocus.upd.finishEntry.raiseHirq.ite h.unfocus.upd.finishEntry))

/-! ## EvTrans -/

theorem State.Kept.putWalkEnt {s : State} {e : WalkEnt} (h : s.Kept φ m c) : (s.putWalkEnt e).Kept φ m c := h.ite (h.upd.ite h.upd)
theorem State.Kept.cacheTables {s : State} {w : Walk} (h : s.Kept φ m c) : (s.cacheTables w).Kept φ m c := h.foldl (fun h => h.putWalkEnt)
theorem State.Kept.cacheLeaf {s : State} {w : Walk} {l : Leaf} (h : s.Kept φ m c) :
    (s.cacheLeaf w l).Kept φ m c := (((h.foldl (fun h => h.putTlb)).modSquads).modMccs).upd
theorem State.Kept.walkFree {s : State} {w : Nat} (h : s.Kept φ m c) : (s.walkFree w).Kept φ m c := h.modSquads.modMccs.upd
theorem State.Kept.walkPark {s : State} {w num : Nat} (h : s.Kept φ m c) : (s.walkPark w num).Kept φ m c := h.modSquads.modMccs.upd

theorem State.Kept.walkFault {s : State} {w : Walk} {cause level : Nat} (h : s.Kept φ m c) : (s.walkFault w cause level).Kept φ m c := by
  unfold State.walkFault
  extract_lets
  split
  · exact h.walkPark.upd
  · exact h.walkPark.upd.ite (h.walkPark.upd.ite h.walkPark.upd.openTicket)

theorem State.Kept.execTranslationWalkEnd {walk : Nat} {s : State} (h : s.Kept none m c) :
    OutKept none m c (Machine.execTranslationWalkEnd walk s) := by
  unfold Machine.execTranslationWalkEnd
  extract_lets
  split
  · exact h.unfocus
  · split
    · exact h.unfocus
    · split
      · exact h.unfocus.cacheTables.cacheLeaf.walkFree
      · exact h.unfocus.cacheTables.walkFault

theorem State.Kept.tlbStat {s : State} {k : Nat} (h : s.Kept φ m c) : (s.tlbStat k).Kept φ m c := h.setCsr
theorem State.Kept.execTkcmdMapped {ticket : Nat} {s : State} (h : s.Kept none m c) :
    OutKept none m c (Machine.execTkcmdMapped ticket s) := .ite h.unfocus.upd.closeTicket h.unfocus.tlbStat

theorem State.Kept.execTkcmdDenied {ticket : Nat} {s : State} (h : s.Kept none m c) :
    OutKept none m c (Machine.execTkcmdDenied ticket s) :=
  .ite ((h.unfocus.modSquads.modMccs.upd.foldl (fun h => h.modCmd.cmdFail)).closeTicket) h.unfocus.tlbStat

theorem State.Kept.invalidateTlb {s : State} {p : Tlb → Bool} {r : WalkEnt → Bool} (h : s.Kept φ m c) :
    (s.invalidateTlb p r).Kept φ m c := h.tlbStat.ite h.modSquads.modMccs.upd.tlbStat
theorem State.Kept.execTlbinvScopeAddress {ctx va : Nat} {s : State} (h : s.Kept none m c) :
    OutKept none m c (Machine.execTlbinvScopeAddress ctx va s) := h.unfocus.invalidateTlb
theorem State.Kept.execTlbinvScopeContext {ctx : Nat} {s : State} (h : s.Kept none m c) :
    OutKept none m c (Machine.execTlbinvScopeContext ctx s) := h.unfocus.invalidateTlb
theorem State.Kept.execTlbinvScopeAll {s : State} (h : s.Kept none m c) : OutKept none m c (Machine.execTlbinvScopeAll s) := h.unfocus.invalidateTlb
theorem State.Kept.drainLines {s : State} {p : Nat → Bool} (h : s.Kept φ m c) :
    (s.drainLines p).Kept φ m c := (((h.foldl (fun h => h.arrive)).foldl (fun h => h.evict.ite h)).foldl (fun h => h.writeBack)).upd
theorem State.Kept.execTlbinvDrain {ctx va : Nat} {s : State} (h : s.Kept none m c) :
    OutKept none m c (Machine.execTlbinvDrain ctx va s) := .ite h.unfocus.tlbStat h.unfocus.drainLines.invalidateTlb.upd

theorem State.Kept.execTlbinvComplete {s : State} (h : s.Kept none m c) :
    OutKept none m c (Machine.execTlbinvComplete s) :=
  .ite h.unfocus (.ite (((h.unfocus.ite h.unfocus.drainLines).setCsr).upd) (h.unfocus.ite h.unfocus.drainLines))

end

end Sys2Proof.Machine

/-! # Proofs: every operation keeps the canonical form: events of the fabric, repairs and resets -/

namespace Sys2Proof.Machine

section
variable {φ : Option Focus} {m c : Prop}

/-! ## EvFabric -/

theorem State.Kept.bump {s : State} {n k : Nat} (h : s.Kept φ m c) : (s.bump n k).Kept φ m c := h.setCsr
theorem State.Kept.domResult {s : State} {r : Nat} (h : s.Kept φ m c) : (s.domResult r).Kept φ m c := h.setCsr
theorem State.Kept.showPorts {s : State} (h : s.Kept φ m c) : (s.showPorts).Kept φ m c := h.foldl (fun h => h.setCsr)
theorem State.Kept.execPortLinkTrained {port peer lanes : Nat} {s : State} (h : s.Kept none m c) :
    OutKept none m c (Machine.execPortLinkTrained port peer lanes s) := .ite h.unfocus h.unfocus.upd.showPorts
theorem State.Kept.execPortLinkDown {port : Nat} {s : State} (h : s.Kept none m c) :
    OutKept none m c (Machine.execPortLinkDown port s) := .ite h.unfocus h.unfocus.setCsr.upd
theorem State.Kept.execFlitCrcReplay {port : Nat} {s : State} (h : s.Kept none m c) :
    OutKept none m c (Machine.execFlitCrcReplay port s) := .ite h.unfocus h.unfocus.bump
theorem State.Kept.takeKeys {s : State} {gen : Nat} {ks : List (Nat × BitVec 256)} (h : s.Kept φ m c) : (s.takeKeys gen ks).Kept φ m c := h.upd

theorem State.Kept.accept {s : State} {m' : Seal} (h : s.Kept φ m c) : (s.accept m').2.Kept φ m c := by
  unfold State.accept
  split
  · exact h.bump.pair
  · split
    · exact h.bump.pair
    · extract_lets
      split
      · exact h.bump.pair
      · exact h.bump.pair
      · exact h.upd.bump.pair
/-- The state of a pair that an equation names. -/
theorem State.Kept.snd {α : Type} {p : α × State} {a : α} {t : State} (h : p.2.Kept φ m c) (e : p = (a, t)) : t.Kept φ m c := by
  rw [e] at h; exact h

theorem State.Kept.elim {α : Type} {o : Option α} {s : State} {f : α → State} (h : s.Kept φ m c) (hf : ∀ {a}, (f a).Kept φ m c) :
    (o.elim s f).Kept φ m c := by
  cases o with
  | none => exact h
  | some a => exact hf

theorem State.Kept.accepted {s : State} {m' : Seal} {session : Bool} {go : State → State} (h : s.Kept φ m c)
    (hgo : ∀ {t}, t.Kept φ m c → (go t).Kept φ m c) : (s.accepted m' session go).Kept φ m c := by
  unfold State.accepted
  refine (hgo h).ite ?_
  split
  · next t he => exact hgo (h.accept.snd he)
  · next t he => exact h.accept.snd he

theorem State.Kept.farWrite {s : State} {m' : Msg} {rel : Stamp} (h : s.Kept φ m c) : (s.farWrite m' rel).Kept φ m c := h.fresh.upd.arrive
theorem State.Kept.sendReq {s : State} {r : FabReq} (h : s.Kept φ m c) : (s.sendReq r).Kept φ m c := h.toPort.upd
theorem State.Kept.closeReq {s : State} {r : FabReq} (h : s.Kept φ m c) : (s.closeReq r).Kept φ m c :=
  h.upd.ite (h.upd.elim h.upd.sendReq)

theorem State.Kept.writeDone {s : State} {req : Nat} {st : Option Stamp} (h : s.Kept φ m c) : (s.writeDone req st).Kept φ m c := by
  unfold State.writeDone
  split
  · exact h
  · exact ((h.ite h.upd).ite ((((h.ite h.upd).land).ite (h.ite h.upd)).staleFrom)).ackMsg

theorem State.Kept.forcedData {s : State} {line : Nat} {st : Stamp} (h : s.Kept φ m c) : (s.forcedData line st).Kept φ m c := h.modSquads

theorem State.Kept.dataIn {s : State} {r : FabReq} {line : Nat} {st : Stamp} {stale : Option Stamp} {rel : Stamp} {bytes : List Byte} (h : s.Kept φ m c) :
    (s.dataIn r line st stale rel bytes).Kept φ m c := by
  unfold State.dataIn
  split
  · exact h.homeWrite.manualL2
  · exact (by split; exacts [h.upd.modSquads.l2Way.upd.filterNote.modMccs.upd, h.upd.modSquads.l2Way.upd.filterNote.modMccs.upd.forcedData.ite h.upd.modSquads.l2Way.upd.filterNote] : State.Kept _ _ _ _).toPort
  · exact h

theorem State.Kept.grantIn {s : State} {g : Grant} (h : s.Kept φ m c) : (s.grantIn g).Kept φ m c := h.upd
theorem State.Kept.updIn {s : State} {src req line op ty : Nat} {fa : Stamp} (h : s.Kept φ m c) :
    (s.updIn src req line op ty fa).Kept φ m c := h.setHome.toPort

theorem State.Kept.answerFrom {s : State} {src req : Nat} {b : FabBody} (h : s.Kept φ m c) : (s.answerFrom src req b).Kept φ m c := by
  unfold State.answerFrom
  split
  · split
    · exact h.toPort
    · exact h.toPort
    · exact h
  · extract_lets
    split
    · exact h.closeReq.grantIn
    · exact h.closeReq.dataIn
    · exact h.closeReq.updIn
    · exact h.closeReq.writeDone
    · exact h.closeReq.writeDone
    · exact h.closeReq.upd
    · exact h.closeReq.upd
    · exact h.closeReq

theorem State.Kept.takenBy {s : State} {src req line : Nat} (h : s.Kept φ m c) : (s.takenBy src req line).Kept φ m c := h.setHome.serveAll.ite h
theorem State.Kept.cutReqs {s : State} {line : Nat} {st : Stamp} (h : s.Kept φ m c) : (s.cutReqs line st).Kept φ m c := h.upd
theorem State.Kept.setLvl {s : State} {b : LvlBar} (h : s.Kept φ m c) : (s.setLvl b).Kept φ m c := h.upd

theorem State.Kept.farReport {s : State} {src launch level part phase count : Nat} {st : Stamp} (h : s.Kept φ m c) :
    (s.farReport src launch level part phase count st).Kept φ m c := by
  unfold State.farReport
  extract_lets
  split
  · exact h
  · split
    · exact h.setLvl.testLevels
    · exact h.setLvl

theorem State.Kept.farComplete {s : State} {launch level part : Nat} {g : Stamp} (h : s.Kept φ m c) :
    (s.farComplete launch level part g).Kept φ m c := h.setLvl.releaseLevel
theorem State.Kept.calledBy {s : State} {src : Nat} (h : s.Kept φ m c) : (s.calledBy src).Kept φ m c := h.upd.ite h
theorem State.Kept.heard {s : State} {src : Nat} {slack phase full : Stamp} {rev : Option Stamp} {gen : Nat} (h : s.Kept φ m c) :
    (s.heard src slack phase full rev gen).Kept φ m c := h.upd
theorem State.Kept.await_ {s : State} {src req : Nat} {b : FabBody} (h : s.Kept φ m c) : (s.await_ src req b).Kept φ m c := h.upd

theorem State.Kept.deliver {s : State} {src req : Nat} {b : FabBody} (h : s.Kept φ m c) : (s.deliver src req b).Kept φ m c := by
  unfold State.deliver
  extract_lets
  split
  · exact h.farWrite.ite h
  · exact h.mergeHome.toPort.ite h
  · exact h.farWrite
  · exact h.arrive.ite h
  · exact h.ite (h.arrive.ite h.sendData)
  · exact h.toPort.ite h
  · exact h.cutReqs.arriveFirst.ite h
  · exact h.arriveFirst.ite h
  · exact h.takenBy
  · exact h.farReport.toPort
  · exact h.heard
  · exact h.calledBy.toPort
  · exact h.await_
  · exact h.await_
  · exact h.await_
  · exact h.await_
  · exact h.await_
  · exact h.answerFrom.await_.ite h
  · exact h.await_
  · exact h.await_
  · exact h.await_
  · exact h.await_
  · exact h
  · exact h
  · exact h
  · exact h.answerFrom
  · exact h.answerFrom
  · exact h.answerFrom
  · exact h.answerFrom
  · exact h.answerFrom
  · exact h.answerFrom
  · exact h.answerFrom

theorem State.Kept.answerAgain {s : State} {src req : Nat} (h : s.Kept φ m c) : (s.answerAgain src req).Kept φ m c := by
  unfold State.answerAgain
  split
  · exact h.toPort
  · exact h

theorem State.Kept.execFabricMessageReceive {src vc gen seq req : Nat} {tagOk : Bool} {body : FabBody} {s : State} (h : s.Kept none m c) :
    OutKept none m c (Machine.execFabricMessageReceive src vc gen seq req tagOk body s) := by
  unfold Machine.execFabricMessageReceive
  dsimp only
  split
  · next t he => exact h.unfocus.accept.snd he
  · next t he =>
    have ht := h.unfocus.accept.snd he
    exact .ite ht.deliver (.ite ht.answerAgain ht.upd.deliver)

theorem State.Kept.resend {s : State} {r : FabReq} {via : Option Nat} (h : s.Kept φ m c) : (s.resend r via).Kept φ m c := h.toPort.upd

theorem State.Kept.execFabricRetransmitTimeout {req : Nat} {s : State} (h : s.Kept none m c) :
    OutKept none m c (Machine.execFabricRetransmitTimeout req s) := by
  unfold Machine.execFabricRetransmitTimeout
  extract_lets
  split
  · exact h.unfocus
  · split
    · exact h.unfocus
    · split
      · exact h.unfocus.resend
      · split
        · exact h.unfocus
        · exact h.unfocus.upd.resend

theorem State.Kept.toAll {s : State} {b : FabBody} (h : s.Kept φ m c) : (s.toAll b).Kept φ m c := h.foldl (fun h => h.toPort)
theorem State.Kept.execSettleBeaconSend {s : State} (h : s.Kept none m c) :
    OutKept none m c (Machine.execSettleBeaconSend s) := .ite h.unfocus.settle.toAll.upd h.unfocus.settle
theorem State.Kept.execSettleBeaconReceive {b : Beacon} {s : State} (h : s.Kept none m c) :
    OutKept none m c (Machine.execSettleBeaconReceive b s) := h.unfocus.accepted (fun h => h.heard)
theorem State.Kept.execSlackWaterEstimateUpdate {s : State} (h : s.Kept none m c) :
    OutKept none m c (Machine.execSlackWaterEstimateUpdate s) := h.unfocus.settle
theorem State.Kept.startChange {s : State} {members lost : List Nat} (h : s.Kept φ m c) :
    (s.startChange members lost).Kept φ m c := h.upd.takeKeys.foldl (fun h => h.ite h.demand)
theorem State.Kept.handBack {s : State} {c' : Change} (h : s.Kept φ m c) :
    (s.handBack c').Kept φ m c := (h.drainLines.foldl (fun h => h.dropPage.toPort)).recallGrants
theorem State.Kept.lossRecord {s : State} {ctx : Nat} (h : s.Kept φ m c) : (s.lossRecord ctx).Kept φ m c := h.upd.report

theorem State.Kept.hostLoss {s : State} {r : FabReq} (h : s.Kept φ m c) : (s.hostLoss r).Kept φ m c := by
  unfold State.hostLoss
  split
  · exact h.upd
  · exact h.upd
  · exact h.upd
  · exact h

theorem State.Kept.dropMember {s : State} {m' : Nat} (h : s.Kept φ m c) :
    (s.dropMember m').Kept φ m c :=
  ((((((((h.foldl (fun h => h.hostLoss)).foldl (fun h => h.ackMsg)).modSquads).modMccs).upd).foldl (fun h => h.takeAck)).foldl (fun h => h.farAnswer)).upd).foldl (fun h => h.lossRecord)

theorem State.Kept.evictMember {s : State} {m' : Nat} (h : s.Kept φ m c) : (s.evictMember m').Kept φ m c := h.dropMember.startChange
theorem State.Kept.execBeaconSilenceEvict {idx : Nat} {s : State} (h : s.Kept none m c) :
    OutKept none m c (Machine.execBeaconSilenceEvict idx s) := .ite h.unfocus.evictMember h.unfocus
theorem State.Kept.execBridgeSilenceTakeover {s : State} (h : s.Kept none m c) :
    OutKept none m c (Machine.execBridgeSilenceTakeover s) := .ite h.unfocus.evictMember h.unfocus

theorem State.Kept.execMembershipBegin {gen : Nat} {set : NewSet} {s : State} (h : s.Kept none m c) :
    OutKept none m c (Machine.execMembershipBegin gen set s) :=
  .ite (h.unfocus.accepted (fun h => (((h.foldl (fun h => h.dropMember)).upd).takeKeys).handBack)) h.unfocus

theorem State.Kept.execMembershipReady {m' : Seal} {s : State} (h : s.Kept none m c) : OutKept none m c (Machine.execMembershipReady m' s) := by
  unfold Machine.execMembershipReady
  extract_lets s1
  have h1 : s1.Kept none m c := h.unfocus
  clear_value s1
  split
  · exact h1
  · split
    · split
      · exact h1
      · extract_lets s2 t
        have h2 : s2.Kept none m c := h1.handBack
        have ht : t.Kept none m c := h2.ite h2.demand
        exact .ite (State.Kept.upd ht) h2
    · exact .ite (h1.accepted (fun h => h.upd)) h1

theorem State.Kept.rehome {s : State} {new : Nat} (h : s.Kept φ m c) : (s.rehome new).Kept φ m c := by
  unfold State.rehome
  dsimp only
  split
  · exact h
  · exact ⟨h.focus, fun _ => canon_foldl_put (by rfl) _, h.scr⟩

theorem State.Kept.switchTo {s : State} {k : Change} (h : s.Kept φ m c) : (s.switchTo k).Kept φ m c := by
  unfold State.switchTo
  dsimp only
  refine State.Kept.ite (State.Kept.raiseHirq ?_) ?_
  all_goals
    refine State.Kept.foldl (State.Kept.foldl h.rehome.upd.setCsr.showPorts (fun h => h.sendReq)) (fun h => ?_)
    exact h.elim h.sendReq

theorem State.Kept.execMembershipSwitch {s : State} (h : s.Kept none m c) : OutKept none m c (Machine.execMembershipSwitch s) := by
  unfold Machine.execMembershipSwitch
  extract_lets
  split
  · exact h.unfocus
  · exact .ite h.unfocus (.ite (.ite ((h.unfocus.foldl (fun h => h.demand)).switchTo) h.unfocus) (.ite h.unfocus.switchTo h.unfocus))

theorem State.Kept.execLbarMemberReport {launch level inst : Nat} {s : State} (h : s.Kept none m c) :
    OutKept none m c (Machine.execLbarMemberReport launch level inst s) := by
  unfold Machine.execLbarMemberReport
  extract_lets
  split
  · exact .ite h.unfocus (.ite h.unfocus.testLevels h.unfocus.demandOnce)
  · exact h.unfocus

theorem State.Kept.execLbarMemberComplete {launch level inst : Nat} {g : Stamp} {s : State} (h : s.Kept none m c) :
    OutKept none m c (Machine.execLbarMemberComplete launch level inst g s) := by
  unfold Machine.execLbarMemberComplete
  extract_lets
  split
  · exact h.unfocus.upd.toPort.farComplete
  · exact h.unfocus

theorem State.Kept.execDomcmdAdmit {member port : Nat} {s : State} (h : s.Kept none m c) :
    OutKept none m c (Machine.execDomcmdAdmit member port s) :=
  .ite h.unfocus (.ite h.unfocus.domResult (.ite h.unfocus.domResult h.unfocus.domResult.upd))

theorem State.Kept.execDomcmdRemove {idx : Nat} {s : State} (h : s.Kept none m c) : OutKept none m c (Machine.execDomcmdRemove idx s) := by
  refine .ite h.unfocus (.ite h.unfocus.domResult (.ite ?_ h.unfocus))
  dsimp only
  refine .next ?_
  split
  exacts [h.unfocus.domResult.startChange.handBack, h.unfocus.domResult.startChange]

theorem State.Kept.execDomcmdEvict {idx : Nat} {s : State} (h : s.Kept none m c) :
    OutKept none m c (Machine.execDomcmdEvict idx s) := .ite h.unfocus (.ite h.unfocus.domResult (.ite h.unfocus.domResult.evictMember h.unfocus))
theorem State.Kept.spdmStep {s : State} {from_ code : Nat} (h : s.Kept φ m c) :
    (s.spdmStep from_ code).Kept φ m c := (h.upd.ite h).ite (h.upd.ite (h.upd.ite h))
theorem State.Kept.spdmFail {s : State} {r : Nat} (h : s.Kept φ m c) : (s.spdmFail r).Kept φ m c := h.upd.domResult.raiseHirq.ite h.upd
theorem State.Kept.spdmTest {s : State} {from_ code r : Nat} {ok : Bool} (h : s.Kept φ m c) :
    OutKept φ m c (s.spdmTest from_ code r ok) := .ite h.spdmFail h.spdmStep
theorem State.Kept.execGetVersion {s : State} (h : s.Kept none m c) : OutKept none m c (Machine.execGetVersion s) := h.unfocus.spdmStep
theorem State.Kept.execGetCapabilities {s : State} (h : s.Kept none m c) : OutKept none m c (Machine.execGetCapabilities s) := h.unfocus.spdmStep
theorem State.Kept.execNegotiateAlgorithms {offered : List Nat} {s : State} (h : s.Kept none m c) :
    OutKept none m c (Machine.execNegotiateAlgorithms offered s) := .ite h.unfocus.spdmStep h.unfocus
theorem State.Kept.execGetDigests {s : State} (h : s.Kept none m c) : OutKept none m c (Machine.execGetDigests s) := h.unfocus.spdmStep
theorem State.Kept.execGetCertificate {chainOk : Bool} {s : State} (h : s.Kept none m c) :
    OutKept none m c (Machine.execGetCertificate chainOk s) := h.unfocus.spdmTest
theorem State.Kept.execGetMeasurements {digests : List (BitVec 384)} {sigOk : Bool} {s : State} (h : s.Kept none m c) :
    OutKept none m c (Machine.execGetMeasurements digests sigOk s) := .ite h.unfocus.spdmFail (.ite h.unfocus.spdmStep.upd h.unfocus.spdmTest)
theorem State.Kept.execKeyExchange {mutAuth sigOk : Bool} {s : State} (h : s.Kept none m c) :
    OutKept none m c (Machine.execKeyExchange mutAuth sigOk s) := h.unfocus.spdmTest
theorem State.Kept.execFinish {macOk : Bool} {s : State} (h : s.Kept none m c) : OutKept none m c (Machine.execFinish macOk s) := h.unfocus.spdmTest
theorem State.Kept.execVendorDefinedRequest {idx offset : Nat} {s : State} (h : s.Kept none m c) :
    OutKept none m c (Machine.execVendorDefinedRequest idx offset s) := .ite h.unfocus.spdmStep.upd (.ite h.unfocus.spdmStep.toPort h.unfocus)
theorem State.Kept.execEndSession {s : State} (h : s.Kept none m c) :
    OutKept none m c (Machine.execEndSession s) := .ite (.ite h.unfocus.spdmStep.startChange.upd h.unfocus.spdmStep) h.unfocus
theorem State.Kept.execSpdmUnsupportedRequest {code : Nat} {s : State} (h : s.Kept none m c) :
    OutKept none m c (Machine.execSpdmUnsupportedRequest code s) := h.unfocus.upd

/-! ## EvRepair -/

theorem State.Kept.unitRecord {s : State} {kind ctx cls place addr : Nat} {count : Option Nat} (h : s.Kept φ m c) :
    (s.unitRecord kind ctx cls place addr count).Kept φ m c := h.upd.error
theorem State.Kept.setUnit {s : State} {u : UnitRec} (h : s.Kept φ m c) : (s.setUnit u).Kept φ m c := h.upd
theorem State.Kept.unmark {s : State} {cls place : Nat} (h : s.Kept φ m c) : (s.unmark cls place).Kept φ m c := h.setUnit
theorem State.Kept.renewUnit {s : State} {cls place : Nat} (h : s.Kept φ m c) : (s.renewUnit cls place).Kept φ m c := h.setUnit.ite h
theorem State.Kept.countError {s : State} {cls place : Nat} {corr : Bool} (h : s.Kept φ m c) :
    (s.countError cls place corr).Kept φ m c := h.setUnit.unitRecord.ite h.setUnit
theorem State.Kept.lastError {s : State} {cls place ctx addr : Nat} (h : s.Kept φ m c) :
    (s.lastError cls place ctx addr).Kept φ m c := h.setUnit.unitRecord

theorem State.Kept.execErrorWindowExpire {unit : Nat} {s : State} (h : s.Kept none m c) :
    OutKept none m c (Machine.execErrorWindowExpire unit s) := by
  unfold Machine.execErrorWindowExpire
  extract_lets
  split
  · exact h.unfocus
  · exact .ite h.unfocus.setUnit h.unfocus

theorem State.Kept.spoil {s : State} {g : Nat} {a : PoisonAt} {st : Stamp} (h : s.Kept φ m c) : (s.spoil g a st).Kept φ m c := h.upd

theorem State.Kept.granError {s : State} {g : Nat} {a : PoisonAt} {st : Stamp} {lasting : Bool} (h : s.Kept φ m c) :
    (s.granError g a st lasting).Kept φ m c := by
  unfold State.granError
  split
  · split
    · exact h
    · exact h.upd.spoil.lastError.ite h.upd.countError
  · extract_lets
    split
    · exact h
    · exact h.spoil.lastError.ite h.countError

theorem State.Kept.regError {s : State} {id : Nat} {isV : Bool} {reg lane : Nat} (h : s.Kept φ m c) : (s.regError id isV reg lane).Kept φ m c := by
  unfold State.regError
  split
  · split
    · exact h
    · exact h.ite h.modMccs.lastError
  · exact h.modSquads.lastError

theorem State.Kept.matrixError {s : State} {cl gran : Nat} (h : s.Kept none m c) : (s.matrixError cl gran).Kept none m c := by
  unfold State.matrixError
  split
  · exact h
  · exact h.lastError.focusOn.takeTrap.unfocus.ite (((h.ite h.dropWaits).modMccs).countError)

theorem State.Kept.copyError {s : State} {cache line : Nat} {lasting : Bool} (h : s.Kept φ m c) :
    (s.copyError cache line lasting).Kept φ m c := h.upd.lastError.ite h.countError
theorem State.Kept.readTherm {s : State} {temps : List Nat} (h : s.Kept φ m c) : (s.readTherm temps).Kept φ m c := h.ite h.setCsr

theorem State.Kept.upset {s : State} {u : Upset} (h : s.Kept none m c) : (s.upset u).Kept none m c := by
  unfold State.upset
  split
  · exact h.regError
  · exact h.granError
  · exact h.matrixError
  · exact h.copyError
  · exact h.countError.ite h
  · exact h.countError.ite h
  · exact h.lastError.ite h
  · exact h.upd.countError
  · exact h.upd.countError
  · exact h.readTherm

theorem State.Kept.execScrubbing {addr : Nat} {again : Bool} {s : State} (h : s.Kept none m c) :
    OutKept none m c (Machine.execScrubbing addr again s) := h.unfocus.granError.ite h.unfocus.granError
theorem State.Kept.repaired {s : State} {cls place : Nat} {r : Repair} (h : s.Kept φ m c) :
    (s.repaired cls place r).Kept φ m c := h.unitRecord.unitRecord.renewUnit.upd
theorem State.Kept.noSpare {s : State} {cls place : Nat} (h : s.Kept φ m c) : (s.noSpare cls place).Kept φ m c := h.unmark.unitRecord
theorem State.Kept.recountSpares {s : State} (h : s.Kept φ m c) : (s.recountSpares).Kept φ m c := h.upd
theorem State.Kept.emptyCache {s : State} {cache : Nat} (h : s.Kept none m c) : (s.emptyCache cache).Kept none m c := h.squeeze

theorem State.Kept.execClusterRetire {die cl : Nat} {s : State} (h : s.Kept none m c) : OutKept none m c (Machine.execClusterRetire die cl s) := by
  unfold Machine.execClusterRetire
  refine .ite h.unfocus ?_
  dsimp only
  split
  · exact .ite (.next (State.Kept.foldl h.unfocus (fun h => h.emptyCache)))
      (.next (State.Kept.recountSpares (State.Kept.foldl h.unfocus.unitRecord.upd.unitRecord (fun h => h.renewUnit))))
  · exact .ite (.next h.unfocus.unitRecord.upd) (.next (State.Kept.foldl h.unfocus.unitRecord (fun h => h.renewUnit)))

theorem State.Kept.execSliceRetire {die bucket : Nat} {s : State} (h : s.Kept none m c) :
    OutKept none m c (Machine.execSliceRetire die bucket s) := by
  unfold Machine.execSliceRetire
  extract_lets
  split
  · exact h.unfocus
  · split
    · split
      · exact h.unfocus.upd
      · exact h.unfocus.upd.unitRecord.renewUnit.recountSpares
    · split
      · exact h.unfocus
      · split
        · exact h.unfocus.upd.unitRecord
        · exact h.unfocus.noSpare

theorem State.Kept.execHbmRowRepair {die stack row : Nat} {s : State} (h : s.Kept none m c) :
    OutKept none m c (Machine.execHbmRowRepair die stack row s) := .ite h.unfocus (.ite h.unfocus.noSpare h.unfocus.repaired.recountSpares)

theorem State.Kept.execHbmChannelRepair {die stack channel : Nat} {s : State} (h : s.Kept none m c) :
    OutKept none m c (Machine.execHbmChannelRepair die stack channel s) :=
  .ite h.unfocus (.ite h.unfocus.noSpare h.unfocus.repaired.recountSpares.upd)

theorem State.Kept.setLanes {s : State} {port l : Nat} {sparing : Bool} (h : s.Kept φ m c) : (s.setLanes port l sparing).Kept φ m c := h.setCsr.upd
theorem State.Kept.loseLane {s : State} {port lane : Nat} (h : s.Kept φ m c) :
    (s.loseLane port lane).Kept φ m c := h.ite ((h.lastError.ite h).ite (h.lastError.setLanes.repaired.ite h.lastError.setLanes.unitRecord))
theorem State.Kept.losePair {s : State} {pair lane : Nat} (h : s.Kept φ m c) :
    (s.losePair pair lane).Kept φ m c := h.lastError.repaired.ite h.lastError.noSpare
theorem State.Kept.execLinkLaneSpare {d2d : Bool} {port lane : Nat} {s : State} (h : s.Kept none m c) :
    OutKept none m c (Machine.execLinkLaneSpare d2d port lane s) := .ite (.ite h.unfocus.losePair h.unfocus) (.ite h.unfocus.loseLane h.unfocus)

/-! ## EvReset -/

/-- A cold reset leaves nothing in either. -/
theorem State.Kept.cold {s : State} (_ : s.Kept none m c) : s.cold.Kept none m c := by
  unfold State.cold
  refine State.Kept.foldl ⟨nofun, fun _ => rfl, fun _ => rfl⟩ (fun h => ?_)
  exact h.unitRecord.unitRecord.ite h.unitRecord
theorem State.Kept.applyRepairs {s : State} (h : s.Kept φ m c) : s.applyRepairs.Kept φ m c := by
  unfold State.applyRepairs
  refine State.Kept.recountSpares (State.Kept.foldl h (fun h => ?_))
  exact (h.upd.ite h.upd).ite (h.upd.ite h)

theorem State.Kept.mgc {s : State} {state result : Nat} (h : s.Kept φ m c) : (s.mgc state result).Kept φ m c := h.setCsr.setCsr
theorem State.Kept.boot {s : State} {trained fused : Bool} (h : s.Kept none m c) :
    (s.boot trained fused).Kept none m c := h.mgc.ite (h.applyRepairs.mgc.ite h.applyRepairs.mgc)
theorem State.Kept.coldReset {s : State} {trained fused : Bool} (h : s.Kept none m c) :
    (s.coldReset trained fused).Kept none m c := h.cold.ite h.cold.boot
theorem State.Kept.coldResetFree {s : State} (h : s.Kept none m c) : (s.coldResetFree).Kept none m c := h.upd.coldReset
theorem State.Kept.execPowerOn {trained fused : Bool} {s : State} (h : s.Kept none m c) :
    OutKept none m c (Machine.execPowerOn trained fused s) := h.coldReset
theorem State.Kept.execPcieFundamentalReset {trained fused : Bool} {s : State} (h : s.Kept none m c) :
    OutKept none m c (Machine.execPcieFundamentalReset trained fused s) := .ite h.coldReset h.unfocus
theorem State.Kept.execFwcmdColdReset {trained fused : Bool} {s : State} (h : s.Kept none m c) :
    OutKept none m c (Machine.execFwcmdColdReset trained fused s) := h.coldReset
theorem State.Kept.warmReset {s : State} (h : s.Kept φ m c) :
    (s.warmReset).Kept φ m c := h.ite ((((h.foldl (fun h => h.setCsr)).upd).mgc).ite ((h.foldl (fun h => h.setCsr)).upd))
theorem State.Kept.execFwcmdWarmReset {s : State} (h : s.Kept none m c) : OutKept none m c (Machine.execFwcmdWarmReset s) := h.unfocus.warmReset
theorem State.Kept.deriveAlias {s : State} (h : s.Kept φ m c) : (s.deriveAlias).Kept φ m c := h.upd
theorem State.Kept.startRuntime {s : State} {image : List Byte} {svn ways gib : Nat} (h : s.Kept φ m c) :
    (s.startRuntime image svn ways gib).Kept φ m c := h.setCsr.setCsr.upd.deriveAlias.mgc
theorem State.Kept.fwLoad {s : State} (h : s.Kept φ m c) : (s.fwLoad).Kept φ m c := h.ite (h.setCsr.ite (h.ite h.setCsr.upd))

theorem State.Kept.fwEnd {s : State} {m' : List Byte} (h : s.Kept φ m c) : (s.fwEnd m').Kept φ m c := by
  unfold State.fwEnd
  extract_lets
  split
  · exact h.upd.mgc.upd
  · exact h.upd.startRuntime

theorem State.Kept.fwStep {s : State} {n : Nat} (h : s.Kept φ m c) : (s.fwStep n).Kept φ m c := by
  unfold State.fwStep
  split
  · exact h
  · exact h.upd.ite h.fwEnd

theorem State.Kept.execFwcmdLoad {s : State} (h : s.Kept none m c) : OutKept none m c (Machine.execFwcmdLoad s) := h.unfocus.fwLoad
theorem State.Kept.execThermalTrip {die temp : Nat} {s : State} (h : s.Kept none m c) :
    OutKept none m c (Machine.execThermalTrip die temp s) := .ite h.unfocus h.unfocus.upd.cold
theorem State.Kept.execThermalRelease {temps : List Nat} {s : State} (h : s.Kept none m c) :
    OutKept none m c (Machine.execThermalRelease temps s) := .ite h.unfocus.upd.coldResetFree.setCsr h.unfocus

end

end Sys2Proof.Machine

/-! # Proofs: every operation keeps the canonical form: CSRs, the host and the agenda -/

namespace Sys2Proof.Machine

section
variable {φ : Option Focus} {m c : Prop}

/-! ## Csr -/

theorem State.Kept.csrSet {s : State} {tag n : Nat} {v : W} (h : s.Kept φ m c) : (s.csrSet tag n v).Kept φ m c := by
  unfold State.csrSet
  extract_lets
  split
  · exact h
  · exact h.setCsr.upd.ite h.setCsr

theorem State.Kept.flushRing {s : State} {tag base : Nat} (h : s.Kept φ m c) :
    (s.flushRing tag base).Kept φ m c := h.flushFq.ite (h.flushErr.ite (h.flushStop.ite h))

theorem State.Kept.ringBase {s : State} {tag n : Nat} {v : W} (h : s.Kept φ m c) : (s.ringBase tag n v).Kept φ m c := by
  unfold State.ringBase
  split
  · exact h
  · exact h.ite h.setCsr.flushRing

theorem State.Kept.ringHead {s : State} {tag n : Nat} {v : W} (h : s.Kept φ m c) : (s.ringHead tag n v).Kept φ m c := by
  unfold State.ringHead
  split
  · exact h
  · exact h.ite h.setCsr.flushRing

theorem State.Kept.outState {o : Out} {s : State} (h : s.Kept φ m c) (ho : OutKept φ m c o) :
    (Machine.outState o s).Kept φ m c := by
  cases o with
  | next t => exact ho
  | fault f => exact h
  | refused r => exact h

theorem State.Kept.ctxCmd {s : State} {tag : Nat} {v : W} (h : s.Kept none m c) :
    (s.ctxCmd tag v).Kept none m c := (h.outState h.execCtxcmdSave).ite ((h.outState h.execCtxcmdRestore).ite ((h.outState h.execCtxcmdKill).ite h))

theorem State.Kept.stopCmd {s : State} {tag : Nat} {v : W} (h : s.Kept none m c) :
    (s.stopCmd tag v).Kept none m c :=
  (h.outState h.execStopcmdStop).ite ((h.outState h.execStopcmdResume).ite ((h.outState h.execStopcmdResumeAll).ite h))

theorem State.Kept.tlbCmd {s : State} {v : W} (h : s.Kept none m c) : (s.tlbCmd v).Kept none m c := by
  unfold State.tlbCmd
  extract_lets
  split
  · exact (h.outState h.execTlbinvDrain).ite (h.outState h.execTlbinvScopeAddress)
  · exact h.outState h.execTlbinvScopeContext
  · exact h.outState h.execTlbinvScopeAll
  · exact h.tlbStat

theorem State.Kept.tkCmd {s : State} {v : W} (h : s.Kept none m c) :
    (s.tkCmd v).Kept none m c := (h.outState h.execTkcmdMapped).ite ((h.outState h.execTkcmdDenied).ite h.tlbStat)

theorem State.Kept.domCmd {s : State} {v : W} (h : s.Kept none m c) : (s.domCmd v).Kept none m c := by
  unfold State.domCmd
  extract_lets
  split
  · exact h.outState h.execDomcmdAdmit
  · exact h.outState h.execDomcmdRemove
  · exact h.outState h.execDomcmdEvict
  · exact h

theorem State.Kept.fwCmd {s : State} {v : W} (h : s.Kept none m c) :
    (s.fwCmd v).Kept none m c := h.fwLoad.ite (h.coldResetFree.ite (h.warmReset.ite h))

theorem State.Kept.csrPut {s : State} {tag n : Nat} {v : W} (h : s.Kept none m c) : (s.csrPut tag n v).Kept none m c := by
  unfold State.csrPut
  split
  · exact h
  · split
    · exact h.ctxCmd
    · split
      · exact h.stopCmd
      · split
        · exact h.tlbCmd
        · split
          · exact h.setCsr
          · split
            · exact h.tkCmd
            · split
              · exact h.domCmd
              · split
                · exact h.fwCmd
                · split
                  · exact h.outState h.execQtbaseWrite
                  · split
                    · exact h.ringHead.ite h.ringBase
                    · exact h.csrSet

theorem State.Kept.execRingBaseWrite {ctx num : Nat} {v : W} {s : State} (h : s.Kept none m c) :
    OutKept none m c (Machine.execRingBaseWrite ctx num v s) := h.unfocus.ringBase
theorem State.Kept.execRingHeadWrite {ctx num : Nat} {v : W} {s : State} (h : s.Kept none m c) :
    OutKept none m c (Machine.execRingHeadWrite ctx num v s) := h.unfocus.ringHead
theorem State.Kept.execRegisterWrite {ctx num : Nat} {v : W} {s : State} (h : s.Kept none m c) :
    OutKept none m c (Machine.execRegisterWrite ctx num v s) := .ite h.unfocus.csrSet h.unfocus

/-! ## System -/

theorem State.Kept.execRfe {w : Short} {s : State} (h : s.Kept φ m c) : OutKept φ m c (Machine.execRfe w s) := h.issueShort (fun h => h.modSq)
theorem State.Kept.execRdenergy {w : Short} {s : State} (h : s.Kept φ m c) :
    OutKept φ m c (Machine.execRdenergy w s) := h.issueShort (fun h => h.setS2)
theorem State.Kept.execCsrrd {w : Long} {s : State} (h : s.Kept φ m c) : OutKept φ m c (Machine.execCsrrd w s) := h.issueLong (fun h => h.setS)
theorem State.Kept.setCtxsel {s : State} {n : Nat} (h : s.Kept φ m c) : (s.setCtxsel n).Kept φ m c := h.modMcc.ite h.modSq
theorem State.Kept.csrWrite {s : State} {n : Nat} {v : W} (h : s.Kept none m c) :
    (s.csrWrite n v).Kept none m c := .ite h (.ite (h.ite h.modSq) (.ite h.setCtxsel h.setTurn.advance.runTodo.unfocus.csrPut))
theorem State.Kept.execCsrwr {w : Long} {s : State} (h : s.Kept none m c) :
    OutKept none m c (Machine.execCsrwr w s) := h.issueLong (fun h => h.csrWrite)

/-! ## EvHost -/

theorem State.Kept.setMask {s : State} {v : Nat} (h : s.Kept φ m c) : (s.setMask v).Kept φ m c := h.upd

theorem State.Kept.queueWord {s : State} {q o : Nat} {v : W} {st : Option Stamp} (h : s.Kept none m c) :
    (s.queueWord q o v st).Kept none m c :=
  h.qtailWrite.ite (h.qtailWrite.ite ((((h.setQueue.ite h).outState ((h.setQueue.ite h).execQfaultClear)).ite (h.setQueue.ite h)).ite h))

theorem State.Kept.windowWrite {s : State} {off : Nat} {v : W} {st : optParam (Option Stamp) none} (h : s.Kept none m c) :
    (s.windowWrite off v st).Kept none m c := h.queueWord.ite (h.upd.ite (h.setMask.ite (h.upd.ite (h.ite ((h.upd.ite h).ite (h.ite h.csrPut))))))
theorem State.Kept.toHost {s : State} {b : List Byte} (h : s.Kept φ m c) : (s.toHost b).Kept φ m c := h.upd

theorem State.Kept.noMember {s : State} {rd : Option Nat} (h : s.Kept φ m c) : (s.noMember rd).Kept φ m c := by
  unfold State.noMember
  split
  · exact h.upd.toHost
  · exact h.upd

theorem State.Kept.forward {s : State} {member off : Nat} {wr : Option W} (h : s.Kept φ m c) :
    (s.forward member off wr).Kept φ m c := h.takeStamp.demand.ite h.demand

theorem State.Kept.windowDue {s : State} {m' : FabIn} {off : Nat} {wr : Option W} {st : Stamp} (h : s.Kept none m c) :
    (s.windowDue m' off wr st).Kept none m c := by
  unfold State.windowDue
  extract_lets
  split
  · exact h.upd.windowWrite.toPort
  · exact h.upd.toPort

theorem State.Kept.execHostWindowAccess {member off : Nat} {wr : Option W} {s : State}
    (h : s.Kept none m c) : OutKept none m c (Machine.execHostWindowAccess member off wr s) := by
  unfold Machine.execHostWindowAccess
  extract_lets s1
  have h1 : s1.Kept none m c := h.unfocus
  split
  · exact h1
  · split
    · split
      · refine OutKept.next ?_
        split
        exacts [h1.windowDue, h1]
      · exact h1
    · split
      · split
        · exact h1.windowWrite
        · exact h1.toHost
      · exact .ite h1.forward h1.noMember

theorem State.Kept.hostPre {s : State} {ls : List Nat} (h : s.Kept φ m c) : (s.hostPre ls).2.Kept φ m c := h.takeStamp.pair.iteSnd h.pair

theorem State.Kept.execHostApertureWrite {ap off : Nat} {bytes : List Byte} {s : State} (h : s.Kept none m c) :
    OutKept none m c (Machine.execHostApertureWrite ap off bytes s) := by
  unfold Machine.execHostApertureWrite
  extract_lets
  split
  · exact h.unfocus
  · split
    · exact h.unfocus.noMember
    · exact .ite (h.unfocus.foldl (fun h => h.mergeHome.ite h.send)) (h.unfocus.hostPre.takeStamp.foldl (fun h => h.send))

theorem State.Kept.apertureDue {s : State} {m' : FabIn} {manual : Bool} {pa len : Nat} (h : s.Kept φ m c) :
    (s.apertureDue m' manual pa len).Kept φ m c := (h.foldl (fun h => h.arrive)).ite (h.upd.toHost.ite h.upd.toPort)

theorem State.Kept.apertureWaits {s : State} {pa len : Nat} (h : s.Kept φ m c) : (s.apertureWaits pa len).Kept φ m c := by
  unfold State.apertureWaits
  split
  · split
    · exact h.apertureDue
    · exact h
  · exact h

theorem State.Kept.execHostApertureRead {ap off len : Nat} {s : State} (h : s.Kept none m c) :
    OutKept none m c (Machine.execHostApertureRead ap off len s) := by
  unfold Machine.execHostApertureRead
  extract_lets
  split
  · exact h.unfocus
  · split
    · exact h.unfocus.apertureWaits
    · split
      · exact h.unfocus.noMember
      · exact .ite h.unfocus.demand h.unfocus.upd.apertureDue

theorem State.Kept.execHostUnsupportedRequest {s : State} (h : s.Kept none m c) :
    OutKept none m c (Machine.execHostUnsupportedRequest s) := h.unfocus.upd

/-! ## Agenda -/

theorem State.Kept.turn {s : State} {t : Turn} (h : s.Kept none m c) : (s.turn t).Kept none m c := by
  cases t with
  | issue id => exact h.issueTurn
  | event i => exact h
  | upset u => exact h.upset
  | idle n => exact h.tick
  | mgc n => exact h.fwStep

theorem State.Kept.after {s : State} {o : Out} (h : s.Kept φ m c) (ho : OutKept φ m c o) : (s.after o).Kept φ m c := by
  cases o with
  | next t => exact ho
  | fault f => exact h
  | refused r => exact h

theorem State.Kept.due {s : State} {m' : FabIn} (h : s.Kept none m c) : (s.due m').Kept none m c := by
  unfold State.due
  split
  · exact h.after h.execHomeUpdateOnlyRequest
  · exact h.after h.execPageGrantRequest
  · exact h.after h.execHomeDiePartial
  · exact h.after h.execPageGrantRecall
  · exact h.after h.execPageGrantRecallAck
  · exact h.after h.execHomeInvalidationAck
  · exact h.after h.execSnapshotRevocation
  · exact h.after h.execLbarMemberComplete
  · exact h.after h.execHostWindowAccess
  · exact h.after h.execHostApertureRead
  · exact h

theorem State.Kept.own {s : State} {a0 : Own} (h : s.Kept none m c) : (s.own a0).Kept none m c := by
  unfold State.own
  split
  · exact h.turn
  · exact h.after h.execTeamSaveRecord
  · exact h.after h.execStopComplete
  · exact h.after h.execGraceWindowClose
  · exact h.after h.execContextRestorePlace
  · exact h.after h.execFabricRetransmitTimeout
  · exact h.due
  · exact h.after h.execLbarMemberReport
  · exact h.after h.execEbbCollectorPass
  · exact h.after h.execVersionStoreFullTimeout
  · exact h.after h.execSnapshotAgeLimit
  · exact h.after h.execSlackWaterEstimateUpdate
  · exact h.after h.execSettleBeaconSend
  · exact h.after h.execMembershipReady
  · exact h.after h.execMembershipSwitch
  · exact h.after h.execClusterRetire
  · exact h.after h.execSliceRetire
  · exact h.after h.execHbmRowRepair
  · exact h.after h.execHbmChannelRepair

theorem State.Kept.plan {s : State} (h : s.Kept none m c) : (s.plan).Kept none m c := by
  unfold State.plan
  extract_lets
  split
  · exact h.tick.unfocus.noteFull.notePasses.upd.turn
  · split
    · exact h.tick.unfocus.noteFull.notePasses
    · split
      · exact h.tick.unfocus.noteFull.notePasses
      · exact h.tick.unfocus.noteFull.notePasses.own

end

end Sys2Proof.Machine

/-! # Proofs: every operation keeps the canonical form: lane, uniform and phase instructions -/

namespace Sys2Proof.Machine

section
variable {φ : Option Focus} {m c : Prop}

/-! ## Convert -/

theorem State.Kept.execCvt {w : Long} {s : State} (h : s.Kept φ m c) : OutKept φ m c (Machine.execCvt w s) := h.issueLong (fun h => h.laneOp)
theorem State.Kept.execNpack {w : Long} {s : State} (h : s.Kept φ m c) : OutKept φ m c (Machine.execNpack w s) := h.issueLong (fun h => h.laneOp)
theorem State.Kept.execNunpack {w : Long} {s : State} (h : s.Kept φ m c) : OutKept φ m c (Machine.execNunpack w s) := h.issueLong (fun h => h.laneOp)
theorem State.Kept.execIpack4 {w : Long} {s : State} (h : s.Kept φ m c) : OutKept φ m c (Machine.execIpack4 w s) := h.issueLong (fun h => h.laneOp)
theorem State.Kept.execIunpack4 {w : Long} {s : State} (h : s.Kept φ m c) :
    OutKept φ m c (Machine.execIunpack4 w s) := h.issueLong (fun h => h.laneOp)
theorem State.Kept.execSclcalc {w : Long} {s : State} (h : s.Kept φ m c) : OutKept φ m c (Machine.execSclcalc w s) := h.issueLong (fun h => h.laneOp)

/-! ## Exchange -/

theorem State.Kept.shuffle {s : State} {w : Long} {j : Nat → Int} (h : s.Kept φ m c) : (s.shuffle w j).Kept φ m c := h.laneOp.ite h.laneOp.laneK
theorem State.Kept.execXlane {w : Long} {s : State} (h : s.Kept φ m c) : OutKept φ m c (Machine.execXlane w s) := h.issueLong (fun h => h.shuffle)
theorem State.Kept.execXlaneLo {w : Long} {s : State} (h : s.Kept φ m c) : OutKept φ m c (Machine.execXlaneLo w s) := h.issueLong (fun h => h.shuffle)
theorem State.Kept.execXlaneHi {w : Long} {s : State} (h : s.Kept φ m c) : OutKept φ m c (Machine.execXlaneHi w s) := h.issueLong (fun h => h.shuffle)
theorem State.Kept.execXlaneFlip {w : Long} {s : State} (h : s.Kept φ m c) :
    OutKept φ m c (Machine.execXlaneFlip w s) := h.issueLong (fun h => h.shuffle)
theorem State.Kept.execPollAny {w : Long} {s : State} (h : s.Kept φ m c) : OutKept φ m c (Machine.execPollAny w s) := h.issueLong (fun h => h.laneK)
theorem State.Kept.execPollAll {w : Long} {s : State} (h : s.Kept φ m c) : OutKept φ m c (Machine.execPollAll w s) := h.issueLong (fun h => h.laneK)
theorem State.Kept.execPollMask {w : Long} {s : State} (h : s.Kept φ m c) :
    OutKept φ m c (Machine.execPollMask w s) := h.issueLong (fun h => h.laneOp)
theorem State.Kept.execSame {w : Long} {s : State} (h : s.Kept φ m c) : OutKept φ m c (Machine.execSame w s) := h.issueLong (fun h => h.laneOp)
theorem State.Kept.execSameAll {w : Long} {s : State} (h : s.Kept φ m c) :
    OutKept φ m c (Machine.execSameAll w s) := h.issueLong (fun h => h.laneOp.ite h.laneOp.laneK)
theorem State.Kept.execRedx {w : Long} {s : State} (h : s.Kept φ m c) : OutKept φ m c (Machine.execRedx w s) := h.issueLong (fun h => h.laneOp)
theorem State.Kept.execRedf {w : Long} {s : State} (h : s.Kept φ m c) : OutKept φ m c (Machine.execRedf w s) := h.issueLong (fun h => h.laneOp)
theorem State.Kept.execScanx {w : Long} {s : State} (h : s.Kept φ m c) : OutKept φ m c (Machine.execScanx w s) := h.issueLong (fun h => h.laneOp)
theorem State.Kept.execRank {w : Long} {s : State} (h : s.Kept φ m c) : OutKept φ m c (Machine.execRank w s) := h.issueLong (fun h => h.laneOp)
theorem State.Kept.execSelk {w : Long} {s : State} (h : s.Kept φ m c) :
    OutKept φ m c (Machine.execSelk w s) := h.issueLong (fun h => (h.foldl (fun h => h.laneK)).orFlags)

/-! ## LaneFloat -/

theorem State.Kept.floatOp {s : State} {w : Long} {f : IFmt → Nat → Nat → Nat × Nat} (h : s.Kept φ m c) : (s.floatOp w f).Kept φ m c := h.laneOp
theorem State.Kept.floatLit {s : State} {w : Lit} {f : FV → FV → Nat × Nat} (h : s.Kept φ m c) : (s.floatLit w f).Kept φ m c := h.laneOp
theorem State.Kept.execFadd {w : Long} {s : State} (h : s.Kept φ m c) : OutKept φ m c (Machine.execFadd w s) := h.issueLong (fun h => h.floatOp)
theorem State.Kept.execFaddLit {w : Lit} {s : State} (h : s.Kept φ m c) : OutKept φ m c (Machine.execFaddLit w s) := h.issueLit (fun h => h.floatLit)
theorem State.Kept.execFsub {w : Long} {s : State} (h : s.Kept φ m c) : OutKept φ m c (Machine.execFsub w s) := h.issueLong (fun h => h.floatOp)
theorem State.Kept.execFsubLit {w : Lit} {s : State} (h : s.Kept φ m c) : OutKept φ m c (Machine.execFsubLit w s) := h.issueLit (fun h => h.floatLit)
theorem State.Kept.execFmul {w : Long} {s : State} (h : s.Kept φ m c) : OutKept φ m c (Machine.execFmul w s) := h.issueLong (fun h => h.floatOp)
theorem State.Kept.execFmulLit {w : Lit} {s : State} (h : s.Kept φ m c) : OutKept φ m c (Machine.execFmulLit w s) := h.issueLit (fun h => h.floatLit)
theorem State.Kept.execFfma {w : Long} {s : State} (h : s.Kept φ m c) : OutKept φ m c (Machine.execFfma w s) := h.issueLong (fun h => h.floatOp)
theorem State.Kept.execFmin {w : Long} {s : State} (h : s.Kept φ m c) : OutKept φ m c (Machine.execFmin w s) := h.issueLong (fun h => h.floatOp)
theorem State.Kept.execFminLit {w : Lit} {s : State} (h : s.Kept φ m c) : OutKept φ m c (Machine.execFminLit w s) := h.issueLit (fun h => h.floatLit)
theorem State.Kept.execFmax {w : Long} {s : State} (h : s.Kept φ m c) : OutKept φ m c (Machine.execFmax w s) := h.issueLong (fun h => h.floatOp)
theorem State.Kept.execFmaxLit {w : Lit} {s : State} (h : s.Kept φ m c) : OutKept φ m c (Machine.execFmaxLit w s) := h.issueLit (fun h => h.floatLit)
theorem State.Kept.execFcmp {w : Long} {s : State} (h : s.Kept φ m c) : OutKept φ m c (Machine.execFcmp w s) := h.issueLong (fun h => h.laneK)
theorem State.Kept.execFclass {w : Long} {s : State} (h : s.Kept φ m c) : OutKept φ m c (Machine.execFclass w s) := h.issueLong (fun h => h.laneOp)
theorem State.Kept.execFrnd {w : Long} {s : State} (h : s.Kept φ m c) : OutKept φ m c (Machine.execFrnd w s) := h.issueLong (fun h => h.floatOp)

/-! ## LaneInt -/

theorem State.Kept.intOp {s : State} {w : Long} {f : Nat → Int} (h : s.Kept φ m c) : (s.intOp w f).Kept φ m c := h.laneOp
theorem State.Kept.patOp {s : State} {w : Long} {f : Nat → Nat} (h : s.Kept φ m c) : (s.patOp w f).Kept φ m c := h.laneOp
theorem State.Kept.litOp {s : State} {w : Lit} {t' : Nat} {f : Int → Int → Int} (h : s.Kept φ m c) : (s.litOp w t' f).Kept φ m c := h.laneOp
theorem State.Kept.shortOp {s : State} {w : Short} {f : W → W → W} (h : s.Kept φ m c) : (s.shortOp w f).Kept φ m c := h.laneOp
theorem State.Kept.execVadd {w : Long} {s : State} (h : s.Kept φ m c) : OutKept φ m c (Machine.execVadd w s) := h.issueLong (fun h => h.intOp)
theorem State.Kept.execVaddLit {w : Lit} {s : State} (h : s.Kept φ m c) : OutKept φ m c (Machine.execVaddLit w s) := h.issueLit (fun h => h.litOp)
theorem State.Kept.execVsub {w : Long} {s : State} (h : s.Kept φ m c) : OutKept φ m c (Machine.execVsub w s) := h.issueLong (fun h => h.intOp)
theorem State.Kept.execVsubLit {w : Lit} {s : State} (h : s.Kept φ m c) : OutKept φ m c (Machine.execVsubLit w s) := h.issueLit (fun h => h.litOp)
theorem State.Kept.execVaddc {w : Long} {s : State} (h : s.Kept φ m c) :
    OutKept φ m c (Machine.execVaddc w s) := h.issueLong (fun h => h.laneOp.ite h.laneOp.laneK)
theorem State.Kept.execVmul {w : Long} {s : State} (h : s.Kept φ m c) : OutKept φ m c (Machine.execVmul w s) := h.issueLong (fun h => h.intOp)
theorem State.Kept.execVmulLit {w : Lit} {s : State} (h : s.Kept φ m c) : OutKept φ m c (Machine.execVmulLit w s) := h.issueLit (fun h => h.litOp)
theorem State.Kept.execVmulh {w : Long} {s : State} (h : s.Kept φ m c) : OutKept φ m c (Machine.execVmulh w s) := h.issueLong (fun h => h.intOp)
theorem State.Kept.execVmad {w : Long} {s : State} (h : s.Kept φ m c) : OutKept φ m c (Machine.execVmad w s) := h.issueLong (fun h => h.laneOp)
theorem State.Kept.execVabs {w : Long} {s : State} (h : s.Kept φ m c) : OutKept φ m c (Machine.execVabs w s) := h.issueLong (fun h => h.intOp)
theorem State.Kept.execVperm {w : Long} {s : State} (h : s.Kept φ m c) : OutKept φ m c (Machine.execVperm w s) := h.issueLong (fun h => h.patOp)
theorem State.Kept.shiftOp {s : State} {w : Long} {f : Nat → Nat → Nat → Nat} (h : s.Kept φ m c) : (s.shiftOp w f).Kept φ m c := h.patOp
theorem State.Kept.shiftLit {s : State} {w : Lit} {f : Nat → Nat → Nat → Nat} (h : s.Kept φ m c) : (s.shiftLit w f).Kept φ m c := h.laneOp
theorem State.Kept.execVshl {w : Long} {s : State} (h : s.Kept φ m c) : OutKept φ m c (Machine.execVshl w s) := h.issueLong (fun h => h.shiftOp)
theorem State.Kept.execVshlLit {w : Lit} {s : State} (h : s.Kept φ m c) : OutKept φ m c (Machine.execVshlLit w s) := h.issueLit (fun h => h.shiftLit)
theorem State.Kept.execVshr {w : Long} {s : State} (h : s.Kept φ m c) : OutKept φ m c (Machine.execVshr w s) := h.issueLong (fun h => h.shiftOp)
theorem State.Kept.execVshrLit {w : Lit} {s : State} (h : s.Kept φ m c) : OutKept φ m c (Machine.execVshrLit w s) := h.issueLit (fun h => h.shiftLit)
theorem State.Kept.execVsra {w : Long} {s : State} (h : s.Kept φ m c) : OutKept φ m c (Machine.execVsra w s) := h.issueLong (fun h => h.shiftOp)
theorem State.Kept.execVsraLit {w : Lit} {s : State} (h : s.Kept φ m c) : OutKept φ m c (Machine.execVsraLit w s) := h.issueLit (fun h => h.shiftLit)
theorem State.Kept.execVmin {w : Long} {s : State} (h : s.Kept φ m c) : OutKept φ m c (Machine.execVmin w s) := h.issueLong (fun h => h.intOp)
theorem State.Kept.execVminLit {w : Lit} {s : State} (h : s.Kept φ m c) : OutKept φ m c (Machine.execVminLit w s) := h.issueLit (fun h => h.litOp)
theorem State.Kept.execVmax {w : Long} {s : State} (h : s.Kept φ m c) : OutKept φ m c (Machine.execVmax w s) := h.issueLong (fun h => h.intOp)
theorem State.Kept.execVmaxLit {w : Lit} {s : State} (h : s.Kept φ m c) : OutKept φ m c (Machine.execVmaxLit w s) := h.issueLit (fun h => h.litOp)
theorem State.Kept.execVsel {w : Long} {s : State} (h : s.Kept φ m c) : OutKept φ m c (Machine.execVsel w s) := h.issueLong (fun h => h.patOp)
theorem State.Kept.execVcmp {w : Long} {s : State} (h : s.Kept φ m c) : OutKept φ m c (Machine.execVcmp w s) := h.issueLong (fun h => h.laneK)
theorem State.Kept.execVbfx {w : Long} {s : State} (h : s.Kept φ m c) : OutKept φ m c (Machine.execVbfx w s) := h.issueLong (fun h => h.laneOp)
theorem State.Kept.execVbfi {w : Long} {s : State} (h : s.Kept φ m c) : OutKept φ m c (Machine.execVbfi w s) := h.issueLong (fun h => h.laneOp)
theorem State.Kept.execVand {w : Short} {s : State} (h : s.Kept φ m c) : OutKept φ m c (Machine.execVand w s) := h.issueShort (fun h => h.shortOp)
theorem State.Kept.litBits {s : State} {w : Lit} {f : W → W → W} (h : s.Kept φ m c) : (s.litBits w f).Kept φ m c := h.laneOp
theorem State.Kept.execVandLit {w : Lit} {s : State} (h : s.Kept φ m c) : OutKept φ m c (Machine.execVandLit w s) := h.issueLit (fun h => h.litBits)
theorem State.Kept.execVor {w : Short} {s : State} (h : s.Kept φ m c) : OutKept φ m c (Machine.execVor w s) := h.issueShort (fun h => h.shortOp)
theorem State.Kept.execVorLit {w : Lit} {s : State} (h : s.Kept φ m c) : OutKept φ m c (Machine.execVorLit w s) := h.issueLit (fun h => h.litBits)
theorem State.Kept.execVxor {w : Short} {s : State} (h : s.Kept φ m c) : OutKept φ m c (Machine.execVxor w s) := h.issueShort (fun h => h.shortOp)
theorem State.Kept.execVxorLit {w : Lit} {s : State} (h : s.Kept φ m c) : OutKept φ m c (Machine.execVxorLit w s) := h.issueLit (fun h => h.litBits)
theorem State.Kept.execVnot {w : Short} {s : State} (h : s.Kept φ m c) : OutKept φ m c (Machine.execVnot w s) := h.issueShort (fun h => h.shortOp)
theorem State.Kept.execVpopc {w : Short} {s : State} (h : s.Kept φ m c) : OutKept φ m c (Machine.execVpopc w s) := h.issueShort (fun h => h.shortOp)
theorem State.Kept.execVclz {w : Short} {s : State} (h : s.Kept φ m c) : OutKept φ m c (Machine.execVclz w s) := h.issueShort (fun h => h.shortOp)
theorem State.Kept.execVbrev {w : Short} {s : State} (h : s.Kept φ m c) : OutKept φ m c (Machine.execVbrev w s) := h.issueShort (fun h => h.shortOp)

/-! ## Phase -/

theorem State.Kept.execPub {w : Short} {s : State} (h : s.Kept φ m c) : OutKept φ m c (Machine.execPub w s) := h.issueShort (fun h => h.andThen)
theorem State.Kept.execSnap {w : Short} {s : State} (h : s.Kept φ m c) : OutKept φ m c (Machine.execSnap w s) := h.issueShort (fun h => h.andThen)
theorem State.Kept.execPhase {w : Short} {s : State} (h : s.Kept φ m c) : OutKept φ m c (Machine.execPhase w s) := h.issueShort (fun h => h.andThen)
theorem State.Kept.execTxbeg {w : Short} {s : State} (h : s.Kept φ m c) : OutKept φ m c (Machine.execTxbeg w s) := h.issueShort (fun h => h.andThen)

theorem State.Kept.execTxend {w : Short} {s : State} (h : s.Kept φ m c) : OutKept φ m c (Machine.execTxend w s) := by
  unfold Machine.execTxend
  exact h.issueShort (fun h => (by split; exacts [h.leaveTx, h.cuStamp.leaveTx.observe, h.cuStamp.andThen]))

theorem State.Kept.execTxabort {w : Short} {s : State} (h : s.Kept φ m c) :
    OutKept φ m c (Machine.execTxabort w s) := h.issueShort (fun h => h.leaveTx)
theorem State.Kept.homeReady {s : State} {lines : List Nat} (h : s.Kept φ m c) :
    (s.homeReady lines).Kept φ m c := h.foldl (fun h => h.collapseCu.recallOthers)

theorem State.Kept.ringOp {s : State} {va : Nat} {k : AKind} {slots : RingBlk → List Acc} {go : State → Res} (h : s.Kept φ m c)
    (hgo : ∀ {t}, t.Kept φ m c → (go t).Kept φ m c) : (s.ringOp va k slots go).Kept φ m c := by
  unfold State.ringOp
  generalize ([⟨0, (va : Int), 64⟩] : List Acc) = blk
  exact h.checked (h.whenOpen (.ite trivial (h.homeReady.checked (h.homeReady.whenOpen (hgo h.homeReady.homeReady)))))

theorem State.Kept.execEnq {w : Long} {s : State} (h : s.Kept φ m c) : OutKept φ m c (Machine.execEnq w s) := by
  unfold Machine.execEnq
  refine h.issueLong fun h1 => h1.ringOp fun h2 => ?_
  split
  · exact h2.enqAt
  · exact h1.setTodo.runTodo

theorem State.Kept.execDeq {w : Long} {s : State} (h : s.Kept φ m c) :
    OutKept φ m c (Machine.execDeq w s) := h.issueLong (fun h => h.ringOp (fun h => h.deqAt.andThen))
theorem State.Kept.rangeOp {s : State} {op : Nat} {w : Long} (h : s.Kept φ m c) :
    (s.rangeOp op w).Kept φ m c := .ite trivial (h.whenOpen (((h.ite h.publishEpi).ite h.publishSome).andThen))
theorem State.Kept.execCwb {w : Long} {s : State} (h : s.Kept φ m c) : OutKept φ m c (Machine.execCwb w s) := h.issueLong (fun h => h.rangeOp)
theorem State.Kept.execCinv {w : Long} {s : State} (h : s.Kept φ m c) : OutKept φ m c (Machine.execCinv w s) := h.issueLong (fun h => h.rangeOp)
theorem State.Kept.execCwbinv {w : Long} {s : State} (h : s.Kept φ m c) : OutKept φ m c (Machine.execCwbinv w s) := h.issueLong (fun h => h.rangeOp)

/-! ## Sfu -/

theorem State.Kept.sfuOp {s : State} {d : Nat} {lut : Option (Nat × Bool)} {f : Nat → W × Nat} (h : s.Kept φ m c) :
    (s.sfuOp d lut f).Kept φ m c := .ite trivial h.upd.modSq
theorem State.Kept.specialOp {s : State} {fn : Nat} {w : Long} (h : s.Kept φ m c) : (s.specialOp fn w).Kept φ m c := h.sfuOp
theorem State.Kept.execFrcp {w : Long} {s : State} (h : s.Kept φ m c) : OutKept φ m c (Machine.execFrcp w s) := h.issueLong (fun h => h.specialOp)
theorem State.Kept.execFrsq {w : Long} {s : State} (h : s.Kept φ m c) : OutKept φ m c (Machine.execFrsq w s) := h.issueLong (fun h => h.specialOp)
theorem State.Kept.execFsqrt {w : Long} {s : State} (h : s.Kept φ m c) : OutKept φ m c (Machine.execFsqrt w s) := h.issueLong (fun h => h.specialOp)
theorem State.Kept.execFexp2 {w : Long} {s : State} (h : s.Kept φ m c) : OutKept φ m c (Machine.execFexp2 w s) := h.issueLong (fun h => h.specialOp)
theorem State.Kept.execFlog2 {w : Long} {s : State} (h : s.Kept φ m c) : OutKept φ m c (Machine.execFlog2 w s) := h.issueLong (fun h => h.specialOp)
theorem State.Kept.execFsin {w : Long} {s : State} (h : s.Kept φ m c) : OutKept φ m c (Machine.execFsin w s) := h.issueLong (fun h => h.specialOp)
theorem State.Kept.execFcos {w : Long} {s : State} (h : s.Kept φ m c) : OutKept φ m c (Machine.execFcos w s) := h.issueLong (fun h => h.specialOp)
theorem State.Kept.drainLut {s : State} {sel : Bool} (h : s.Kept φ m c) :
    (s.drainLut sel).Kept φ m c := h.foldl (fun h => h.foldl (fun h => h.retireSfu))

theorem State.Kept.execLutld {w : Long} {s : State} (h : s.Kept φ m c) : OutKept φ m c (Machine.execLutld w s) := by
  unfold Machine.execLutld
  refine h.issueLong fun h => ?_
  dsimp only
  split
  · exact h.drainLut.andThen
  · exact h.andThen

theorem State.Kept.execLutsel {w : Long} {s : State} (h : s.Kept φ m c) : OutKept φ m c (Machine.execLutsel w s) := h.issueLong (fun h => h.andThen)

theorem State.Kept.execLuteval {w : Long} {s : State} (h : s.Kept φ m c) : OutKept φ m c (Machine.execLuteval w s) := by
  unfold Machine.execLuteval
  exact h.issueLong (fun h => (by split; exacts [h.sfuOp, h.sfuOp]))

/-! ## Uniform -/

theorem State.Kept.scalarOp {s : State} {w : Short} {f : W → W → W} (h : s.Kept φ m c) : (s.scalarOp w f).Kept φ m c := h.setS
theorem State.Kept.scalarLit {s : State} {w : Lit} {f : W → W → W} (h : s.Kept φ m c) : (s.scalarLit w f).Kept φ m c := h.setS
theorem State.Kept.putS {s : State} {t' d v : Nat} (h : s.Kept φ m c) : (s.putS t' d v).Kept φ m c := h.setS2.ite h.setS
theorem State.Kept.execSadd {w : Short} {s : State} (h : s.Kept φ m c) : OutKept φ m c (Machine.execSadd w s) := h.issueShort (fun h => h.scalarOp)
theorem State.Kept.execSsub {w : Short} {s : State} (h : s.Kept φ m c) : OutKept φ m c (Machine.execSsub w s) := h.issueShort (fun h => h.scalarOp)
theorem State.Kept.execSmul {w : Short} {s : State} (h : s.Kept φ m c) : OutKept φ m c (Machine.execSmul w s) := h.issueShort (fun h => h.scalarOp)
theorem State.Kept.execSmulh {w : Short} {s : State} (h : s.Kept φ m c) : OutKept φ m c (Machine.execSmulh w s) := h.issueShort (fun h => h.scalarOp)
theorem State.Kept.execSand {w : Short} {s : State} (h : s.Kept φ m c) : OutKept φ m c (Machine.execSand w s) := h.issueShort (fun h => h.scalarOp)
theorem State.Kept.execSor {w : Short} {s : State} (h : s.Kept φ m c) : OutKept φ m c (Machine.execSor w s) := h.issueShort (fun h => h.scalarOp)
theorem State.Kept.execSxor {w : Short} {s : State} (h : s.Kept φ m c) : OutKept φ m c (Machine.execSxor w s) := h.issueShort (fun h => h.scalarOp)
theorem State.Kept.execSnot {w : Short} {s : State} (h : s.Kept φ m c) : OutKept φ m c (Machine.execSnot w s) := h.issueShort (fun h => h.scalarOp)
theorem State.Kept.execSshl {w : Short} {s : State} (h : s.Kept φ m c) : OutKept φ m c (Machine.execSshl w s) := h.issueShort (fun h => h.scalarOp)
theorem State.Kept.execSshr {w : Short} {s : State} (h : s.Kept φ m c) : OutKept φ m c (Machine.execSshr w s) := h.issueShort (fun h => h.scalarOp)
theorem State.Kept.execSsra {w : Short} {s : State} (h : s.Kept φ m c) : OutKept φ m c (Machine.execSsra w s) := h.issueShort (fun h => h.scalarOp)
theorem State.Kept.execSmov {w : Short} {s : State} (h : s.Kept φ m c) : OutKept φ m c (Machine.execSmov w s) := h.issueShort (fun h => h.scalarOp)
theorem State.Kept.execSpopc {w : Short} {s : State} (h : s.Kept φ m c) : OutKept φ m c (Machine.execSpopc w s) := h.issueShort (fun h => h.scalarOp)
theorem State.Kept.execSclz {w : Short} {s : State} (h : s.Kept φ m c) : OutKept φ m c (Machine.execSclz w s) := h.issueShort (fun h => h.scalarOp)
theorem State.Kept.execSaddLit {w : Lit} {s : State} (h : s.Kept φ m c) : OutKept φ m c (Machine.execSaddLit w s) := h.issueLit (fun h => h.scalarLit)
theorem State.Kept.execSmulLit {w : Lit} {s : State} (h : s.Kept φ m c) : OutKept φ m c (Machine.execSmulLit w s) := h.issueLit (fun h => h.scalarLit)
theorem State.Kept.execSandLit {w : Lit} {s : State} (h : s.Kept φ m c) : OutKept φ m c (Machine.execSandLit w s) := h.issueLit (fun h => h.scalarLit)
theorem State.Kept.execSorLit {w : Lit} {s : State} (h : s.Kept φ m c) : OutKept φ m c (Machine.execSorLit w s) := h.issueLit (fun h => h.scalarLit)
theorem State.Kept.execSxorLit {w : Lit} {s : State} (h : s.Kept φ m c) : OutKept φ m c (Machine.execSxorLit w s) := h.issueLit (fun h => h.scalarLit)
theorem State.Kept.execSshlLit {w : Lit} {s : State} (h : s.Kept φ m c) : OutKept φ m c (Machine.execSshlLit w s) := h.issueLit (fun h => h.scalarLit)
theorem State.Kept.execSshrLit {w : Lit} {s : State} (h : s.Kept φ m c) : OutKept φ m c (Machine.execSshrLit w s) := h.issueLit (fun h => h.scalarLit)
theorem State.Kept.execSsraLit {w : Lit} {s : State} (h : s.Kept φ m c) : OutKept φ m c (Machine.execSsraLit w s) := h.issueLit (fun h => h.scalarLit)
theorem State.Kept.execSmovi {w : Lit} {s : State} (h : s.Kept φ m c) : OutKept φ m c (Machine.execSmovi w s) := h.issueLit (fun h => h.scalarLit)
theorem State.Kept.execSmin {w : Long} {s : State} (h : s.Kept φ m c) : OutKept φ m c (Machine.execSmin w s) := h.issueLong (fun h => h.putS)
theorem State.Kept.execSmax {w : Long} {s : State} (h : s.Kept φ m c) : OutKept φ m c (Machine.execSmax w s) := h.issueLong (fun h => h.putS)
theorem State.Kept.execSsel {w : Long} {s : State} (h : s.Kept φ m c) : OutKept φ m c (Machine.execSsel w s) := h.issueLong (fun h => h.setS)
theorem State.Kept.execScmp {w : Long} {s : State} (h : s.Kept φ m c) : OutKept φ m c (Machine.execScmp w s) := h.issueLong (fun h => h.setScc)
theorem State.Kept.execSbfx {w : Long} {s : State} (h : s.Kept φ m c) : OutKept φ m c (Machine.execSbfx w s) := h.issueLong (fun h => h.setS)
theorem State.Kept.execSbfi {w : Long} {s : State} (h : s.Kept φ m c) : OutKept φ m c (Machine.execSbfi w s) := h.issueLong (fun h => h.setS)
theorem State.Kept.execSlea {w : Long} {s : State} (h : s.Kept φ m c) : OutKept φ m c (Machine.execSlea w s) := h.issueLong (fun h => h.setS2)
theorem State.Kept.setKReg {s : State} {n : Nat} {v : Mask} (h : s.Kept φ m c) : (s.setKReg n v).Kept φ m c := h.modSq
theorem State.Kept.execKand {w : Short} {s : State} (h : s.Kept φ m c) : OutKept φ m c (Machine.execKand w s) := h.issueShort (fun h => h.setKReg)
theorem State.Kept.execKor {w : Short} {s : State} (h : s.Kept φ m c) : OutKept φ m c (Machine.execKor w s) := h.issueShort (fun h => h.setKReg)
theorem State.Kept.execKxor {w : Short} {s : State} (h : s.Kept φ m c) : OutKept φ m c (Machine.execKxor w s) := h.issueShort (fun h => h.setKReg)
theorem State.Kept.execKnot {w : Short} {s : State} (h : s.Kept φ m c) : OutKept φ m c (Machine.execKnot w s) := h.issueShort (fun h => h.setKReg)
theorem State.Kept.execKmovKFromK {w : Short} {s : State} (h : s.Kept φ m c) :
    OutKept φ m c (Machine.execKmovKFromK w s) := h.issueShort (fun h => h.setKReg)
theorem State.Kept.execKmovKFromS {w : Short} {s : State} (h : s.Kept φ m c) :
    OutKept φ m c (Machine.execKmovKFromS w s) := h.issueShort (fun h => h.setKReg)
theorem State.Kept.execKmovSFromK {w : Short} {s : State} (h : s.Kept φ m c) :
    OutKept φ m c (Machine.execKmovSFromK w s) := h.issueShort (fun h => h.setS)
theorem State.Kept.execKset {w : Lit} {s : State} (h : s.Kept φ m c) : OutKept φ m c (Machine.execKset w s) := h.issueLit (fun h => h.setKReg)
theorem State.Kept.execKpopc {w : Short} {s : State} (h : s.Kept φ m c) : OutKept φ m c (Machine.execKpopc w s) := h.issueShort (fun h => h.setS)
theorem State.Kept.execKfirst {w : Short} {s : State} (h : s.Kept φ m c) : OutKept φ m c (Machine.execKfirst w s) := h.issueShort (fun h => h.setS)

end

end Sys2Proof.Machine

/-! # Proofs: every operation keeps the canonical form: the step -/

namespace Sys2Proof.Machine

section
variable {φ : Option Focus} {m c : Prop}

/-! ## Dispatch -/

theorem State.Kept.exec {i : Instr} {s : State} (h : s.Kept none m c) : OutKept none m c (Machine.exec i s) := by
  unfold Machine.exec
  split
  · exact h.execVadd
  · exact h.execVaddLit
  · exact h.execVsub
  · exact h.execVsubLit
  · exact h.execVaddc
  · exact h.execVmul
  · exact h.execVmulLit
  · exact h.execVmulh
  · exact h.execVmad
  · exact h.execVabs
  · exact h.execVperm
  · exact h.execVshl
  · exact h.execVshlLit
  · exact h.execVshr
  · exact h.execVshrLit
  · exact h.execVsra
  · exact h.execVsraLit
  · exact h.execVmin
  · exact h.execVminLit
  · exact h.execVmax
  · exact h.execVmaxLit
  · exact h.execVsel
  · exact h.execVcmp
  · exact h.execVbfx
  · exact h.execVbfi
  · exact h.execVand
  · exact h.execVandLit
  · exact h.execVor
  · exact h.execVorLit
  · exact h.execVxor
  · exact h.execVxorLit
  · exact h.execVnot
  · exact h.execVpopc
  · exact h.execVclz
  · exact h.execVbrev
  · exact h.execFadd
  · exact h.execFaddLit
  · exact h.execFsub
  · exact h.execFsubLit
  · exact h.execFmul
  · exact h.execFmulLit
  · exact h.execFfma
  · exact h.execFmin
  · exact h.execFminLit
  · exact h.execFmax
  · exact h.execFmaxLit
  · exact h.execFcmp
  · exact h.execFclass
  · exact h.execFrnd
  · exact h.execCvt
  · exact h.execNpack
  · exact h.execNunpack
  · exact h.execIpack4
  · exact h.execIunpack4
  · exact h.execSclcalc
  · exact h.execFrcp
  · exact h.execFrsq
  · exact h.execFsqrt
  · exact h.execFexp2
  · exact h.execFlog2
  · exact h.execFsin
  · exact h.execFcos
  · exact h.execLutld
  · exact h.execLutsel
  · exact h.execLuteval
  · exact h.execXlane
  · exact h.execXlaneLo
  · exact h.execXlaneHi
  · exact h.execXlaneFlip
  · exact h.execPollAny
  · exact h.execPollAll
  · exact h.execPollMask
  · exact h.execSame
  · exact h.execSameAll
  · exact h.execRedx
  · exact h.execRedf
  · exact h.execScanx
  · exact h.execRank
  · exact h.execSelk
  · exact h.execLd
  · exact h.execSt
  · exact h.execLds
  · exact h.execSts
  · exact h.execLdsm
  · exact h.execLdsmT
  · exact h.execLdblk
  · exact h.execLdAcq
  · exact h.execStRel
  · exact h.execAtom
  · exact h.execUpd
  · exact h.execPfch
  · exact h.execSadd
  · exact h.execSaddLit
  · exact h.execSsub
  · exact h.execSmul
  · exact h.execSmulLit
  · exact h.execSmulh
  · exact h.execSand
  · exact h.execSandLit
  · exact h.execSor
  · exact h.execSorLit
  · exact h.execSxor
  · exact h.execSxorLit
  · exact h.execSnot
  · exact h.execSshl
  · exact h.execSshlLit
  · exact h.execSshr
  · exact h.execSshrLit
  · exact h.execSsra
  · exact h.execSsraLit
  · exact h.execSmin
  · exact h.execSmax
  · exact h.execSsel
  · exact h.execSmov
  · exact h.execSmovi
  · exact h.execScmp
  · exact h.execSbfx
  · exact h.execSbfi
  · exact h.execSpopc
  · exact h.execSclz
  · exact h.execSlea
  · exact h.execKand
  · exact h.execKor
  · exact h.execKxor
  · exact h.execKnot
  · exact h.execKmovKFromK
  · exact h.execKmovKFromS
  · exact h.execKmovSFromK
  · exact h.execKset
  · exact h.execKpopc
  · exact h.execKfirst
  · exact h.execBra
  · exact h.execBrz
  · exact h.execBrnz
  · exact h.execJmp
  · exact h.execCall
  · exact h.execRet
  · exact h.execBany
  · exact h.execBall
  · exact h.execBnone
  · exact h.execBdiv
  · exact h.execConverge
  · exact h.execPblk
  · exact h.execSetfmt
  · exact h.execSetfmtFlags
  · exact h.execSetfmtImm
  · exact h.execSetpart
  · exact h.execRdspec
  · exact h.execRole
  · exact h.execExit
  · exact h.execTrap
  · exact h.execBrkpt
  · exact h.execNop
  · exact h.execPub
  · exact h.execSnap
  · exact h.execPhase
  · exact h.execTxbeg
  · exact h.execTxend
  · exact h.execTxabort
  · exact h.execEnq
  · exact h.execDeq
  · exact h.execCwb
  · exact h.execCinv
  · exact h.execCwbinv
  · exact h.execCpy
  · exact h.execCpy2d
  · exact h.execGath
  · exact h.execRcpy
  · exact h.execRsig
  · exact h.execTlget
  · exact h.execTlwait
  · exact h.execTlsig
  · exact h.execWaitc
  · exact h.execWaitcG
  · exact h.execBarInit
  · exact h.execBarInitFree
  · exact h.execBarArr
  · exact h.execBarWait
  · exact h.execBarArrw
  · exact h.execBarSync
  · exact h.execLbar
  · exact h.execSpawn
  · exact h.execPost
  · exact h.execJoin
  · exact h.execLeave
  · exact h.execMsend
  · exact h.execMrecv
  · exact h.execMrec
  · exact h.execWld
  · exact h.execMmaz
  · exact h.execMma
  · exact h.execMepi
  · exact h.execMclrZ
  · exact h.execMclrLd
  · exact h.execMrestart
  · exact h.execMfence
  · exact h.execRfe
  · exact h.execCsrrd
  · exact h.execCsrwr
  · exact h.execRdenergy
  · exact h.execSfuRetire
  · exact h.execMatrixPassRetire
  · exact h.execAsyncEventTake
  · exact h.execSquadWake
  · exact h.execSquadRetire
  · exact h.execTeamExit
  · exact h.execMccProgramEnd
  · exact h.execEngineCommandRun
  · exact h.execHuddleTimerExpire
  · exact h.execHuddlePlace
  · exact h.execArbiterTakeEntry
  · exact h.execEntryClassAge
  · exact h.execPlaceTeam
  · exact h.execPlacerOldestWaitExpire
  · exact h.execLaunchComplete
  · exact h.execQtailWrite
  · exact h.execQfaultClear
  · exact h.execQtbaseWrite
  · exact h.execRingBaseWrite
  · exact h.execRingHeadWrite
  · exact h.execRegisterWrite
  · exact h.execHomeSharedRequest
  · exact h.execHomeExclusiveRequest
  · exact h.execHomeUpdateOnlyRequest
  · exact h.execHomePublicationEvent
  · exact h.execHomePlainRead
  · exact h.execHomeCollapseRequest
  · exact h.execHomeInvalidationAck
  · exact h.execHomeOwnerBytes
  · exact h.execHomeDiePartial
  · exact h.execL1Grant
  · exact h.execL1Invalidate
  · exact h.execL1Recall
  · exact h.execL1CollapseRecall
  · exact h.execL1PutAck
  · exact h.execSnoopFilterMessage
  · exact h.execMergePortCollapse
  · exact h.execPageGrantRequest
  · exact h.execPageGrantRecall
  · exact h.execPageGrantRecallAck
  · exact h.execTranslationWalkEnd
  · exact h.execTlbinvScopeAddress
  · exact h.execTlbinvScopeContext
  · exact h.execTlbinvScopeAll
  · exact h.execTlbinvDrain
  · exact h.execTlbinvComplete
  · exact h.execTkcmdMapped
  · exact h.execTkcmdDenied
  · exact h.execEbbCollectorPass
  · exact h.execVersionStoreFullTimeout
  · exact h.execSnapshotAgeLimit
  · exact h.execSnapshotRevocation
  · exact h.execCtxcmdSave
  · exact h.execCtxcmdRestore
  · exact h.execCtxcmdKill
  · exact h.execGraceWindowClose
  · exact h.execTeamSaveRecord
  · exact h.execContextRestorePlace
  · exact h.execStopcmdStop
  · exact h.execStopcmdResume
  · exact h.execStopcmdResumeAll
  · exact h.execStopComplete
  · exact h.execSamplerCountZero
  · exact h.execFabricMessageReceive
  · exact h.execFabricRetransmitTimeout
  · exact h.execFlitCrcReplay
  · exact h.execSettleBeaconSend
  · exact h.execSettleBeaconReceive
  · exact h.execBeaconSilenceEvict
  · exact h.execBridgeSilenceTakeover
  · exact h.execMembershipBegin
  · exact h.execMembershipReady
  · exact h.execMembershipSwitch
  · exact h.execLbarMemberReport
  · exact h.execLbarMemberComplete
  · exact h.execDomcmdAdmit
  · exact h.execDomcmdRemove
  · exact h.execDomcmdEvict
  · exact h.execGetVersion
  · exact h.execGetCapabilities
  · exact h.execNegotiateAlgorithms
  · exact h.execGetDigests
  · exact h.execGetCertificate
  · exact h.execGetMeasurements
  · exact h.execKeyExchange
  · exact h.execFinish
  · exact h.execVendorDefinedRequest
  · exact h.execEndSession
  · exact h.execHostWindowAccess
  · exact h.execHostApertureWrite
  · exact h.execHostApertureRead
  · exact h.execHostUnsupportedRequest
  · exact h.execErrorWindowExpire
  · exact h.execClusterRetire
  · exact h.execSliceRetire
  · exact h.execHbmRowRepair
  · exact h.execHbmChannelRepair
  · exact h.execLinkLaneSpare
  · exact h.execThermalTrip
  · exact h.execThermalRelease
  · exact h.execPowerOn
  · exact h.execPcieFundamentalReset
  · exact h.execFwcmdLoad
  · exact h.execFwcmdColdReset
  · exact h.execFwcmdWarmReset
  · exact h.execSlackWaterEstimateUpdate
  · exact h.execScrubbing
  · exact h.execSpdmUnsupportedRequest
  · exact h.execPortLinkTrained
  · exact h.execPortLinkDown

/-! ## Step -/

theorem State.Kept.step {s : State} (h : s.Kept none m c) : OutKept none m c (Machine.step s) := by
  have hp : s.plan.Kept none m c := h.plan
  unfold Machine.step
  split
  · next t e => exact (e ▸ hp : (Plan.done t).Kept none m c)
  · next i t e => exact State.Kept.exec (e ▸ hp : (Plan.run i t).Kept none m c)

end

/-- Settles O10: every operation keeps the form, and a step is the plan's next state or the instruction's. -/
theorem memOkStep : Obligations.MemOkStep := by
  constructor
  · intro s t hs e
    have h : OutKept none True False (step s) := State.Kept.step ⟨nofun, fun _ => hs, nofun⟩
    rw [e] at h
    exact h.mem trivial
  · intro s t hs e
    have h : OutKept none False True (step s) := State.Kept.step ⟨nofun, nofun, fun _ => hs⟩
    rw [e] at h
    exact h.scr trivial

end Sys2Proof.Machine

/-! # Proofs: divergence, reconvergence and the ends of splits (04 R89 to R93) -/

namespace Sys2Proof.Machine

/-! ### bdiv (04 R89) -/

theorem exec_bdiv (w : Lit) (s : State) : exec (.bdiv w) s = s.issueLit true 0x069 w (fun s =>
    if s.sq.k w.a.toNat &&& s.sq.sp.mask = 0 then .done s
    else if s.sq.sp.mask &&& ~~~(s.sq.k w.a.toNat) = 0 then .jump (s.setPc (s.target w))
    else if s.sq.rest.length < 3 then
      .done (s.modSq (fun q => { q with
        rest := q.rest ++ [{ Split.blank with
          num := s.sq.freeSplit, pc := s.target w, mask := s.sq.k w.a.toNat &&& s.sq.sp.mask, fmt := s.sq.sp.fmt }]
        sp := { q.sp with mask := s.sq.sp.mask &&& ~~~(s.sq.k w.a.toNat) } }))
    else if s.sq.sp.stack.length = 16 then .trap ⟨.splitOverflow, 0, 0, 0⟩
    else .jump (s.modSq (fun q => { q with
      sp := { q.sp with
        stack := ⟨s.sq.sp.pc + 8, .deferred, s.sq.sp.mask &&& ~~~(s.sq.k w.a.toNat), s.sq.sp.fmt⟩ :: s.sq.sp.stack
        mask := s.sq.k w.a.toNat &&& s.sq.sp.mask, pc := s.target w } }))) := rfl

/-- No lane is left where all active lanes are taken, and only there. -/
theorem mask_sub_eq_zero (k m : Mask) : m &&& ~~~k = 0 ↔ k &&& m = m := by
  constructor
  · intro h
    refine BitVec.eq_of_getLsbD_eq fun i hi => ?_
    have hb : (m &&& ~~~k).getLsbD i = false := by rw [h]; exact BitVec.getLsbD_zero
    rw [BitVec.getLsbD_and, BitVec.getLsbD_not, decide_eq_true hi, Bool.true_and] at hb
    rw [BitVec.getLsbD_and]
    cases hm : m.getLsbD i
    · exact Bool.and_false _
    · rw [hm] at hb; simpa using hb
  · intro h
    rw [← h, BitVec.and_assoc, BitVec.and_comm k, BitVec.and_assoc, BitVec.and_comm (~~~k), BitVec.and_not_self]
    exact BitVec.and_zero

/-- A change of the squad in focus depends on that squad alone. -/
theorem State.modSq_congr {s : State} {f g : Squad → Squad} (h : f s.sq = g s.sq) : s.modSq f = s.modSq g :=
  congrArg (fun q => ({ s with sq := q } : State)) h

/-! ### converge (04 R92) -/

theorem exec_converge (w : Short) (s : State) : exec (.converge w) s = s.issueShort true 0x06A w (fun s =>
    .jump (s.modSq (fun q => ({ q with sp := convergeAt q.sp.pc q.sp.stack q.sp } : Squad).release))) := rfl

/-- converge leaves the squad that its loop and the release make of it. -/
theorem converge_jumps {ok : Short → State → Prop} {e : Squad → Squad} (ht : ∀ q, (e q).todo = q.todo)
    (h : ∀ w r, ok w r → ({ r.sq with sp := convergeAt r.sq.sp.pc r.sq.sp.stack r.sq.sp } : Squad).release = e r.sq) :
    ShortJumps .converge true 0x06A ok (fun _ r => r.modSq e) :=
  shortJumps_intro _ exec_converge (fun w r hok => congrArg Res.jump (State.modSq_congr (h w r hok)))
    (fun _ r => State.modSq_todoNow (ht r.sq))

theorem Squad.release_running {q : Squad} (h : q.sp.waiting = false) : q.release = q := by
  rw [Squad.release, h]; rfl

theorem Squad.release_others {q : Squad} (h : q.rest.any (fun p => !p.waiting) = true) : q.release = q := by
  have hall : q.rest.all (·.waiting) = false := by
    rw [← Bool.not_eq_true, List.all_eq_true]
    intro hw
    obtain ⟨p, hp, hn⟩ := List.any_eq_true.mp h
    simp [hw p hp] at hn
  rw [Squad.release, hall, Bool.and_false]; rfl

theorem Squad.release_last {q : Squad} (hr : q.rest = []) (hw : q.sp.waiting = true) :
    q.release = { q with sp := { q.sp with pc := q.sp.pc + 4, waiting := false } } := by
  rw [Squad.release, hr, hw]
  show ({ q with sp := { q.sp with pc := q.sp.pc + 4, waiting := false }, rest := [] } : Squad) = _
  rw [← hr]

theorem convergeAt_nil (c : D) (p : Split) : convergeAt c [] p = { p with stack := [], pc := c, waiting := true } := rfl

theorem convergeAt_deferred {c : D} {e : StackEntry} {l : List StackEntry} {p : Split} (h : e.kind = .deferred) :
    convergeAt c (e :: l) p = { p with stack := ⟨c, .parked, p.mask, p.fmt⟩ :: l, pc := e.pc, mask := e.mask, fmt := e.fmt } := by
  rw [convergeAt, if_pos h]

theorem convergeAt_joins {c : D} {e : StackEntry} {l : List StackEntry} {p : Split} (h : e.kind = .parked) (hc : e.pc = c) (hf : e.fmt = p.fmt) :
    convergeAt c (e :: l) p = convergeAt c l { p with mask := p.mask ||| e.mask } := by
  rw [convergeAt, if_neg (by rw [h]; nofun), if_pos ⟨hc, hf⟩]

theorem convergeAt_passes {c : D} {e : StackEntry} {l : List StackEntry} {p : Split} (h : e.kind = .parked) (hn : e.pc ≠ c ∨ e.fmt ≠ p.fmt) :
    convergeAt c (e :: l) p = { p with stack := e :: l, pc := c + 4 } := by
  rw [convergeAt, if_neg (by rw [h]; nofun), if_neg (fun hj => hn.elim (· hj.1) (· hj.2))]

/-! ### exit (04 R93, 08 R174) -/

theorem exec_exit (w : Short) (s : State) : exec (.exit w) s = s.issueShort true 0x074 w (fun s =>
    if s.isM then .done s.mccExit
    else
      match s.sq.sp.stack with
      | e :: r => .jump (s.modSq (fun q => { q with sp := { q.sp with stack := r, mask := e.mask, fmt := e.fmt, pc := e.pc } }))
      | [] => if s.sq.rest.isEmpty then .jump (s.setTodo [.exitDo]) else .jump (s.modSq Squad.endSplit)) := rfl

/-- Another split takes the place of the one that ends. -/
theorem Squad.endSplit_running {q : Squad} {p : Split} {l : List Split} (h : q.rest = p :: l) (hp : p.waiting = false) :
    q.endSplit = { q with sp := p, rest := l } := by
  rw [Squad.endSplit, h]
  exact Squad.release_running hp

theorem exit_jumps {ok : Short → State → Prop} {e : Short → State → State}
    (hb : ∀ w r, ok w r → r.isM = false ∧ (match r.sq.sp.stack with
      | e :: l => Res.jump (r.modSq (fun q => { q with sp := { q.sp with stack := l, mask := e.mask, fmt := e.fmt, pc := e.pc } }))
      | [] => if r.sq.rest.isEmpty then .jump (r.setTodo [.exitDo]) else .jump (r.modSq Squad.endSplit)) = .jump (e w r))
    (ht : ∀ w r, (e w r).todoNow = r.todoNow) : ShortJumps .exit true 0x074 ok e :=
  shortJumps_intro _ exec_exit (fun w r hok => by
    obtain ⟨hm, hj⟩ := hb w r hok
    rw [hm]
    exact hj) ht

/-! One part at the head of those that are left: it passes, waits, goes on, or the instruction issues again. -/

section Parts
variable {t u : State} {m m' : MOp} {l : List MOp} {k : Wake}

theorem runList_ok (hr : m ≠ .reissue) (h : runOp m t = .ok u) : runList (m :: l) t = runList l u := by
  rw [runList, h]
  exact hr

theorem runList_wait (hr : m ≠ .reissue) (h : runOp m t = .wait k u m') : runList (m :: l) t = u.block k (m' :: l) := by
  rw [runList, h]
  exact hr

theorem State.runTodo_ok (ht : t.todoNow = m :: l) (hr : m ≠ .reissue) (h : runOp m t = .ok u) : t.runTodo = runList l u := by
  rw [State.runTodo, ht, runList_ok hr h]

theorem State.runTodo_wait (ht : t.todoNow = m :: l) (hr : m ≠ .reissue) (h : runOp m t = .wait k u m') : t.runTodo = u.block k (m' :: l) := by
  rw [State.runTodo, ht, runList_wait hr h]

end Parts

/-- An instruction that stays at its PC runs its parts from there. -/
theorem State.issue_staying {s : State} {f : Form} (h : s.Goes f) {body : State → Res} {u : State}
    (hb : body (s.atIssue f) = .jump u) : s.issue f body = .next (u.setTurn s.sq.sp.num).runTodo := by
  rw [State.issue_goes h, hb]; rfl

theorem State.atIssue_mcc {s : State} {f : Form} (h : s.isM = true) : (s.atIssue f).isM = true := by
  have hf : s.focus = .mcc := eq_of_beq h
  have hs : s.Kept (some .mcc) False False := ⟨fun x e => by rw [hf]; exact Option.some.inj e, nofun, nofun⟩
  have ha : (s.atIssue f).Kept (some .mcc) False False := hs.ready.started
  exact beq_iff_eq.mpr (ha.focus _ rfl)

theorem State.started_queue (s : State) (f : Form) : (s.started f).mcc.queue = s.mcc.queue := by
  unfold State.started
  split
  · rfl
  · exact congrArg Mcc.queue (s.sampleIssue_kept _ _ _ _).2.1

/-- Nothing is in the array queue when an instruction that waits for all acts on the MCC. -/
theorem State.Goes.noQueue {s : State} {f : Form} (h : s.Goes f) (hm : s.isM = true) (hn : f.needsAll = true) :
    (s.atIssue f).mcc.queue = [] := by
  have hq := h.queue
  rw [State.queueHolds, hm, hn] at hq
  rw [State.atIssue, State.started_queue]
  simpa using hq

theorem State.drainQueue_of_empty {s : State} (h : s.mcc.queue = []) : s.drainQueue = s := by
  rw [State.drainQueue, h]; rfl

/-- Settles O17: bdiv and exit by their branches, converge by its loop over the stack and the release that follows. -/
theorem divergence : Obligations.Divergence := by
  refine ⟨?_, ?_, ?_, ?_, ?_, fun e l => ⟨?_, ?_, ?_⟩, ?_, ?_, fun e l => ?_, fun p l => ?_, ?_, ?_⟩
  · exact litRuns_intro _ exec_bdiv (fun w r h => by rw [if_pos h]) (fun _ _ => rfl)
  · refine litJumps_intro _ exec_bdiv (fun w r h => ?_) (fun _ _ => State.setPc_todoNow _ _)
    rw [if_neg (by rw [h.2]; exact h.1), if_pos ((mask_sub_eq_zero _ _).mpr h.2)]
    rfl
  · refine litRuns_intro _ exec_bdiv (fun w r h => ?_) (fun _ _ => State.modSq_todoNow rfl)
    rw [if_neg h.1, if_neg (mt (mask_sub_eq_zero _ _).mp h.2.1), if_pos h.2.2]
    rfl
  · refine litJumps_intro _ exec_bdiv (fun w r h => ?_) (fun _ _ => State.modSq_todoNow rfl)
    obtain ⟨ht, hn, hr, hs⟩ := h
    rw [if_neg ht, if_neg (mt (mask_sub_eq_zero _ _).mp hn), if_neg (by omega), if_neg hs]
    rfl
  · intro w s r hgo hr ht hn hrest hs
    refine (exec_bdiv w s).trans (State.issue_trap hgo ?_)
    rw [← hr, if_neg ht, if_neg (mt (mask_sub_eq_zero _ _).mp hn), if_neg (by omega), if_pos hs]
  · refine converge_jumps (fun _ => rfl) (fun w r h => ?_)
    obtain ⟨hw, hst, hk⟩ := h
    rw [hst, convergeAt_deferred hk]
    exact Squad.release_running hw
  · refine converge_jumps (fun _ => rfl) (fun w r h => ?_)
    obtain ⟨hw, hst, hk, hn⟩ := h
    rw [hst, convergeAt_passes hk hn, ← hst]
    exact Squad.release_running hw
  · refine converge_jumps (fun _ => rfl) (fun w r h => ?_)
    obtain ⟨hrest, hst, hk, hc, hf⟩ := h
    rw [hst, convergeAt_joins hk hc hf, convergeAt_nil]
    exact Squad.release_last hrest rfl
  · refine converge_jumps (fun _ => rfl) (fun w r h => ?_)
    rw [h.1, convergeAt_nil, ← h.1]
    exact Squad.release_others h.2
  · refine converge_jumps (fun _ => rfl) (fun w r h => ?_)
    rw [h.1, convergeAt_nil, ← h.1]
    exact Squad.release_last h.2 rfl
  · exact exit_jumps (fun w r h => ⟨h.1, by rw [h.2]⟩) (fun _ _ => State.modSq_todoNow rfl)
  · refine exit_jumps (fun w r h => ?_) (fun _ _ => State.modSq_todoNow rfl)
    obtain ⟨hm, hst, hrest, hp⟩ := h
    refine ⟨hm, ?_⟩
    rw [hst, hrest]
    exact congrArg Res.jump (State.modSq_congr (Squad.endSplit_running hrest hp))
  · intro w s r u hgo hr hm hst hrest hu hroom hbar
    have hx : exec (.exit w) s = .next u.runTodo := by
      rw [hu]
      refine (exec_exit w s).trans (State.issue_staying hgo ?_)
      rw [← hr, hm, hst, hrest]
      rfl
    have hdo : u.todoNow = [.exitDo] := by rw [hu]; exact State.setTodo_todoNow _ _
    refine hx.trans (congrArg _ (State.runTodo_ok hdo nofun ?_))
    show u.exitStep = _
    rw [State.exitStep, hroom, hbar]
    rfl
  · intro w s hm hgo
    rw [State.drainQueue_of_empty (hgo.noQueue hm rfl)]
    refine (exec_exit w s).trans (State.issue_parts hgo ?_)
    rw [if_pos (State.atIssue_mcc hm)]

end Sys2Proof.Machine

/-! # Proofs: the state instructions, the specials and role (04 R94 to R97, 02 R48 to R53) -/

namespace Sys2Proof.Machine

theorem bits_eq (v h l : Nat) : bits v h l = v / 2 ^ l % 2 ^ (h - l + 1) := by rw [bits, Nat.shiftRight_eq_div_pow]

/-! ### setfmt, setpart and pblk (04 R94, R95, 03 R64) -/

theorem exec_setfmt (w : Long) (s : State) : exec (.setfmt w) s = s.issueLong true 0x070 w (fun s =>
    if fmtOk ((s.sreg w.a.toNat).toNat % 65536) then .done (s.setFmt ((s.sreg w.a.toNat).toNat % 65536))
    else .trap ⟨.illegalInstruction, 8, 0, 0⟩) := rfl

theorem exec_setfmtImm (w : Long) (s : State) :
    exec (.setfmtImm w) s = s.issueLong true 0x070 w (fun s => .done (s.setFmt (256 * w.b.toNat + w.c.toNat))) := rfl

theorem setfmtImm_operand (b c : BitVec 8) : (b ++ c).toNat = 256 * b.toNat + c.toNat := by
  rw [toNat_append_eq_add]
  omega

theorem exec_pblk (w : Long) (s : State) : exec (.pblk w) s = s.issueLong true 0x06B w (fun s =>
    .jump (s.modSq (fun q => { q with sp := { q.sp with
      pc := q.sp.pc + 8, blkPos := 0, blkPat := BitVec.ofNat 8 w.x.toNat, blkN := bits w.x.toNat 10 8 + 1
      blkK := q.k w.a.toNat, blkA := q.sp.mask } }))) := rfl

theorem pblk_pattern (x : BitVec 16) : BitVec.ofNat 8 x.toNat = x.extractLsb' 0 8 := by
  refine BitVec.eq_of_toNat_eq ?_
  rw [extractLsb'_toNat_div, BitVec.toNat_ofNat, Nat.pow_zero, Nat.div_one]

theorem pblk_length (x : BitVec 16) : bits x.toNat 10 8 = (x.extractLsb' 8 3).toNat := by
  rw [extractLsb'_toNat_div, bits_eq]

/-! ### rdspec (04 R96, 02 Table 2.8) -/

theorem exec_rdspec (w : Long) (s : State) : exec (.rdspec w) s = s.issueLong true 0x072 w (fun s =>
    if bit w.x.toNat 8 then
      .done (s.modSq (fun q => q.setV q.sp.mask w.d.toNat (fun l => w32 (if w.x.toNat % 256 = 0 then l else l % 2 ^ q.tsize))))
    else .done ((if w.x.toNat % 256 = 0x1C then s.latchGts else s).setS w.d.toNat (s.special (w.x.toNat % 256)))) := rfl

/-- The number of the special and the kind of its destination, as fields of x. -/
theorem special_number {x : BitVec 16} {n : Nat} (h : x.extractLsb' 0 8 = BitVec.ofNat 8 n) : x.toNat % 256 = n % 256 := by
  have hn := congrArg BitVec.toNat h
  rwa [extractLsb'_toNat_div, BitVec.toNat_ofNat, Nat.pow_zero, Nat.div_one] at hn

/-- A read of a special other than GTSLO writes its value to s[d]. -/
theorem rdspec_longRuns {ok : Long → State → Prop} {v : State → W} {n : Nat} (hn : n ≠ 0x1C)
    (hx : ∀ w r, ok w r → w.x.toNat % 256 = n ∧ bit w.x.toNat 8 = false) (hv : ∀ w r, ok w r → r.special n = v r) :
    LongRuns .rdspec true 0x072 ok (fun w r => r.setS w.d.toNat (v r)) := by
  refine longRuns_intro _ exec_rdspec (fun w r hok => ?_) (fun _ _ => State.setS_todoNow _ _ _)
  obtain ⟨h1, h2⟩ := hx w r hok
  rw [h2, h1, if_neg hn, hv w r hok]
  rfl

/-- A read of a lane special writes to v[d] of the active lanes. -/
theorem rdspec_lanes {x : BitVec 16} {f : Squad → Nat → W} (h8 : bit x.toNat 8 = true)
    (hf : ∀ q l, w32 (if x.toNat % 256 = 0 then l else l % 2 ^ q.tsize) = f q l) :
    LongRuns .rdspec true 0x072 (fun w _ => w.x = x) (fun w r => r.modSq (fun q => q.setV q.sp.mask w.d.toNat (f q))) := by
  refine longRuns_intro _ exec_rdspec (fun w r hok => ?_) (fun _ _ => State.modSq_todoNow rfl)
  rw [hok, h8, if_pos rfl]
  exact congrArg Res.done (State.modSq_congr (congrArg (Squad.setV _ _ _) (funext (hf _))))

theorem State.latchGts_todoNow (s : State) : s.latchGts.todoNow = s.todoNow := by
  unfold State.latchGts
  cases h : s.isM <;> simp [State.todoNow, State.modMcc, State.modSq, State.isM] at *

theorem State.levelT_launch {r : State} {a : Launch} (h : r.launchOf r.sq.launch = some a) (level : Nat) :
    r.levelT level = (a.hdr.levelTeams level).map (·.2) := by
  rw [State.levelT, h]

/-- The number of the team within its group of a level. -/
theorem State.special_levelNum {r : State} {i : Nat} {u : Team} {a : Launch} (hi : i < 5) (hu : r.teamNow = some u)
    (ha : r.launchOf r.sq.launch = some a) :
    r.special (0x20 + i) = (match a.hdr.levelTeams (3 + i) with | some (_, t) => BitVec.ofNat 32 (u.num % t) | none => 0) := by
  have hT : r.special (0x20 + i) = (match r.levelT (3 + i) with | some t => w32 (r.teamNum % t) | none => 0) := by
    interval_cases i <;> rfl
  have hnum : r.teamNum = u.num := by rw [State.teamNum, hu]
  rw [hT, r.levelT_launch ha, hnum]
  cases a.hdr.levelTeams (3 + i) <;> rfl

/-- The teams of a group of a level. -/
theorem State.special_levelSize {r : State} {i : Nat} {a : Launch} (hi : i < 5) (ha : r.launchOf r.sq.launch = some a) :
    r.special (0x28 + i) = (match a.hdr.levelTeams (3 + i) with | some (_, t) => BitVec.ofNat 32 t | none => 1) := by
  have hT : r.special (0x28 + i) = (match r.levelT (3 + i) with | some t => w32 t | none => 1) := by
    interval_cases i <;> rfl
  rw [hT, r.levelT_launch ha]
  cases a.hdr.levelTeams (3 + i) <;> rfl

/-! The specials of a squad that come from its team. -/

theorem State.special_teamSquads (r : State) :
    r.special 0x03 = (match r.teamNow with | some u => BitVec.ofNat 32 u.nsq | none => 0) := by
  show w32 r.teamSquads = _
  rw [State.teamSquads]
  cases r.teamNow <;> rfl
theorem State.special_teamNum (r : State) :
    r.special 0x04 = (match r.teamNow with | some u => BitVec.ofNat 32 u.num | none => 0) := by
  show w32 r.teamNum = _
  rw [State.teamNum]
  cases r.teamNow <;> rfl
theorem State.special_teamNumHi (r : State) :
    r.special 0x05 = (match r.teamNow with | some u => BitVec.ofNat 32 (u.num / 2 ^ 32) | none => 0) := by
  show w32 (r.teamNum / 2 ^ 32) = _
  rw [State.teamNum]
  cases r.teamNow <;> rfl

/-- The values of a long form's fields have passed their check. -/
theorem FSpec.checkLong_vals {e : FEnv} {f : FSpec} {w : Long} (h : f.checkLong e w = none) : f.vals = true := by
  unfold FSpec.checkLong at h
  split at h
  · exact absurd h (by simp)
  split at h
  · exact absurd h (by simp)
  split at h
  · exact absurd h (by simp)
  · next hv => simpa using hv

/-! ### role (04 R97) -/

theorem exec_role (w : Short) (s : State) : exec (.role w) s = s.issueShort true 0x073 w (fun s =>
    .jump ((s.modSq (fun q => { q with waitSince := s.now })).setTodo [.roleDo w.b.toNat])) := rfl

theorem runOp_roleDo (n : Nat) (s : State) :
    runOp (.roleDo n) s = if s.roleFits (s.roleRec n) then .ok (s.takeRole n) else .wait ⟨9, n, 0⟩ s (.roleDo n) := rfl

/-- Settles O18: each instruction by its body, the specials by their number. -/
theorem stateAndSpecials : Obligations.StateAndSpecials := by
  refine ⟨?_, ?_, ?_, ?_, ?_, ?_, ?_, ?_, ?_, ?_, ?_, ?_, ?_, ?_⟩
  · exact longRuns_intro _ exec_setfmt (fun w r h => by rw [if_pos h]) (fun _ _ => State.setFmt_todoNow _ _)
  · intro w s hgo h
    exact (exec_setfmt w s).trans (State.issue_trap hgo (by rw [h]; rfl))
  · exact longRuns_intro (fun w r => .done (r.setFlags (r.sreg w.a.toNat).toNat)) (fun _ _ => rfl) (fun _ _ _ => rfl)
      (fun _ _ => State.setFlags_todoNow _ _)
  · exact longRuns_intro _ exec_setfmtImm (fun w r _ => by rw [setfmtImm_operand]) (fun _ _ => State.setFmt_todoNow _ _)
  · exact shortRuns_intro (fun w r => .done (r.modSq (fun q => { q with part := w32 w.b.toNat }))) (fun _ _ => rfl) (fun _ _ _ => rfl)
      (fun _ _ => State.modSq_todoNow rfl)
  · exact longJumps_intro _ exec_pblk (fun w r _ => by rw [pblk_pattern, pblk_length]) (fun _ _ => State.modSq_todoNow rfl)
  · intro p hp
    have hrun (n : Nat) (v : State → W) (hn : n < 256 ∧ n ≠ 0x1C) (hv : ∀ r : State, r.special n = v r) :
        LongRuns .rdspec true 0x072 (fun w _ => w.x.extractLsb' 0 8 = BitVec.ofNat 8 n ∧ w.x.getLsbD 8 = false)
          (fun w r => r.setS w.d.toNat (v r)) :=
      rdspec_longRuns hn.2 (fun w r h => ⟨(special_number h.1).trans (Nat.mod_eq_of_lt hn.1), h.2⟩) (fun _ r _ => hv r)
    simp only [List.mem_cons, List.not_mem_nil, or_false] at hp
    rcases hp with rfl | rfl | rfl | rfl | rfl | rfl | rfl | rfl | rfl | rfl | rfl | rfl | rfl | rfl | rfl | rfl | rfl | rfl | rfl |
      rfl | rfl | rfl | rfl | rfl | rfl | rfl | rfl | rfl | rfl
    on_goal 14 => exact hrun _ _ (by decide) State.special_teamNumHi
    on_goal 13 => exact hrun _ _ (by decide) State.special_teamNum
    on_goal 12 => exact hrun _ _ (by decide) State.special_teamSquads
    all_goals exact hrun _ _ (by decide) (fun _ => rfl)
  · intro i u a hi
    have hx : ∀ k, k + i < 256 → (BitVec.ofNat 16 (k + i)).toNat % 256 = k + i ∧ bit (BitVec.ofNat 16 (k + i)).toNat 8 = false := by
      intro k hk
      have hn : (BitVec.ofNat 16 (k + i)).toNat = k + i := by rw [BitVec.toNat_ofNat]; omega
      rw [hn]
      exact ⟨Nat.mod_eq_of_lt hk, Nat.testBit_lt_two_pow hk⟩
    exact ⟨rdspec_longRuns (n := 0x20 + i) (by omega) (fun w r h => h.1 ▸ hx 0x20 (by omega)) (fun w r h => State.special_levelNum hi h.2.1 h.2.2),
      rdspec_longRuns (n := 0x28 + i) (by omega) (fun w r h => h.1 ▸ hx 0x28 (by omega)) (fun w r h => State.special_levelSize hi h.2)⟩
  · intro p hp
    have hrun (n : Nat) (v : State → W) (hn : n ≠ 0x1C) (hx : (BitVec.ofNat 16 n).toNat % 256 = n ∧ bit (BitVec.ofNat 16 n).toNat 8 = false)
        (hv : ∀ r : State, r.isM = true → r.special n = v r) :
        LongRuns .rdspec true 0x072 (fun w r => r.isM = true ∧ w.x = BitVec.ofNat 16 n) (fun w r => r.setS w.d.toNat (v r)) :=
      rdspec_longRuns hn (fun w r h => h.2 ▸ hx) (fun _ r h => hv r h.1)
    simp only [List.mem_cons, List.not_mem_nil, or_false] at hp
    rcases hp with rfl | rfl | rfl | rfl | rfl | rfl
    · exact hrun _ _ (by decide) (by decide) (fun r h => by show r.fmtNow = _; rw [State.fmtNow, if_pos h])
    · exact hrun _ _ (by decide) (by decide) (fun r h => by show r.flagsNow = _; rw [State.flagsNow, if_pos h])
    · exact hrun _ _ (by decide) (by decide) (fun r h => by show bw r.scc = _; rw [State.scc, if_pos h]; rfl)
    · exact hrun _ _ (by decide) (by decide) (fun r h => by show w32 r.clNow = _; rw [State.clNow, if_pos h]; rfl)
    · exact hrun _ _ (by decide) (by decide) (fun r h => rfl)
    · exact hrun _ _ (by decide) (by decide) (fun r h => if_pos h)
  · intro w s hf hbad
    have hm : s.isM = true := beq_iff_eq.mpr hf
    have hv : (uniSpec s.fenv 0x072 w).vals = true := FSpec.checkLong_vals (e := s.fenv) hbad
    have hs : spMcc (w.x.toNat % 256) = true := by
      have hmcc : s.fenv.mcc = true := by rw [State.fenv, if_pos hm]
      have hand : (_ && (!s.fenv.mcc || spMcc (w.x.toNat % 256))) = true := hv
      rw [Bool.and_eq_true, hmcc] at hand
      exact hand.2
    have hc := List.contains_iff_mem.mp hs
    simp only [List.mem_cons, List.not_mem_nil, or_false] at hc ⊢
    omega
  · refine longRuns_intro _ exec_rdspec (fun w r h => ?_) (fun _ r => (State.setS_todoNow _ _ _).trans r.latchGts_todoNow)
    rw [h]
    rfl
  · exact rdspec_lanes rfl (fun _ _ => rfl)
  · exact rdspec_lanes rfl (fun _ _ => rfl)
  · intro w s r _ hgo hr t
    have hx : exec (.role w) s = .next t.runTodo := by
      refine (exec_role w s).trans (State.issue_staying hgo ?_)
      rw [← hr]
    have ht : t.todoNow = [.roleDo w.b.toNat] := State.setTodo_todoNow _ _
    refine ⟨fun h => hx.trans (congrArg _ (State.runTodo_ok ht nofun ?_)), fun h => hx.trans (congrArg _ (State.runTodo_wait ht nofun ?_))⟩
    · rw [runOp_roleDo, if_pos h]
    · rw [runOp_roleDo, h]; rfl

end Sys2Proof.Machine

/-! # Proofs: rfe, rdenergy, csrrd and csrwr (09 R199, 18 R297, R298, 23 R365) -/

namespace Sys2Proof.Machine

/-! ### rfe (18 R298) -/

theorem exec_rfe (w : Short) (s : State) :
    exec (.rfe w) s = s.issueShort true 0x180 w (fun s => .jump (s.modSq Squad.leaveHandler)) := rfl

theorem Squad.put_todo (q : Squad) (w : VWrite) : (q.put w).todo = q.todo := by
  unfold Squad.put
  split
  · rfl
  · rfl

theorem Squad.foldl_put_todo (l : List VWrite) (q : Squad) : (l.foldl Squad.put q).todo = q.todo := by
  induction l generalizing q with
  | nil => rfl
  | cons w l ih => exact (ih _).trans (q.put_todo w)

theorem Squad.inject_todo (l : List Replay) (q : Squad) : (q.inject l).todo = q.todo := by
  induction l generalizing q with
  | nil => rfl
  | cons e l ih => exact (ih _).trans (Squad.foldl_put_todo e.writes q)

/-- The block of the frame comes back where the handler did not move the PC. -/
theorem Squad.leaveHandler_block {q : Squad} (h : q.frame.tpc = q.frame.tpc0) :
    q.leaveHandler.sp.blkPos = q.frame.tsplit.extractLsb' 4 4 ∧ q.leaveHandler.sp.blkPat = q.frame.tsplit.extractLsb' 8 8 ∧
    q.leaveHandler.sp.blkN = (q.frame.tsplit.extractLsb' 16 3).toNat + 1 ∧ q.leaveHandler.sp.blkK = q.frame.tblkk ∧
    q.leaveHandler.sp.blkA = q.frame.tblka := by
  have hs : (q.frame.tpc == q.frame.tpc0) = true := beq_iff_eq.mpr h
  have hfield : ∀ (v : W) (k n : Nat), bits v.toNat (k + n - 1) k = v.toNat / 2 ^ k % 2 ^ n → BitVec.ofNat n (bits v.toNat (k + n - 1) k) = v.extractLsb' k n := by
    intro v k n hb
    refine BitVec.eq_of_toNat_eq ?_
    rw [extractLsb'_toNat_div, BitVec.toNat_ofNat, hb, Nat.mod_mod]
  unfold Squad.leaveHandler
  simp only [hs, if_true]
  exact ⟨hfield _ 4 4 (bits_eq _ _ _), hfield _ 8 8 (bits_eq _ _ _), by rw [extractLsb'_toNat_div, bits_eq], ⟨trivial, trivial⟩⟩

theorem Squad.leaveHandler_noBlock {q : Squad} (h : q.frame.tpc ≠ q.frame.tpc0) : q.leaveHandler.sp.blkPos = 0xF := by
  have hs : (q.frame.tpc == q.frame.tpc0) = false := beq_eq_false_iff_ne.mpr h
  unfold Squad.leaveHandler
  simp only [hs, Bool.false_eq_true, if_false]

theorem nth_eq_getElem? {α : Type} (d : α) (l : List α) (n : Nat) : nth d l n = l[n]?.getD d := List.getD_eq_getElem?_getD

theorem nth_append_drop {α : Type} (d : α) (a l : List α) {n : Nat} (h : a.length ≤ n) : nth d (a ++ l.drop a.length) n = nth d l n := by
  rw [nth_eq_getElem?, nth_eq_getElem?, List.getElem?_append_right h, List.getElem?_drop, Nat.add_sub_cancel' h]

/-! ### csrrd and csrwr (09 R199) -/

/-- A CSR of the frame reads as its word of it. -/
theorem State.csrRead_frame {r : State} {n : Nat} (hm : r.isM = false) (ho : r.csrOpen n = true) (h1 : 0x8000 ≤ n) (h2 : n ≤ 0x801F) :
    r.csrRead n = r.sq.frameWord (n - 0x8000) := by
  rw [State.csrRead, ho, if_neg (by decide), if_neg (by omega), if_pos h2, hm]
  rfl

/-- Three flags and a count from bit 8 up. -/
theorem statusWord_bits (a b c : Bool) (n : Nat) :
    (w32 (b2n a + 2 * b2n b + 4 * b2n c + 256 * n)).getLsbD 0 = a ∧ (w32 (b2n a + 2 * b2n b + 4 * b2n c + 256 * n)).getLsbD 1 = b ∧
    (w32 (b2n a + 2 * b2n b + 4 * b2n c + 256 * n)).getLsbD 2 = c := by
  simp only [w32, BitVec.getLsbD_ofNat, Nat.testBit_eq_decide_div_mod_eq]
  cases a <;> cases b <;> cases c <;> simp [b2n] <;> omega

theorem exec_csrwr (w : Long) (s : State) :
    exec (.csrwr w) s = s.issueLong true 0x182 w (fun s => s.csrWrite w.x.toNat (s.sreg w.a.toNat)) := rfl

theorem State.csrWrite_ignored {s : State} {n : Nat} (v : W) (h : n < 0x8000) : s.csrWrite n v = .done s := by
  rw [State.csrWrite, if_pos (.inr h)]

theorem State.csrWrite_frame {s : State} {n : Nat} (v : W) (ho : s.csrOpen n = true) (hm : s.isM = false) (h1 : 0x8000 ≤ n) (h2 : n ≤ 0x801F) :
    s.csrWrite n v = .done (s.modSq (fun q => { q with frame := q.frame.write n v })) := by
  rw [State.csrWrite, if_neg (by rw [ho]; simp; omega), if_pos h2, hm]
  rfl

theorem State.csrWrite_ctxsel {s : State} (v : W) (ho : s.csrOpen 0x8040 = true) :
    s.csrWrite 0x8040 v = .done (s.setCtxsel (v.toNat % 4096)) := by
  rw [State.csrWrite, if_neg (by rw [ho]; decide), if_neg (by decide), if_pos rfl]

theorem State.csrWrite_package {s : State} {n : Nat} (v : W) (ho : s.csrOpen n = true) (h1 : 0x8020 ≤ n) (h2 : n ≠ 0x8040) :
    s.csrWrite n v = .over ((((s.setTurn s.sq.sp.num).advance 8).runTodo.unfocus).csrPut
      (if s.isM then s.mcc.ctxsel else s.sq.ctxsel) n v) := by
  rw [State.csrWrite, if_neg (by rw [ho]; simp; omega), if_neg (by omega), if_neg h2]

theorem State.setCtxsel_todoNow (s : State) (n : Nat) : (s.setCtxsel n).todoNow = s.todoNow := by
  unfold State.setCtxsel
  cases h : s.isM <;> simp [State.todoNow, State.modMcc, State.modSq, State.isM] at *

/-- An instruction that is over before its effect leaves what the effect does. -/
theorem State.issue_over {s : State} {f : Form} (h : s.Goes f) {body : State → Res} {u : State}
    (hb : body (s.atIssue f) = .over u) : s.issue f body = .next u := by
  rw [State.issue_goes h, hb]; rfl

/-- The end of an instruction with no part left. -/
theorem State.runTodo_moved {r : State} {len : Nat} (h : r.todoNow = []) : ((r.setTurn r.sq.sp.num).advance len).runTodo = r.ended len r :=
  State.runTodo_nil ((State.moved_todoNow r len r).trans h)

/-- Settles O20: rfe by its way out of the handler, the reads and writes of CSRs by their ranges. -/
theorem systemInstructions : Obligations.SystemInstructions := by
  refine ⟨?_, fun q => ⟨rfl, rfl, rfl, rfl, Squad.leaveHandler_noBlock, Squad.leaveHandler_block, ?_, ?_, rfl, rfl, rfl, rfl⟩, ?_, ?_, ?_,
    ?_, ?_, ?_, ?_, ?_, ?_⟩
  · exact shortJumps_intro _ exec_rfe (fun _ _ _ => rfl) (fun _ r => State.modSq_todoNow (Squad.inject_todo _ r.sq))
  · intro h
    show (q.frame.ts ++ _).take 4 = _
    rw [← h, List.take_left]
  · intro n hn h _
    show nth 0 (q.frame.ts ++ (q.inject _).sregs.drop 4) n = _
    rw [← h]
    exact nth_append_drop 0 _ _ (by omega)
  · exact fun q e l => ⟨rfl, rfl⟩
  · exact shortRuns_intro (fun w r => .done (r.setS2 w.d.toNat (BitVec.ofNat 64 r.sq.energy))) (fun _ _ => rfl) (fun _ _ _ => rfl)
      (fun _ _ => State.setS2_todoNow _ _ _)
  · exact longRuns_intro (fun w r => .done (r.setS w.d.toNat (r.csrRead w.x.toNat))) (fun _ _ => rfl) (fun _ _ _ => rfl)
      (fun _ _ => State.setS_todoNow _ _ _)
  · intro p hp r hm ho
    simp only [List.mem_cons, List.not_mem_nil, or_false] at hp
    rcases hp with rfl | rfl | rfl | rfl | rfl | rfl | rfl | rfl | rfl | rfl | rfl | rfl | rfl | rfl | rfl | rfl | rfl | rfl
    all_goals
      rw [State.csrRead_frame hm ho (by decide) (by decide)]
      rfl
  · intro r hm ho
    rw [State.csrRead_frame hm ho (by decide) (by decide)]
    exact statusWord_bits _ _ _ _
  · exact longRuns_intro _ exec_csrwr (fun w r h => State.csrWrite_ignored _ h) (fun _ _ => rfl)
  · refine longRuns_intro _ exec_csrwr (fun w r h => ?_) (fun _ _ => State.setCtxsel_todoNow _ _)
    rw [h.1]
    exact State.csrWrite_ctxsel _ h.2
  · refine longRuns_intro _ exec_csrwr (fun w r h => ?_) (fun _ _ => State.modSq_todoNow rfl)
    obtain ⟨h1, h2, hm, ho⟩ := h
    exact State.csrWrite_frame _ ho hm h1 h2
  · intro w s r hgo hr h1 h2 ho
    refine (exec_csrwr w s).trans (State.issue_over hgo ?_)
    rw [← hr, State.csrWrite_package _ ho h1 h2, State.runTodo_moved (by rw [hr]; exact hgo.todo)]

end Sys2Proof.Machine

/-! # Proofs: the operators of atom and upd (07 Tables 7.5, 7.6) -/

namespace Sys2Proof.Machine

/-! ### The lesser and the greater of the word in memory and the operand, under the type's sign -/

section Order
variable {n : Nat} (old v : BitVec n)

theorem ite_toNat (c : Bool) : (if c = true then v.toNat else old.toNat) = (if c = true then v else old).toNat := (apply_ite BitVec.toNat _ _ _).symm

theorem sext_lt_slt (hn : n ≠ 0) (a b : BitVec n) : decide (sext a.toNat n < sext b.toNat n) = a.slt b := by
  rw [sext_toNat hn, sext_toNat hn]
  rfl

theorem toNat_lt_ult (a b : BitVec n) : decide (a.toNat < b.toNat) = a.ult b := rfl

end Order

theorem fold_order {op ty n : Nat} (hty : ty ≠ tF32) (hn : 8 * wordBytes ty = n) (hpos : n ≠ 0) (hop : op = 1 ∨ op = 2) (old v : BitVec n) :
    fold op ty old.toNat v.toNat =
      ((if (if op = 1 then (if isSigned ty then v.slt old else v.ult old) else (if isSigned ty then old.slt v else old.ult v)) = true
        then v else old).toNat, 0) := by
  unfold fold
  rw [hn, if_neg (by omega), if_pos hop, if_neg hty]
  simp only [sext_lt_slt hpos, toNat_lt_ult, ite_toNat]
  rcases hop with rfl | rfl
  · rfl
  · rfl

theorem fold_sum {ty n : Nat} (hty : ty ≠ tF32) (hn : 8 * wordBytes ty = n) (old v : BitVec n) :
    fold 0 ty old.toNat v.toNat = ((old + v).toNat, 0) := by
  unfold fold
  rw [hn, if_pos rfl, if_neg hty, BitVec.toNat_add]

theorem fold_or {n : Nat} (ty : Nat) (old v : BitVec n) : fold 3 ty old.toNat v.toNat = ((old ||| v).toNat, 0) := by
  rw [BitVec.toNat_or]
  rfl

theorem atomOp_order {op ty n : Nat} (hty : ty ≠ tF32) (hn : 8 * wordBytes ty = n) (hop : op = 1 ∨ op = 2) (old v : BitVec n) (w2 : Nat) :
    atomOp op ty old.toNat v.toNat w2 = fold op ty old.toNat v.toNat := by
  unfold atomOp fold
  rw [hn, if_pos (by omega), if_pos (.inr hty), if_neg (by omega), if_neg (by omega), if_pos hop, if_neg hty]

theorem atomOp_sum {ty n : Nat} (hty : ty ≠ tF32) (hn : 8 * wordBytes ty = n) (old v : BitVec n) (w2 : Nat) :
    (atomOp 0 ty old.toNat v.toNat w2).1 = (old + v).toNat := by
  show (fold 0 ty old.toNat v.toNat).1 = _
  rw [fold_sum hty hn]

/-- The bitwise operators, exchange and compare-and-swap, of any width. -/
theorem atomOp_words {n : Nat} (ty : Nat) (old v : BitVec n) (w2 : Nat) :
    (atomOp 3 ty old.toNat v.toNat w2).1 = (old &&& v).toNat ∧ (atomOp 4 ty old.toNat v.toNat w2).1 = (old ||| v).toNat ∧
    (atomOp 5 ty old.toNat v.toNat w2).1 = (old ^^^ v).toNat ∧ (atomOp 6 ty old.toNat v.toNat w2).1 = v.toNat ∧
    (atomOp 7 ty old.toNat v.toNat w2).1 = (if old = v then w2 else old.toNat) := by
  refine ⟨(BitVec.toNat_and _ _).symm, (BitVec.toNat_or _ _).symm, (BitVec.toNat_xor _ _).symm, rfl, ?_⟩
  exact if_congr BitVec.toNat_inj rfl rfl

/-- The lesser and the greater, as atom answers them. -/
theorem atomOp_minmax {ty n : Nat} (hty : ty ≠ tF32) (hn : 8 * wordBytes ty = n) (hpos : n ≠ 0) (old v : BitVec n) (w2 : Nat) :
    (atomOp 1 ty old.toNat v.toNat w2).1 = (if (if isSigned ty then v.slt old else v.ult old) = true then v else old).toNat ∧
    (atomOp 2 ty old.toNat v.toNat w2).1 = (if (if isSigned ty then old.slt v else old.ult v) = true then v else old).toNat := by
  rw [atomOp_order hty hn (.inl rfl), atomOp_order hty hn (.inr rfl), fold_order hty hn hpos (.inl rfl), fold_order hty hn hpos (.inr rfl)]
  exact ⟨rfl, rfl⟩

/-! ### The words that upd's copies start from (12 R250) -/

theorem fold_identity_order {ty : Nat} (hty : ty = tS32 ∨ ty = tN32) (v : W) :
    (fold 1 ty (updIdentity 1 ty) v.toNat).1 = v.toNat ∧ (fold 2 ty (updIdentity 2 ty) v.toNat).1 = v.toNat := by
  have key : ∀ (c : Bool) (e : W), (c = false → v = e) → (if c = true then v else e).toNat = v.toNat := by
    intro c e h
    cases c
    · rw [h rfl]; rfl
    · rfl
  have hlt := v.isLt
  rcases hty with rfl | rfl
  · have hmax : updIdentity 1 tS32 = (0x7FFFFFFF : W).toNat := rfl
    have hmin : updIdentity 2 tS32 = (0x80000000 : W).toNat := rfl
    rw [hmax, hmin, fold_order (n := 32) (by decide) rfl (by decide) (.inl rfl), fold_order (n := 32) (by decide) rfl (by decide) (.inr rfl)]
    refine ⟨key _ _ fun h => ?_, key _ _ fun h => ?_⟩
    · have h : v.slt 0x7FFFFFFF = false := h
      rw [BitVec.slt_eq_decide, decide_eq_false_iff_not] at h
      have := BitVec.toInt_lt (x := v)
      exact BitVec.eq_of_toInt_eq (by simp at h this ⊢; omega)
    · have h : BitVec.slt 0x80000000 v = false := h
      rw [BitVec.slt_eq_decide, decide_eq_false_iff_not] at h
      have := BitVec.le_toInt v
      exact BitVec.eq_of_toInt_eq (by simp at h this ⊢; omega)
  · have hmax : updIdentity 1 tN32 = (0xFFFFFFFF : W).toNat := rfl
    have hmin : updIdentity 2 tN32 = (0 : W).toNat := rfl
    rw [hmax, hmin, fold_order (n := 32) (by decide) rfl (by decide) (.inl rfl), fold_order (n := 32) (by decide) rfl (by decide) (.inr rfl)]
    refine ⟨key _ _ fun h => ?_, key _ _ fun h => ?_⟩
    · have h : v.ult 0xFFFFFFFF = false := h
      rw [BitVec.ult_eq_decide, decide_eq_false_iff_not] at h
      exact BitVec.eq_of_toNat_eq (by simp at h ⊢; omega)
    · have h : BitVec.ult 0 v = false := h
      rw [BitVec.ult_eq_decide, decide_eq_false_iff_not] at h
      exact BitVec.eq_of_toNat_eq (by simp at h ⊢; omega)

/-- Settles O34: the operators on words of each width, and the identities of upd's copies. -/
theorem atomicOperators : Obligations.AtomicOperators := by
  refine ⟨fun old v w2 => ?_, fun old v w2 => ?_, fun old v w2 => ⟨rfl, rfl, rfl⟩, fun old v => ?_, fun old v => ?_, ?_⟩
  · obtain ⟨h3, h4, h5, h6, h7⟩ := atomOp_words tB32 old v w2
    obtain ⟨hs1, hs2⟩ := atomOp_minmax (ty := tS32) (n := 32) (by decide) rfl (by decide) old v w2
    obtain ⟨hn1, hn2⟩ := atomOp_minmax (ty := tN32) (n := 32) (by decide) rfl (by decide) old v w2
    exact ⟨atomOp_sum (ty := tN32) (n := 32) (by decide) rfl old v w2, h3, h4, h5, h6, h7, hs1, hs2, hn1, hn2⟩
  · obtain ⟨h3, h4, h5, h6, h7⟩ := atomOp_words tB64 old v w2
    obtain ⟨hs1, hs2⟩ := atomOp_minmax (ty := tS64) (n := 64) (by decide) rfl (by decide) old v w2
    obtain ⟨hn1, hn2⟩ := atomOp_minmax (ty := tN64) (n := 64) (by decide) rfl (by decide) old v w2
    exact ⟨atomOp_sum (ty := tN64) (n := 64) (by decide) rfl old v w2, hs1, hs2, hn1, hn2, h3, h4, h5, h6, h7⟩
  · have ho := fun {ty : Nat} (hty : ty ≠ tF32) (hn : 8 * wordBytes ty = 32) => fold_order (op := 1) hty hn (by decide) (.inl rfl) old v
    have ho' := fun {ty : Nat} (hty : ty ≠ tF32) (hn : 8 * wordBytes ty = 32) => fold_order (op := 2) hty hn (by decide) (.inr rfl) old v
    exact ⟨fold_sum (ty := tS32) (n := 32) (by decide) rfl old v, fold_or _ old v, ho (ty := tS32) (by decide) rfl, ho' (ty := tS32) (by decide) rfl,
      ho (ty := tN32) (by decide) rfl, ho' (ty := tN32) (by decide) rfl, rfl, rfl, rfl, rfl⟩
  · exact ⟨fold_sum (ty := tS64) (n := 64) (by decide) rfl old v, fold_or _ old v⟩
  · intro op hop t ht v
    have hty : t = tS32 ∨ t = tN32 := by simpa using ht
    simp only [List.mem_cons, List.not_mem_nil, or_false] at hop
    rcases hop with rfl | rfl | rfl | rfl
    · rcases hty with rfl | rfl
      · rw [show updIdentity 0 tS32 = (0 : W).toNat from rfl, fold_sum (n := 32) (by decide) rfl]; simp
      · rw [show updIdentity 0 tN32 = (0 : W).toNat from rfl, fold_sum (n := 32) (by decide) rfl]; simp
    · exact (fold_identity_order hty v).1
    · exact (fold_identity_order hty v).2
    · rw [show updIdentity 3 t = (0 : W).toNat from rfl, fold_or]; simp

end Sys2Proof.Machine

/-! # Proofs: the checks of a global access and what a load sees (07 R134, R137, 11 R225) -/

namespace Sys2Proof.Machine

/-! ### The checks of one access (07 Table 7.2) -/

section Access
variable {r : State} {k : AKind} {al : Nat} {a : Acc}

theorem Acc.bytes_head {a : Acc} (h : 0 < a.n) : a.bytes = a.ea.toNat :: ((List.range (a.n - 1)).map (fun i => a.ea.toNat + (i + 1))) := by
  obtain ⟨n, hn⟩ := Nat.exists_eq_add_of_lt h
  rw [Acc.bytes, hn, Nat.zero_add, List.range_succ_eq_map, List.map_cons, List.map_map]
  rfl

theorem Acc.mem_bytes {a : Acc} {b : Nat} : b ∈ a.bytes ↔ ∃ i < a.n, a.ea.toNat + i = b := by
  simp [Acc.bytes]

theorem wrapI_eq_ofInt_toNat (x : Int) : wrapI x 64 = (BitVec.ofInt 64 x).toNat := wrapI_eq_ofInt x 64

/-- The first byte of an access, where it is one that is looked for. -/
theorem firstByte_head {f : Nat → Bool} (hn : 0 < a.n) (hf : f a.ea.toNat = true) : firstByte [a] f = some (a.lane, a.ea.toNat) := by
  simp [firstByte, Acc.bytes_head hn, hf]

theorem firstByte_none {f : Nat → Bool} (hf : ∀ i < a.n, f (a.ea.toNat + i) = false) : firstByte [a] f = none := by
  have hb : a.bytes.find? f = none := by
    rw [List.find?_eq_none]
    intro b hb
    obtain ⟨i, hi, rfl⟩ := Acc.mem_bytes.mp hb
    simp [hf i hi]
  simp [firstByte, hb]

theorem globalRange_misaligned (h : a.ea % (al : Int) ≠ 0) : globalRange al [a] = some ⟨.memMisaligned, 0, wrapI a.ea 64, a.lane⟩ := by
  simp [globalRange, h]

theorem globalRange_negative (h : a.ea % (al : Int) = 0) (hneg : a.ea < 0) : globalRange al [a] = some ⟨.addrRange, 0, wrapI a.ea 64, a.lane⟩ := by
  simp [globalRange, h, hneg]

theorem globalRange_nonneg (h : a.ea % (al : Int) = 0) (h0 : ¬ a.ea < 0) : globalRange al [a] =
    (a.bytes.find? (fun b => decide (2 ^ 57 ≤ b))).map (fun b => (⟨.addrRange, 0, b, a.lane⟩ : TrapInfo)) := by
  simp only [globalRange, List.find?_cons, h, bne_self_eq_false, List.find?_nil, List.findSome?_cons, if_neg h0, List.findSome?_nil]
  cases (a.bytes.find? (fun b => decide (2 ^ 57 ≤ b))).map (fun b => (⟨.addrRange, 0, b, a.lane⟩ : TrapInfo)) <;> rfl

theorem globalRange_beyond (h : a.ea % (al : Int) = 0) (hbig : 2 ^ 57 ≤ a.ea) (hn : 0 < a.n) :
    globalRange al [a] = some ⟨.addrRange, 0, a.ea.toNat, a.lane⟩ := by
  have hb : decide ((2 : Nat) ^ 57 ≤ a.ea.toNat) = true := decide_eq_true (by omega)
  rw [globalRange_nonneg h (by omega), Acc.bytes_head hn, List.find?_cons, hb]
  rfl

theorem globalRange_within (h : a.ea % (al : Int) = 0) (h0 : 0 ≤ a.ea) (hend : a.ea + a.n ≤ 2 ^ 57) : globalRange al [a] = none := by
  have hb : a.bytes.find? (fun b => decide (2 ^ 57 ≤ b)) = none := by
    rw [List.find?_eq_none]
    intro b hb
    obtain ⟨i, hi, rfl⟩ := Acc.mem_bytes.mp hb
    rw [decide_eq_true_eq]
    omega
  rw [globalRange_nonneg h (by omega), hb]
  rfl

theorem State.check_range {t : TrapInfo} (h : globalRange al [a] = some t) : r.check k al [a] = .bad t := by
  rw [State.check, h]

theorem State.laterRows_protect {l : Leaf} {ctx launch : Nat} {tide : Stamp} {armed : List Range} (hn : 0 < a.n)
    (hl : r.leafAt ctx a.ea.toNat = some l) (hp : r.allowed k ctx l = false) :
    r.laterRows k ctx launch tide armed [a] = some ⟨.memProtect, 0, a.ea.toNat, a.lane⟩ := by
  unfold State.laterRows State.rowsBy
  dsimp only
  rw [firstByte_head hn (by rw [hl]; exact congrArg not hp)]
  rfl

end Access

/-- Settles O30: the rows of Table 7.2 in their order. -/
theorem accessChecks : Obligations.AccessChecks := by
  refine ⟨?_, ?_, ?_, ?_, ?_⟩
  · intro r k al a _ h
    rw [State.check_range (globalRange_misaligned h), wrapI_eq_ofInt_toNat]
  · intro r k al a h hneg
    rw [State.check_range (globalRange_negative h hneg), wrapI_eq_ofInt_toNat]
  · intro r k al a h hbig hn
    exact State.check_range (globalRange_beyond h hbig hn)
  · intro r k al a h h0 hend hn hmiss
    rw [State.check, globalRange_within h h0 hend]
    dsimp only
    rw [firstByte_head hn (by rw [hmiss]; rfl)]
  · intro r k al a l h h0 hend hn hl hp
    have h0l : r.leafAt r.ctxNow a.ea.toNat = some l := hl 0 hn
    rw [State.check, globalRange_within h h0 hend]
    dsimp only
    rw [firstByte_none (fun i hi => by rw [hl i hi]; rfl)]
    dsimp only
    rw [State.laterRows_protect hn h0l hp]

/-! ### The byte that a plain load sees (07 R137) -/

section LoadByte
variable {s : State} {q : Squad} {l : Leaf} {key : Nat}

theorem State.loadByte_pending {b : Byte} (h : q.pendByte key = some b) : s.loadByte q l key = b := by
  rw [State.loadByte, h]

theorem State.loadByte_manual (h : q.pendByte key = none) (hc : l.cls = 2) : s.loadByte q l key = s.manualByte q.cache key := by
  rw [State.loadByte, h]
  exact if_pos hc

theorem State.loadByte_own {b : Byte} (h : q.pendByte key = none) (hc : l.cls ≠ 2) (ho : get? q.own key = some b) : s.loadByte q l key = b := by
  rw [State.loadByte, h]
  dsimp only
  rw [if_neg hc, ho]

theorem State.loadByte_landed (h : q.pendByte key = none) (hc : l.cls ≠ 2) (ho : get? q.own key = none) :
    s.loadByte q l key = s.byteAt (some (s.stampFor q.launch q.tide l.cls)) key := by
  rw [State.loadByte, h]
  dsimp only
  rw [if_neg hc, ho]

theorem State.manualByte_held {place : Nat} {m : Manual} (h : s.manual.find? (fun m => m.place == place && m.line == lineOf key) = some m) :
    s.manualByte place key = nth 0 m.data (key % 128) := by
  rw [State.manualByte, h]

theorem State.manualByte_home {place : Nat} (h : s.manual.find? (fun m => m.place == place && m.line == lineOf key) = none)
    (hh : homePkg (lineOf key) = s.pkgIdx) : s.manualByte place key = s.byteAt none key := by
  rw [State.manualByte, h]
  dsimp only
  rw [if_pos hh]

theorem State.manualByte_die {place : Nat} {m : Manual} (h : s.manual.find? (fun m => m.place == place && m.line == lineOf key) = none)
    (hh : homePkg (lineOf key) ≠ s.pkgIdx) (hp : place < 512)
    (hd : s.manual.find? (fun m => m.place == 600 + place / 128 && m.line == lineOf key) = some m) :
    s.manualByte place key = nth 0 m.data (key % 128) := by
  rw [State.manualByte, h]
  dsimp only
  rw [if_neg hh, dieOf, if_pos hp, hd]

end LoadByte

/-! ### A byte just stored -/

theorem get?_put1_same {α : Type} (l : List (Nat × α)) (a : Nat) (x : α) : get? (put1 l a x) a = some x := by
  induction l with
  | nil => exact if_pos rfl
  | cons e l ih =>
    obtain ⟨k, v⟩ := e
    rw [put1]
    split
    · next h => exact if_pos h
    · next h =>
      split
      · exact if_pos rfl
      · exact (if_neg h).trans ih

theorem find?_modAll {α : Type} {p : α → Bool} {f : α → α} (hf : ∀ x, p x = true → p (f x) = true) (l : List α) :
    (modAll p f l).find? p = (l.find? p).map f := by
  induction l with
  | nil => rfl
  | cons x l ih =>
    rw [modAll, List.map_cons, List.find?_cons, List.find?_cons]
    cases h : p x with
    | true => rw [if_pos rfl, hf x h]; rfl
    | false => rw [if_neg Bool.false_ne_true, h]; exact ih

/-- The byte that a store leaves in the pending line of its kind. -/
theorem Squad.find_pend (q : Squad) (tx : Bool) (l : Leaf) (key : Nat) (b : Byte) :
    ((q.pend tx l key b).pending.find? (fun p => p.line == lineOf key && p.tx == tx)).bind (fun p => get? p.bytes (key % 128)) = some b := by
  unfold Squad.pend
  dsimp only
  split
  · next p h =>
    dsimp only
    have hf := find?_modAll (p := fun p : PLine => p.line == lineOf key && p.tx == tx)
      (f := fun p => { p with bytes := ins p.bytes (key % 128) b }) (fun _ hx => hx) q.pending
    rw [hf, h]
    exact get?_put1_same _ _ _
  · next h =>
    dsimp only
    rw [List.find?_append, h]
    simp [get?]

theorem Squad.pend_mode (q : Squad) (tx : Bool) (l : Leaf) (key : Nat) (b : Byte) :
    (q.pend tx l key b).tx = q.tx ∧ (q.pend tx l key b).handler = q.handler := by
  unfold Squad.pend
  dsimp only
  split
  · exact ⟨rfl, rfl⟩
  · exact ⟨rfl, rfl⟩

theorem Squad.pendByte_pend {q : Squad} {tx : Bool} (htx : q.tx = tx) (hh : q.handler = false) (l : Leaf) (key : Nat) (b : Byte) :
    (q.pend tx l key b).pendByte key = some b := by
  obtain ⟨ht, hd⟩ := q.pend_mode tx l key b
  unfold Squad.pendByte
  dsimp only
  rw [ht, hd, htx, hh]
  cases tx with
  | true =>
    rw [if_pos (by rfl), q.find_pend true l key b]
    rfl
  | false => exact q.find_pend false l key b

/-- Settles O31: the sources of a byte in the order of R137. -/
theorem loadOrder : Obligations.LoadOrder := by
  refine ⟨fun s q l key b => State.loadByte_pending, ?_, fun s q l key b => State.loadByte_own, ?_, ?_,
    fun q tx l key b htx hh => Squad.pendByte_pend htx hh l key b⟩
  · intro s q l key hp hc
    rw [State.loadByte_manual hp hc]
    refine ⟨fun m => State.manualByte_held, fun hnone => ⟨State.manualByte_home hnone, ?_⟩⟩
    intro m hh hm hq
    exact State.manualByte_die hnone hh hq hm
  · intro s q l key hp hc ho
    rw [State.loadByte_landed hp (by omega) ho, State.stampFor, if_neg (by omega)]
  · intro s q l key a k hp hc ho ha hon hk
    rw [State.loadByte_landed hp (by omega) ho, State.stampFor, if_pos hc, State.kSnapOf, ha]
    dsimp only
    rw [if_pos hon, hk]
    rfl

end Sys2Proof.Machine

/-! # Proofs: NaN, infinity and signed zero (01 R24 to R28, 05 R108) -/

namespace Sys2Proof.Machine

/-- A value above the range of FP32, 2^1000. -/
def beyondFp32 : FV := .fin false 1 1000

/-- minimumNumber with a quiet NaN raises nothing, where rounding the other operand overflows. -/
theorem minmaxR_beyondFp32 : (fp32.minmaxR false true beyondFp32 (.nan false)).2 = 0 ∧ (fp32.round .rne false beyondFp32).2 = fOF ||| fNX := by
  decide

/-- Refutes O25: the clause on .num speaks of every value, also of values that FP32 does not hold: of 2^1000 and a quiet NaN fmin.num raises no
condition, but rounding 2^1000 raises of and nx. -/
theorem not_floatSpecials : ¬ Obligations.FloatSpecials := by
  rintro ⟨-, -, hnum, -⟩
  have hflags := congrArg Prod.snd (hnum false beyondFp32 rfl).1
  rw [minmaxR_beyondFp32.1, minmaxR_beyondFp32.2] at hflags
  exact absurd hflags (by decide)

end Sys2Proof.Machine

/-! # Proofs: the activation tables (05 R117 to R119) -/

namespace Sys2Proof.Machine

theorem exec_lutld (w : Long) (s : State) : exec (.lutld w) s = s.issueLong false 0x0C8 w (fun s =>
    let p := (match s.heldPair with | some q => s.drainLut (!q.sel) | none => s)
    .done (p.setTodo [.lutDo false w.x.toNat p.lanes ((List.range 32).map (fun l => p.sq.v w.a.toNat l))
      ((List.range 32).map (fun l => p.sq.v w.b.toNat l))])) := rfl

theorem exec_lutsel (w : Long) (s : State) :
    exec (.lutsel w) s = s.issueLong false 0x0C9 w (fun s => .done (s.setTodo [.lutDo true 0 0 [] []])) := rfl

section Turn
variable {t u : State} {flip : Bool} {base n : Nat} {lanes : Mask} {vals slopes : List W}

/-- The pair is there and it is this squad's turn. -/
theorem State.runTodo_lutDo (ht : t.todoNow = [.lutDo flip base lanes vals slopes]) (he : t.lutEarlier = false) (hp : t.lutPair = some (n, u)) :
    t.runTodo = (u.lutWrite n flip base lanes vals slopes).complete := by
  refine State.runTodo_ok ht nofun ?_
  rw [runOp, he, hp]
  rfl

/-- An earlier one waits, or no pair is free. -/
theorem State.runTodo_lutWait (ht : t.todoNow = [.lutDo flip base lanes vals slopes]) (h : t.lutEarlier = true ∨ t.lutPair = none) :
    t.runTodo = t.block ⟨0x0F, 0, 0⟩ t.todoNow := by
  rw [ht]
  refine State.runTodo_wait ht nofun ?_
  rw [runOp]
  rcases h with h | h
  · rw [h]; rfl
  · rw [h]; exact ite_self _

end Turn

/-- Settles O27: both are one part, which passes or waits. -/
theorem activationTables : Obligations.ActivationTables := by
  refine ⟨?_, ?_, ?_⟩
  · intro w s r p t hgo hr hp ht
    have hx : exec (.lutld w) s = .next t.runTodo := by
      rw [ht, hp, hr]
      exact (exec_lutld w s).trans (State.issue_parts hgo rfl)
    have hl := (congrArg State.todoNow ht).trans ((State.moved_todoNow _ _ _).trans (State.setTodo_todoNow _ _))
    exact ⟨fun n u he hn => hx.trans (congrArg _ (State.runTodo_lutDo hl he hn)), fun h => hx.trans (congrArg _ (State.runTodo_lutWait hl h))⟩
  · intro w s r t hgo hr ht
    have hx : exec (.lutsel w) s = .next t.runTodo := by
      rw [ht, hr]
      exact (exec_lutsel w s).trans (State.issue_parts hgo rfl)
    have hl := (congrArg State.todoNow ht).trans ((State.moved_todoNow _ _ _).trans (State.setTodo_todoNow _ _))
    exact ⟨fun n u he hn => hx.trans (congrArg _ (State.runTodo_lutDo hl he hn)), fun h => hx.trans (congrArg _ (State.runTodo_lutWait hl h))⟩
  · intro s n b m x y p hl hc hn
    have hthis : (p.cache == s.sq.cache && p.num == n) = true := by rw [hc, hn, beq_self_eq_true, beq_self_eq_true]; rfl
    show modAll _ _ s.luts = _
    rw [hl, modAll, List.map_cons, hthis]
    rfl

end Sys2Proof.Machine

/-! # Proofs: the exchange of lanes (06 R121 to R129) -/

namespace Sys2Proof.Machine

/-- Instructions whose body already is the statement's. -/
theorem laneOp_longRuns_self {i : Long → Instr} {op9 : Nat} {t : Long → Nat} {g : Long → State → Nat → Nat × Nat}
    (hx : ∀ w s, exec (i w) s = s.issueLong false op9 w (fun r => .done (r.laneOp (t w) w.d.toNat (g w r)))) :
    LongRuns i false op9 always (fun w r => r.laneOp (t w) w.d.toNat (g w r)) :=
  laneOp_longRuns hx (fun _ _ _ _ => rfl)

theorem laneK_longRuns_self {i : Long → Instr} {op9 : Nat} {g : Long → State → Nat → Bool × Nat}
    (hx : ∀ w s, exec (i w) s = s.issueLong false op9 w (fun r => .done (r.laneK w.d.toNat (g w r)))) :
    LongRuns i false op9 always (fun w r => r.laneK w.d.toNat (g w r)) :=
  laneK_longRuns hx (fun _ _ _ => rfl)

/-! ### Shuffles (06 R124) -/

theorem State.shuffle_takes (r : State) (l : Nat) (j : Int) :
    (decide (0 ≤ j ∧ j < (r.tile : Int)) && r.part (r.tileBase l + j.toNat)) =
      decide (0 ≤ j ∧ j < r.tile ∧ r.lanes.getLsbD (l - l % r.tile + j.toNat) = true) := by
  rw [Bool.eq_iff_iff, Bool.and_eq_true, decide_eq_true_eq, decide_eq_true_eq, and_assoc]
  rfl

/-- A shuffle whose lane l reads lane j of its tile, with and without the mask c. -/
theorem shuffle_longRuns {i : Long → Instr} {op9 : Nat} {j : Long → State → Nat → Int}
    (hx : ∀ w s, exec (i w) s = s.issueLong false op9 w (fun r => .done (r.shuffle w (j w r)))) :
    LongRuns i false op9 (fun w _ => w.c = 0) (fun w r => r.laneOp (xType w.x) w.d.toNat (fun l =>
      (r.vn (xType w.x) w.a.toNat (if 0 ≤ j w r l ∧ j w r l < r.tile ∧ r.lanes.getLsbD (l - l % r.tile + (j w r l).toNat) = true
        then l - l % r.tile + (j w r l).toNat else l), 0))) ∧
    LongRuns i false op9 (fun w _ => w.c ≠ 0) (fun w r => (r.laneOp (xType w.x) w.d.toNat (fun l =>
      (r.vn (xType w.x) w.a.toNat (if 0 ≤ j w r l ∧ j w r l < r.tile ∧ r.lanes.getLsbD (l - l % r.tile + (j w r l).toNat) = true
        then l - l % r.tile + (j w r l).toNat else l), 0))).laneK w.c.toNat (fun l =>
      (decide (0 ≤ j w r l ∧ j w r l < r.tile ∧ r.lanes.getLsbD (l - l % r.tile + (j w r l).toNat) = true), 0))) := by
  constructor
  · refine longRuns_intro _ hx (fun w r hc => ?_) (fun _ _ => State.laneOp_todoNow _ _ _ _)
    simp only [State.shuffle, State.shuffle_takes, decide_eq_true_eq]
    rw [if_pos hc]
    rfl
  · refine longRuns_intro _ hx (fun w r hc => ?_) (fun _ _ => (State.laneK_todoNow _ _ _).trans (State.laneOp_todoNow _ _ _ _))
    simp only [State.shuffle, State.shuffle_takes, decide_eq_true_eq]
    rw [if_neg hc]
    rfl

/-! ### Tiles -/

theorem State.mem_tileLanes {r : State} {l p : Nat} : p ∈ r.tileLanes l ↔ p / r.tile = l / r.tile ∧ r.lanes.getLsbD p = true := by
  have hpos : 0 < r.tile := Nat.two_pow_pos _
  have hbase : r.tileBase l = r.tile * (l / r.tile) := by
    have := Nat.div_add_mod l r.tile
    rw [State.tileBase]; omega
  rw [State.tileLanes, List.mem_filter, List.mem_map, hbase]
  refine and_congr ?_ Iff.rfl
  constructor
  · rintro ⟨t, ht, rfl⟩
    rw [Nat.mul_add_div hpos, Nat.div_eq_of_lt (List.mem_range.mp ht), Nat.add_zero]
  · intro h
    refine ⟨p % r.tile, List.mem_range.mpr (Nat.mod_lt _ hpos), ?_⟩
    rw [← h, Nat.div_add_mod]

theorem exec_sameAll (w : Long) (s : State) : exec (.sameAll w) s = s.issueLong false 0x0E8 w (fun s =>
    let u := s.laneOp tB32 w.d.toNat (fun l => (if s.allSame w l then s.tileMask l (fun _ => true) else 0, 0))
    .done (if w.c = 0 then u else u.laneK w.c.toNat (fun l => (s.allSame w l, 0)))) := rfl

/-! ### Reductions (06 R127) -/

theorem foldl_redOp_sum (t : Nat) (l : List Int) (x : Int) : l.foldl (redOp 0 t) x = x + l.sum := by
  induction l generalizing x with
  | nil => simp
  | cons y l ih =>
    rw [List.foldl_cons, ih, List.sum_cons, ← Int.add_assoc]
    rfl

theorem redList_sum (t : Nat) (l : List Int) : redList 0 t l = l.sum := by
  cases l with
  | nil => rfl
  | cons x l => exact foldl_redOp_sum t l x

theorem redOp_min (t : Nat) (a b : Int) : redOp 1 t a b = min a b := lesser_eq_min a b
theorem redOp_max (t : Nat) (a b : Int) : redOp 2 t a b = max a b := greater_eq_max a b

/-- Folding an operator that chooses one of its operands chooses one of the list. -/
theorem foldl_mem {f : Int → Int → Int} (hf : ∀ a b, f a b = a ∨ f a b = b) (l : List Int) (x : Int) : l.foldl f x ∈ x :: l := by
  induction l generalizing x with
  | nil => exact List.mem_cons_self
  | cons y l ih =>
    rw [List.foldl_cons]
    rcases List.mem_cons.mp (ih (f x y)) with h | h
    · rw [h]
      rcases hf x y with e | e
      · rw [e]; exact List.mem_cons_self
      · rw [e]; exact List.mem_cons_of_mem _ List.mem_cons_self
    · exact List.mem_cons_of_mem _ (List.mem_cons_of_mem _ h)

theorem foldl_min_le (t : Nat) (l : List Int) (x : Int) : ∀ y ∈ x :: l, l.foldl (redOp 1 t) x ≤ y := by
  induction l generalizing x with
  | nil => simp
  | cons z l ih =>
    intro y hy
    have hxz := ih (redOp 1 t x z) _ List.mem_cons_self
    rw [redOp_min] at hxz
    rw [List.foldl_cons]
    rcases List.mem_cons.mp hy with rfl | hy
    · rw [redOp_min]; omega
    rcases List.mem_cons.mp hy with rfl | hy
    · rw [redOp_min]; omega
    · exact ih _ y (List.mem_cons_of_mem _ hy)

theorem le_foldl_max (t : Nat) (l : List Int) (x : Int) : ∀ y ∈ x :: l, y ≤ l.foldl (redOp 2 t) x := by
  induction l generalizing x with
  | nil => simp
  | cons z l ih =>
    intro y hy
    have hxz := ih (redOp 2 t x z) _ List.mem_cons_self
    rw [redOp_max] at hxz
    rw [List.foldl_cons]
    rcases List.mem_cons.mp hy with rfl | hy
    · rw [redOp_max]; omega
    rcases List.mem_cons.mp hy with rfl | hy
    · rw [redOp_max]; omega
    · exact ih _ y (List.mem_cons_of_mem _ hy)

/-! ### selk (06 R129) -/

theorem foldl_laneK_todoNow (d : Nat → Nat) (f : Nat → Nat → Bool × Nat) (l : List Nat) (u : State) :
    (l.foldl (fun u j => u.laneK (d j) (f j)) u).todoNow = u.todoNow := by
  induction l generalizing u with
  | nil => rfl
  | cons j l ih => exact (ih _).trans (State.laneK_todoNow _ _ _)

theorem exec_selk (w : Long) (s : State) : exec (.selk w) s = s.issueLong false 0x0ED w (fun s =>
    .done (((List.range w.b.toNat).foldl (fun u j => u.laneK (w.d.toNat + j) (fun l =>
      ((s.selCands w (s.tileBase l)).any (fun c => c.2.1 == j && c.2.2.1 == l &&
        selChosen (xType w.x) (xSub w.x == 1) w.m w.c.toNat (s.selCands w (s.tileBase l)) c), 0))) s).orFlags
      (if xType w.x = tF32 then flagsOver s.lanes (fun l => sigFlag ((List.range w.b.toNat).map (fun j => f32 (s.sq.v (w.a.toNat + j) l)))) else 0))) := rfl

/-- Settles O28: the shuffles by `shuffle_longRuns`, tiles by `mem_tileLanes`, the reductions by induction over the participants. -/
theorem laneExchange : Obligations.LaneExchange := by
  refine ⟨?_, laneK_longRuns_self (fun _ _ => rfl), laneK_longRuns_self (fun _ _ => rfl),
    laneOp_longRuns_self (t := fun _ => tB32) (fun _ _ => rfl), laneOp_longRuns_self (t := fun _ => tB32) (fun _ _ => rfl), ?_, ?_,
    fun _ _ _ => State.mem_tileLanes, laneOp_longRuns_self (t := fun _ => tB32) (fun _ _ => rfl),
    laneOp_longRuns_self (t := fun w => xType w.x) (fun _ _ => rfl), laneOp_longRuns_self (t := fun w => xType w.x) (fun _ _ => rfl),
    laneOp_longRuns_self (t := fun _ => tB32) (fun _ _ => rfl), ?_, fun t _ l => redList_sum t l, ?_⟩
  · intro i hi
    simp only [List.mem_cons, List.not_mem_nil, or_false] at hi
    rcases hi with rfl | rfl | rfl | rfl
    · exact shuffle_longRuns (fun _ _ => rfl)
    · exact shuffle_longRuns (fun _ _ => rfl)
    · exact shuffle_longRuns (fun _ _ => rfl)
    · exact shuffle_longRuns (fun _ _ => rfl)
  · exact longRuns_intro _ exec_sameAll (fun w r hc => congrArg Res.done (if_pos hc)) (fun _ _ => State.laneOp_todoNow _ _ _ _)
  · exact longRuns_intro _ exec_sameAll (fun w r hc => congrArg Res.done (if_neg hc))
      (fun _ _ => (State.laneK_todoNow _ _ _).trans (State.laneOp_todoNow _ _ _ _))
  · intro w s r u hgo hr hu
    have hend : ∀ n, (u.orFlags n).todoNow = [] := fun n => by
      rw [State.orFlags_todoNow, hu, foldl_laneK_todoNow, hr]
      exact hgo.todo
    constructor
    · intro ht
      refine (exec_selk w s).trans (State.issue_done hgo ?_ (hend 0))
      rw [← hr, if_neg ht, ← hu]
    · intro ht
      refine (exec_selk w s).trans (State.issue_done hgo ?_ (hend _))
      rw [← hr, if_pos ht, ← hu]
  · intro t x l
    have hmin : ∀ a b, redOp 1 t a b = a ∨ redOp 1 t a b = b := fun a b => by rw [redOp_min]; omega
    have hmax : ∀ a b, redOp 2 t a b = a ∨ redOp 2 t a b = b := fun a b => by rw [redOp_max]; omega
    exact ⟨⟨foldl_mem hmin l x, foldl_min_le t l x⟩, foldl_mem hmax l x, le_foldl_max t l x⟩

end Sys2Proof.Machine

/-! # Proofs: operations of memory and homes leave alone who is in focus and what is left of its instruction

`r.Left t`: the agent in focus of `t` is that of `r`, with the same parts left. One lemma for each operation, named after it as in the layer of
`State.Kept`. -/

namespace Sys2Proof.Machine

structure State.Left (r t : State) : Prop where
  focus : t.focus = r.focus
  squad : t.sq.todo = r.sq.todo
  mcc   : t.mcc.todo = r.mcc.todo

def OptLeft (r : State) (o : Option State) : Prop := ∀ t, o = some t → r.Left t
def OptSndLeft {α : Type} (r : State) (o : Option (α × State)) : Prop := ∀ p, o = some p → r.Left p.2

theorem State.Left.refl (r : State) : r.Left r := ⟨rfl, rfl, rfl⟩

theorem State.Left.isM {r t : State} (h : r.Left t) : t.isM = r.isM := by rw [State.isM, State.isM, h.focus]

theorem State.Left.todoNow {r t : State} (h : r.Left t) : t.todoNow = r.todoNow := by
  rw [State.todoNow, State.todoNow, h.isM, h.squad, h.mcc]

section
variable {r₀ : State}

section
variable {p : Prop} [Decidable p]
theorem State.Left.ite {a b : State} (ha : r₀.Left a) (hb : r₀.Left b) : r₀.Left (if p then a else b) := by split <;> assumption
theorem State.Left.pair {α : Type} {x : α} {s : State} (h : r₀.Left s) : r₀.Left ((x, s) : α × State).2 := h
theorem State.Left.iteSnd {α : Type} {a b : α × State} (ha : r₀.Left a.2) (hb : r₀.Left b.2) : r₀.Left (if p then a else b).2 := by
  split <;> assumption
theorem OptLeft.ite {a b : Option State} (ha : OptLeft r₀ a) (hb : OptLeft r₀ b) : OptLeft r₀ (if p then a else b) := by split <;> assumption
end

theorem OptLeft.none : OptLeft r₀ none := fun _ e => absurd e (Option.some_ne_none _).symm
theorem OptLeft.some {t : State} (h : r₀.Left t) : OptLeft r₀ (some t) := fun _ e => Option.some.inj e ▸ h

theorem OptLeft.getD {o : Option State} {s : State} (ho : OptLeft r₀ o) (h : r₀.Left s) : r₀.Left (o.getD s) := by
  cases o with
  | none => exact h
  | some t => exact ho t rfl

theorem State.Left.foldl {α : Type} {l : List α} {f : State → α → State} {s : State} (h : r₀.Left s)
    (hf : ∀ {t a}, r₀.Left t → r₀.Left (f t a)) : r₀.Left (l.foldl f s) := by
  induction l generalizing s with
  | nil => exact h
  | cons a l ih => exact ih (hf h)

/-- A record with focus, squad and MCC of another, written out field by field. -/
theorem State.Left.upd {s : State}
    {x0 x1 x2 x3 x4 x5 x6 x7 x8 x9 x10 x11 x12 x13 x14 x15 x16 x17 x18 x19 x20 x21 x22 x23 x24 x25 x26 x27 x28 x29 x30 x31 x32 x33
      x34 x35 x36 x37 x38 x39 x40 x41 x42 x43 x44 x45 x46 x47 x48 x49 x50 x51 x52 x53 x54 x55 x56 x57 x58 x59 x60 x61 x62 x63 x64
      x65 x66 x67 x68 x69 x70 x71 x72 x73 x74 x75 x76 x77 x78 x79 x80 x81 x82 x83 x84 x85 x86 x87 x88 x89 x90 x91}
    (h : r₀.Left s) :
    r₀.Left (State.mk s.focus s.sq s.mcc x0 x1 x2 x3 x4 x5 x6 x7 x8 x9 x10 x11 x12 x13 x14 x15 x16 x17 x18 x19 x20 x21 x22 x23 x24
      x25 x26 x27 x28 x29 x30 x31 x32 x33 x34 x35 x36 x37 x38 x39 x40 x41 x42 x43 x44 x45 x46 x47 x48 x49 x50 x51 x52 x53 x54 x55
      x56 x57 x58 x59 x60 x61 x62 x63 x64 x65 x66 x67 x68 x69 x70 x71 x72 x73 x74 x75 x76 x77 x78 x79 x80 x81 x82 x83 x84 x85 x86
      x87 x88 x89 x90 x91) := ⟨h.focus, h.squad, h.mcc⟩

theorem State.Left.modSq {s : State} {f : Squad → Squad} (h : r₀.Left s) (hf : ∀ q, (f q).todo = q.todo := by exact fun _ => rfl) :
    r₀.Left (s.modSq f) := ⟨h.focus, (hf _).trans h.squad, h.mcc⟩
theorem State.Left.modMcc {s : State} {f : Mcc → Mcc} (h : r₀.Left s) (hf : ∀ m, (f m).todo = m.todo := by exact fun _ => rfl) :
    r₀.Left (s.modMcc f) := ⟨h.focus, h.squad, (hf _).trans h.mcc⟩

theorem State.Left.modSquads {s : State} {p : Squad → Bool} {f : Squad → Squad} (h : r₀.Left s)
    (hf : ∀ q, (f q).todo = q.todo := by exact fun _ => rfl) : r₀.Left (s.modSquads p f) := by
  refine ⟨h.focus, ?_, h.mcc⟩
  refine Eq.trans ?_ h.squad
  unfold State.modSquads
  dsimp only
  split
  · exact hf _
  · rfl

theorem State.Left.modTeam {s : State} {id : Nat} {f : Team → Team} (h : r₀.Left s) : r₀.Left (s.modTeam id f) := h.upd
theorem State.Left.modLaunch {s : State} {id : Nat} {f : Launch → Launch} (h : r₀.Left s) : r₀.Left (s.modLaunch id f) := h.upd
theorem State.Left.fresh {s : State} (h : r₀.Left s) : r₀.Left (s.fresh).2 := h.upd.pair
theorem State.Left.observe {s : State} {st : Stamp} (h : r₀.Left s) : r₀.Left (s.observe st) := h.modMcc.ite h.modSq
theorem State.Left.takeStamp {s : State} {die agent : Nat} (h : r₀.Left s) : r₀.Left (s.takeStamp die agent).2 := h.upd.pair
theorem State.Left.cuStamp {s : State} {cache : Nat} (h : r₀.Left s) : r₀.Left (s.cuStamp cache).2 := h.takeStamp
theorem State.Left.ownStamp {s : State} (h : r₀.Left s) : r₀.Left (s.ownStamp).2 := h.takeStamp.iteSnd h.cuStamp
theorem State.Left.setCsr {s : State} {scope n : Nat} {v : W} (h : r₀.Left s) : r₀.Left (s.setCsr scope n v) := h.upd

theorem State.Left.homeWrite {s : State} {key : Nat} {b : List Byte} (h : r₀.Left s) : r₀.Left (s.homeWrite key b) := by
  induction b generalizing s key with
  | nil => exact h
  | cons x b ih => exact ih h.upd

theorem State.Left.carryPoison {s : State} {line : Nat} {a b : PoisonAt} {st : Stamp} (h : r₀.Left s) : r₀.Left (s.carryPoison line a b st) := h.upd
theorem State.Left.endPoison {s : State} {line : Nat} {a : PoisonAt} (h : r₀.Left s) : r₀.Left (s.endPoison line a) := h.upd
theorem State.Left.land {s : State} {line : Nat} {st : Stamp} {bytes : List (Nat × Byte)} {ctx : Nat} (h : r₀.Left s) :
    r₀.Left (s.land line st bytes ctx) := h.upd
theorem State.Left.setS {s : State} {n : Nat} {v : W} (h : r₀.Left s) : r₀.Left (s.setS n v) := h.modMcc.ite h.modSq
theorem State.Left.setS2 {s : State} {n : Nat} {v : D} (h : r₀.Left s) : r₀.Left (s.setS2 n v) := h.setS.setS
theorem State.Left.setScc {s : State} {b : Bool} (h : r₀.Left s) : r₀.Left (s.setScc b) := h.modMcc.ite h.modSq
theorem State.Left.orFlags {s : State} {f : Nat} (h : r₀.Left s) : r₀.Left (s.orFlags f) :=
  h.modMcc.ite (h.modSq (fun q => q.orFlags_todo _))
theorem State.Left.scrWrite {s : State} {key : Nat} {b : List Byte} (h : r₀.Left s) : r₀.Left (s.scrWrite key b) := h.upd
theorem State.Left.noteFull {s : State} (h : r₀.Left s) : r₀.Left s.noteFull := h.ite (h.upd.ite h.upd)
theorem State.Left.reclaim {s : State} {line : Nat} (h : r₀.Left s) : r₀.Left (s.reclaim line) := State.Left.noteFull h.upd
theorem State.Left.toPort {s : State} {dst req : Nat} {via : Option Nat} {b : FabBody} (h : r₀.Left s) : r₀.Left (s.toPort dst req via b) := h.upd
theorem State.Left.demandAs {s : State} {id dst die : Nat} {b : FabBody} {ctx : optParam Nat 32768} (h : r₀.Left s) :
    r₀.Left (s.demandAs id dst die b ctx) := (h.ite h.toPort).upd
theorem State.Left.demand {s : State} {dst die : Nat} {b : FabBody} {ctx : optParam Nat 32768} (h : r₀.Left s) :
    r₀.Left (s.demand dst die b ctx) := h.fresh.demandAs
theorem State.Left.demandOnce {s : State} {dst die : Nat} {b : FabBody} {ctx : optParam Nat 32768} (h : r₀.Left s) :
    r₀.Left (s.demandOnce dst die b ctx) := h.ite h.demand
theorem State.Left.sendMsg {s : State} {m' : Msg} (h : r₀.Left s) : r₀.Left (s.sendMsg m') := h.fresh.upd.ite h.fresh.upd.demandAs
theorem State.Left.send {s : State} {line : Nat} {st : Stamp} {bytes : List (Nat × Byte)} {man : Bool} {ctx : Nat} {squad mcc cmd : Option Nat} {pre : optParam (Option Stamp) none} (h : r₀.Left s) :
    r₀.Left (s.send line st bytes man ctx squad mcc cmd pre) := h.sendMsg
theorem State.Left.sendHeld {s : State} {line : Nat} {st : Stamp} {bytes : List (Nat × Byte)} {ctx : Nat} {squad : Option Nat} (h : r₀.Left s) :
    r₀.Left (s.sendHeld line st bytes ctx squad) := h.sendMsg
theorem State.Left.invalFar {s : State} {line : Nat} {st : Stamp} {pkgs : List Nat} (h : r₀.Left s) :
    r₀.Left (s.invalFar line st pkgs) := h.foldl (fun h => h.demand)
theorem State.Left.landed {s : State} {line : Nat} {st : Stamp} {bytes : List (Nat × Byte)} {ctx : Nat} (h : r₀.Left s) :
    r₀.Left (s.landed line st bytes ctx) := h.sendHeld.ite (h.land.reclaim.noteFull.ite h.land.reclaim.noteFull.upd.invalFar)
theorem State.Left.manualCopy {s : State} {place ctx line : Nat} (h : r₀.Left s) : r₀.Left (s.manualCopy place ctx line) := h.upd
theorem State.Left.mergeManual {s : State} {place line ctx : Nat} {bytes : List (Nat × Byte)} {dirty : Bool} (h : r₀.Left s) :
    r₀.Left (s.mergeManual place line ctx bytes dirty) := (h.ite h.manualCopy).upd
theorem State.Left.mergeHome {s : State} {line : Nat} {bytes : List (Nat × Byte)} (h : r₀.Left s) :
    r₀.Left (s.mergeHome line bytes) := (h.foldl (fun h => h.homeWrite)).upd
theorem State.Left.spreadPoison {s : State} {m' : Manual} {dest : PoisonAt} (h : r₀.Left s) : r₀.Left (s.spreadPoison m' dest) := h.upd

theorem State.Left.writeBack {s : State} {squad : Option Nat} {m' : Manual} (h : r₀.Left s) : r₀.Left (s.writeBack squad m') := by
  unfold State.writeBack
  extract_lets b die s1 t
  have h1 : r₀.Left s1 := h.mergeManual.spreadPoison.ite h
  have ht : r₀.Left t := h1.mergeHome.spreadPoison.ite (h1.ite (State.Left.spreadPoison (h1.send.modSquads)))
  exact ht.upd

theorem State.Left.depart {s : State} {cache line : Nat} {next : Option L1St} (h : r₀.Left s) : r₀.Left (s.depart cache line next) := by
  unfold State.depart
  extract_lets
  split
  · exact (h.ite h.cuStamp.landed.carryPoison).upd
  · exact (h.ite h.cuStamp.landed.carryPoison).upd

theorem State.Left.sendBytes {s : State} {cache line ctx : Nat} {w : List (Nat × Byte)} (h : r₀.Left s) :
    r₀.Left (s.sendBytes cache line ctx w) := ((h.fresh.pair.iteSnd h.fresh.cuStamp).upd).carryPoison
theorem State.Left.keepPoison {s : State} {line : Nat} {c' : Stamp} {p : List Poison} (h : r₀.Left s) : r₀.Left (s.keepPoison line c' p) := h.upd

theorem State.Left.collapseAt {s : State} {h' : Home} {c' : Stamp} (h : r₀.Left s) : r₀.Left (s.collapseAt h' c') := by
  unfold State.collapseAt
  extract_lets row old tag s1 s2
  have h1 : r₀.Left s1 := h.modSquads
  have h2 : r₀.Left s2 := h1.landed.keepPoison
  exact h2.upd

theorem State.Left.stampOver {s : State} {die agent : Nat} {lines : List Nat} (h : r₀.Left s) :
    r₀.Left (s.stampOver die agent lines).2 := h.takeStamp.iteSnd h.upd.takeStamp

theorem State.Left.collapse {s : State} {line die agent : Nat} (h : r₀.Left s) : r₀.Left (s.collapse line die agent).2 := by
  unfold State.collapse
  split
  · exact h.pair
  · exact h.stampOver.collapseAt.pair

theorem State.Left.collapseCu {s : State} {cache line : Nat} (h : r₀.Left s) : r₀.Left (s.collapseCu cache line).2 := h.collapse
theorem State.Left.trimFilter {s : State} {die line : Nat} (h : r₀.Left s) : r₀.Left (s.trimFilter die line) := h.upd
theorem State.Left.forgetOwner {s : State} {cache line : Nat} (h : r₀.Left s) : r₀.Left (s.forgetOwner cache line) := h.upd

theorem State.Left.evict {s : State} {v : Victim} (h : r₀.Left s) : r₀.Left (s.evict v) := by
  unfold State.evict
  split
  · exact h.upd.trimFilter
  · exact ((h.ite h.writeBack).upd).endPoison
  · exact h.sendBytes.upd.ite h.depart.forgetOwner.trimFilter
  · exact h.upd

theorem State.Left.makeWay {s : State} {cache line extra : Nat} (h : r₀.Left s) : OptLeft r₀ (s.makeWay cache line extra) := by
  unfold State.makeWay
  split
  · exact .some h
  · split
    · exact .none
    · exact .some h.upd.evict

theorem State.Left.wayFor {s : State} {cache line : Nat} (h : r₀.Left s) : r₀.Left (s.wayFor cache line) := h.makeWay.getD h

theorem State.Left.makeWays {cache : Nat} {seen l : List Nat} {s : State} (h : r₀.Left s) : r₀.Left (State.makeWays cache seen l s) := by
  induction l generalizing seen s with
  | nil => exact h
  | cons x l ih => exact ih (h.makeWay.getD h)

theorem State.Left.dropFromDie {s : State} {die line : Nat} (h : r₀.Left s) :
    r₀.Left (s.dropFromDie die line) := (h.foldl (fun h => h.depart.forgetOwner)).upd

theorem State.Left.filterRoom {s : State} {die line : Nat} (h : r₀.Left s) : r₀.Left (s.filterRoom die line) := by
  unfold State.filterRoom
  split
  · exact h
  · split
    · exact h
    · exact h.upd.dropFromDie

theorem State.Left.filterNote {s : State} {die line : Nat} {cs : List Nat} (h : r₀.Left s) : r₀.Left (s.filterNote die line cs) := by
  unfold State.filterNote
  split
  · exact h.ite h.upd
  · exact h.filterRoom.upd

theorem State.Left.filterAdd {s : State} {cache line : Nat} (h : r₀.Left s) : r₀.Left (s.filterAdd cache line) := h.filterNote
theorem State.Left.takeWay {s : State} {cache line : Nat} (h : r₀.Left s) : OptLeft r₀ (s.takeWay cache line) := .ite h.makeWay .none

theorem State.Left.l2Way {s : State} {die line : Nat} (h : r₀.Left s) : r₀.Left (s.l2Way die line) := by
  unfold State.l2Way
  extract_lets
  split
  · exact h
  · exact h.ite h.upd.evict

theorem State.Left.fillL2 {s : State} {die line : Nat} {t' : Stamp} (h : r₀.Left s) : r₀.Left (s.fillL2 die line t') := h.ite h.l2Way.upd.filterNote
theorem State.Left.manualL2 {s : State} {die ctx line : Nat} (h : r₀.Left s) : r₀.Left (s.manualL2 die ctx line) := h.ite h.l2Way.manualCopy

theorem State.Left.fillCopy {s : State} {cache line : Nat} {t' : Stamp} (h : r₀.Left s) : r₀.Left (s.fillCopy cache line t') := by
  unfold State.fillCopy
  split
  · exact h
  · extract_lets
    split
    · exact ((((((h.ite h.upd).fillL2).takeWay) _ ‹_›)).upd).filterAdd
    · exact (h.ite h.upd).fillL2

theorem State.Left.fill {s : State} {cache ctx : Nat} {l : Leaf} {t' : Stamp} {key : Nat} (h : r₀.Left s) : r₀.Left (s.fill cache ctx l t' key) := by
  unfold State.fill
  extract_lets
  split
  · split
    · exact h
    · split
      · exact (h.manualL2.makeWay _ ‹_›).manualCopy
      · exact h.manualL2
  · exact h.fillCopy

theorem State.Left.preStamp {s : State} {lines : List PLine} {take : State → Stamp × State} (h : r₀.Left s) (htake : ∀ {t}, r₀.Left t → r₀.Left (take t).2) :
    r₀.Left (s.preStamp lines take).2 := ((htake h).pair).iteSnd h.pair

theorem State.Left.publishEpi {s : State} {p : PLine → Bool} (h : r₀.Left s) :
    r₀.Left (s.publishEpi p) :=
  h.ite ((((((h.foldl (fun h => h.collapse.ite h)).preStamp (fun h => h.ownStamp)).ownStamp).foldl (fun h => (h.foldl (fun h => h.scrWrite)).ite h.send.modMcc)).modLaunch).modMcc)

theorem State.Left.setHome {s : State} {h' : Home} (h : r₀.Left s) : r₀.Left (s.setHome h') := h.upd
theorem State.Left.recallOthers {s : State} {cache line : Nat} {share : Bool} (h : r₀.Left s) :
    r₀.Left (s.recallOthers cache line share) := h.foldl (fun h => h.depart.ite (h.ite h.depart.trimFilter))

theorem State.Left.obtainA {s : State} {cache line op ty : Nat} (h : r₀.Left s) :
    r₀.Left (s.obtainA cache line op ty) :=
  (((((((((h.ite h.collapseCu).recallOthers).depart).ite ((h.ite h.collapseCu).recallOthers)).ite ((((((h.ite h.collapseCu).recallOthers).depart).ite ((h.ite h.collapseCu).recallOthers)).cuStamp).setHome)).setHome).wayFor).upd).ite ((((((((h.ite h.collapseCu).recallOthers).depart).ite ((h.ite h.collapseCu).recallOthers)).ite ((((((h.ite h.collapseCu).recallOthers).depart).ite ((h.ite h.collapseCu).recallOthers)).cuStamp).setHome)).setHome).wayFor).upd)).filterAdd

theorem State.Left.foldInto {s : State} {cache line op ty i v : Nat} (h : r₀.Left s) : r₀.Left (s.foldInto cache line op ty i v) := h.upd.orFlags

theorem State.Left.ask {s : State} {n : Need} {line : Nat} (h : r₀.Left s) : r₀.Left (s.ask n line) := by
  unfold State.ask
  extract_lets
  split
  · split
    · exact h.demandOnce
    · exact h.demandOnce
  · split
    · exact h.ite h.ownStamp.demand
    · exact h.demandOnce

theorem State.Left.askData {s : State} {die ctx line : Nat} {man : Bool} {t' : Stamp} (h : r₀.Left s) :
    r₀.Left (s.askData die ctx line man t') := h.demandOnce
theorem State.Left.leaveLines {s : State} {agent : Nat} (h : r₀.Left s) : r₀.Left (s.leaveLines agent) := h.upd
theorem State.Left.sendPart {s : State} {h' : Home} {die : Nat} {words : List (Nat × D)} (h : r₀.Left s) :
    r₀.Left (s.sendPart h' die words) := h.demand

theorem State.Left.startCollapse {s : State} {h' : Home} {r : HomeReq} (h : r₀.Left s) : r₀.Left (s.startCollapse h' r) := by
  unfold State.startCollapse
  split
  · exact h.setHome.foldl (fun h => h.demand)
  · split
    · exact ((h.foldl (fun h => h.sendPart)).setHome).ite ((h.foldl (fun h => h.sendPart)).setHome)
    · exact h.setHome.demandOnce

theorem State.Left.recallGrants {s : State} {p : Grant → Bool} (h : r₀.Left s) :
    r₀.Left (s.recallGrants p) := (h.upd.foldl (fun h => h.demandOnce)).foldl (fun h => h.startCollapse.ite h.setHome)
theorem State.Left.callBack {s : State} {line : Nat} {n : Need} {pkg : Nat} (h : r₀.Left s) : r₀.Left (s.callBack line n pkg) := h.recallGrants
theorem State.Left.joinLine {s : State} {agent line : Nat} (h : r₀.Left s) : r₀.Left (s.joinLine agent line) := h.ite h.leaveLines.setHome
theorem State.Left.standIn {s : State} {line : Nat} (h : r₀.Left s) : r₀.Left (s.standIn line) := h.modMcc.ite h.modSq

theorem State.Left.awaitAs {s : State} {agent src : Nat} {n : Need} {line : Nat} (h : r₀.Left s) :
    r₀.Left (s.awaitAs agent src n line) :=
  (((h.setCsr.ite h).callBack).joinLine).ite (((((h.setCsr.ite h).callBack).joinLine).demandOnce).ite (((((h.setCsr.ite h).callBack).joinLine).startCollapse).ite (((h.setCsr.ite h).callBack).joinLine)))

theorem State.Left.await {s : State} {n : Need} {line : Nat} (h : r₀.Left s) : r₀.Left (s.await n line) := h.standIn.awaitAs
theorem State.Left.makeSet {s : State} {ctx cl : Nat} (h : r₀.Left s) : r₀.Left (s.makeSet ctx cl) := h.ite h.upd
theorem State.Left.modTl {s : State} {ctx cl place : Nat} {f : Timeline → Timeline} (h : r₀.Left s) :
    r₀.Left (s.modTl ctx cl place f) := h.makeSet.upd
theorem State.Left.issueCmd {s : State} {kind : CmdKind} {place : Nat} {group : List W} {mode : Nat} {two : Bool} {comp compEa : Nat} {addend : W} {key : Nat} {lines : List Nat} (h : r₀.Left s) :
    r₀.Left (s.issueCmd kind place group mode two comp compEa addend key lines) := h.fresh.modTl.upd
theorem State.Left.setObj {s : State} {o : BarObj} (h : r₀.Left s) : r₀.Left (s.setObj o) := h.upd
theorem State.Left.landAtHome {s : State} {die agent key : Nat} {st : Stamp} {b : List Byte} (h : r₀.Left s) :
    r₀.Left (s.landAtHome die agent key st b) := h.collapse.recallOthers.landed
theorem State.Left.ringWrite {s : State} {va : Nat} {st : Stamp} {b : List Byte} (h : r₀.Left s) : r₀.Left (s.ringWrite va st b) := h.landAtHome
theorem State.Left.enqAt {s : State} {va : Nat} {es : List D} (h : r₀.Left s) :
    r₀.Left (s.enqAt va es) := h.stampOver.setScc.ite (((h.stampOver.foldl (fun h => h.ringWrite.upd)).ringWrite).setScc)
theorem State.Left.leaveTx {s : State} {code : Nat} {ok : Bool} (h : r₀.Left s) : r₀.Left (s.leaveTx code ok) := h.modSq.upd

theorem State.Left.epiAdd {s : State} {l : PLine} (h : r₀.Left s) : r₀.Left (s.epiAdd l) := by
  unfold State.epiAdd
  extract_lets
  split
  · exact (h.publishEpi.ite h).modMcc
  · exact (h.publishEpi.ite h).modMcc

theorem State.Left.retirePass {s : State} (h : r₀.Left s) : r₀.Left (s.retirePass) := by
  unfold State.retirePass
  split
  · exact h
  · split
    · exact h
    · split
      · exact h.await
      · exact ((by split; exacts [h.upd, h] : State.Left _ _).modMcc).foldl (fun h => h.epiAdd)

theorem State.Left.fillAccs {s : State} {accs : List Acc} (h : r₀.Left s) : r₀.Left (s.fillAccs accs) := by
  unfold State.fillAccs
  exact h.foldl (fun h => (by split; exacts [h.fill, h] : State.Left _ _))

theorem State.Left.putWide {s : State} {d w : Nat} {v : Nat → Nat} (h : r₀.Left s) : r₀.Left (s.putWide d w v) := h.foldl (fun h => h.modSq)

theorem Squad.pend_todo (q : Squad) (tx : Bool) (l : Leaf) (key : Nat) (b : Byte) : (q.pend tx l key b).todo = q.todo := by
  unfold Squad.pend
  dsimp only
  split
  · rfl
  · rfl

theorem State.Left.pendBytes {va : Nat} {b : List Byte} {s : State} (h : r₀.Left s) : r₀.Left (s.pendBytes va b) := by
  induction b generalizing va s with
  | nil => exact h
  | cons x b ih =>
    refine ih ?_
    split
    · exact h.modSq (fun q => q.pend_todo _ _ _ _)
    · exact h

theorem State.Left.pendAll {s : State} {d w : Nat} {accs : List Acc} (h : r₀.Left s) : r₀.Left (s.pendAll d w accs) := h.foldl (fun h => h.pendBytes)
theorem State.Left.storeNow {s : State} {d w : Nat} {accs : List Acc} {lines new : List Nat} (h : r₀.Left s) :
    r₀.Left (s.storeNow d w accs lines new) := ((h.foldl (fun h => h.collapseCu)).makeWays).pendAll
theorem State.Left.updLane {s : State} {op ty d : Nat} {a : Acc} (h : r₀.Left s) : r₀.Left (s.updLane op ty d a) := (h.ite h.obtainA).foldInto

theorem State.Left.prefetch {level : Nat} {s : State} {a : Acc} (h : r₀.Left s) : r₀.Left (State.prefetch level s a) := by
  unfold State.prefetch
  split
  · exact h.ite (h.ask.ite (h.askData.ite (h.fill.ite h.fillL2)))
  · exact h

theorem State.Left.sendCmd {s : State} {kind : CmdKind} {place d : Nat} {g : List W} {mode : Nat} {two : Bool} {comp ea : Nat} {addend : W} {key : Nat} {lines : List Nat} (h : r₀.Left s) :
    r₀.Left (s.sendCmd kind place d g mode two comp ea addend key lines) := h.issueCmd.setS2
theorem State.Left.untype {s : State} {o : BarObj} (h : r₀.Left s) : r₀.Left (s.untype o) := h.upd.scrWrite

theorem State.Left.engineCollapse {s : State} {leaf : Nat → Option Leaf} {launch : Nat} {tide : Stamp} {die agent : Nat} {vas : List Nat}
    (h : r₀.Left s) : r₀.Left (s.engineCollapse leaf launch tide die agent vas).2 := by
  unfold State.engineCollapse
  generalize ([] : List (Nat × Stamp)) = l
  induction vas generalizing s l with
  | nil => exact h
  | cons va vas ih =>
    rw [List.foldl_cons]
    split
    · exact ih h l
    · split
      · exact ih h l
      · exact ih h.collapse _

theorem State.Left.drainQ {s : State} {p : MPass → Bool} (h : r₀.Left s) : r₀.Left (s.drainQ p) := h.foldl (fun h => h.retirePass)

end

end Sys2Proof.Machine

/-! # Proofs: plain loads and stores (07 R132 to R138, R143, R153) -/

namespace Sys2Proof.Machine

/-! ### From a body to its statement, for effects that leave the parts alone -/

theorem longTraps_intro {i : Long → Instr} {uni : Bool} {op9 : Nat} {t : Long → State → Option TrapInfo} (body : Long → State → Res)
    (hx : ∀ w s, exec (i w) s = s.issueLong uni op9 w (body w)) (hb : ∀ w r f, t w r = some f → body w r = .trap f) :
    LongTraps i uni op9 t := by
  intro w s f hgo h
  rw [hx]
  exact State.issue_trap hgo (hb w _ f h)

theorem Chk.fault_eq_some {c : Chk} {f : TrapInfo} (h : c.fault = some f) : c = .bad f := by
  cases c with
  | ok => exact absurd h nofun
  | miss va lane => exact absurd h nofun
  | bad t => exact congrArg Chk.bad (Option.some.inj h)

section Checked
variable {s : State} {k : AKind} {al : Nat} {accs : List Acc} {n : Need} {lines : List Nat} {go : Unit → Res}

theorem State.checked_ok (h : s.check k al accs = .ok) : s.checked k al accs go = go () := by rw [State.checked, h]
theorem State.checked_bad {f : TrapInfo} (h : s.check k al accs = .bad f) : s.checked k al accs go = .trap f := by rw [State.checked, h]

theorem State.open_iff : s.open_ n lines = true ↔ s.lacking n lines = none ∧ s.barredOf n lines = none := by
  rw [State.open_, Bool.and_eq_true, Option.isNone_iff_eq_none, Option.isNone_iff_eq_none]

theorem State.whenOpen_open (h : s.open_ n lines = true) : s.whenOpen n lines go = go () := by
  obtain ⟨hl, hb⟩ := State.open_iff.mp h
  rw [State.whenOpen, hl, hb]
  rfl

end Checked

/-! ### Loads -/

section Load
variable {s : State} {al : Nat} {accs : List Acc} {zero go : State → State}

/-- A doomed transaction reads zero. -/
theorem State.plainLoad_doomed (h : (s.inTx && s.sq.doomed.isSome) = true) : s.plainLoad al accs zero go = .done (zero s) := if_pos h

/-- Every check passes, and the data are there. -/
theorem State.plainLoad_ready (hd : (s.inTx && s.sq.doomed.isSome) = false) (hc : s.check .ld al accs = .ok)
    (hl : s.lacking .read (s.accLines accs) = none) (hf : s.forcedLines accs = [])
    (hr : s.farLack s.sq.cache (s.clNow / 32) (s.readsOf (accs.flatMap Acc.bytes)) = none) :
    s.plainLoad al accs zero go = .done ((go s).fillAccs accs) := by
  rw [State.plainLoad, hd, if_neg Bool.false_ne_true, State.checked_ok hc, hl]
  dsimp only
  rw [hf]
  dsimp only
  rw [hr]

theorem State.plainLoad_trap {f : TrapInfo} (h : (if (s.inTx && s.sq.doomed.isSome) = true then none else (s.check .ld al accs).fault) = some f) :
    s.plainLoad al accs zero go = .trap f := by
  split at h
  · exact absurd h nofun
  · next hd => rw [State.plainLoad, if_neg hd, State.checked_bad (Chk.fault_eq_some h)]

end Load

theorem exec_ld (w : Long) (s : State) : exec (.ld w) s = s.issueLong false 0x120 w (fun s =>
    s.plainLoad (wBytes (acW w.c)) (s.plainAccs w) (fun s => s.putWide w.d.toNat (acW w.c) (fun _ => 0))
      (fun t => t.putWide w.d.toNat (acW w.c) (fun l => t.loadNat (laneEa (s.plainAccs w) l) (wBytes (acW w.c))))) := rfl

theorem exec_ldblk (w : Long) (s : State) : exec (.ldblk w) s = s.issueLong false 0x126 w (fun s =>
    s.plainLoad 8 (s.blockAccs w)
      (fun t => (List.range (blkRegs s.fmtNow)).foldl (fun u i => u.modSq (fun q => q.setV t.lanes (w.d.toNat + i) (fun _ => 0))) t)
      (fun t => (List.range (blkRegs s.fmtNow)).foldl (fun u i => u.modSq (fun q => q.setV t.lanes (w.d.toNat + i) (fun l =>
        w32 (t.loadNat (laneEa (s.blockAccs w) l + 4 * i) 4)))) t)) := rfl

theorem State.Left.foldl_setV {r s : State} (h : r.Left s) (l : List Nat) (m : Mask) (d : Nat) (v : Nat → Nat → W) :
    r.Left (l.foldl (fun u i => u.modSq (fun q => q.setV m (d + i) (v i))) s) := h.foldl (fun h => h.modSq)

/-! ### Stores -/

/-- The body of st past its checks. -/
def State.storeBody (s : State) (w : Long) : Res :=
  if s.inTx then
    if 256 < (s.sq.pending.filter (·.tx)).length + (s.newOf w).length ||
        (!s.canPend s.sq.cache (s.newOf w) && decide (16 < (s.sq.pending.filter (·.tx)).length + (s.newOf w).length))
      then .done (s.modSq (fun q => q.doom txCapacity))
    else .done (s.storeNow w.d.toNat (acW w.c) (s.plainAccs w) (s.accLines (s.plainAccs w)) (s.newOf w))
  else if s.canPend s.sq.cache (s.newOf w) || s.setsClear (s.newOf w) then
    .done (s.storeNow w.d.toNat (acW w.c) (s.plainAccs w) (s.accLines (s.plainAccs w)) (s.newOf w))
  else if s.published then .hold
  else .park ((s.setTodo [.publish, .waitAck, .reissue]).runTodo)

/-- And with them. -/
def State.storeRes (s : State) (w : Long) : Res :=
  if s.inTx && s.sq.doomed.isSome then .done s
  else s.checked .st (wBytes (acW w.c)) (s.plainAccs w) (fun _ =>
    s.whenOpen .shared (s.ownA (s.accLines (s.plainAccs w))) (fun _ => s.storeBody w))

theorem exec_st (w : Long) (s : State) : exec (.st w) s = s.issueLong false 0x121 w (fun s => s.storeRes w) := rfl

section Store
variable {r : State} {w : Long}

theorem State.storeRes_doomed (h : (r.inTx && r.sq.doomed.isSome) = true) : r.storeRes w = .done r := if_pos h

theorem State.storeRes_trap {f : TrapInfo} (h : (if (r.inTx && r.sq.doomed.isSome) = true then none
    else (r.check .st (wBytes (acW w.c)) (r.plainAccs w)).fault) = some f) : r.storeRes w = .trap f := by
  split at h
  · exact absurd h nofun
  · next hd => rw [State.storeRes, if_neg hd, State.checked_bad (Chk.fault_eq_some h)]

/-- Every check passes, and the lines held update-only are free. -/
theorem State.storeRes_ready (hd : (r.inTx && r.sq.doomed.isSome) = false) (hc : r.check .st (wBytes (acW w.c)) (r.plainAccs w) = .ok)
    (ho : r.open_ .shared (r.ownA (r.accLines (r.plainAccs w))) = true) : r.storeRes w = r.storeBody w := by
  rw [State.storeRes, hd, if_neg Bool.false_ne_true, State.checked_ok hc, State.whenOpen_open ho]

theorem State.storeBody_plain (ht : r.inTx = false) (h : r.canPend r.sq.cache (r.newOf w) = true ∨ r.setsClear (r.newOf w) = true) :
    r.storeBody w = .done (r.storeNow w.d.toNat (acW w.c) (r.plainAccs w) (r.accLines (r.plainAccs w)) (r.newOf w)) := by
  rw [State.storeBody, ht, if_neg Bool.false_ne_true, if_pos (by rw [Bool.or_eq_true]; exact h)]

/-- A squad whose lines find no room publishes first, or waits for the allocation. -/
theorem State.storeBody_full (ht : r.inTx = false) (hc : r.canPend r.sq.cache (r.newOf w) = false) (hs : r.setsClear (r.newOf w) = false) :
    r.storeBody w = if r.published then .hold else .park ((r.setTodo [.publish, .waitAck, .reissue]).runTodo) := by
  rw [State.storeBody, ht, if_neg Bool.false_ne_true, hc, hs, Bool.or_false, if_neg Bool.false_ne_true]

/-- A transaction keeps at most 256 pending lines, 16 where they take overflow entries. -/
theorem State.storeBody_tx (ht : r.inTx = true) {fits : Bool} (hf : fits = decide ((r.sq.pending.filter (·.tx)).length + (r.newOf w).length ≤
      if r.canPend r.sq.cache (r.newOf w) then 256 else 16)) :
    r.storeBody w = .done (if fits then r.storeNow w.d.toNat (acW w.c) (r.plainAccs w) (r.accLines (r.plainAccs w)) (r.newOf w)
      else r.modSq (fun q => q.doom 3)) := by
  rw [State.storeBody, ht, if_pos rfl]
  generalize (r.sq.pending.filter (·.tx)).length + (r.newOf w).length = n at hf ⊢
  have full : (decide (256 < n) || (!r.canPend r.sq.cache (r.newOf w) && decide (16 < n))) = !fits := by
    subst hf
    cases r.canPend r.sq.cache (r.newOf w) with
    | true =>
      simp only [Bool.not_true, Bool.false_and, Bool.or_false, if_true, ← decide_not, decide_eq_decide]
      omega
    | false =>
      simp only [Bool.not_false, Bool.true_and, Bool.false_eq_true, if_false, ← decide_not, ← Bool.decide_or, decide_eq_decide]
      omega
  rw [full]
  cases fits with
  | true => rfl
  | false => rfl

end Store

/-- Settles O29: loads by what a doomed transaction, the checks and the lines decide; stores likewise, then by their room. -/
theorem loadsAndStores : Obligations.LoadsAndStores := by
  refine ⟨?_, ?_, ?_, ?_, ?_, ?_, ?_, ?_, ?_, ?_, ?_, ?_⟩
  · exact longRuns_intro _ exec_ld (fun w r ⟨hd, hc, hl, hf, hr⟩ => State.plainLoad_ready hd hc hl hf hr)
      (fun w r => (State.Left.fillAccs (State.Left.putWide (.refl r))).todoNow)
  · exact longRuns_intro _ exec_ld (fun w r hd => State.plainLoad_doomed hd) (fun w r => (State.Left.putWide (.refl r)).todoNow)
  · exact longTraps_intro _ exec_ld (fun w r f h => State.plainLoad_trap h)
  · exact longRuns_intro _ exec_ldblk (fun w r ⟨hd, hc, hl, hf, hr⟩ => State.plainLoad_ready hd hc hl hf hr)
      (fun w r => (State.Left.fillAccs (State.Left.foldl_setV (.refl r) _ _ _ _)).todoNow)
  · exact longRuns_intro _ exec_ldblk (fun w r hd => State.plainLoad_doomed hd)
      (fun w r => (State.Left.foldl_setV (.refl r) _ _ _ _).todoNow)
  · exact longTraps_intro _ exec_ldblk (fun w r f h => State.plainLoad_trap h)
  · exact longRuns_intro _ exec_st
      (fun w r ⟨ht, hc, ho, hp⟩ => (State.storeRes_ready (by rw [ht]; rfl) hc ho).trans (State.storeBody_plain ht hp))
      (fun w r => (State.Left.storeNow (.refl r)).todoNow)
  · intro fits
    refine longRuns_intro _ exec_st
      (fun w r ⟨ht, hd, hc, ho, hf⟩ => (State.storeRes_ready (by rw [hd, Option.isSome_none, Bool.and_false]) hc ho).trans (State.storeBody_tx ht hf))
      (fun w r => ?_)
    cases fits with
    | true => exact (State.Left.storeNow (.refl r)).todoNow
    | false => exact State.modSq_todoNow rfl
  · intro w s r hgo hr ht hc ho hp hs
    have hb := (State.storeRes_ready (by rw [ht]; rfl) hc ho).trans (State.storeBody_full ht hp hs)
    rw [exec_st, State.issueLong, State.issue_goes hgo, ← hr, hb]
    exact ⟨fun h => by rw [h]; rfl, fun h => by rw [h]; rfl⟩
  · exact longRuns_intro _ exec_st (fun w r hd => State.storeRes_doomed hd) (fun w r => rfl)
  · exact longTraps_intro _ exec_st (fun w r f h => State.storeRes_trap h)
  · exact longRuns_intro (fun w r => .done ((r.globalAccs w w.x.toInt 1).foldl (State.prefetch (acW w.c)) r)) (fun _ _ => rfl)
      (fun _ _ _ => rfl) (fun w r => (State.Left.foldl (.refl r) State.Left.prefetch).todoNow)

end Sys2Proof.Machine

/-! # Proofs: scratchpad accesses, ordered accesses, atomics and updates (07 R139 to R146) -/

namespace Sys2Proof.Machine

/-! ### Instructions with parts -/

section Ends
variable {uni : Bool} {op9 : Nat}

/-- A long form whose parts pass at once completes in its issue. -/
theorem longEnds_intro {i : Long → Instr} {pre : Long → State → State} {parts : Long → State → List MOp} {ok : Long → State → State → Prop}
    {e : Long → State → State → State} (body : Long → State → Res) (hx : ∀ w s, exec (i w) s = s.issueLong uni op9 w (body w))
    (hb : ∀ w r u, ok w r u → body w r = .done ((pre w r).setTodo (parts w r)))
    (hp : ∀ w r u, ok w r u → passTo (parts w r) u = some (e w r u)) : LongEnds i uni op9 pre parts ok e := by
  intro w s r u hgo hr hu hok
  rw [hx]
  exact State.issue_ends hgo hr hu (hb w r u hok) (hp w r u hok)

theorem shortEnds_intro {i : Short → Instr} {parts : List MOp} {ok : State → Prop} {e : State → State}
    (hx : ∀ w s, exec (i w) s = s.issueShort uni op9 w (fun r => r.andThen parts))
    (hp : ∀ u, ok u → passTo parts u = some (e u)) : ShortEnds i uni op9 parts ok e := by
  intro w s u hgo hu hok
  rw [hx]
  exact State.issue_ends hgo rfl hu rfl (hp u hok)

/-- The only part of an instruction runs from the state in which it begins. -/
theorem State.issue_part {s r u : State} {f : Form} (h : s.Goes f) (hr : r = s.atIssue f) {body : State → Res} {p : State} {l : List MOp}
    (hu : u = s.moved f.len (p.setTodo l)) (hb : body r = .done (p.setTodo l)) : s.issue f body = .next (runList l u) := by
  subst hr
  rw [State.issue_parts h hb, ← hu, State.runTodo, hu, State.moved_todoNow, State.setTodo_todoNow]

theorem passTo_one {m : MOp} {t u : State} (hm : m ≠ .reissue) (h : runOp m t = .ok u) : passTo [m] t = some u := by
  rw [passTo_cons hm h, passTo]

end Ends

/-! ### Scratchpad accesses -/

section Scratch
variable {s : State} {al : Nat} {st : Bool} {accs : List Acc} {go : Unit → Res}

theorem State.checkedScr_ok (h : s.checkPlace al st accs = none) : s.checkedScr al st accs go = go () := by rw [State.checkedScr, h]
theorem State.checkedScr_bad {f : TrapInfo} (h : s.checkPlace al st accs = some f) : s.checkedScr al st accs go = .trap f := by
  rw [State.checkedScr, h]

theorem State.absentWait_kind {keys : List Nat} {k : Wake} (h : s.absentWait keys = some k) : k.kind = 7 := by
  unfold State.absentWait at h
  split at h
  · exact absurd h nofun
  · exact Option.some.inj h ▸ rfl

end Scratch

/-- The spans of lds, the accesses of sts. -/
def State.ldsSpans (s : State) (w : Long) : List (Nat × Nat × Nat) := (s.ldsAccs w).map (fun a => (a.lane, s.aim a))
def State.stsSpans (s : State) (w : Long) : List (Nat × Nat × Nat × Nat) :=
  (s.ldsAccs w).map (fun a => ((s.aim a).1, (s.aim a).2, a.n, s.storeVal w.d.toNat (acW w.c) a.lane))

/-- The bodies of lds, and of sts. -/
def State.ldsRes (s : State) (w : Long) : Res :=
  if s.inTx && s.sq.doomed.isSome then .done (s.putWide w.d.toNat (acW w.c) (fun _ => 0))
  else s.checkedScr (wBytes (acW w.c)) false (s.ldsAccs w) (fun _ => s.andThen [.ldsDo w.d.toNat (acW w.c) (s.ldsSpans w)])
def State.stsRes (s : State) (w : Long) : Res :=
  s.checkedScr (wBytes (acW w.c)) true (s.ldsAccs w) (fun _ => s.andThen [.stsDo (s.stsSpans w)])

theorem exec_lds (w : Long) (s : State) : exec (.lds w) s = s.issueLong false 0x122 w (fun s => s.ldsRes w) := rfl
theorem exec_sts (w : Long) (s : State) : exec (.sts w) s = s.issueLong false 0x123 w (fun s => s.stsRes w) := rfl

section Bodies
variable {r : State} {w : Long} {op9 : Nat}

theorem State.ldsRes_ready (hd : (r.inTx && r.sq.doomed.isSome) = false) (hc : r.checkPlace (wBytes (acW w.c)) false (r.ldsAccs w) = none) :
    r.ldsRes w = .done (r.setTodo [.ldsDo w.d.toNat (acW w.c) (r.ldsSpans w)]) := by
  rw [State.ldsRes, hd, if_neg Bool.false_ne_true, State.checkedScr_ok hc, State.andThen]

theorem State.ldsRes_doomed (hd : (r.inTx && r.sq.doomed.isSome) = true) : r.ldsRes w = .done (r.putWide w.d.toNat (acW w.c) (fun _ => 0)) :=
  if_pos hd

theorem State.ldsRes_trap {f : TrapInfo} (h : (if (r.inTx && r.sq.doomed.isSome) = true then none
    else r.checkPlace (wBytes (acW w.c)) false (r.ldsAccs w)) = some f) : r.ldsRes w = .trap f := by
  split at h
  · exact absurd h nofun
  · next hd => rw [State.ldsRes, if_neg hd, State.checkedScr_bad h]

theorem State.fragLoad_ready (hd : (r.inTx && r.sq.doomed.isSome) = false) (hc : r.checkPlace 16 false (r.rowAccs w) = none) :
    r.fragLoad op9 w = .done (r.setTodo [.ldsmDo op9 w.c.toNat w.d.toNat ((r.rowAccs w).map r.aim) r.lanes]) := by
  rw [State.fragLoad, hd]
  exact (if_neg Bool.false_ne_true).trans (State.checkedScr_ok hc)

theorem State.fragLoad_doomed (hd : (r.inTx && r.sq.doomed.isSome) = true) : r.fragLoad op9 w =
    .done (r.modSq (fun q => (List.range (2 ^ (w.c.toNat % 4))).foldl (fun q f => q.setV r.lanes (w.d.toNat + f) (fun _ => 0)) q)) :=
  if_pos hd

theorem State.fragLoad_trap {f : TrapInfo} (h : (if (r.inTx && r.sq.doomed.isSome) = true then none else r.checkPlace 16 false (r.rowAccs w)) = some f) :
    r.fragLoad op9 w = .trap f := by
  split at h
  · exact absurd h nofun
  · next hd => exact (if_neg hd).trans (State.checkedScr_bad h)

end Bodies

/-- A fold of writes to vector registers leaves the parts alone. -/
theorem Squad.foldl_setV_todo (l : List Nat) (m : Mask) (d : Nat) (v : Nat → Nat → W) (q : Squad) :
    (l.foldl (fun q f => q.setV m (d + f) (v f)) q).todo = q.todo := by
  induction l generalizing q with
  | nil => rfl
  | cons a l ih => exact ih _

/-- The bytes that sts waits for. -/
theorem stsSpans_spans (r : State) (w : Long) : (r.stsSpans w).flatMap (fun a => spanKeys a.2.2.1 [(0, a.1, a.2.1)]) =
    (r.ldsAccs w).flatMap (fun a => (List.range a.n).map (fun i => (0, (r.aim a).1 + i, (r.aim a).2 + i))) := by
  rw [State.stsSpans, List.flatMap_map]
  exact congrArg (fun f => (r.ldsAccs w).flatMap f) (funext fun a => List.append_nil _)

theorem State.stsNow_spans (r u : State) (w : Long) : u.stsNow (r.stsSpans w) =
    (r.ldsAccs w).foldl (fun v a => v.scrWrite (r.aim a).2 (bytesLE a.n (r.storeVal w.d.toNat (acW w.c) a.lane))) u := by
  rw [State.stsNow, State.stsSpans, List.foldl_map]

theorem runOp_lds_landed {u : State} {d c : Nat} {acc : List (Nat × Nat × Nat)} (hl : u.Landed (spanKeys (wBytes c) acc))
    (hs : u.Sound (spanKeys (wBytes c) acc)) : runOp (.ldsDo d c acc) u = .ok (u.ldsNow d c acc) := by
  rw [runOp]; exact State.atScratch_read hl hs _ _

/-- A part of lds on a line that is not there yet waits, and meets poison once it is. -/
theorem runOp_lds_absent {u : State} {d c : Nat} {acc : List (Nat × Nat × Nat)} {k : Wake}
    (h : u.absentWait ((spanKeys (wBytes c) acc).map (·.2.2)) = some k) : runOp (.ldsDo d c acc) u = .wait k u (.ldsDo d c acc) := by
  rw [runOp, State.atScratch, h]

theorem runOp_lds_poison {u : State} {d c : Nat} {acc : List (Nat × Nat × Nat)} {p : Nat × Nat × Nat} (hl : u.Landed (spanKeys (wBytes c) acc))
    (h : (spanKeys (wBytes c) acc).find? (fun p => u.poison.any (fun q => q.gran == scrGran p.2.2)) = some p) :
    runOp (.ldsDo d c acc) u = .trap ⟨.poisonedData, 0, p.2.1, p.1⟩ u := by
  rw [runOp, State.atScratch, hl]
  dsimp only
  rw [if_pos rfl, h]

theorem runList_one_wait {m : MOp} {k : Wake} {t u : State} {n : MOp} (hr : m ≠ .reissue) (h : runOp m t = .wait k u n) :
    runList [m] t = u.block k [n] := runList_wait hr h

theorem runList_trap {m : MOp} {l : List MOp} {f : TrapInfo} {t u : State} (hr : m ≠ .reissue) (h : runOp m t = .trap f u) :
    runList (m :: l) t = u.rewind.takeTrap f u.curNow := by
  rw [runList, h]
  exact hr

/-- The two fragment loads. -/
theorem fragLoad_scratch {i : Long → Instr} {op9 : Nat} (hx : ∀ w s, exec (i w) s = s.issueLong false op9 w (fun s => s.fragLoad op9 w)) :
    LongEnds i false op9 (fun _ r => r) (fun w r => [.ldsmDo op9 w.c.toNat w.d.toNat ((r.rowAccs w).map r.aim) r.lanes])
      (fun w r u => (r.inTx && r.sq.doomed.isSome) = false ∧ r.checkPlace 16 false (r.rowAccs w) = none ∧
        u.Landed (spanKeys 16 ((List.range (r.rowAccs w).length).map (fun j => (j, nth (0, 0) ((r.rowAccs w).map r.aim) j)))) ∧
        u.Sound (spanKeys 16 ((List.range (r.rowAccs w).length).map (fun j => (j, nth (0, 0) ((r.rowAccs w).map r.aim) j)))))
      (fun w r u => u.ldsmNow op9 w.c.toNat w.d.toNat ((r.rowAccs w).map r.aim) r.lanes) ∧
    LongRuns i false op9 (fun _ r => (r.inTx && r.sq.doomed.isSome) = true) (fun w r =>
      r.modSq (fun q => (List.range (2 ^ (w.c.toNat % 4))).foldl (fun q f => q.setV r.lanes (w.d.toNat + f) (fun _ => 0)) q)) ∧
    LongTraps i false op9 (fun w r => if r.inTx && r.sq.doomed.isSome then none else r.checkPlace 16 false (r.rowAccs w)) := by
  refine ⟨?_, ?_, ?_⟩
  · refine longEnds_intro _ hx (fun w r u ⟨hd, hc, _, _⟩ => State.fragLoad_ready hd hc) (fun w r u ⟨_, _, hl, hs⟩ => passTo_one nofun ?_)
    rw [← List.length_map (f := r.aim)] at hl hs
    rw [runOp]; exact State.atScratch_read hl hs _ _
  · exact longRuns_intro _ hx (fun w r hd => State.fragLoad_doomed hd)
      (fun w r => State.modSq_todoNow (Squad.foldl_setV_todo _ _ _ (fun _ _ => 0) _))
  · exact longTraps_intro _ hx (fun w r f h => State.fragLoad_trap h)

/-- Settles O32: each access once its bytes are there, or as its first part waits or traps. -/
theorem scratchAccesses : Obligations.ScratchAccesses := by
  refine ⟨?_, ?_, ?_, ?_, ?_, ?_, ?_⟩
  · exact longEnds_intro _ exec_lds (fun w r u ⟨hd, hc, _, _⟩ => State.ldsRes_ready hd hc)
      (fun w r u ⟨_, _, hl, hs⟩ => passTo_one nofun (runOp_lds_landed hl hs))
  · exact longRuns_intro _ exec_lds (fun w r hd => State.ldsRes_doomed hd) (fun w r => (State.Left.putWide (.refl r)).todoNow)
  · exact longTraps_intro _ exec_lds (fun w r f h => State.ldsRes_trap h)
  · refine longEnds_intro _ exec_sts (fun w r u ⟨hc, _⟩ => State.checkedScr_ok hc) (fun w r u ⟨_, hl⟩ => passTo_one nofun ?_)
    rw [← State.stsNow_spans]
    rw [← stsSpans_spans] at hl
    rw [runOp]; exact State.atScratch_write hl _ _
  · exact longTraps_intro _ exec_sts (fun w r f h => State.checkedScr_bad h)
  · intro i hi
    simp only [List.mem_cons, List.not_mem_nil, or_false] at hi
    rcases hi with rfl | rfl
    · exact fragLoad_scratch (fun _ _ => rfl)
    · exact fragLoad_scratch (fun _ _ => rfl)
  · intro w s r u m spans hgo hr hd hc hm hu hsp
    subst hm hsp
    have run := State.issue_part (body := fun s => s.ldsRes w) hgo hr hu (State.ldsRes_ready hd hc)
    rw [exec_lds, State.issueLong, run]
    exact ⟨fun k hk => ⟨State.absentWait_kind hk, congrArg _ (runList_one_wait nofun (runOp_lds_absent hk))⟩,
      fun p hl hp => congrArg _ (runList_trap nofun (runOp_lds_poison hl hp))⟩

/-! ### Ordered accesses -/

section Ordered
variable {t : State}

theorem exec_ldAcq (w : Long) (s : State) : exec (.ldAcq w) s = s.issueLong false 0x127 w (fun s =>
    s.checked .acq (wBytes (acW w.c)) (s.plainAccs w) (fun _ =>
      s.andThen [.acqRead w.d.toNat (acW w.c) ((s.plainAccs w).map (fun a => (a.lane, a.ea.toNat))), .snap])) := rfl

theorem exec_stRel (w : Long) (s : State) : exec (.stRel w) s = s.issueLong false 0x128 w (fun s =>
    s.checked .rel (wBytes (acW w.c)) (s.plainAccs w) (fun _ =>
      s.andThen [.publish, .waitAck, .relWrite ((s.plainAccs w).map (fun a =>
        (a.lane, a.ea.toNat, a.n, s.storeVal w.d.toNat (acW w.c) a.lane)))])) := rfl

/-- The parts of atom. -/
def State.atomParts (s : State) (w : Long) (acq rel : Bool) : List MOp :=
  (if rel then [.publish, .waitAck] else []) ++ [.atomDo (xSub w.x % 16) (xType w.x) w.d.toNat acq rel
    ((s.wordAccs w).map (fun a => (a.lane, a.ea.toNat)))] ++ (if acq then [.snap] else [])

theorem exec_atom (w : Long) (s : State) : exec (.atom w) s = s.issueLong false 0x129 w (fun s =>
    s.checked .atom (wordBytes (xType w.x)) (s.wordAccs w) (fun _ =>
      s.andThen (s.atomParts w ((xSub w.x).testBit 4) ((xSub w.x).testBit 5)))) := rfl

theorem exec_upd (w : Long) (s : State) : exec (.upd w) s = s.issueLong false 0x12A w (fun s =>
    s.checked .upd (wordBytes (xType w.x)) (s.wordAccs w) (fun _ =>
      s.whenOpen (.upd (xSub w.x) (xType w.x)) (s.accLines (s.wordAccs w)) (fun _ =>
        if ((s.accLines (s.wordAccs w)).filter (fun l => !s.holdsA s.sq.cache l (xSub w.x) (xType w.x))).all (s.roomOne s.sq.cache) then
          .done ((s.wordAccs w).foldl (fun s a => s.updLane (xSub w.x) (xType w.x) w.d.toNat a) s)
        else .hold))) := rfl

theorem passTo_acqRead {d c : Nat} {acc : List (Nat × Nat)} (h : t.Reaches .acq .shared (acc.map (·.2))) (l : List MOp) :
    passTo (.acqRead d c acc :: l) t = passTo l (t.acqNow d c acc) := 
  passTo_cons nofun (by rw [runOp]; exact h.atLines _ _ _)

theorem passTo_relWrite {acc : List (Nat × Nat × Nat × Nat)} (h : t.Reaches .rel .excl (acc.map (·.2.1))) (l : List MOp) :
    passTo (.relWrite acc :: l) t = passTo l (t.relNow acc) := 
  passTo_cons nofun (by rw [runOp]; exact h.atLines _ _ _)

theorem passTo_atomDo {op ty d : Nat} {acq rel : Bool} {acc : List (Nat × Nat)} (h : t.Reaches .atom .excl (acc.map (·.2))) (l : List MOp) :
    passTo (.atomDo op ty d acq rel acc :: l) t = passTo l (t.atomNow op ty d acq rel acc) := 
  passTo_cons nofun (by rw [runOp]; exact h.atLines _ _ _)

theorem passTo_snap_end (h : t.SnapsNow) : passTo [.snap] t = some t.snapped := by rw [passTo_snap h, passTo]

/-- The publication of an atom with .rel, and its Snap with .acq. -/
theorem passTo_publishIf {b : Bool} (h : b = true → t.PubsNow) (l : List MOp) :
    passTo ((if b then [.publish, .waitAck] else []) ++ l) t = passTo l (if b then t.publish else t) := by
  cases b with
  | true => exact passTo_publish (h rfl) l
  | false => rfl

theorem passTo_snapIf {b : Bool} (h : b = true → t.SnapsNow) : passTo (if b then [.snap] else []) t = some (if b then t.snapped else t) := by
  cases b with
  | true => exact passTo_snap_end (h rfl)
  | false => rfl

end Ordered

theorem all_filter_room {l : List Nat} {held room : Nat → Bool} (h : ∀ a ∈ l, held a = false → room a = true) :
    (l.filter (fun a => !held a)).all room = true := by
  simp only [List.all_filter, List.all_eq_true, Bool.not_not, Bool.or_eq_true]
  intro a ha
  cases hh : held a with
  | true => exact .inl rfl
  | false => exact .inr (h a ha hh)

/-- The fault of a check is the trap of the instruction. -/
theorem checked_longTraps {i : Long → Instr} {uni : Bool} {op9 : Nat} {k : AKind} {al : Long → Nat} {accs : Long → State → List Acc} {go : Long → State → Res}
    (hx : ∀ w s, exec (i w) s = s.issueLong uni op9 w (fun r => r.checked k (al w) (accs w r) (fun _ => go w r))) :
    LongTraps i uni op9 (fun w r => (r.check k (al w) (accs w r)).fault) :=
  longTraps_intro _ hx (fun _ _ _ h => State.checked_bad (Chk.fault_eq_some h))

/-- Settles O33: each access past its checks runs its parts; those pass where the conditions on lines, Publish and Snap hold. -/
theorem orderedAccesses : Obligations.OrderedAccesses := by
  refine ⟨?_, ?_, checked_longTraps exec_ldAcq, ?_, ?_, checked_longTraps exec_stRel, ?_, checked_longTraps exec_atom, ?_, checked_longTraps exec_upd⟩
  · exact longParts_intro _ exec_ldAcq (fun w r hc => State.checked_ok hc)
  · refine longEnds_intro _ exec_ldAcq (fun w r u ⟨hc, _, _⟩ => State.checked_ok hc) (fun w r u ⟨_, hl, hs⟩ => ?_)
    rw [passTo_acqRead (by rw [List.map_map]; exact hl), passTo_snap_end hs]
  · exact longParts_intro _ exec_stRel (fun w r hc => State.checked_ok hc)
  · refine longEnds_intro _ exec_stRel (fun w r u ⟨hc, _, _⟩ => State.checked_ok hc) (fun w r u ⟨_, hp, hl⟩ => ?_)
    rw [passTo_publish hp, passTo_relWrite (by rw [List.map_map]; exact hl), passTo]
  · refine fun acq rel => ⟨?_, ?_⟩
    · exact longParts_intro _ exec_atom (fun w r ⟨ha, hr, hc⟩ => (State.checked_ok hc).trans (by rw [ha, hr]; rfl))
    · refine longEnds_intro _ exec_atom (fun w r u ⟨ha, hr, hc, _⟩ => (State.checked_ok hc).trans (by rw [ha, hr]; rfl))
        (fun w r u ⟨_, _, _, hp, hl, hs⟩ => ?_)
      rw [List.append_assoc, passTo_publishIf hp, List.singleton_append, passTo_atomDo (by rw [List.map_map]; exact hl), passTo_snapIf hs]
  · refine longRuns_intro _ exec_upd (fun w r ⟨hc, ho, hr⟩ => ?_) (fun w r => (State.Left.foldl (.refl r) State.Left.updLane).todoNow)
    rw [State.checked_ok hc, State.whenOpen_open ho, if_pos (all_filter_room hr)]

end Sys2Proof.Machine

/-! # Proofs: phases, transactions and the rules of parts (07 R151 to R155) -/

namespace Sys2Proof.Machine

/-! ### Transactions -/

theorem exec_txabort (w : Short) (s : State) : exec (.txabort w) s = s.issueShort true 0x0A5 w (fun s =>
    .done (s.leaveTx (match s.sq.doomed with | some c => c | none => 4 + 256 * w.b.toNat) false)) := rfl

/-- The body of txend. -/
def State.txEnd (s : State) : Res :=
  match s.sq.doomed, s.txLines with
  | some cause, _ => .done (s.leaveTx cause false)
  | none, [] => .done ((s.cuStamp s.sq.cache).2.leaveTx 0 true |>.observe (s.cuStamp s.sq.cache).1)
  | none, ls => (s.cuStamp s.sq.cache).2.andThen [.txLock (s.cuStamp s.sq.cache).1 ls]

theorem exec_txend (w : Short) (s : State) : exec (.txend w) s = s.issueShort true 0x0A4 w (fun s => s.txEnd) := rfl

section TxEnd
variable {s : State}

theorem State.txEnd_doomed {c : Nat} (h : s.sq.doomed = some c) : s.txEnd = .done (s.leaveTx c false) := by rw [State.txEnd, h]

theorem State.txEnd_empty (hd : s.sq.doomed = none) (hl : s.txLines = []) :
    s.txEnd = .done (((s.cuStamp s.sq.cache).2.leaveTx 0 true).observe (s.cuStamp s.sq.cache).1) := by rw [State.txEnd, hd, hl]

theorem State.txEnd_wrote (hd : s.sq.doomed = none) (hl : s.txLines ≠ []) :
    s.txEnd = .done ((s.cuStamp s.sq.cache).2.setTodo [.txLock (s.cuStamp s.sq.cache).1 s.txLines]) := by
  rw [State.txEnd, hd]
  cases h : s.txLines with
  | nil => exact absurd h hl
  | cons l ls => rfl

end TxEnd

/-- What leaving a transaction leaves. -/
theorem State.leaveTx_scc {r : State} (h : r.isM = false) (c : Nat) (ok : Bool) : (r.leaveTx c ok).scc = ok := by
  have hm : (r.leaveTx c ok).isM = false := h
  rw [State.scc, hm, if_neg Bool.false_ne_true]
  rfl

theorem State.leaveTx_pending (r : State) (c : Nat) (ok : Bool) : ∀ p ∈ (r.leaveTx c ok).sq.pending, p.tx = false := by
  intro p hp
  have := (List.mem_filter.mp (show p ∈ r.sq.pending.filter (fun p => !p.tx) from hp)).2
  rwa [Bool.not_eq_true'] at this

/-- Settles O35: the bodies, by whether the transaction is doomed and has written. -/
theorem phasesAndTransactions : Obligations.PhasesAndTransactions := by
  refine ⟨?_, ?_, ?_, ?_, ?_, ?_, ?_, ?_, ?_, ?_⟩
  · exact shortParts_intro (fun _ r => r.andThen [.publish, .waitAck]) (fun _ _ => rfl) (fun _ _ => rfl)
  · exact shortParts_intro (fun _ r => r.andThen [.snap]) (fun _ _ => rfl) (fun _ _ => rfl)
  · exact shortParts_intro (fun _ r => r.andThen [.publish, .waitAck, .snap]) (fun _ _ => rfl) (fun _ _ => rfl)
  · exact shortParts_intro (fun _ r => r.andThen [.publish, .waitAck, .snap, .txEnter]) (fun _ _ => rfl) (fun _ _ => rfl)
  · exact fun c => shortRuns_intro _ exec_txend (fun w r h => State.txEnd_doomed h) (fun w r => (State.Left.leaveTx (.refl r)).todoNow)
  · exact shortRuns_intro _ exec_txend (fun w r ⟨hd, hl⟩ => State.txEnd_empty hd hl)
      (fun w r => (State.Left.observe (State.Left.leaveTx (State.Left.cuStamp (.refl r)))).todoNow)
  · intro w s r u hgo hr hd hl hp
    subst hr
    rw [exec_txend]
    exact State.issue_ends hgo rfl rfl (State.txEnd_wrote hd hl) hp
  · exact fun c => shortRuns_intro _ exec_txabort (fun w r h => by rw [h]) (fun w r => (State.Left.leaveTx (.refl r)).todoNow)
  · exact shortRuns_intro _ exec_txabort (fun w r h => by rw [h]) (fun w r => (State.Left.leaveTx (.refl r)).todoNow)
  · exact fun r c ok h => ⟨rfl, rfl, rfl, State.leaveTx_scc h c ok, State.leaveTx_pending r c ok⟩

/-! ### The rules of parts -/

section Rules
variable {t u v : State} {m n : MOp} {l k : List MOp}

theorem runList_more (hr : m ≠ .reissue) (h : runOp m t = .more u n) : runList (m :: l) t = u.stay (n :: l) := by
  rw [runList, h]
  exact hr

theorem runList_redo (hr : m ≠ .reissue) (h : runOp m t = .redo u) : runList (m :: l) t = u.sampleBack.rewind.again := by
  rw [runList, h]
  exact hr

/-- A part that does not pass stops the list. -/
theorem passTo_stop (hm : m ≠ .reissue) (h : ∀ v, runOp m t ≠ .ok v) : passTo (m :: l) t = none := by
  rw [passTo]
  · cases ho : runOp m t with
    | ok v => exact absurd ho (h v)
    | _ => rfl
  · exact hm

/-- The first of parts that pass has passed. -/
theorem passTo_eq_some (hm : m ≠ .reissue) (h : passTo (m :: l) t = some u) : ∃ v, runOp m t = .ok v ∧ passTo l v = some u := by
  by_contra hn
  have stop : passTo (m :: l) t = none := passTo_stop hm (fun v hv => hn ⟨v, hv, (passTo_cons hm hv).symm.trans h⟩)
  exact Option.some_ne_none u (h.symm.trans stop)

/-- Parts that pass hand over to those behind them. -/
theorem runList_append (h : passTo l t = some u) : runList (l ++ k) t = runList k u := by
  induction l generalizing t with
  | nil => rw [passTo, Option.some.injEq] at h; rw [h, List.nil_append]
  | cons m l ih =>
    by_cases hm : m = .reissue
    · rw [hm, passTo] at h; exact absurd h nofun
    · obtain ⟨v, ho, hv⟩ := passTo_eq_some hm h
      rw [List.cons_append, runList_ok hm ho, ih hv]

end Rules

section Part
variable {t : State}

/-- Acknowledgements are waited for. -/
theorem runOp_waitAck (h : t.ackNow ≠ 0) : runOp .waitAck t = .wait ⟨0x0B, 0, 0⟩ t .waitAck := by rw [runOp, if_neg h]
theorem passTo_waitAck (h : t.ackNow = 0) (l : List MOp) : passTo (.waitAck :: l) t = passTo l t := passTo_cons nofun (by rw [runOp, if_pos h])

/-- A Snap waits for the slack water. -/
theorem runOp_snap_wait (h : ¬ t.SnapsNow) : runOp .snap t = .wait ⟨0x10, t.settle.obsNow.tick, t.settle.obsNow.src⟩ t.settle .snap := by
  rw [runOp]
  exact if_neg h

theorem State.renew_own (h : t.isM = false) : t.renew.sq.own = [] ∧
    t.renew.sq.tide = if t.sq.tx then t.sq.tide else t.sq.tide.max (t.slackFor t.ctxNow) := by
  rw [State.renew, h, if_neg Bool.false_ne_true]
  exact ⟨rfl, rfl⟩

/-- A Publish without room, or behind an epoch, is not made yet. -/
theorem runOp_publish_room (h : t.ackRoom t.sending = false) : runOp .publish t = .more t .publish := by
  rw [runOp, State.publishStep, h]
  rfl
theorem runOp_publish_epoch {l : Nat} (h : t.ackRoom t.sending = true) (hb : t.barredOf .shared t.preEpochs = some l) :
    runOp .publish t = .more (t.await .shared l) .publish := by
  rw [runOp, State.publishStep, h, hb]
  rfl
theorem runOp_publish_free (h : t.ackRoom t.sending = true) (hb : t.barredOf .shared t.preEpochs = none) : runOp .publish t = .ok t.publish := by
  rw [runOp, State.publishStep, h, hb]
  rfl

/-- An ordered access behind a busy line takes its turn; it asks for a line of another package. -/
theorem State.atLines_barred {k : AKind} {n : Need} {b : Bool} {vas ls : List Nat} {l : Nat} {m : MOp} {go : State → State}
    (h : t.linesOf k vas = some ls) (hg : t.lacking n ls = none) (hb : t.barredOf n ls = some l) :
    t.atLines k n b vas m go = .more (t.await n l) m := by
  rw [State.atLines, h]
  dsimp only
  rw [hg]
  dsimp only
  rw [hb]

theorem State.atLines_far {k : AKind} {n : Need} {vas ls : List Nat} {l : Nat} {m : MOp} {go : State → State}
    (h : t.linesOf k vas = some ls) (hg : t.lacking n ls = some l) :
    t.atLines k n true vas m go = .wait ⟨0x0C, l * 128, 0⟩ (t.ask n l) .reissue := by
  rw [State.atLines, h]
  dsimp only
  rw [hg]
  rfl

end Part

/-! ### The lock phase -/

section Locks
variable {t : State} {c : Stamp} {l : Nat}

theorem runOp_txLock_doomed {cause : Nat} {ls : List Nat} (h : t.sq.doomed = some cause) : runOp (.txLock c ls) t = .ok (t.leaveTx cause false) := by
  rw [runOp]
  unfold State.txLockStep
  rw [h]

theorem runOp_txCommit_doomed {cause : Nat} (h : t.sq.doomed = some cause) : runOp (.txCommit c) t = .ok (t.leaveTx cause false) := by
  rw [runOp, State.txCommitStep, h]

/-- The state in which the squad holds a line's lock, its epoch collapsed. -/
def State.lockTaken (t : State) (c : Stamp) (l : Nat) : State :=
  (({ t with locks := t.locks ++ [⟨l, t.sq.id, c, false⟩] } : State).collapseCu t.sq.cache l).2

/-- The last line of a lock phase, free for the squad. -/
theorem runOp_txLock_last (hd : t.sq.doomed = none) (hg : t.granted .event l = true) (hh : t.held t.sq.id .event l = false)
    (hk : t.locks.find? (fun k => k.line == l && k.squad != t.sq.id) = none) :
    runOp (.txLock c [l]) t = if (t.lockTaken c l).sq.tide.lt ((t.lockTaken c l).newest l) then .ok ((t.lockTaken c l).leaveTx txConflict false)
      else .more { t.lockTaken c l with locks := modAll (·.squad == (t.lockTaken c l).sq.id) (fun k => { k with committing := true }) (t.lockTaken c l).locks }
        (.txCommit c) := by
  rw [runOp]
  unfold State.txLockStep
  rw [hd]
  dsimp only
  rw [hg, hh, hk]
  rfl

theorem runOp_txCommit_free (hd : t.sq.doomed = none) (hs : ∀ p ∈ t.sq.pending, p.tx = true → t.stalls p.line = false) :
    runOp (.txCommit c) t = .ok (t.txCommitNow c) := by
  have none : (t.sq.pending.filter (·.tx)).find? (fun p => t.stalls p.line) = none := by
    rw [List.find?_eq_none]
    intro p hp
    obtain ⟨hp, ht⟩ := List.mem_filter.mp hp
    rw [hs p hp ht]
    exact Bool.false_ne_true
  rw [runOp, State.txCommitStep, hd]
  dsimp only
  rw [none]

/-- An observation leaves the transaction fields alone. -/
theorem State.observe_tx (s : State) (st : Stamp) :
    (s.observe st).sq.tx = s.sq.tx ∧ (s.observe st).sq.doomed = s.sq.doomed ∧ (s.observe st).sq.txcode = s.sq.txcode := by
  rw [State.observe]
  split
  · exact ⟨rfl, rfl, rfl⟩
  · exact ⟨rfl, rfl, rfl⟩

theorem State.txCommitNow_over (t : State) (c : Stamp) :
    (t.txCommitNow c).sq.tx = false ∧ (t.txCommitNow c).sq.doomed = none ∧ (t.txCommitNow c).sq.txcode = 0 := State.observe_tx _ _

end Locks

/-- Settles O36: what each part does, then the rule for a list of parts. -/
theorem partRules : Obligations.PartRules := by
  refine ⟨?_, ?_, ?_, ?_, ?_, ?_, ?_, ?_, ?_, ?_⟩
  · exact fun t => ⟨fun h => by rw [passTo_waitAck h, passTo], fun h => runList_one_wait nofun (runOp_waitAck h)⟩
  · exact fun t => ⟨fun h => passTo_snap_end h, fun h => runList_one_wait nofun (runOp_snap_wait h)⟩
  · exact fun t h => State.renew_own h
  · exact fun t => ⟨fun h hb => passTo_one nofun (runOp_publish_free h hb), fun h => runList_more nofun (runOp_publish_room h),
      fun l h hb => runList_more nofun (runOp_publish_epoch h hb), passTo_one nofun (by rw [runOp])⟩
  · exact fun t acc ls l h hg hb => runList_more nofun (by rw [runOp]; exact State.atLines_barred h hg hb)
  · exact fun t d c acc ls l h => ⟨fun hg hb => runList_more nofun (by rw [runOp]; exact State.atLines_barred h hg hb),
      fun hg => runList_wait nofun (by rw [runOp]; exact State.atLines_far h hg)⟩
  · intro t u c l hd hg hh hk hu
    have run := runOp_txLock_last (c := c) hd hg hh hk
    have hu' : t.lockTaken c l = u := hu.symm
    rw [hu'] at run
    exact ⟨fun h => passTo_one nofun (run.trans (if_pos h)), fun h => runList_more nofun (run.trans (if_neg (by rw [h]; exact Bool.false_ne_true)))⟩
  · exact fun t c hd hs => ⟨passTo_one nofun (runOp_txCommit_free hd hs), State.txCommitNow_over t c⟩
  · exact fun t c cause ls h => ⟨passTo_one nofun (runOp_txCommit_doomed h), passTo_one nofun (runOp_txLock_doomed h)⟩
  · intro l l' m m' t u v hp hm
    refine ⟨fun k h => ?_, fun h => ?_, fun h => ?_, fun f h => ?_⟩
    · rw [runList_append hp, runList_wait hm h]
    · rw [runList_append hp, runList_more hm h]
    · rw [runList_append hp, runList_redo hm h]
    · rw [runList_append hp, runList_trap hm h]

end Sys2Proof.Machine

/-! # Proofs: rings and range operations (07 R148 to R150, R156, R157) -/

namespace Sys2Proof.Machine

/-! ### Rings -/

section Ring
variable {s : State} {va : Nat} {k : AKind} {slots : RingBlk → List Acc} {go : State → Res}

/-- The control block of a ring at an address. -/
def ringSpan (va : Nat) : List Acc := [⟨0, (va : Int), 64⟩]

theorem State.ringOp_span (s : State) (va : Nat) (k : AKind) (slots : RingBlk → List Acc) (go : State → Res) :
    s.ringOp va k slots go = s.checked .ring 64 (ringSpan va) (fun _ => s.whenOpen .event (s.accLines (ringSpan va)) (fun _ =>
      if !((s.homeReady (s.accLines (ringSpan va))).ringBlk va).ok then .trap ⟨.ringfmt, 0, 0, 0⟩
      else (s.homeReady (s.accLines (ringSpan va))).checked k 8 (slots ((s.homeReady (s.accLines (ringSpan va))).ringBlk va)) (fun _ =>
        (s.homeReady (s.accLines (ringSpan va))).whenOpen .event ((s.homeReady (s.accLines (ringSpan va))).accLines
            (ringSpan va ++ slots ((s.homeReady (s.accLines (ringSpan va))).ringBlk va)))
          (fun _ => go ((s.homeReady (s.accLines (ringSpan va))).homeReady ((s.homeReady (s.accLines (ringSpan va))).accLines
            (ringSpan va ++ slots ((s.homeReady (s.accLines (ringSpan va))).ringBlk va)))))))) := rfl

theorem State.ringOp_bad {f : TrapInfo} (h : s.check .ring 64 (ringSpan va) = .bad f) : s.ringOp va k slots go = .trap f := by
  rw [State.ringOp_span, State.checked_bad h]

theorem State.ringOp_format (hc : s.check .ring 64 (ringSpan va) = .ok) (ho : s.open_ .event (s.accLines (ringSpan va)) = true)
    (hb : ((s.homeReady (s.accLines (ringSpan va))).ringBlk va).ok = false) : s.ringOp va k slots go = .trap ⟨.ringfmt, 0, 0, 0⟩ := by
  rw [State.ringOp_span, State.checked_ok hc, State.whenOpen_open ho, hb]
  rfl

/-- A ring whose block and slots pass their checks is acted on. -/
theorem State.ringOp_ready {h : State} {b : RingBlk} {sl : List Acc} (hc : s.check .ring 64 (ringSpan va) = .ok)
    (ho : s.open_ .event (s.accLines (ringSpan va)) = true) (hh : h = s.homeReady (s.accLines (ringSpan va))) (hb : b = h.ringBlk va)
    (hok : b.ok = true) (hsl : sl = slots b) (hs : h.check k 8 sl = .ok) (hl : h.open_ .event (h.accLines (ringSpan va ++ sl)) = true) :
    s.ringOp va k slots go = go (h.homeReady (h.accLines (ringSpan va ++ sl))) := by
  rw [State.ringOp_span, State.checked_ok hc, State.whenOpen_open ho, ← hh, ← hb, hok, Bool.not_true, if_neg Bool.false_ne_true, ← hsl,
    State.checked_ok hs, State.whenOpen_open hl]

end Ring

/-- The slots that enq writes, and deq reads. -/
def State.enqSlots (s : State) (b : RingBlk) : List Acc :=
  if b.tail - b.head + (lanesOf s.lanes).length ≤ 2 ^ b.cap then b.slots b.tail (lanesOf s.lanes) else []
def State.deqSlots (s : State) (b : RingBlk) : List Acc := b.slots b.head ((lanesOf s.lanes).take (b.tail - b.head))

/-- What enq does once its ring is there. -/
def State.enqThen (s : State) (w : Long) (t : State) : Res :=
  if s.published then .done (t.enqAt (s.spair w.b.toNat).toNat ((lanesOf s.lanes).map (fun l => t.sq.v2 w.d.toNat l)))
  else .park ((s.setTodo [.publish, .waitAck, .reissue]).runTodo)

theorem exec_enq (w : Long) (s : State) : exec (.enq w) s = s.issueLong true 0x0A6 w (fun s =>
    s.ringOp (s.spair w.b.toNat).toNat .slot s.enqSlots (s.enqThen w)) := rfl

theorem exec_deq (w : Long) (s : State) : exec (.deq w) s = s.issueLong true 0x0A7 w (fun s =>
    s.ringOp (s.spair w.b.toNat).toNat .ring s.deqSlots (fun t =>
      (t.deqAt (s.spair w.b.toNat).toNat w.d.toNat w.c.toNat s.lanes).andThen [.snap])) := rfl

theorem State.ringAcc_span (s : State) (w : Long) : s.ringAcc w = ringSpan (s.spair w.b.toNat).toNat := rfl

/-- The refusals of a ring operation. -/
theorem ring_longTraps {i : Long → Instr} {op9 : Nat} {k : AKind} {slots : State → RingBlk → List Acc} {go : Long → State → State → Res}
    (hx : ∀ w s, exec (i w) s = s.issueLong true op9 w (fun s => s.ringOp (s.spair w.b.toNat).toNat k (slots s) (go w s))) :
    LongTraps i true op9 (fun w r => (r.check .ring 64 (r.ringAcc w)).fault) ∧
    LongTraps i true op9 (fun w r => if r.check .ring 64 (r.ringAcc w) = .ok ∧ r.open_ .event (r.accLines (r.ringAcc w)) = true ∧
        ((r.homeReady (r.accLines (r.ringAcc w))).ringBlk (r.spair w.b.toNat).toNat).ok = false
      then some ⟨.ringfmt, 0, 0, 0⟩ else none) := by
  refine ⟨longTraps_intro _ hx (fun w r f h => State.ringOp_bad (Chk.fault_eq_some h)), longTraps_intro _ hx (fun w r f h => ?_)⟩
  split at h
  · next hf =>
    obtain ⟨hc, ho, hb⟩ := hf
    rw [State.ringOp_format hc ho hb, Option.some.inj h]
  · exact absurd h nofun

theorem State.Left.homeReady {r s : State} {lines : List Nat} (h : r.Left s) : r.Left (s.homeReady lines) :=
  h.foldl (fun h => h.collapseCu.recallOthers)

section Full
variable {t : State}

theorem State.takeStamp_mem (s : State) (die agent : Nat) : (s.takeStamp die agent).2.mem = s.mem ∧ (s.takeStamp die agent).2.pubs = s.pubs :=
  ⟨rfl, rfl⟩

theorem State.stampOver_mem (s : State) (die agent : Nat) (lines : List Nat) :
    (s.stampOver die agent lines).2.mem = s.mem ∧ (s.stampOver die agent lines).2.pubs = s.pubs := by
  unfold State.stampOver
  constructor
  all_goals
    extract_lets
    split
    all_goals rfl

theorem State.setScc_same (s : State) (b : Bool) : (s.setScc b).scc = b ∧ (s.setScc b).mem = s.mem ∧ (s.setScc b).pubs = s.pubs := by
  unfold State.setScc State.scc
  split
  · next h => exact ⟨if_pos h, rfl, rfl⟩
  · next h => exact ⟨if_neg h, rfl, rfl⟩

/-- A ring without room for the entries stays as it is. -/
theorem State.enqAt_full {va : Nat} {es : List D} (h : 2 ^ (t.ringBlk va).cap < (t.ringBlk va).tail - (t.ringBlk va).head + es.length) :
    (t.enqAt va es).scc = false ∧ (t.enqAt va es).mem = t.mem ∧ (t.enqAt va es).pubs = t.pubs := by
  rw [State.enqAt]
  dsimp only
  rw [if_pos h]
  obtain ⟨hs, hm, hp⟩ := State.setScc_same (t.stampOver (t.sq.cache / 128) (t.sq.cache % 128) (lineOf (t.keyOf t.sq.ctx va) ::
    (List.range es.length).map (fun i => lineOf (t.keyOf t.sq.ctx ((t.ringBlk va).slot ((t.ringBlk va).tail + i)))))).2 false
  obtain ⟨hm', hp'⟩ := State.stampOver_mem t (t.sq.cache / 128) (t.sq.cache % 128) (lineOf (t.keyOf t.sq.ctx va) ::
    (List.range es.length).map (fun i => lineOf (t.keyOf t.sq.ctx ((t.ringBlk va).slot ((t.ringBlk va).tail + i)))))
  exact ⟨hs, hm.trans hm', hp.trans hp'⟩

end Full

/-! ### Range operations -/

/-- The parts of a range operation. -/
def State.rangeParts (s : State) (op : Nat) (w : Long) : List MOp :=
  [.waitAck, .walkLines op (s.spair w.a.toNat).toNat (s.sreg w.b.toNat).toNat, .walkAck]

theorem State.rangeOp_ready {r : State} {op : Nat} {w : Long} (h : r.ackRoom r.sending = true) (ho : r.open_ .shared r.preEpochs = true) :
    r.rangeOp op w = .done ((r.rangePub op w).setTodo (r.rangeParts op w)) := by
  rw [State.rangeOp, h, Bool.not_true, if_neg Bool.false_ne_true]
  exact State.whenOpen_open ho

theorem passTo_walkLines {op lo len : Nat} {t : State} (l : List MOp) : passTo (.walkLines op lo len :: l) t = passTo l (t.walkRange op lo len) :=
  passTo_cons nofun (by rw [runOp])
theorem passTo_walkAck {t : State} (h : t.ackNow = 0) (l : List MOp) : passTo (.walkAck :: l) t = passTo l t :=
  passTo_cons nofun (by rw [runOp, if_pos h])
theorem runOp_walkAck {t : State} (h : t.ackNow ≠ 0) : runOp .walkAck t = .wait ⟨0x0B, 0, 0⟩ t .walkAck := by rw [runOp, if_neg h]

theorem range_long {i : Long → Instr} {op9 op : Nat} (hx : ∀ w s, exec (i w) s = s.issueLong true op9 w (fun s => s.rangeOp op w)) :
    LongParts i true op9 (fun _ r => r.ackRoom r.sending = true ∧ r.open_ .shared r.preEpochs = true) (fun w r => r.rangePub op w)
      (fun w r => [.waitAck, .walkLines op (r.spair w.a.toNat).toNat (r.sreg w.b.toNat).toNat, .walkAck]) ∧
    LongEnds i true op9 (fun w r => r.rangePub op w)
      (fun w r => [.waitAck, .walkLines op (r.spair w.a.toNat).toNat (r.sreg w.b.toNat).toNat, .walkAck])
      (fun w r u => r.ackRoom r.sending = true ∧ r.open_ .shared r.preEpochs = true ∧ u.ackNow = 0 ∧
        (u.walkRange op (r.spair w.a.toNat).toNat (r.sreg w.b.toNat).toNat).ackNow = 0)
      (fun w r u => u.walkRange op (r.spair w.a.toNat).toNat (r.sreg w.b.toNat).toNat) :=
  ⟨longParts_intro _ hx (fun w r ⟨h, ho⟩ => State.rangeOp_ready h ho),
    longEnds_intro _ hx (fun w r u ⟨h, ho, _, _⟩ => State.rangeOp_ready h ho)
      (fun w r u ⟨_, _, h1, h2⟩ => by rw [passTo_waitAck h1, passTo_walkLines, passTo_walkAck h2, passTo])⟩

/-- Settles O37: the rings by their checks, the range operations by their parts. -/
theorem ringsAndRanges : Obligations.RingsAndRanges := by
  refine ⟨?_, ?_, ?_, fun t va es h => State.enqAt_full h, ?_, fun t op lo => if_pos rfl,
    fun t h => runList_one_wait nofun (runOp_walkAck h)⟩
  · intro w s r h t b sl hgo hr hc ho hh hb hok hsl hs hl ht
    have ready : r.ringOp (r.spair w.b.toNat).toNat .slot r.enqSlots (r.enqThen w) = r.enqThen w t := by
      rw [ht]; exact State.ringOp_ready hc ho hh hb hok hsl hs hl
    have left : r.Left t := by rw [ht, hh]; exact State.Left.homeReady (State.Left.homeReady (.refl r))
    subst hr
    rw [exec_enq]
    refine ⟨fun hp => State.issue_done hgo (ready.trans (if_pos hp)) ?_, fun hp => ?_⟩
    · rw [(State.Left.enqAt left).todoNow]; exact hgo.todo
    · rw [State.issueLong, State.issue_goes hgo, ready, State.enqThen, hp, if_neg Bool.false_ne_true]
      rfl
  · intro w s r h t b sl hgo hr hc ho hh hb hok hsl hs hl ht u hu
    have ready : r.ringOp (r.spair w.b.toNat).toNat .ring r.deqSlots (fun t =>
        (t.deqAt (r.spair w.b.toNat).toNat w.d.toNat w.c.toNat r.lanes).andThen [.snap]) =
        .done ((t.deqAt (r.spair w.b.toNat).toNat w.d.toNat w.c.toNat r.lanes).setTodo [.snap]) := by
      rw [ht]; exact State.ringOp_ready hc ho hh hb hok hsl hs hl
    rw [exec_deq]
    refine ⟨fun hn => State.issue_ends hgo hr hu ready (passTo_snap_end hn), fun hn => ?_⟩
    rw [State.issueLong, State.issue_part hgo hr hu ready]
    exact congrArg _ (runList_one_wait nofun (runOp_snap_wait hn))
  · intro i hi
    simp only [List.mem_cons, List.not_mem_nil, or_false] at hi
    rcases hi with rfl | rfl
    · exact ring_longTraps exec_enq
    · exact ring_longTraps exec_deq
  · intro i hi
    simp only [List.mem_cons, List.not_mem_nil, or_false] at hi
    rcases hi with rfl | rfl | rfl
    · exact range_long (fun _ _ => rfl)
    · exact range_long (fun _ _ => rfl)
    · exact range_long (fun _ _ => rfl)

end Sys2Proof.Machine

/-! # Proofs: engine commands, signals and counters (09 R178 to R189) -/

namespace Sys2Proof.Machine

/-! ### Commands that issue -/

/-- A field of the extra bits. -/
theorem bits_toNat {n : Nat} (x : BitVec n) (l m : Nat) : bits x.toNat (l + m) l = (x.extractLsb' l (m + 1)).toNat := by
  rw [bits, BitVec.extractLsb'_toNat, Nat.add_sub_cancel_left]

section Commands
variable {r : State} {w : Long}

/-- A copy, in the terms of its fault. -/
theorem State.copyCmd_fault (r : State) (w : Long) (two : Bool) : r.copyCmd w two =
    match r.copyFault w two with
    | some t => .trap t
    | none =>
      .done (r.sendCmd .cpy w.c.toNat w.d.toNat (r.group w.a.toNat (if two then 10 else 7)) w.x.toNat two (w.x.extractLsb' 2 2).toNat
        (grp (r.group w.a.toNat (if two then 10 else 7)) 5) (nth 0 (r.group w.a.toNat (if two then 10 else 7)) 6) 0
        (segLines (r.segs (r.copyDst w two)))) := by
  unfold State.copyCmd
  dsimp only
  rw [bits_toNat w.x 2 1]
  rfl

theorem exec_gath (w : Long) (s : State) : exec (.gath w) s = s.issueLong true 0x0E2 w (fun r =>
    match r.gathFault w with
    | some t => .trap t
    | none =>
      .done (r.sendCmd .gath (16 + r.sq.cache % 4) w.d.toNat (r.group w.a.toNat 7) w.x.toNat false (w.x.extractLsb' 5 2).toNat
        (grp (r.group w.a.toNat 7) 5) (nth 0 (r.group w.a.toNat 7) 6) 0 (segLines (r.segs (r.gathDst w))))) := by
  show execGath w s = _
  unfold execGath
  simp only [bits_toNat w.x 0 2, bits_toNat w.x 3 1, bits_toNat w.x 5 1]
  rfl

theorem exec_rcpy (w : Long) (s : State) : exec (.rcpy w) s = s.issueLong true 0x0E3 w (fun r =>
    match r.rcpyFault w with
    | some t => .trap t
    | none => r.andThen [.rcpyDo w.d.toNat w.x.toNat (r.group w.a.toNat 7)]) := by
  show execRcpy w s = _
  unfold execRcpy
  simp only [bits_toNat w.x 1 1]
  rfl

/-- The trap of tlsig. -/
def State.tlsigFault (r : State) (w : Long) : Option TrapInfo :=
  r.cmdCheck (compRng 0 0) (compRng 0 0) [] (w.x.extractLsb' 0 2).toNat (r.sreg w.a.toNat).toNat false

theorem exec_tlsig (w : Long) (s : State) : exec (.tlsig w) s = s.issueLong true 0x0EA w (fun r =>
    match r.tlsigFault w with
    | some t => .trap t
    | none => .done (r.sendCmd .sig (tlPlace w.c.toNat r.posNow) w.d.toNat [] 0 false (w.x.extractLsb' 0 2).toNat (r.sreg w.a.toNat).toNat
        (r.sreg w.b.toNat) 0 [])) := by
  show execTlsig w s = _
  unfold execTlsig
  simp only [bits_toNat w.x 0 1]
  rfl

theorem exec_rsig (w : Long) (s : State) : exec (.rsig w) s = s.issueLong true 0x0E4 w (fun r =>
    r.checked .rsig 8 [⟨0, ((r.spair w.a.toNat).toNat : Int), 8⟩] (fun _ =>
      if !r.ackRoom 1 then .hold
      else .done ((r.sendCmd .rsig (20 + r.sq.cache % 4) w.d.toNat [] 0 false 0 0 (r.sreg w.b.toNat) (r.keyNow (r.spair w.a.toNat).toNat) []).modSq
        (fun q => { q with ack := q.ack + 1 })))) := rfl

/-- An instruction that faults or acts. -/
theorem fault_longTraps {i : Long → Instr} {op9 : Nat} {fault : Long → State → Option TrapInfo} {go : Long → State → Res}
    (hx : ∀ w s, exec (i w) s = s.issueLong true op9 w (fun r => match fault w r with | some t => .trap t | none => go w r)) :
    LongTraps i true op9 fault :=
  longTraps_intro _ hx (fun w r f h => by rw [h])

theorem fault_longRuns {i : Long → Instr} {op9 : Nat} {fault : Long → State → Option TrapInfo} {e : Long → State → State}
    (hx : ∀ w s, exec (i w) s = s.issueLong true op9 w (fun r => match fault w r with | some t => .trap t | none => .done (e w r)))
    (ht : ∀ w (r : State), r.Left (e w r)) : LongRuns i true op9 (fun w r => fault w r = none) e :=
  longRuns_intro _ hx (fun w r h => by rw [h]) (fun w r => (ht w r).todoNow)

end Commands

/-! ### Counters and waits -/

section Waits
variable {t : State}

theorem exec_tlget (w : Long) (s : State) : exec (.tlget w) s = s.issueLong true 0x0E8 w (fun r => .done (r.setS2 w.d.toNat
    (BitVec.ofNat 64 (if w.x.getLsbD 0 then (r.timeline r.ctxNow r.clNow (tlPlace w.c.toNat r.posNow)).issued
      else (r.timeline r.ctxNow r.clNow (tlPlace w.c.toNat r.posNow)).done)))) := rfl

theorem exec_waitc (w : Long) (s : State) : exec (.waitc w) s = s.issueLong true 0x0EB w (fun r =>
    match r.checkScr 8 true [⟨0, ((r.sreg w.a.toNat).toNat : Int), 8⟩] with
    | some t => .trap (if t.cause = .barrierClobber then ⟨.barKind, 0, t.addr, 0⟩ else t)
    | none => r.checkedScr 8 false [⟨0, ((r.sreg w.a.toNat).toNat : Int), 8⟩] (fun _ =>
        r.andThen [.waitWord (r.sreg w.a.toNat).toNat (r.spair w.b.toNat).toNat, .snap])) := rfl

theorem exec_waitcG (w : Long) (s : State) : exec (.waitcG w) s = s.issueLong true 0x0EB w (fun r =>
    r.checked .waitg 8 [⟨0, ((r.spair w.a.toNat).toNat : Int), 8⟩] (fun _ =>
      r.andThen [.waitWordG (r.spair w.a.toNat).toNat (r.spair w.b.toNat).toNat, .snap])) := rfl

/-- The check of a write is that of its place. -/
theorem State.checkScr_store (r : State) (al : Nat) (accs : List Acc) : r.checkScr al true accs = r.checkPlace al true accs := by
  rw [State.checkScr, if_pos rfl, Option.or_none]

/-- Where a write may stand, a read may. -/
theorem State.checkPlace_read {r : State} {al : Nat} {accs : List Acc} (h : r.checkPlace al true accs = none) :
    r.checkPlace al false accs = none := by
  unfold State.checkPlace at h ⊢
  split at h
  · exact absurd h nofun
  · next hf =>
    dsimp only at h ⊢
    obtain ⟨h1, h2⟩ := Option.or_eq_none_iff.mp h
    exact Option.or_eq_none_iff.mpr ⟨h1, Option.or_eq_none_iff.mpr ⟨(Option.or_eq_none_iff.mp h2).1, rfl⟩⟩

/-- A wait for a counter, for a word of scratch. -/
theorem runOp_waitTl {sel n : Nat} : runOp (.waitTl sel n) t = if n ≤ (t.timeline t.ctxNow t.clNow (tlPlace sel t.posNow)).done
    then .ok (t.observe (t.timeline t.ctxNow t.clNow (tlPlace sel t.posNow)).stamp) else .wait ⟨4, sel, n⟩ t (.waitTl sel n) := by
  rw [runOp]

theorem runOp_waitWord {ea n key : Nat} (hk : t.scrAt (ea : Int) = .ok key) (hp : t.scrPoison [⟨0, (ea : Int), 8⟩] = none) :
    runOp (.waitWord ea n) t = if n ≤ natLE (t.scrBytes key 8) then .ok (t.observe ((get? t.arrival (key / 2 ^ 19)).getD Stamp.zero))
      else .wait ⟨5, ea, n⟩ t (.waitWord ea n) := by
  rw [runOp, hk]
  dsimp only
  rw [hp]

/-- A global word within reach is read. -/
theorem runOp_waitWordG {va n : Nat} (h : t.Reaches .waitg .shared [va]) : runOp (.waitWordG va n) t =
    if n ≤ (t.wordRead (lineOf (t.keyOf t.ctxNow va))).curNat (t.keyOf t.ctxNow va) 8 then
      .ok ((t.wordRead (lineOf (t.keyOf t.ctxNow va))).observe ((t.wordRead (lineOf (t.keyOf t.ctxNow va))).relstamp (lineOf (t.keyOf t.ctxNow va))))
    else .wait ⟨6, va, n⟩ ((t.wordRead (lineOf (t.keyOf t.ctxNow va))).leaveLines (t.wordRead (lineOf (t.keyOf t.ctxNow va))).agentNow)
      (.waitWordG va n) := by
  obtain ⟨hm, hg, hf, hr⟩ := h
  have hl : t.linesOf .waitg [va] = some (sortNat ([va].map (fun a => lineOf (t.keyOf t.ctxNow a)))) :=
    if_pos (List.all_eq_true.mpr hm)
  rw [runOp, hl]
  dsimp only
  rw [State.open_iff.mpr ⟨hg, hf⟩, hr]
  rfl

/-- What a command from another part of the package arms. -/
theorem runOp_rcpyDo {d x : Nat} {g : List W} : runOp (.rcpyDo d x g) t =
    if x.testBit 0 ∧ (nth 0 g 4).toNat ≠ 0 ∧ (freeRanges ((t.teamNow.map (·.range)).getD [])).length < 2 then
      .wait ⟨0x0D, 0, 0⟩ t (.rcpyDo d x g)
    else if !t.ackRoom 1 then .more t (.rcpyDo d x g) else .ok (t.rcpyNow d x g) := by
  rw [runOp]
  rfl

theorem State.armRoom_iff {x : Nat} {g : List W} : t.ArmRoom x g ↔
    ¬ (x.testBit 0 ∧ (nth 0 g 4).toNat ≠ 0 ∧ (freeRanges ((t.teamNow.map (·.range)).getD [])).length < 2) := by
  rw [State.ArmRoom, not_and_or, not_and_or, Bool.not_eq_true, not_not, not_lt]

end Waits

/-- The two copies. -/
theorem copy_long {i : Long → Instr} {op9 : Nat} {two : Bool} (hx : ∀ w s, exec (i w) s = s.issueLong true op9 w (fun s => s.copyCmd w two)) :
    LongRuns i true op9 (fun w r => r.copyFault w two = none) (fun w r =>
      let g := r.group w.a.toNat (if two then 10 else 7)
      r.sendCmd .cpy w.c.toNat w.d.toNat g w.x.toNat two (w.x.extractLsb' 2 2).toNat (grp g 5) (nth 0 g 6) 0
        (segLines (r.segs (r.copyDst w two)))) ∧
    LongTraps i true op9 (fun w r => r.copyFault w two) :=
  ⟨longRuns_intro _ hx (fun w r h => by rw [State.copyCmd_fault, h]) (fun w r => (State.Left.sendCmd (.refl r)).todoNow),
    longTraps_intro _ hx (fun w r f h => by rw [State.copyCmd_fault, h])⟩

/-- Settles O38: the commands by their first fault, the waits by what is there. -/
theorem commandsAndSignals : Obligations.CommandsAndSignals := by
  refine ⟨?_, fault_longRuns exec_gath (fun w r => State.Left.sendCmd (.refl r)), fault_longTraps exec_gath, ?_, fault_longTraps exec_rcpy, ?_, ?_,
    checked_longTraps exec_rsig, ?_, ?_, ?_, fault_longRuns exec_tlsig (fun w r => State.Left.sendCmd (.refl r)), fault_longTraps exec_tlsig, ?_, ?_, ?_,
    checked_longTraps exec_waitcG, ?_, ?_, ?_⟩
  · intro i hi
    simp only [List.mem_cons, List.not_mem_nil, or_false] at hi
    rcases hi with rfl | rfl
    · exact copy_long (fun _ _ => rfl)
    · exact copy_long (fun _ _ => rfl)
  · exact longParts_intro _ exec_rcpy (fun w r h => by rw [h]; rfl)
  · refine fun t d x g => ⟨fun ha hr => passTo_one nofun ?_, fun ha hr => runList_more nofun ?_, fun ha => runList_one_wait nofun ?_⟩
    · rw [runOp_rcpyDo, if_neg (State.armRoom_iff.mp ha), hr]; rfl
    · rw [runOp_rcpyDo, if_neg (State.armRoom_iff.mp ha), hr]; rfl
    · rw [runOp_rcpyDo, if_pos (not_not.mp (fun h => ha (State.armRoom_iff.mpr h)))]
  · exact longRuns_intro _ exec_rsig (fun w r ⟨hc, hr⟩ => by rw [State.checked_ok hc, hr]; rfl)
      (fun w r => (State.Left.modSq (State.Left.sendCmd (.refl r))).todoNow)
  · exact longRuns_intro _ exec_tlget (fun w r h => by rw [h]; rfl) (fun w r => State.setS2_todoNow _ _ _)
  · exact longRuns_intro _ exec_tlget (fun w r h => by rw [h]; rfl) (fun w r => State.setS2_todoNow _ _ _)
  · exact longParts_intro (fun w s => s.andThen [.waitTl w.c.toNat (s.spair w.a.toNat).toNat, .snap]) (fun _ _ => rfl) (fun _ _ _ => rfl)
  · refine longParts_intro _ exec_waitc (fun w r h => ?_)
    rw [State.checkScr_store, h]
    exact State.checkedScr_ok (State.checkPlace_read h)
  · refine longTraps_intro _ exec_waitc (fun w r f h => ?_)
    obtain ⟨t, ht, hf⟩ := Option.map_eq_some_iff.mp h
    rw [State.checkScr_store, ht, ← hf]
  · exact longParts_intro _ exec_waitcG (fun w r h => State.checked_ok h)
  · exact fun t sel n => ⟨fun h => passTo_one nofun (runOp_waitTl.trans (if_pos h)),
      fun h => runList_wait nofun (runOp_waitTl.trans (if_neg (not_le.mpr h)))⟩
  · exact fun t ea n key hk hp => ⟨fun h => passTo_one nofun ((runOp_waitWord hk hp).trans (if_pos h)),
      fun h => runList_wait nofun ((runOp_waitWord hk hp).trans (if_neg (not_le.mpr h)))⟩
  · exact fun t va n hr => ⟨fun h => passTo_one nofun ((runOp_waitWordG hr).trans (if_pos h)),
      fun h => ⟨_, runList_wait nofun ((runOp_waitWordG hr).trans (if_neg (not_le.mpr h)))⟩⟩

end Sys2Proof.Machine

/-! # Proofs: barrier objects, bar.sync and lbar (09 R190 to R194) -/

namespace Sys2Proof.Machine

theorem longTrapsAt_intro {i : Long → Instr} {uni : Bool} {op9 : Nat} {ok : Long → State → Prop} {t : Long → State → TrapInfo}
    (body : Long → State → Res) (hx : ∀ w s, exec (i w) s = s.issueLong uni op9 w (body w)) (hb : ∀ w r, ok w r → body w r = .trap (t w r)) :
    LongTrapsAt i uni op9 ok t := by
  intro w s r hgo hr h
  rw [hx]
  exact State.issue_trap hgo (by rw [← hr]; exact hb w r h)

/-! ### Objects at an address -/

section At
variable {s : State} {ea k : Nat} {o : BarObj}

theorem State.scrKeyAt_ok (h : s.scrAt (ea : Int) = .ok k) : s.scrKeyAt (ea : Int) = k := by rw [State.scrKeyAt, h]

theorem State.barAt_ok {go : Unit → Res} (hp : s.checkPlace 1 false [⟨0, (ea : Int), 16⟩] = none) (ha : ea % 16 = 0) : s.barAt ea go = go () := by
  rw [State.barAt, State.checkedScr_ok hp, if_neg (not_not.mpr ha)]

theorem State.barAt_bad {go : Unit → Res} {f : TrapInfo} (h : s.checkPlace 1 false [⟨0, (ea : Int), 16⟩] = some f) : s.barAt ea go = .trap f := by
  rw [State.barAt, State.checkedScr_bad h]

theorem State.barAt_unaligned {go : Unit → Res} (hp : s.checkPlace 1 false [⟨0, (ea : Int), 16⟩] = none) (ha : ea % 16 ≠ 0) :
    s.barAt ea go = .trap ⟨.barKind, 0, ea, 0⟩ := by
  rw [State.barAt, State.checkedScr_ok hp, if_pos ha]

theorem State.barObj_held {go : BarObj → Res} (h : s.ObjHeld ea k o) : s.barObj ea go = go o := by
  obtain ⟨hp, ha, hk, ho⟩ := h
  rw [State.barObj, State.barAt_ok hp ha, State.scrKeyAt_ok hk, ho]

/-- A name of no object. -/
theorem State.barObj_none {go : BarObj → Res} (hp : s.checkPlace 1 false [⟨0, (ea : Int), 16⟩] = none)
    (h : ea % 16 ≠ 0 ∨ s.scrAt (ea : Int) = .ok k ∧ s.objOf k = none) : s.barObj ea go = .trap ⟨.barKind, 0, ea, 0⟩ := by
  rw [State.barObj]
  by_cases ha : ea % 16 = 0
  · obtain ⟨hk, ho⟩ := h.resolve_left (not_not.mpr ha)
    rw [State.barAt_ok hp ha, State.scrKeyAt_ok hk, ho]
  · exact State.barAt_unaligned hp ha

end At

/-! ### bar.init -/

/-- What bar.init does at a key. -/
def State.barMake (s : State) (ea key n : Nat) : Res :=
  if (s.objOf key).any (fun o => !o.idle) then .trap ⟨.barBusy, 0, ea, 0⟩
  else if s.objs.any (fun o => o.key != key && decide (o.key < key + 16 ∧ key < o.key + 16)) then .trap ⟨.barrierClobber, 0, ea, 0⟩
  else if n = 0 ∨ 2 ^ 20 < n ∨ ((s.objOf key).isNone ∧ 256 ≤ (s.objs.filter (fun o => o.key / 2 ^ 19 == key / 2 ^ 19)).length) then
    .trap ⟨.barArg, 0, ea, 0⟩
  else .done (s.setObj ⟨key, n, 0, 0, 0, Stamp.zero, Stamp.zero, s.ownerOf key⟩)

theorem exec_barInit (w : Long) (s : State) : exec (.barInit w) s = s.issueLong true 0x0F0 w (fun s =>
    s.barAt (s.sreg w.a.toNat).toNat (fun _ =>
      s.barMake (s.sreg w.a.toNat).toNat (s.scrKeyAt ((s.sreg w.a.toNat).toNat : Int)) (s.sreg w.b.toNat).toNat)) := rfl

section Make
variable {s : State} {ea k n : Nat}

theorem State.barMake_busy {o : BarObj} (ho : s.objOf k = some o) (hi : o.idle = false) : s.barMake ea k n = .trap ⟨.barBusy, 0, ea, 0⟩ := by
  rw [State.barMake, ho]
  exact if_pos (by rw [Option.any_some, hi]; rfl)

theorem State.notBusy (h : ∀ o, s.objOf k = some o → o.idle = true) : ¬ (s.objOf k).any (fun o => !o.idle) = true := by
  cases ho : s.objOf k with
  | none => exact Bool.false_ne_true
  | some o => rw [Option.any_some, h o ho]; exact Bool.false_ne_true

theorem State.barMake_clobber (hi : ∀ o, s.objOf k = some o → o.idle = true) (h : ∃ o ∈ s.objs, o.key ≠ k ∧ o.key < k + 16 ∧ k < o.key + 16) :
    s.barMake ea k n = .trap ⟨.barrierClobber, 0, ea, 0⟩ := by
  obtain ⟨o, ho, hne, hlt⟩ := h
  rw [State.barMake, if_neg (State.notBusy hi)]
  exact if_pos (List.any_eq_true.mpr ⟨o, ho, by rw [Bool.and_eq_true, bne_iff_ne, decide_eq_true_eq]; exact ⟨hne, hlt⟩⟩)

theorem State.notClobbered (h : ∀ o ∈ s.objs, o.key = k ∨ o.key + 16 ≤ k ∨ k + 16 ≤ o.key) :
    ¬ s.objs.any (fun o => o.key != k && decide (o.key < k + 16 ∧ k < o.key + 16)) = true := by
  intro ha
  obtain ⟨o, ho, hb⟩ := List.any_eq_true.mp ha
  rw [Bool.and_eq_true, bne_iff_ne, decide_eq_true_eq] at hb
  have := h o ho
  omega

theorem State.barMake_arg (hi : ∀ o, s.objOf k = some o → o.idle = true) (hc : ∀ o ∈ s.objs, o.key = k ∨ o.key + 16 ≤ k ∨ k + 16 ≤ o.key)
    (h : n = 0 ∨ 2 ^ 20 < n ∨ s.objOf k = none ∧ 256 ≤ (s.objs.filter (fun o => o.key / 2 ^ 19 == k / 2 ^ 19)).length) :
    s.barMake ea k n = .trap ⟨.barArg, 0, ea, 0⟩ := by
  rw [State.barMake, if_neg (State.notBusy hi), if_neg (State.notClobbered hc)]
  exact if_pos (by rwa [Option.isNone_iff_eq_none])

theorem State.barMake_ok (hi : ∀ o, s.objOf k = some o → o.idle = true)
    (hc : s.objs.all (fun o => o.key == k || decide (o.key + 16 ≤ k) || decide (k + 16 ≤ o.key)) = true) (h1 : 1 ≤ n) (h2 : n ≤ 2 ^ 20)
    (h3 : s.objOf k ≠ none ∨ (s.objs.filter (fun o => o.key / 2 ^ 19 == k / 2 ^ 19)).length < 256) :
    s.barMake ea k n = .done (s.setObj ⟨k, n, 0, 0, 0, Stamp.zero, Stamp.zero, s.ownerOf k⟩) := by
  have clear : ∀ o ∈ s.objs, o.key = k ∨ o.key + 16 ≤ k ∨ k + 16 ≤ o.key := by
    intro o ho
    have := List.all_eq_true.mp hc o ho
    rwa [Bool.or_eq_true, Bool.or_eq_true, beq_iff_eq, decide_eq_true_eq, decide_eq_true_eq, or_assoc] at this
  rw [State.barMake, if_neg (State.notBusy hi), if_neg (State.notClobbered clear)]
  refine if_neg (not_or.mpr ⟨by omega, not_or.mpr ⟨by omega, fun hf => ?_⟩⟩)
  rw [Option.isNone_iff_eq_none] at hf
  exact h3.elim (fun h => h hf.1) (fun h => absurd hf.2 (not_le.mpr h))

end Make

/-! ### The instructions on objects -/

theorem exec_barInitFree (w : Long) (s : State) : exec (.barInitFree w) s = s.issueLong true 0x0F0 w (fun s =>
    s.barObj (s.sreg w.a.toNat).toNat (fun o => if o.idle then .done (s.untype o) else .trap ⟨.barBusy, 0, (s.sreg w.a.toNat).toNat, 0⟩)) := rfl

theorem exec_barArr (w : Long) (s : State) : exec (.barArr w) s = s.issueLong true 0x0F1 w (fun s =>
    s.barObj (s.sreg w.a.toNat).toNat (fun _ => s.andThen [.publish, .waitAck, .arriveObj (s.sreg w.a.toNat).toNat (some w.d.toNat) false])) := rfl

theorem exec_barWait (w : Long) (s : State) : exec (.barWait w) s = s.issueLong true 0x0F2 w (fun s =>
    s.barObj (s.sreg w.a.toNat).toNat (fun o =>
      (if o.phase ≠ s.sreg w.b.toNat then s else s.setObj { o with waiters := o.waiters + 1 }).andThen
        [.waitObj (s.sreg w.a.toNat).toNat (s.scrKeyAt ((s.sreg w.a.toNat).toNat : Int)) (s.sreg w.b.toNat), .snap])) := rfl

theorem exec_barArrw (w : Long) (s : State) : exec (.barArrw w) s = s.issueLong true 0x0F3 w (fun s =>
    s.barObj (s.sreg w.a.toNat).toNat (fun _ => s.andThen [.publish, .waitAck, .arriveObj (s.sreg w.a.toNat).toNat none true, .snap])) := rfl

/-- One that names no object traps. -/
theorem barObj_longTrapsAt {i : Long → Instr} {op9 k : Nat} {go : Long → State → BarObj → Res}
    (hx : ∀ w s, exec (i w) s = s.issueLong true op9 w (fun s => s.barObj (s.sreg w.a.toNat).toNat (go w s))) :
    LongTrapsAt i true op9 (fun w r => r.checkPlace 1 false [⟨0, ((r.sreg w.a.toNat).toNat : Int), 16⟩] = none ∧
        ((r.sreg w.a.toNat).toNat % 16 ≠ 0 ∨ r.scrAt ((r.sreg w.a.toNat).toNat : Int) = .ok k ∧ r.objOf k = none))
      (fun w r => ⟨.barKind, 0, (r.sreg w.a.toNat).toNat, 0⟩) :=
  longTrapsAt_intro _ hx (fun _ _ ⟨hp, h⟩ => State.barObj_none hp h)

theorem BarObj.idle_iff (o : BarObj) : o.idle = true ↔ o.waiters = 0 ∧ o.arrived = 0 := by
  rw [BarObj.idle, Bool.and_eq_true, beq_iff_eq, beq_iff_eq]

/-! ### Arrivals and waits -/

section Arrive
variable {t : State} {o : BarObj} {ea k : Nat} {st : Stamp}

theorem BarObj.arrive_last (h : o.arrived + 1 = o.expected) : (o.arrive st).phase = o.phase + 1 ∧ (o.arrive st).arrived = 0 ∧
    (o.arrive st).waiters = 0 ∧ (o.arrive st).last = o.gather.max st := by
  rw [BarObj.arrive, if_pos h]
  exact ⟨rfl, rfl, rfl, rfl⟩

theorem BarObj.arrive_other (h : o.arrived + 1 ≠ o.expected) : (o.arrive st).phase = o.phase ∧ (o.arrive st).arrived = o.arrived + 1 ∧
    (o.arrive st).last = o.last := by
  rw [BarObj.arrive, if_neg h]
  exact ⟨rfl, rfl, rfl⟩

theorem BarObj.arrive_waiters (h : o.arrived + 1 ≠ o.expected) : (o.arrive st).waiters = o.waiters := by
  rw [BarObj.arrive, if_neg h]

theorem BarObj.arrive_key (o : BarObj) (st : Stamp) : (o.arrive st).key = o.key := by
  rw [BarObj.arrive]
  split
  · rfl
  · rfl

/-- The last arrival changes the phase. -/
theorem BarObj.arrive_phase : (o.arrive st).phase ≠ o.phase ↔ o.arrived + 1 = o.expected := by
  constructor
  · intro h
    by_contra hn
    exact h (BarObj.arrive_other hn).1
  · intro h
    rw [(BarObj.arrive_last h).1]
    exact fun e => absurd (add_eq_left.mp e) (by decide)

end Arrive

/-- What an upsert put in is found. -/
theorem find?_upsert_same {α : Type} {p : α → Bool} {x : α} (hx : p x = true) (l : List α) : (upsert p x l).find? p = some x := by
  induction l with
  | nil => rw [upsert, List.find?_cons_of_pos hx]
  | cons y l ih =>
    rw [upsert]
    split
    · exact List.find?_cons_of_pos hx
    · next hy => rw [List.find?_cons_of_neg hy, ih]

theorem State.setObj_objOf (s : State) (o : BarObj) : (s.setObj o).objOf o.key = some o :=
  find?_upsert_same (p := fun p : BarObj => p.key == o.key) (beq_self_eq_true _) _

section Objects
variable {t : State} {o : BarObj} {ea k : Nat}

theorem runOp_waitObj {ph : W} (ho : t.objOf k = some o) : runOp (.waitObj ea k ph) t =
    if o.phase ≠ ph then .ok (t.observe o.last) else .wait ⟨1, ea, ph.toNat⟩ t (.waitObj ea k ph) := by
  rw [runOp, ho]

theorem runOp_arriveObj {dst : Option Nat} {wait : Bool} (hk : t.scrAt (ea : Int) = .ok k) (ho : t.objOf k = some o) :
    runOp (.arriveObj ea dst wait) t =
      let s := match dst with
        | some d => (t.arriveAt o t.obsNow).setS d o.phase
        | none => t.arriveAt o t.obsNow
      if !wait then .ok s
      else if (o.arrive t.obsNow).phase ≠ o.phase then .ok (s.observe (o.arrive t.obsNow).last)
      else .wait ⟨1, ea, o.phase.toNat⟩ (s.setObj { o.arrive t.obsNow with waiters := (o.arrive t.obsNow).waiters + 1 }) (.waitObj ea k o.phase) := by
  rw [runOp, hk]
  dsimp only
  rw [ho] <;> rfl

/-- An arrival that is not the last waits on its object. -/
theorem runOp_arriveObj_wait (hk : t.scrAt (ea : Int) = .ok k) (ho : t.objOf k = some o) (h : o.arrived + 1 ≠ o.expected) :
    ∃ v : State, v.objOf o.key = some { o.arrive t.obsNow with waiters := o.waiters + 1 } ∧
      runOp (.arriveObj ea none true) t = .wait ⟨1, ea, o.phase.toNat⟩ v (.waitObj ea k o.phase) := by
  refine ⟨(t.arriveAt o t.obsNow).setObj { o.arrive t.obsNow with waiters := o.waiters + 1 }, ?_, ?_⟩
  · exact (congrArg _ (BarObj.arrive_key o t.obsNow).symm).trans (State.setObj_objOf _ _)
  · rw [runOp_arriveObj hk ho, BarObj.arrive_waiters h]
    exact if_neg (fun hp => h (BarObj.arrive_phase.mp hp))

theorem runOp_arriveObj_last (hk : t.scrAt (ea : Int) = .ok k) (ho : t.objOf k = some o) (h : o.arrived + 1 = o.expected) :
    runOp (.arriveObj ea none true) t = .ok ((t.arriveAt o t.obsNow).observe (o.gather.max t.obsNow)) := by
  rw [runOp_arriveObj hk ho, (BarObj.arrive_last h).2.2.2]
  exact if_pos (BarObj.arrive_phase.mpr h)

theorem Squad.letGo_head {q : Squad} {p : MOp → Bool} {g : Stamp} {m : MOp} {l : List MOp} (h : q.todo = m :: l) :
    (p m = true → (q.letGo p g).todo = .observe g :: l) ∧ (p m = false → q.letGo p g = q) := by
  unfold Squad.letGo
  rw [h]
  exact ⟨fun hp => by dsimp only; rw [if_pos hp], fun hp => if_neg (by rw [hp]; exact Bool.false_ne_true)⟩

end Objects

/-! ### Hardware and level barriers -/

section Hardware
variable {t : State} {u : Team} {bid count : Nat} {b : HwBar}

theorem HwBar.test_full {n : Nat} (h : b.full n = true) : b.test n = b.next := if_pos h
theorem HwBar.test_open {n : Nat} (h : b.full n = false) : b.test n = b := if_neg (by rw [h]; exact Bool.false_ne_true)

/-- The barrier after an arrival. -/
def HwBar.arrivalOf (b : HwBar) (count : Nat) (st : Stamp) : HwBar :=
  { b with arrived := b.arrived + 1, count := count, gather := b.gather.max st }

theorem runOp_arriveSync_bad (hu : t.teamNow = some u) (ha : (nth HwBar.zero u.bars bid).arrived ≠ 0)
    (hc : (nth HwBar.zero u.bars bid).count ≠ count) : runOp (.arriveSync bid count) t = .trap ⟨.barArg, 0, 0, 0⟩ t := by
  rw [runOp, hu]
  exact if_pos ⟨ha, hc⟩

theorem runOp_arriveSync (hu : t.teamNow = some u) (hb : b = nth HwBar.zero u.bars bid) (h : b.arrived = 0 ∨ b.count = count) :
    runOp (.arriveSync bid count) t =
      if ((b.arrivalOf count t.obsNow).test u.alive.length).phase ≠ b.phase then
        .ok ((t.testBar u bid (b.arrivalOf count t.obsNow)).observe ((b.arrivalOf count t.obsNow).test u.alive.length).last)
      else .wait ⟨2, bid, b.phase⟩ (t.testBar u bid (b.arrivalOf count t.obsNow)) (.waitSync bid b.phase) := by
  rw [runOp, hu]
  dsimp only
  rw [← hb]
  exact if_neg (by rw [not_and_or, not_not, not_not]; exact h)

theorem State.testBar_open {b2 : HwBar} (h : b2.full u.alive.length = false) :
    t.testBar u bid b2 = t.modTeam u.id (fun v => { v with bars := v.bars.set bid b2 }) := by
  rw [State.testBar, HwBar.test_open h]
  exact if_pos rfl

theorem HwBar.full_iff {n : Nat} (ha : b.arrived ≠ 0) : b.full n = true ↔ if b.count = 0 then n ≤ b.arrived else b.count ≤ b.arrived := by
  rw [HwBar.full, if_neg ha]
  split
  · exact decide_eq_true_iff
  · exact decide_eq_true_iff

end Hardware

section Levels
variable {t v : State} {u : Team} {a : Launch} {level k n : Nat}

theorem runOp_arriveLvl (hu : t.teamNow = some u) (ha : t.launchOf t.sq.launch = some a) (hl : a.hdr.levelTeams level = some (k, n))
    (hv : v = t.arriveLevel u (t.lvlOf a.id level (u.num / n))) : runOp (.arriveLvl level) t =
      if (v.lvlOf a.id level (u.num / n)).bar.phase ≠ (t.lvlOf a.id level (u.num / n)).bar.phase then
        .ok (v.observe (v.lvlOf a.id level (u.num / n)).bar.last)
      else .wait ⟨3, level, (t.lvlOf a.id level (u.num / n)).bar.phase⟩ v (.waitLvl level (t.lvlOf a.id level (u.num / n)).bar.phase) := by
  rw [runOp, hu, ha]
  dsimp only
  rw [hl]
  subst hv
  rfl

end Levels

/-- Settles O39: bar.init by its checks, the others by their object, the parts by what the arrival completes. -/
theorem barriers : Obligations.Barriers := by
  refine ⟨?_, ?_, ?_, ?_, ?_, ?_, ?_, ?_, ?_, ?_, ?_, ?_, ?_, ?_, ?_, ?_, ?_⟩
  · exact fun key => longRuns_intro _ exec_barInit
      (fun w r ⟨hp, ha, hk, hi, hc, h1, h2, h3⟩ => by rw [State.barAt_ok hp ha, State.scrKeyAt_ok hk, State.barMake_ok hi hc h1 h2 h3])
      (fun w r => (State.Left.setObj (.refl r)).todoNow)
  · exact longTraps_intro _ exec_barInit (fun w r f h => State.barAt_bad h)
  · refine longTraps_intro _ exec_barInit (fun w r f h => ?_)
    split at h
    · next hp => rw [State.barAt_unaligned hp.1 hp.2, Option.some.inj h]
    · exact absurd h nofun
  · refine fun k => ⟨?_, ?_, ?_⟩
    · exact longTrapsAt_intro _ exec_barInit
        (fun w r ⟨hp, ha, hk, hi, hc⟩ => by rw [State.barAt_ok hp ha, State.scrKeyAt_ok hk, State.barMake_clobber hi hc])
    · exact longTrapsAt_intro _ exec_barInit
        (fun w r ⟨hp, ha, hk, hi, hc, hn⟩ => by rw [State.barAt_ok hp ha, State.scrKeyAt_ok hk, State.barMake_arg hi hc hn])
    · intro i hi
      simp only [List.mem_cons, List.not_mem_nil, or_false] at hi
      rcases hi with rfl | rfl | rfl | rfl
      · exact barObj_longTrapsAt exec_barInitFree
      · exact barObj_longTrapsAt exec_barArr
      · exact barObj_longTrapsAt exec_barWait
      · exact barObj_longTrapsAt exec_barArrw
  · refine fun o k => ⟨?_, ?_, ?_, ?_, ?_, ?_⟩
    · exact longTrapsAt_intro _ exec_barInit (fun w r ⟨⟨hp, ha, hk, ho⟩, hi⟩ => by
        rw [State.barAt_ok hp ha, State.scrKeyAt_ok hk, State.barMake_busy ho hi])
    · exact longRuns_intro _ exec_barInitFree (fun w r ⟨h, hw, ha⟩ => by
        rw [State.barObj_held h, if_pos (o.idle_iff.mpr ⟨hw, ha⟩)]) (fun w r => (State.Left.untype (.refl r)).todoNow)
    · refine longTrapsAt_intro _ exec_barInitFree (fun w r ⟨h, hn⟩ => ?_)
      rw [State.barObj_held h, if_neg (fun hi => ?_)]
      obtain ⟨hw, ha⟩ := o.idle_iff.mp hi
      exact hn.elim (fun h => h hw) (fun h => h ha)
    · exact longParts_intro _ exec_barArr (fun w r h => State.barObj_held h)
    · refine longParts_intro _ exec_barWait (fun w r h => ?_)
      rw [State.barObj_held h, State.scrKeyAt_ok h.key, ite_not, State.andThen]
    · exact longParts_intro _ exec_barArrw (fun w r h => State.barObj_held h)
  · exact fun o st => ⟨BarObj.arrive_last, BarObj.arrive_other⟩
  · intro t ea k ph o hk ho
    refine ⟨fun h => passTo_one nofun ((runOp_waitObj ho).trans (if_pos h)), fun h => ?_, fun d => passTo_one nofun (runOp_arriveObj hk ho),
      fun h => passTo_one nofun (runOp_arriveObj_last hk ho h), fun h => ?_⟩
    · exact runList_wait nofun ((runOp_waitObj ho).trans (if_neg (not_not.mpr h)))
    · obtain ⟨v, hv, hw⟩ := runOp_arriveObj_wait hk ho h
      exact ⟨v, hv, runList_wait nofun hw⟩
  · exact fun q p g m l h => Squad.letGo_head h
  · exact fun t g => passTo_one nofun (by rw [runOp])
  · exact longParts_intro (fun w s => s.andThen [.publish, .waitAck, .arriveSync w.b.toNat w.c.toNat, .snap]) (fun _ _ => rfl) (fun _ _ _ => rfl)
  · exact longParts_intro (fun w s => s.andThen [.publish, .waitAck, .arriveLvl w.b.toNat, .snap]) (fun _ _ => rfl) (fun _ _ _ => rfl)
  · intro t u bid count b b2 hu hb hb2 h
    have run := runOp_arriveSync hu hb h
    rw [show b.arrivalOf count t.obsNow = b2 from hb2.symm] at run
    refine ⟨fun hf => passTo_one nofun ?_, fun hf => ⟨State.testBar_open hf, runList_wait nofun ?_⟩⟩
    · rw [run, HwBar.test_full hf, if_pos (by rw [hb2]; exact Nat.succ_ne_self _)]
      rfl
    · rw [run, HwBar.test_open hf, if_neg (by rw [hb2]; exact not_not.mpr rfl)]
  · exact fun t u bid count hu ha hc => runList_trap nofun (runOp_arriveSync_bad hu ha hc)
  · intro t v u a level k n hu ha hl hv
    have run := runOp_arriveLvl hu ha hl hv
    exact ⟨fun h => passTo_one nofun (run.trans (if_pos h)), fun h => runList_wait nofun (run.trans (if_neg (not_not.mpr h)))⟩
  · exact fun b n ha hc => by rw [HwBar.full_iff ha, if_neg hc]
  · exact fun b n ha hc => by rw [HwBar.full_iff ha, if_pos hc]
  · exact fun b => ⟨rfl, rfl, rfl⟩

end Sys2Proof.Machine

/-! # Proofs: spawn, post, shoals and channels (09 R195 to R198) -/

namespace Sys2Proof.Machine

/-! ### spawn and post -/

/-- The body of spawn. -/
theorem exec_spawn (w : Long) (s : State) : exec (.spawn w) s = s.issueLong true 0x0F8 w (fun s =>
    if (s.spair w.a.toNat).toNat % 4 ≠ 0 then .trap ⟨.spawnArg, 0, 0, 0⟩
    else s.andThen ([.publish, .waitAck] ++ (lanesOf s.lanes).map (fun l =>
      .emit (s.spair w.a.toNat).toNat ((List.range 14).map (fun i => s.sq.v (w.b.toNat + i) l))))) := rfl

/-- What post does once its scratch bytes may be read. -/
def State.postTo (s : State) (w : Long) : Res :=
  match s.qdesc (s.sreg w.b.toNat).toNat with
  | some d =>
    if s.postable s.ctxNow (s.sreg w.b.toNat).toNat then
      s.andThen [.publish, .waitAck, .postDo (s.sreg w.a.toNat).toNat (s.sreg w.b.toNat).toNat d.ring d.lsize]
    else .trap ⟨.queueDenied, 0, 0, 0⟩
  | none => .trap ⟨.queueDenied, 0, 0, 0⟩

theorem exec_post (w : Long) (s : State) : exec (.post w) s = s.issueLong true 0x0F9 w (fun s =>
    match s.checkPlace 64 false [⟨0, ((s.sreg w.a.toNat).toNat : Int), 64⟩] with
    | some t => .trap t
    | none => s.postTo w) := rfl

section Post
variable {s t : State} {q ea ring lsize : Nat} {d : QDesc}

theorem State.postable_iff {ctx : Nat} (hd : s.qdesc q = some d) :
    s.postable ctx q = true ↔ q < 4096 ∧ d.enabled = true ∧ d.fed = true ∧ d.ctx = ctx := by
  rw [State.postable, hd, Bool.and_eq_true, decide_eq_true_eq]
  dsimp only
  rw [Bool.and_eq_true, Bool.and_eq_true, beq_iff_eq, and_assoc]

theorem State.postTo_ok {w : Long} (hd : s.qdesc (s.sreg w.b.toNat).toNat = some d) (h1 : (s.sreg w.b.toNat).toNat < 4096)
    (h2 : d.enabled = true) (h3 : d.fed = true) (h4 : d.ctx = s.ctxNow) :
    s.postTo w = .done (s.setTodo [.publish, .waitAck, .postDo (s.sreg w.a.toNat).toNat (s.sreg w.b.toNat).toNat d.ring d.lsize]) := by
  rw [State.postTo, hd]
  exact if_pos ((State.postable_iff hd).mpr ⟨h1, h2, h3, h4⟩)

theorem State.postTo_denied {w : Long} (hd : s.qdesc (s.sreg w.b.toNat).toNat = some d)
    (h : 4096 ≤ (s.sreg w.b.toNat).toNat ∨ d.enabled = false ∨ d.fed = false ∨ d.ctx ≠ s.ctxNow) :
    s.postTo w = .trap ⟨.queueDenied, 0, 0, 0⟩ := by
  rw [State.postTo, hd]
  refine if_neg (fun hp => ?_)
  obtain ⟨h1, h2, h3, h4⟩ := (State.postable_iff hd).mp hp
  rcases h with h | h | h | h
  · omega
  · exact Bool.false_ne_true (h.symm.trans h2)
  · exact Bool.false_ne_true (h.symm.trans h3)
  · exact h h4

theorem State.postTo_none {w : Long} (hd : s.qdesc (s.sreg w.b.toNat).toNat = none) : s.postTo w = .trap ⟨.queueDenied, 0, 0, 0⟩ := by
  rw [State.postTo, hd]

theorem runOp_postDo (hp : t.checkPlace 64 false [⟨0, (ea : Int), 64⟩] = none)
    (ha : t.absentWait ((List.range 64).map (fun i => t.scrKeyAt ((ea + i : Nat) : Int))) = none) (hs : t.scrPoison [⟨0, (ea : Int), 64⟩] = none) :
    runOp (.postDo ea q ring lsize) t =
      if t.ringFull q lsize then .ok ((t.setQueue { t.queueOf q with qovf := true }).setScc false)
      else if t.barred t.sq.id .event (lineOf (t.entryKey q ring lsize)) then
        .more (t.await .event (lineOf (t.entryKey q ring lsize))) (.postDo ea q ring lsize)
      else .ok (t.postNow ea q ring lsize) := by
  rw [runOp, hp]
  dsimp only
  rw [ha]
  dsimp only
  rw [hs]

/-- A queue is found under its number. -/
theorem State.queueOf_num (s : State) (q : Nat) : (s.queueOf q).num = q := by
  unfold State.queueOf
  split
  · next h => exact beq_iff_eq.mp (List.find?_some (p := fun r : Queue => r.num == q) h)
  · rfl

theorem State.setQueue_queueOf (s : State) {r : Queue} {q : Nat} (h : r.num = q) : (s.setQueue r).queueOf q = r := by
  subst h
  rw [State.queueOf, show (s.setQueue r).queues.find? (·.num == r.num) = some r from
    find?_upsert_same (p := fun p : Queue => p.num == r.num) (beq_self_eq_true _) _]

theorem State.setScc_queueOf (s : State) (b : Bool) (q : Nat) : (s.setScc b).queueOf q = s.queueOf q := by
  unfold State.setScc
  split
  · rfl
  · rfl

theorem State.postNow_tail : ((t.postNow ea q ring lsize).queueOf q).tail = (t.queueOf q).tail + 1 := by
  unfold State.postNow
  extract_lets r c b s
  rw [State.setScc_queueOf]
  have num : ({ r with tail := r.tail + 1, subs := r.subs ++ [(r.tail + 1, c.1.max s.sq.obs)] } : Queue).num = q := State.queueOf_num t q
  rw [State.setQueue_queueOf s num]

theorem State.postNow_scc : (t.postNow ea q ring lsize).scc = true := (State.setScc_same _ _).1

end Post

/-! ### Shoals -/

/-- The body of join for a team. -/
def State.joinAs (s : State) (u : Team) (n : Nat) : Res :=
  if u.shoal = some n then .done s
  else
    match s.shoalSlot u with
    | none => .trap ⟨.shoalState, 0, 0, 0⟩
    | some slot =>
      if u.shoal.isSome ∨ s.teams.any (fun t => t.id != u.id && t.cache / 4 == u.cache / 4 && t.shoal == some n && t.shSlot == slot) then
        .trap ⟨.shoalState, 0, 0, 0⟩
      else .done (s.modTeam u.id (fun v => { v with shoal := some n, shSlot := slot }))

theorem exec_join (w : Long) (s : State) : exec (.join w) s = s.issueLong true 0x0FA w (fun s =>
    match s.teamNow with
    | none => .trap ⟨.shoalState, 0, 0, 0⟩
    | some u => s.joinAs u w.b.toNat) := rfl

section Join
variable {s : State} {u : Team} {n slot : Nat}

theorem State.joinAs_free (hs : u.shoal = none) (hl : s.shoalSlot u = some slot)
    (hf : s.teams.all (fun t => t.id == u.id || t.cache / 4 != u.cache / 4 || t.shoal != some n || t.shSlot != slot) = true) :
    s.joinAs u n = .done (s.modTeam u.id (fun v => { v with shoal := some n, shSlot := slot })) := by
  have free : ¬ s.teams.any (fun t => t.id != u.id && t.cache / 4 == u.cache / 4 && t.shoal == some n && t.shSlot == slot) = true := by
    intro ha
    obtain ⟨t, ht, hb⟩ := List.any_eq_true.mp ha
    have hn := List.all_eq_true.mp hf t ht
    simp only [Bool.and_eq_true, bne_iff_ne, beq_iff_eq] at hb
    simp only [Bool.or_eq_true, bne_iff_ne, beq_iff_eq] at hn
    tauto
  rw [State.joinAs, hs, if_neg nofun, hl]
  exact if_neg (not_or.mpr ⟨nofun, free⟩)

theorem State.joinAs_taken (hn : u.shoal ≠ some n) (hs : u.shoal.isSome = true) : s.joinAs u n = .trap ⟨.shoalState, 0, 0, 0⟩ := by
  rw [State.joinAs, if_neg hn]
  split
  · rfl
  · exact if_pos (.inl hs)

end Join

/-! ### Channels -/

/-- The body of msend.try and of mrecv.try. -/
theorem exec_msend (w : Long) (s : State) : exec (.msend w) s = s.issueLong true 0x0FC w (fun s =>
    if w.x.getLsbD 0 then
      if (s.chan s.clNow w.b.toNat).room then
        ((s.setChan { s.chan s.clNow w.b.toNat with reserved := (s.chan s.clNow w.b.toNat).reserved + 1 }).setScc true).andThen
          [.publish, .waitAck, .sendDo w.b.toNat (s.spair w.a.toNat) true]
      else .done (s.setScc false)
    else s.andThen [.publish, .waitAck, .sendDo w.b.toNat (s.spair w.a.toNat) false]) := rfl

theorem exec_mrecv (w : Long) (s : State) : exec (.mrecv w) s = s.issueLong true 0x0FD w (fun s =>
    if w.x.getLsbD 0 then
      if (s.chan s.clNow w.b.toNat).msgs.isEmpty then .done (s.setScc false)
      else (s.setScc true).andThen [.recvDo w.b.toNat w.d.toNat, .snap]
    else s.andThen [.recvDo w.b.toNat w.d.toNat, .snap]) := rfl

section Channel
variable {t : State} {ch d : Nat} {v : D}

theorem runOp_recvDo {st : Stamp} {l : List (D × Stamp)} (h : (t.chan t.clNow ch).msgs = (v, st) :: l) :
    runOp (.recvDo ch d) t = .ok (((t.setChan { t.chan t.clNow ch with msgs := l }).setS2 d v).observe st) := by
  rw [runOp, h]

theorem runOp_recvDo_empty (h : (t.chan t.clNow ch).msgs = []) : runOp (.recvDo ch d) t = .wait ⟨0x0A, ch, 1⟩ t (.recvDo ch d) := by
  rw [runOp, h]

theorem runOp_sendDo : runOp (.sendDo ch v false) t = if (t.chan t.clNow ch).room
    then .ok (t.setChan { t.chan t.clNow ch with msgs := (t.chan t.clNow ch).msgs ++ [(v, t.obsNow)] })
    else .wait ⟨0x0A, ch, 0⟩ t (.sendDo ch v false) := by
  rw [runOp, Chan.room]
  simp only [decide_eq_true_eq]
  rfl

end Channel

/-- A record lands, or waits for a huddle. -/
theorem runOp_emit {t v : State} {a : Launch} {entry : Nat} {words : List W} (ha : t.launchOf t.sq.launch = some a)
    (h : t.landRec t.clNow a (BitVec.ofNat 64 entry) words t.obsNow = some v) : runOp (.emit entry words) t = .ok v := by
  rw [runOp, ha]
  dsimp only
  rw [h]

theorem runOp_emit_full {t : State} {a : Launch} {entry : Nat} {words : List W} (ha : t.launchOf t.sq.launch = some a)
    (h : t.landRec t.clNow a (BitVec.ofNat 64 entry) words t.obsNow = none) :
    runOp (.emit entry words) t = .wait ⟨0x0E, t.clNow, 0⟩ t (.emit entry words) := by
  rw [runOp, ha]
  dsimp only
  rw [h]

theorem runOp_leaveDo {t : State} : runOp .leaveDo t =
    if t.windowIssued then .more t .leaveDo else .ok (t.modTeam t.sq.team (fun u => { u with shoal := none })) := by
  rw [runOp]

/-- Settles O40: each instruction by its refusals, then its parts. -/
theorem workAndChannels : Obligations.WorkAndChannels := by
  refine ⟨?_, ?_, ?_, ?_, ?_, ?_, ?_, ?_, ?_, ?_, ?_, ?_, ?_, ?_, ?_, ?_, ?_⟩
  · exact longParts_intro _ exec_spawn (fun w r h => if_neg (not_not.mpr h))
  · refine longTraps_intro _ exec_spawn (fun w r f h => ?_)
    split at h
    · exact absurd h nofun
    · next hn => rw [if_pos hn, Option.some.inj h]
  · exact fun t v a entry words ha => ⟨fun h => passTo_one nofun (runOp_emit ha h), fun h => runList_one_wait nofun (runOp_emit_full ha h)⟩
  · refine fun d => ⟨?_, ?_⟩
    · exact longParts_intro _ exec_post (fun w r ⟨hp, hd, h1, h2, h3, h4⟩ => by rw [hp]; exact State.postTo_ok hd h1 h2 h3 h4)
    · refine longTraps_intro _ exec_post (fun w r f h => ?_)
      split at h
      · next hc =>
        obtain ⟨hp, hd, hn⟩ := hc
        rw [hp, ← Option.some.inj h]
        exact State.postTo_denied hd hn
      · exact absurd h nofun
  · exact longTraps_intro _ exec_post (fun w r f h => by rw [h])
  · refine longTraps_intro _ exec_post (fun w r f h => ?_)
    split at h
    · next hc => rw [hc.1, ← Option.some.inj h]; exact State.postTo_none hc.2
    · exact absurd h nofun
  · refine fun t ea q ring lsize hp ha hs => ⟨fun hf => passTo_one nofun ?_, fun hf hb => ⟨passTo_one nofun ?_, State.postNow_scc, State.postNow_tail⟩⟩
    · rw [runOp_postDo hp ha hs, hf, if_pos rfl]
    · rw [runOp_postDo hp ha hs, hf, hb]; rfl
  · refine fun u => ⟨?_, fun slot => ?_, ?_⟩
    · exact longRuns_intro _ exec_join (fun w r ⟨hu, hs⟩ => by rw [hu]; exact if_pos hs) (fun w r => rfl)
    · exact longRuns_intro _ exec_join (fun w r ⟨hu, hs, hl, hf⟩ => by rw [hu]; exact State.joinAs_free hs hl hf)
        (fun w r => (State.Left.modTeam (.refl r)).todoNow)
    · refine longTraps_intro _ exec_join (fun w r f h => ?_)
      split at h
      · next hc =>
        obtain ⟨hu, hn, hs⟩ := hc
        rw [hu, ← Option.some.inj h]
        exact State.joinAs_taken hn hs
      · exact absurd h nofun
  · exact longParts_intro (fun _ s => s.andThen [.leaveDo]) (fun _ _ => rfl) (fun _ _ _ => rfl)
  · exact fun t => ⟨fun h => passTo_one nofun (by rw [runOp_leaveDo, h]; rfl), fun h => runList_more nofun (by rw [runOp_leaveDo, h]; rfl)⟩
  · exact longParts_intro _ exec_msend (fun w r h => by rw [h]; rfl)
  · exact longParts_intro _ exec_msend (fun w r ⟨h, hr⟩ => by rw [h, hr]; rfl)
  · exact longRuns_intro _ exec_msend (fun w r ⟨h, hr⟩ => by rw [h, hr]; rfl) (fun w r => State.setScc_todoNow _ _)
  · exact longParts_intro _ exec_mrecv (fun w r h => by rw [h]; rfl)
  · refine longParts_intro _ exec_mrecv (fun w r ⟨h, hm⟩ => ?_)
    rw [h, if_pos rfl, if_neg (by rwa [List.isEmpty_iff])]
    rfl
  · exact longRuns_intro _ exec_mrecv (fun w r ⟨h, hm⟩ => by rw [h, hm]; rfl) (fun w r => State.setScc_todoNow _ _)
  · refine fun t ch d v st l => ⟨fun h => passTo_one nofun (runOp_recvDo h), fun h => runList_wait nofun (runOp_recvDo_empty h),
      fun h => passTo_one nofun ?_, fun h => runList_one_wait nofun ?_⟩
    · rw [runOp_sendDo, if_pos h]
    · rw [runOp_sendDo, h]; rfl

end Sys2Proof.Machine

/-! # Proofs: matrix instructions (08 R158 to R176) -/

namespace Sys2Proof.Machine

/-! ### Reading and queueing -/

section Queue
variable {r t u : State}

theorem State.Left.atRead {glob : List Span} (h : r.Left t) : r.Left (t.atRead glob) := h.engineCollapse
theorem State.Left.queued {n : Nat} {p : MPass} (h : r.Left t) : r.Left (t.queued n p) := h.modMcc

/-- The entries that must retire have. -/
theorem State.afterDrain_ok {p : MPass → Bool} {go : State → Res} (h : (r.drainQ p).mcc.queue.any p = false) :
    r.afterDrain p go = go (r.drainQ p) := if_neg (by rw [h]; exact Bool.false_ne_true)

theorem List.any_nil_of_eq {α : Type} {p : α → Bool} {l : List α} (h : l = []) : l.any p = false := by rw [h]; rfl

end Queue

/-! ### mrec -/

/-- The bytes of the record that mrec writes. -/
def State.mrecBytes (s : State) (w : Long) : List Byte := ((List.range 16).map (fun i => s.sreg (w.b.toNat + i))).flatMap (fun v => bytesLE 4 v.toNat)

theorem exec_mrec (w : Long) (s : State) : exec (.mrec w) s = s.issueLong true 0x140 w (fun s =>
    match s.checkScr 64 true [⟨0, ((s.sreg w.a.toNat).toNat : Int), 64⟩] with
    | some t => if t.cause.order < 8 then .trap t else if (ARec.ofBytes (s.mrecBytes w)).bad then .trap ⟨.recfmt, 0, 0, 0⟩ else .trap t
    | none =>
      if (ARec.ofBytes (s.mrecBytes w)).bad then .trap ⟨.recfmt, 0, 0, 0⟩
      else s.andThen [.mrecDo (s.sreg w.a.toNat).toNat ((List.range 16).map (fun i => s.sreg (w.b.toNat + i)))]) := rfl

theorem runOp_mrecDo {u : State} {ea : Nat} {words : List W} (h : u.absentWait ((List.range 64).map (u.scrKeyAt (ea : Int) + ·)) = none) :
    runOp (.mrecDo ea words) u = .ok (u.scrWrite (u.scrKeyAt (ea : Int)) (words.flatMap (fun w => bytesLE 4 w.toNat))) := by
  rw [runOp, h]

/-! ### mfence and mrestart -/

/-- The counter of an mfence. -/
def State.fenceSig (s : State) (w : Long) (b : Bool) : Option (Nat × Nat) :=
  if b then some ((s.sreg w.a.toNat).toNat, (s.sreg w.b.toNat).toNat) else none

/-- mfence once its place is checked. -/
def State.fenceGo (s : State) (sig : Option (Nat × Nat)) : Res :=
  s.afterDrain (fun _ => true) (fun s => s.fenced.andThen [.publish, .waitAck, .mfenceEnd sig])

theorem exec_mfence (w : Long) (s : State) : exec (.mfence w) s = s.issueLong true 0x147 w (fun s =>
    if (xSub w.x).testBit 0 then
      s.checkedScr 8 true [⟨0, ((s.sreg w.a.toNat).toNat : Int), 8⟩] (fun _ => s.fenceGo (some ((s.sreg w.a.toNat).toNat, (s.sreg w.b.toNat).toNat)))
    else s.fenceGo none) := rfl

theorem State.fenceGo_ok {s : State} {sig : Option (Nat × Nat)} (h : (s.drainQ (fun _ => true)).mcc.queue = []) :
    s.fenceGo sig = .done ((s.drainQ (fun _ => true)).fenced.setTodo [.publish, .waitAck, .mfenceEnd sig]) := by
  rw [State.fenceGo, State.afterDrain_ok (List.any_nil_of_eq h), State.andThen]

/-- An mfence whose place passes, and whose queue is empty. -/
theorem State.mfence_ready {s : State} {w : Long} {b : Bool} (hb : (xSub w.x).testBit 0 = b)
    (hc : b = true → s.checkPlace 8 true [⟨0, ((s.sreg w.a.toNat).toNat : Int), 8⟩] = none) (hq : (s.drainQ (fun _ => true)).mcc.queue = []) :
    (if (xSub w.x).testBit 0 then
      s.checkedScr 8 true [⟨0, ((s.sreg w.a.toNat).toNat : Int), 8⟩] (fun _ => s.fenceGo (some ((s.sreg w.a.toNat).toNat, (s.sreg w.b.toNat).toNat)))
    else s.fenceGo none) =
      .done ((s.drainQ (fun _ => true)).fenced.setTodo [.publish, .waitAck, .mfenceEnd (s.fenceSig w b)]) := by
  subst hb
  cases hx : (xSub w.x).testBit 0 with
  | true => rw [if_pos rfl, State.checkedScr_ok (hc hx), State.fenceGo_ok hq]; rfl
  | false => rw [if_neg Bool.false_ne_true, State.fenceGo_ok hq]; rfl

theorem exec_mrestart (w : Long) (s : State) : exec (.mrestart w) s = s.issueLong true 0x146 w (fun s =>
    .done (s.modMcc (fun m => { m with
      restart := m.pc + BitVec.ofInt 64 (w.x.toInt * 4)
      hasRestart := true, ckptS := m.sregs, ckptScc := m.scc, ckptFmt := m.fmt }))) := rfl

/-- The label of an mrestart. -/
theorem ofInt_mul_four (x : BitVec 16) : BitVec.ofInt 64 (x.toInt * 4) = x.signExtend 64 * 4 := by
  rw [BitVec.ofInt_mul]
  rfl

/-! ### Retirement -/

section Retire
variable {t : State} {p : MPass} {l : List MPass}

/-- An entry without lines retires at once. -/
theorem State.retirePass_plain (hq : t.mcc.queue = p :: l) (hl : p.lines = []) (hn : p.late = none) : t.retirePass =
    t.modMcc (fun m => { m with
      queue := l
      acc := match p.acc with | some (i, w) => m.acc.set i w | none => m.acc
      slots := match p.slot with | some (i, t) => m.slots.set i t | none => m.slots
      flags := m.flags ||| p.flags
      energy := satAdd m.energy p.energy }) := by
  have ho : t.overflows p = false := by rw [State.overflows, hl]; rfl
  have hp : t.passNow p = p := by rw [State.passNow, hn]
  unfold State.retirePass
  rw [hq]
  dsimp only
  rw [ho, hp, hn, hl]
  rfl

/-- The byte that a pass has read is one of those it noted. -/
theorem State.passByte_mem {p : PassIn} {a i : Nat} {e : Nat × Nat × List Byte} (he : p.old[i]? = some e) (ha : e.1 = a)
    (hf : ∀ j < i, ∀ d, p.old[j]? = some d → d.1 ≠ a) : t.passByte p a ∈ t.scrByte e.2.1 :: e.2.2 := by
  have at_ : ∀ j d, p.old[j]? = some d → nth (0, 0, []) p.old j = d := fun j d h => by rw [nth_eq_getElem?, h]; rfl
  have hi : i < p.old.length := (List.getElem?_eq_some_iff.mp he).1
  have found : (List.range p.old.length).find? (fun i => (nth (0, 0, []) p.old i).1 == a) = some i := by
    rw [List.find?_range_eq_some]
    refine ⟨beq_iff_eq.mpr (by rw [at_ i e he, ha]), List.mem_range.mpr hi, fun j hj => ?_⟩
    have hd : p.old[j]? = some p.old[j] := List.getElem?_eq_getElem (hj.trans hi)
    rw [Bool.not_eq_true', beq_eq_false_iff_ne, at_ j _ hd]
    exact hf j hj _ hd
  rw [State.passByte, found]
  dsimp only
  rw [at_ i e he, nth_eq_getElem?]
  generalize (Config.freeWord (t.free + i)).toNat % (e.2.2.length + 1) = k
  cases hk : e.2.2[k]? with
  | none => exact List.mem_cons_self
  | some b => exact List.mem_cons_of_mem _ (List.mem_of_getElem? hk)

theorem PassIn.note_mem {now : Nat → Byte} {p : PassIn} {e : Nat × Nat × List Byte} (h : e ∈ (p.note now).old) : now e.2.1 ∈ e.2.2 := by
  obtain ⟨d, _, hd⟩ := List.mem_map.mp h
  split at hd
  · next hc => rw [← hd]; exact List.contains_iff_mem.mp hc
  · rw [← hd]; exact List.mem_append_right _ (List.mem_singleton.mpr rfl)

end Retire

/-- Settles O41: the instructions by their checks, the queue by what retires. -/
theorem matrixControl : Obligations.MatrixControl := by
  refine ⟨?_, ?_, ?_, ?_, ?_, ?_, ?_, ?_, ?_, fun t p a i e he ha hf => State.passByte_mem he ha hf, fun now p e h => PassIn.note_mem h⟩
  · exact longParts_intro _ exec_mrec (fun w r ⟨hc, hb⟩ => by rw [hc]; exact if_neg (by rw [State.mrecBytes, hb]; exact Bool.false_ne_true))
  · exact longEnds_intro _ exec_mrec (fun w r u ⟨hc, hb, _⟩ => by rw [hc]; exact if_neg (by rw [State.mrecBytes, hb]; exact Bool.false_ne_true))
      (fun w r u ⟨_, _, ha⟩ => passTo_one nofun (runOp_mrecDo ha))
  · refine longTraps_intro _ exec_mrec (fun w r f h => ?_)
    obtain ⟨t, ht, hf⟩ := Option.map_eq_some_iff.mp h
    rw [ht, ← hf]
    dsimp only
    rw [← apply_ite Res.trap, ← apply_ite Res.trap]
    rfl
  · refine longTraps_intro _ exec_mrec (fun w r f h => ?_)
    split at h
    · next hc => rw [hc.1, ← Option.some.inj h]; exact if_pos hc.2
    · exact absurd h nofun
  · exact longRuns_intro (fun w s => s.afterDrain (·.usesAcc w.d.toNat) (fun s => s.enqueue 8 { MPass.none with acc := some (w.d.toNat, []) }))
      (fun _ _ => rfl) (fun w r h => State.afterDrain_ok h) (fun w r => (State.Left.queued (State.Left.drainQ (.refl r))).todoNow)
  · exact longRuns_intro _ exec_mrestart (fun w r _ => by rw [ofInt_mul_four]) (fun w r => (State.Left.modMcc (.refl r)).todoNow)
  · refine fun b => ⟨?_, ?_⟩
    · exact longParts_intro _ exec_mfence (fun w r ⟨hb, hc, hq⟩ => State.mfence_ready hb hc hq)
    · refine longEnds_intro _ exec_mfence (fun w r u ⟨hb, hc, hq, _⟩ => State.mfence_ready hb hc hq) (fun w r u ⟨_, _, _, hp⟩ => ?_)
      rw [passTo_publish hp]
      exact passTo_one nofun (by rw [runOp])
  · refine longTraps_intro _ exec_mfence (fun w r f h => ?_)
    split at h
    · next hb => rw [if_pos hb, State.checkedScr_bad h]
    · exact absurd h nofun
  · intro t p l hq hl hn
    rw [State.retirePass_plain hq hl hn]
    exact ⟨rfl, rfl, fun i v h => by rw [State.modMcc, h], fun i v h => by rw [State.modMcc, h]⟩

end Sys2Proof.Machine

/-! # Proofs: the matrix passes and what they compute (08 R162 to R173, 01 R32 to R34) -/

namespace Sys2Proof.Machine

/-! ### The instructions that enter the queue -/

section Mma
variable {r t : State} {w : Long} {a : ARec} {d : State} {sl : Slot} {z : Bool} {k : Nat} {el : List Span}

/-- The spans of A that a pass reads. -/
def ARec.passSpans (a : ARec) (bs : Bool) (kst k : Nat) : List Span :=
  a.spans 0 a.rows kst k ++ (if bs then a.scaleSpans 0 a.rows (kst / 32) ((k + 31) / 32) else [])

/-- A pass whose record, slot and operands suit enters the queue. -/
theorem State.mmaRun_ready (ha : r.RecHeld (r.sreg w.a.toNat).toNat .a a)
    (hd : d = r.drainQ (fun p => p.slot.any (·.1 == w.b.toNat) || p.usesAcc w.d.toNat))
    (hq : d.mcc.queue.any (fun p => p.slot.any (·.1 == w.b.toNat) || p.usesAcc w.d.toNat) = false)
    (hsl : sl = nth Slot.empty d.mcc.slots w.b.toNat) (hf : sl.filled = true) (hfa : a.fcode = fmtA d.fmtNow) (hfb : sl.fcode = fmtB d.fmtNow)
    (hbs : sl.bscale = fmtScale d.fmtNow) (hk : k = (d.sreg w.c.toNat).toNat) (h32 : k % 32 = 0) (hr : a.rows ≤ 128) (hc : k + sl.krows ≤ a.cols)
    (hel : el = a.passSpans (fmtScale d.fmtNow) k sl.krows) (ho : d.OperandsReady a.w (a.spans 0 a.rows k sl.krows) el []) (ht : t = d.atRead []) :
    r.mmaRun w z = .done (t.queued ((a.rows + rowsPerCycle a.fcode sl.fcode - 1) / rowsPerCycle a.fcode sl.fcode)
      { MPass.none with
        acc := some (w.d.toNat, (a.pass d.fmtNow z k sl (t.reader true []) (nth [] t.mcc.acc w.d.toNat)).1)
        reads := if z then [] else [w.d.toNat]
        rslot := some w.b.toNat
        flags := BitVec.ofNat 32 (a.pass d.fmtNow z k sl (t.reader true []) (nth [] t.mcc.acc w.d.toNat)).2
        late := some (t.passIn w.d.toNat (t.sreg w.a.toNat).toNat k d.fmtNow z sl el) }) := by
  have noFmt : ¬ (a.fcode ≠ fmtA d.fmtNow ∨ sl.filled = true ∧ (sl.fcode ≠ fmtB d.fmtNow ∨ sl.bscale ≠ fmtScale d.fmtNow)) := by
    rintro (h | ⟨-, h | h⟩)
    · exact h hfa
    · exact h hfb
    · exact h hbs
  have noShape : ¬ (k % 32 ≠ 0 ∨ 128 < a.rows ∨ a.cols < k + sl.krows) := by omega
  rw [State.mmaRun, State.recAt_held ha, State.afterDrain_ok (by rw [← hd]; exact hq), ← hd]
  dsimp only
  rw [← hsl, ← hk, if_pos hf, if_neg noFmt, if_neg noShape, hf, Bool.not_true, if_neg Bool.false_ne_true, ← ARec.passSpans, ← hel,
    State.operands_ready ho, State.enqueue_queued, ← ht]
  rfl

/-- What enters is a change of the queue after reads. -/
theorem State.queued_left {n : Nat} {p : MPass} (hd : r.Left d) (ht : t = d.atRead []) : (t.queued n p).todoNow = r.todoNow := by
  rw [ht]; exact (State.Left.queued (State.Left.atRead hd)).todoNow

end Mma

theorem exec_wld (w : Long) (s : State) : exec (.wld w) s = s.issueLong true 0x141 w (fun s =>
    s.recAt (s.sreg w.a.toNat).toNat .b (fun r => if r.sparse = 0 then s.wldGo w r r else s.recAt r.mrec .meta_ (fun m => s.wldGo w r m))) := rfl

section Wld
variable {r t : State} {w : Long} {b m : ARec} {kst nst kk nn h g : Nat} {el ms : List Span} {sl : Slot}

/-- The record of B, and the metadata record where it is sparse, are handed on. -/
theorem State.wld_records (hb : r.RecHeld (r.sreg w.a.toNat).toNat .b b) (hm : b.sparse = 0 ∧ m = b ∨ b.sparse ≠ 0 ∧ r.RecHeld b.mrec .meta_ m) :
    r.recAt (r.sreg w.a.toNat).toNat .b (fun b => if b.sparse = 0 then r.wldGo w b b else r.recAt b.mrec .meta_ (fun m => r.wldGo w b m)) =
      r.wldGo w b m := by
  rw [State.recAt_held hb]
  rcases hm with ⟨h0, rfl⟩ | ⟨h0, hm⟩
  · exact if_pos h0
  · rw [if_neg h0, State.recAt_held hm]

/-- A slot whose operands are there enters the queue. -/
theorem State.wldGo_ready (hf : b.fcode = fmtB r.fmtNow) (hk : kst = (r.sreg w.b.toNat).toNat) (hn : nst = (r.sreg w.c.toNat).toNat)
    (h32 : kst % 32 = 0) (hkr : kst < b.rows) (hnc : nst < b.cols) (hkk : kk = min 128 (b.rows - kst)) (hnn : nn = min 256 (b.cols - nst))
    (hh : h = sparseH b.sparse) (hg : g = sparseG b.sparse)
    (hel : el = b.spans (kst * h / g) (kk * h / g) nst nn ++ (if fmtScale r.fmtNow then b.scaleSpans (kst / 32) ((kk + 31) / 32) nst nn else []))
    (hms : ms = (if b.sparse = 0 then [] else m.spans (kst * h / g) (kk * h / g) nst nn))
    (ho : r.OperandsReady b.w (b.spans (kst * h / g) (kk * h / g) nst nn) (ofScr b.scr el ++ ofScr m.scr ms) (ofScr (!b.scr) el ++ ofScr (!m.scr) ms))
    (ht : t = r.atRead (ofScr (!b.scr) el ++ ofScr (!m.scr) ms))
    (hsl : wldSlot b m (t.reader b.scr (r.stampsOf (ofScr (!b.scr) el ++ ofScr (!m.scr) ms)))
      (t.reader m.scr (r.stampsOf (ofScr (!b.scr) el ++ ofScr (!m.scr) ms))) (fmtScale r.fmtNow) kst nst kk nn = some sl)
    (hq : (t.drainQ (·.usesSlot w.d.toNat)).mcc.queue.any (·.usesSlot w.d.toNat) = false) :
    r.wldGo w b m = .done ((t.drainQ (·.usesSlot w.d.toNat)).queued 1 { MPass.none with slot := some (w.d.toNat, sl) }) := by
  have noShape : ¬ (kst % 32 ≠ 0 ∨ b.rows ≤ kst ∨ b.cols ≤ nst) := by omega
  rw [State.wldGo]
  dsimp only
  rw [← hk, ← hn, if_neg (not_not.mpr hf), if_neg noShape, ← hkk, ← hnn, ← hh, ← hg, ← hel, ← hms, State.operands_ready ho, ← ht, hsl]
  exact State.afterDrain_ok hq

end Wld

section Ld
variable {r t u : State} {w : Long} {c : ARec}

/-- The words that mclr.ld reads. -/
def ARec.words (c : ARec) (rd : Nat → Byte) : List (Nat × W) :=
  (List.range c.rows).foldl (fun a i => (List.range c.cols).foldl (fun a j => put 0 a (256 * i + j) (BitVec.ofNat 32 (c.elem rd i j))) a) []

theorem exec_mclrLd (w : Long) (s : State) : exec (.mclrLd w) s = s.issueLong true 0x145 w (fun s =>
    s.recAt (s.sreg w.a.toNat).toNat .ld (fun c =>
      if (c.fcode == 0x19) != fmtAcc s.fmtNow then .trap ⟨.matFormat, 0, 0, 0⟩
      else if 128 < c.rows ∨ 256 < c.cols then .trap ⟨.matShape, 0, 0, 0⟩
      else
        s.operands c.w (c.spans 0 c.rows 0 c.cols) (ofScr c.scr (c.spans 0 c.rows 0 c.cols)) (ofScr (!c.scr) (c.spans 0 c.rows 0 c.cols)) (fun s cs =>
          s.afterDrain (·.usesAcc w.d.toNat) (fun s => s.enqueue 8 { MPass.none with acc := some (w.d.toNat, c.words (s.reader c.scr cs)) })))) := rfl

theorem State.mclrLd_ready (hc : r.RecHeld (r.sreg w.a.toNat).toNat .ld c) (hf : c.fcode = 0x19 ↔ fmtAcc r.fmtNow = true) (hr : c.rows ≤ 128)
    (hcc : c.cols ≤ 256)
    (ho : r.OperandsReady c.w (c.spans 0 c.rows 0 c.cols) (ofScr c.scr (c.spans 0 c.rows 0 c.cols)) (ofScr (!c.scr) (c.spans 0 c.rows 0 c.cols)))
    (ht : t = r.atRead (ofScr (!c.scr) (c.spans 0 c.rows 0 c.cols))) (hu : u = t.drainQ (·.usesAcc w.d.toNat))
    (hq : u.mcc.queue.any (·.usesAcc w.d.toNat) = false) :
    r.recAt (r.sreg w.a.toNat).toNat .ld (fun c =>
      if (c.fcode == 0x19) != fmtAcc r.fmtNow then .trap ⟨.matFormat, 0, 0, 0⟩
      else if 128 < c.rows ∨ 256 < c.cols then .trap ⟨.matShape, 0, 0, 0⟩
      else
        r.operands c.w (c.spans 0 c.rows 0 c.cols) (ofScr c.scr (c.spans 0 c.rows 0 c.cols)) (ofScr (!c.scr) (c.spans 0 c.rows 0 c.cols)) (fun s cs =>
          s.afterDrain (·.usesAcc w.d.toNat) (fun s => s.enqueue 8 { MPass.none with acc := some (w.d.toNat, c.words (s.reader c.scr cs)) }))) =
    .done (u.queued 8 { MPass.none with
      acc := some (w.d.toNat, c.words (u.reader c.scr (r.stampsOf (ofScr (!c.scr) (c.spans 0 c.rows 0 c.cols))))) }) := by
  have noFmt : ¬ ((c.fcode == 0x19) != fmtAcc r.fmtNow) = true := by
    rw [bne_iff_ne, not_not, Bool.eq_iff_iff, beq_iff_eq]
    exact hf
  have noShape : ¬ (128 < c.rows ∨ 256 < c.cols) := by omega
  subst hu
  rw [State.recAt_held hc, if_neg noFmt, if_neg noShape, State.operands_ready ho, ← ht, State.afterDrain_ok hq, State.enqueue_queued]

end Ld

section Mepi
variable {r u : State} {w : Long} {e : ARec} {out : Nat → Nat → Nat × Nat}

/-- The words that mepi puts out, and what it hands to the queue. -/
def State.mepiOut (s : State) (w : Long) (e : ARec) (i j : Nat) : Nat × Nat :=
  mepiWord s.fmtNow (s.mode (xRnd w.x)) e.fcode ((xSub w.x).testBit 0)
    (if (xSub w.x).testBit 1 then some (s.sreg w.b.toNat) else none) (look 0 (nth [] s.mcc.acc w.a.toNat) (256 * i + j))
def State.mepiPass (s : State) (w : Long) (e : ARec) (out : Nat → Nat → Nat × Nat) : MPass :=
  { MPass.none with
    lines := s.outLines e.scr (e.outRows (fun i j => (out i j).1))
    reads := [w.a.toNat]
    flags := BitVec.ofNat 32 ((List.range e.rows).foldl (fun f i => (List.range e.cols).foldl (fun f j => f ||| (out i j).2) f) 0) }

/-- mepi once its record is read. -/
def State.mepiGo (s : State) (w : Long) (e : ARec) : Res :=
  if 128 < e.rows ∨ 256 < e.cols then .trap ⟨.matShape, 0, 0, 0⟩
  else
    if let some t := misaligned e.w (e.spans 0 e.rows 0 e.cols) then .trap t else
    s.checkBoth .mepi true (ofScr e.scr (e.spans 0 e.rows 0 e.cols)) (ofScr (!e.scr) (e.spans 0 e.rows 0 e.cols)) (fun _ =>
      s.afterDrain (·.writes w.a.toNat) (fun s => s.enqueue 8 (s.mepiPass w e (s.mepiOut w e))))

theorem exec_mepi (w : Long) (s : State) : exec (.mepi w) s = s.issueLong true 0x144 w (fun s =>
    s.recAt (s.sreg w.d.toNat).toNat .dst (fun e => s.mepiGo w e)) := rfl

theorem State.mepiGo_ready (hr : e.rows ≤ 128) (hc : e.cols ≤ 256) (hm : misaligned e.w (e.spans 0 e.rows 0 e.cols) = none)
    (hs : r.scrRows true (ofScr e.scr (e.spans 0 e.rows 0 e.cols)) = none)
    (hg : r.check .mepi 1 (accsOf (ofScr (!e.scr) (e.spans 0 e.rows 0 e.cols))) = .ok) (hu : u = r.drainQ (·.writes w.a.toNat))
    (hq : u.mcc.queue.any (·.writes w.a.toNat) = false) :
    r.mepiGo w e = .done (u.queued 8 (u.mepiPass w e (u.mepiOut w e))) := by
  subst hu
  rw [State.mepiGo, if_neg (by omega), hm]
  dsimp only
  rw [State.checkBoth_ok hs hg, State.afterDrain_ok hq, State.enqueue_queued]

end Mepi

/-! ### What a pass computes -/

section Pass
variable {b : Bool}

/-- One cell of a pass. -/
def passCell (fm : W) (z : Bool) (k : Nat) (ea eb : Nat → Nat → FV × Nat) (acc : List (Nat × W)) (i j : Nat) : Nat × Nat :=
  macChain (fmtAcc fm) ((List.range k).map (fun q => (ea i q, eb q j)))
    (if z then (if fmtAcc fm then 0 else 0x80000000) else (look 0 acc (256 * i + j)).toNat) 0

/-- Cells written one after another, with their flags. -/
def writeCells (idx : Nat → Nat) (cell : Nat → Nat × Nat) (n : Nat) (p : List (Nat × W) × Nat) : List (Nat × W) × Nat :=
  (List.range n).foldl (fun p j => (put 0 p.1 (idx j) (BitVec.ofNat 32 (cell j).1), p.2 ||| (cell j).2)) p

theorem zip_columns (n k j : Nat) (hj : j < n) (ea : Nat → FV × Nat) (eb : Nat → Nat → FV × Nat) :
    ((List.range k).map ea).zip (nth [] ((List.range n).map (fun j => (List.range k).map (fun q => eb q j))) j) =
      (List.range k).map (fun q => (ea q, eb q j)) := by
  rw [nth_eq_getElem?, List.getElem?_map, List.getElem?_range hj]
  exact List.zip_map' ..

theorem passOf_cells (fm : W) (z : Bool) (m k : Nat) (ea eb : Nat → Nat → FV × Nat) (acc : List (Nat × W)) :
    passOf fm z m k ea eb acc = (List.range m).foldl (fun p i => writeCells (fun j => 256 * i + j) (passCell fm z k ea eb acc i) 256 p) (acc, 0) := by
  unfold passOf writeCells passCell
  generalize 256 = n
  refine congrArg (fun f => (List.range m).foldl f (acc, 0)) (funext fun p => funext fun i => ?_)
  refine List.foldl_ext _ _ _ (fun p j hj => ?_)
  rw [zip_columns n k j (List.mem_range.mp hj)]
  rfl

/-- The lists stay canonical, cells read as written, and others as before. -/
theorem writeCells_spec (idx : Nat → Nat) (cell : Nat → Nat × Nat) (n : Nat) (p : List (Nat × W) × Nat) (hp : canon 0 p.1 = true)
    (hi : ∀ a b, idx a = idx b → a = b) : canon 0 (writeCells idx cell n p).1 = true ∧
    (∀ j < n, look 0 (writeCells idx cell n p).1 (idx j) = BitVec.ofNat 32 (cell j).1) ∧
    ∀ a, (∀ j < n, idx j ≠ a) → look 0 (writeCells idx cell n p).1 a = look 0 p.1 a := by
  induction n with
  | zero => exact ⟨hp, fun j hj => absurd hj (Nat.not_lt_zero _), fun _ _ => rfl⟩
  | succ n ih =>
    obtain ⟨hc, hs, ho⟩ := ih
    have step : writeCells idx cell (n + 1) p =
        (put 0 (writeCells idx cell n p).1 (idx n) (BitVec.ofNat 32 (cell n).1), (writeCells idx cell n p).2 ||| (cell n).2) := by
      rw [writeCells, List.range_succ, List.foldl_append]; rfl
    rw [step]
    refine ⟨canon_put hc _ _, fun j hj => ?_, fun a ha => ?_⟩
    · rw [look_put hc]
      split
      · next h => rw [hi _ _ h]
      · next h => exact hs j (lt_of_le_of_ne (Nat.lt_succ_iff.mp hj) (fun e => h (congrArg idx e)))
    · rw [look_put hc, if_neg (fun h => ha n (Nat.lt_succ_self n) h.symm)]
      exact ho a (fun j hj => ha j (Nat.lt_succ_of_lt hj))

/-- The word of an element after a pass. -/
theorem passOf_spec (fm : W) (z : Bool) (m k : Nat) (ea eb : Nat → Nat → FV × Nat) (acc : List (Nat × W)) (hacc : canon 0 acc = true) :
    canon 0 (passOf fm z m k ea eb acc).1 = true ∧
    (∀ i j, j < 256 → (i < m → look 0 (passOf fm z m k ea eb acc).1 (256 * i + j) = BitVec.ofNat 32 (passCell fm z k ea eb acc i j).1) ∧
      (m ≤ i → look 0 (passOf fm z m k ea eb acc).1 (256 * i + j) = look 0 acc (256 * i + j))) := by
  rw [passOf_cells]
  induction m with
  | zero => exact ⟨hacc, fun i j _ => ⟨fun h => absurd h (Nat.not_lt_zero _), fun _ => rfl⟩⟩
  | succ m ih =>
    obtain ⟨hc, hl⟩ := ih
    rw [List.range_succ, List.foldl_append, List.foldl_cons, List.foldl_nil]
    obtain ⟨hc', hs, ho⟩ := writeCells_spec (fun j => 256 * m + j) (passCell fm z k ea eb acc m) 256 _ hc (fun a b h => by omega)
    refine ⟨hc', fun i j hj => ⟨fun hi => ?_, fun hi => ?_⟩⟩
    · rcases Nat.lt_succ_iff_lt_or_eq.mp hi with hlt | rfl
      · exact (ho (256 * i + j) (fun q hq => by omega)).trans ((hl i j hj).1 hlt)
      · exact hs j hj
    · exact (ho (256 * i + j) (fun q hq => by omega)).trans ((hl i j hj).2 (by omega))

/-- A chain's last step. -/
theorem macChain_append (l : List ((FV × Nat) × (FV × Nat))) (x y : FV × Nat) (t f : Nat) : macChain b (l ++ [(x, y)]) t f =
    ((macStep b (macChain b l t f).1 x y).1, (macChain b l t f).2 ||| (macStep b (macChain b l t f).1 x y).2) := by
  induction l generalizing t f with
  | nil => rfl
  | cons p l ih => exact ih _ _

theorem FV.ofInt_toInt (x : Int) : (FV.ofInt x).toInt = x := by
  unfold FV.ofInt FV.toInt
  dsimp only
  by_cases h : x < 0
  · rw [decide_eq_true h, if_pos rfl]; omega
  · rw [decide_eq_false h, if_neg Bool.false_ne_true]; omega

/-- An integer step wraps, and says so. -/
theorem macStep_int (t : W) (x y : Int) : macStep true t.toNat (FV.ofInt x, 0) (FV.ofInt y, 0) = ((t + BitVec.ofInt 32 (x * y)).toNat,
    if t.toInt + x * y < -(2 ^ 31) ∨ 2 ^ 31 ≤ t.toInt + x * y then fOF else 0) := by
  have sum : BitVec.ofInt 32 (t.toInt + x * y) = t + BitVec.ofInt 32 (x * y) := by
    rw [BitVec.ofInt_add, BitVec.ofInt_toInt]
  rw [macStep, if_pos rfl]
  dsimp only
  rw [FV.ofInt_toInt, FV.ofInt_toInt, sext_toNat (by decide), Nat.or_zero, Nat.or_zero, ← sum]
  rfl

end Pass

/-- Settles O42: each instruction through its record and operands into the queue, then the chain of a word. -/
theorem matrixPasses : Obligations.MatrixPasses := by
  refine ⟨?_, ?_, ?_, ?_, ?_, fun b l x y t f => ⟨rfl, macChain_append l x y t f⟩, fun t x y => rfl, macStep_int, by decide, ?_, fun x => rfl⟩
  · intro w s r t a d sl z i k el hi hgo hr ha hd hq hsl hf hfa hfb hbs hk h32 hrow hcol hel ho ht p hp
    have ready := State.mmaRun_ready (z := z) ha hd hq hsl hf hfa hfb hbs hk h32 hrow hcol hel ho ht
    have hpass : p = a.pass d.fmtNow z k sl (t.reader true []) (nth [] t.mcc.acc w.d.toNat) := hp
    have left : r.Left d := by rw [hd]; exact State.Left.drainQ (.refl r)
    rw [← hpass] at ready
    subst hi
    cases z with
    | true =>
      refine State.issue_done (body := fun s => s.mmaRun w true) hgo (by rw [← show r = _ from hr]; exact ready) ?_
      rw [State.queued_left left ht, hr]; exact hgo.todo
    | false =>
      refine State.issue_done (body := fun s => s.mmaRun w false) hgo (by rw [← show r = _ from hr]; exact ready) ?_
      rw [State.queued_left left ht, hr]; exact hgo.todo
  · intro w s r t b m kst nst kk nn h g el ms sl hgo hr hb hm hf hk hn h32 hkr hnc hkk hnn hh hg hel hms ho ht hsl hq
    rw [exec_wld]
    refine State.issue_done hgo ?_ ?_
    · rw [← hr, State.wld_records hb hm]
      exact State.wldGo_ready hf hk hn h32 hkr hnc hkk hnn hh hg hel hms ho ht hsl hq
    · rw [ht, hr, (State.Left.queued (State.Left.drainQ (State.Left.atRead (.refl _)))).todoNow]; exact hgo.todo
  · intro w s r t u c hgo hr hc hf hrow hcol ho ht hu hq
    rw [exec_mclrLd]
    refine State.issue_done hgo (by rw [← hr]; exact State.mclrLd_ready hc hf hrow hcol ho ht hu hq) ?_
    rw [hu, ht, hr, (State.Left.queued (State.Left.drainQ (State.Left.atRead (.refl _)))).todoNow]; exact hgo.todo
  · intro w s r u e out hgo hr he hrow hcol hm hs hg hu hq hout
    have hout : out = u.mepiOut w e := hout
    subst hout
    rw [exec_mepi]
    refine State.issue_done hgo (by rw [← hr, State.recAt_held he]; exact State.mepiGo_ready hrow hcol hm hs hg hu hq) ?_
    rw [hu, hr]
    exact ((State.Left.queued (State.Left.drainQ (.refl _))).todoNow).trans hgo.todo
  · exact fun fm z m k i j ea eb acc hacc hj => (passOf_spec fm z m k ea eb acc hacc).2 i j hj
  · exact fun n m e f g hg => if_neg hg

end Sys2Proof.Machine

/-! # Proofs: instructions with parts complete (05 to 09, 18, 23) -/

namespace Sys2Proof.Machine

/-! ### Activation tables -/

section Lut
variable {u : State} {k : Team} {n : Nat} {flip : Bool} {base : Nat} {lanes : Mask} {vals slopes : List W}

theorem State.lutPair_held (h : u.HoldsPair k n) : u.lutPair = some (n, u) := by
  rw [State.lutPair, h.1]
  dsimp only
  rw [h.2]

/-- A team without a pair takes the lowest that is free. -/
theorem State.lutPair_found (h : u.FindsPair k n) : u.lutPair = some (n, u.takePair k n) := by
  obtain ⟨ht, hn, hf, hfree, hlow⟩ := h
  have found : (List.range 16).find? (fun n => !u.luts.any (fun p => p.cache == k.cache && p.num == n)) = some n := by
    rw [List.find?_range_eq_some]
    exact ⟨by rw [hfree]; rfl, List.mem_range.mpr hf, fun j hj => by rw [hlow j hj]; rfl⟩
  rw [State.lutPair, ht]
  dsimp only
  rw [hn]
  dsimp only
  rw [found]
  rfl

theorem passTo_lutDo {v : State} (he : u.lutEarlier = false) (hp : u.lutPair = some (n, v)) :
    passTo [.lutDo flip base lanes vals slopes] u = some (v.lutWrite n flip base lanes vals slopes) := by
  refine passTo_one nofun ?_
  rw [runOp, he, hp]
  rfl

end Lut

/-! ### Waits that are over -/

section Parts
variable {t v : State} {l : List MOp}

theorem passTo_waitTl {sel n : Nat} (h : n ≤ (t.timeline t.ctxNow t.clNow (tlPlace sel t.posNow)).done) :
    passTo (.waitTl sel n :: l) t = passTo l (t.observe (t.timeline t.ctxNow t.clNow (tlPlace sel t.posNow)).stamp) :=
  passTo_cons nofun (runOp_waitTl.trans (if_pos h))

theorem passTo_waitWord {ea n key : Nat} (hk : t.scrAt (ea : Int) = .ok key) (hp : t.scrPoison [⟨0, (ea : Int), 8⟩] = none)
    (h : n ≤ natLE (t.scrBytes key 8)) :
    passTo (.waitWord ea n :: l) t = passTo l (t.observe ((get? t.arrival (key / 2 ^ 19)).getD Stamp.zero)) :=
  passTo_cons nofun ((runOp_waitWord hk hp).trans (if_pos h))

theorem passTo_waitWordG {va n key : Nat} (hr : t.Reaches .waitg .shared [va]) (hk : key = t.keyOf t.ctxNow va)
    (h : n ≤ (t.wordRead (lineOf key)).curNat key 8) :
    passTo (.waitWordG va n :: l) t = passTo l ((t.wordRead (lineOf key)).observe ((t.wordRead (lineOf key)).relstamp (lineOf key))) := by
  subst hk
  exact passTo_cons nofun ((runOp_waitWordG hr).trans (if_pos h))

theorem passTo_waitObj {ea k : Nat} {ph : W} {o : BarObj} (ho : t.objOf k = some o) (h : o.phase ≠ ph) :
    passTo (.waitObj ea k ph :: l) t = passTo l (t.observe o.last) := passTo_cons nofun ((runOp_waitObj ho).trans (if_pos h))

theorem passTo_arriveObj_last {ea k : Nat} {o : BarObj} (hk : t.scrAt (ea : Int) = .ok k) (ho : t.objOf k = some o)
    (h : o.arrived + 1 = o.expected) :
    passTo (.arriveObj ea none true :: l) t = passTo l ((t.arriveAt o t.obsNow).observe (o.gather.max t.obsNow)) :=
  passTo_cons nofun (runOp_arriveObj_last hk ho h)

/-- The arrival that completes the phase of a hardware barrier. -/
theorem passTo_arriveSync {k : Team} {bid count : Nat} {b : HwBar} (hk : t.teamNow = some k)
    (h : (nth HwBar.zero k.bars bid).arrived = 0 ∨ (nth HwBar.zero k.bars bid).count = count)
    (hb : b = (nth HwBar.zero k.bars bid).arrivalOf count t.obsNow) (hf : b.full k.alive.length = true) :
    passTo (.arriveSync bid count :: l) t = passTo l ((t.testBar k bid b).observe b.gather) := by
  refine passTo_cons nofun ?_
  rw [runOp_arriveSync hk rfl h, ← hb, HwBar.test_full hf, if_pos (by rw [hb]; exact Nat.succ_ne_self _)]
  rfl

theorem passTo_arriveLvl {k : Team} {a : Launch} {level d n : Nat} (hk : t.teamNow = some k) (ha : t.launchOf t.sq.launch = some a)
    (hl : a.hdr.levelTeams level = some (d, n)) (hv : v = t.arriveLevel k (t.lvlOf a.id level (k.num / n)))
    (h : (v.lvlOf a.id level (k.num / n)).bar.phase ≠ (t.lvlOf a.id level (k.num / n)).bar.phase) :
    passTo (.arriveLvl level :: l) t = passTo l (v.observe (v.lvlOf a.id level (k.num / n)).bar.last) :=
  passTo_cons nofun ((runOp_arriveLvl hk ha hl hv).trans (if_pos h))

theorem passTo_recvDo {ch d : Nat} {x : D} {st : Stamp} {r : List (D × Stamp)} (h : (t.chan t.clNow ch).msgs = (x, st) :: r) :
    passTo (.recvDo ch d :: l) t = passTo l (((t.setChan { t.chan t.clNow ch with msgs := r }).setS2 d x).observe st) :=
  passTo_cons nofun (runOp_recvDo h)

/-- A record lands in a huddle and leaves all else. -/
theorem State.landRec_kept {cl : Nat} {a : Launch} {entry : D} {words : List W} {obs : Stamp} (h : t.landRec cl a entry words obs = some v) :
    v.launches = t.launches ∧ v.sq = t.sq := by
  unfold State.landRec at h
  dsimp only at h
  split at h
  · exact Option.some.inj h ▸ ⟨rfl, rfl⟩
  · split at h
    · exact Option.some.inj h ▸ ⟨rfl, rfl⟩
    · exact absurd h nofun

theorem passTo_emits {a : Launch} {entry : D} {recs : List (List W)} (ha : t.launchOf t.sq.launch = some a)
    (h : t.landRecs a entry recs = some v) : passTo (recs.map (MOp.emit entry.toNat)) t = some v := by
  induction recs generalizing t with
  | nil => exact h
  | cons words recs ih =>
    obtain ⟨u, hu, hv⟩ := Option.bind_eq_some_iff.mp h
    obtain ⟨hlau, hsq⟩ := State.landRec_kept hu
    rw [List.map_cons, passTo_cons (m := .emit entry.toNat words) nofun (runOp_emit ha (by rw [BitVec.ofNat_toNat, BitVec.setWidth_eq]; exact hu))]
    exact ih (by rw [State.launchOf, hlau, hsq]; exact ha) hv

end Parts

/-! ### Instructions that always answer a state -/

/-- Whatever its effect answers, an instruction that issues leaves a state. -/
theorem State.issue_next {s : State} {f : Form} (h : s.Goes f) (body : State → Res) : ∃ t : State, s.issue f body = .next t := by
  rw [State.issue_goes h]
  match body (s.atIssue f) with
  | .done u => exact ⟨_, rfl⟩
  | .jump u => exact ⟨_, rfl⟩
  | .piped u => exact ⟨_, rfl⟩
  | .trap i => exact ⟨_, rfl⟩
  | .park u => exact ⟨_, rfl⟩
  | .over u => exact ⟨_, rfl⟩
  | .hold => exact ⟨_, rfl⟩

theorem State.csrWrite_closed {s : State} {n : Nat} (v : W) (h : s.csrOpen n = false) : s.csrWrite n v = .done s := by
  rw [State.csrWrite, if_pos (.inl (by rw [h]; rfl))]

/-! ### A dense slot -/

theorem ofScr_append_nil (b c : Bool) (l : List Span) : ofScr b l ++ ofScr c [] = ofScr b l := by
  rw [show ofScr c [] = [] from ite_self _, List.append_nil]

/-- A slot of dense elements is always filled. -/
theorem wldSlot_dense {b m : ARec} (h : b.sparse = 0) (rd md : Nat → Byte) (bs : Bool) (kst nst kk nn : Nat) :
    ∃ sl, wldSlot b m rd md bs kst nst kk nn = some sl := by
  unfold wldSlot
  rw [h]
  exact ⟨_, rfl⟩

theorem State.wldGo_dense {r : State} {w : Long} {b : ARec} {kk nn kst nst : Nat} {el : List Span} (h0 : b.sparse = 0) (hf : b.fcode = fmtB r.fmtNow)
    (hk : kst = (r.sreg w.b.toNat).toNat) (hn : nst = (r.sreg w.c.toNat).toNat) (h32 : kst % 32 = 0) (hkr : kst < b.rows) (hnc : nst < b.cols)
    (hkk : kk = min 128 (b.rows - kst)) (hnn : nn = min 256 (b.cols - nst))
    (hel : el = b.spans kst kk nst nn ++ (if fmtScale r.fmtNow then b.scaleSpans (kst / 32) ((kk + 31) / 32) nst nn else []))
    (ho : r.OperandsReady b.w (b.spans kst kk nst nn) (ofScr b.scr el) (ofScr (!b.scr) el))
    (hq : ((r.atRead (ofScr (!b.scr) el)).drainQ (·.usesSlot w.d.toNat)).mcc.queue.any (·.usesSlot w.d.toNat) = false) :
    ∃ sl, r.wldGo w b b = .done (((r.atRead (ofScr (!b.scr) el)).drainQ (·.usesSlot w.d.toNat)).queued 1
      { MPass.none with slot := some (w.d.toNat, sl) }) := by
  have hh : sparseH b.sparse = 1 := by rw [h0]; rfl
  have hg : sparseG b.sparse = 1 := by rw [h0]; rfl
  have dense (n : Nat) : n * 1 / 1 = n := by omega
  obtain ⟨sl, hsl⟩ := wldSlot_dense (m := b) h0 ((r.atRead (ofScr (!b.scr) el)).reader b.scr (r.stampsOf (ofScr (!b.scr) el)))
    ((r.atRead (ofScr (!b.scr) el)).reader b.scr (r.stampsOf (ofScr (!b.scr) el))) (fmtScale r.fmtNow) kst nst kk nn
  refine ⟨sl, State.wldGo_ready (el := el) (ms := []) hf hk hn h32 hkr hnc hkk hnn hh.symm hg.symm ?_ (if_pos h0).symm ?_ ?_ ?_ hq⟩
  · rw [dense, dense]; exact hel
  · rw [dense, dense, ofScr_append_nil, ofScr_append_nil]; exact ho
  · rw [ofScr_append_nil]
  · rw [ofScr_append_nil]; exact hsl

/-! ### The completion of each instruction -/

/-- Settles O43: instructions without parts from their own statements, the others by parts that pass. -/
theorem completions : Obligations.Completions := by
  obtain ⟨hrfe, -, -, hrdenergy, hcsrrd, -, -, hcsrlow, -⟩ := systemInstructions
  obtain ⟨-, -, -, -, htxend, htxempty, -, htxabort, htxnone, -⟩ := phasesAndTransactions
  obtain ⟨hcpy, hgath, -, -, -, -, hrsig, -, -, -, -, htlsig, -⟩ := commandsAndSignals
  obtain ⟨hbarInit, -, -, -, hbarObj, -⟩ := barriers
  obtain ⟨-, -, -, -, -, -, -, hjoin, -, -, -, -, hmsendFull, -, -, hmrecvEmpty, -⟩ := workAndChannels
  refine ⟨?_, fun w s h _ => hrfe w s h trivial, fun w s h _ => hrdenergy w s h trivial, hcsrrd, hcsrlow, ?_, ?_, ?_, ?_, ?_, ?_,
    fun c => ⟨htxend c, htxabort c⟩, htxempty, htxnone, (hcpy (.cpy, 0x0E0, false) List.mem_cons_self).1,
    (hcpy (.cpy2d, 0x0E1, true) (List.mem_cons_of_mem _ List.mem_cons_self)).1, hgath, ?_, hrsig, ?_, ?_, htlsig,
    fun key => ⟨?_, ?_, hbarInit key⟩, fun o p k j => ⟨(hbarObj o k).2.1, ?_, ?_, ?_⟩, ?_, ?_, ?_, ?_,
    fun u slot => ⟨(hjoin u).1, (hjoin u).2.1 slot⟩, ?_, ?_, ?_, hmsendFull, ?_, hmrecvEmpty, ?_, ?_, ?_, ?_⟩
  · refine fun k n => ⟨?_, ?_, ?_, ?_⟩
    · exact longEnds_intro _ exec_lutld (fun _ _ _ _ => rfl) (fun w r u ⟨he, hp⟩ => passTo_lutDo he (State.lutPair_held hp))
    · exact longEnds_intro _ exec_lutld (fun _ _ _ _ => rfl) (fun w r u ⟨he, hp⟩ => passTo_lutDo he (State.lutPair_found hp))
    · exact longEnds_intro _ exec_lutsel (fun _ _ _ _ => rfl) (fun w r u ⟨he, hp⟩ => passTo_lutDo he (State.lutPair_held hp))
    · exact longEnds_intro _ exec_lutsel (fun _ _ _ _ => rfl) (fun w r u ⟨he, hp⟩ => passTo_lutDo he (State.lutPair_found hp))
  · exact longRuns_intro _ exec_csrwr (fun w r h => State.csrWrite_closed _ h.2) (fun _ _ => rfl)
  · exact fun w s r h _ _ _ => State.issue_next h (fun s => s.csrWrite w.x.toNat (s.sreg w.a.toNat))
  · exact shortEnds_intro (fun _ _ => rfl) (fun u h => by rw [passTo_publish h, passTo])
  · exact shortEnds_intro (fun _ _ => rfl) (fun u h => passTo_snap_end h)
  · exact shortEnds_intro (fun _ _ => rfl) (fun u ⟨hp, hs⟩ => by rw [passTo_publish hp, passTo_snap_end hs])
  · exact shortEnds_intro (fun _ _ => rfl) (fun u ⟨hp, hs⟩ => by
      rw [passTo_publish hp, passTo_snap hs]; exact passTo_one nofun (by rw [runOp]))
  · refine longEnds_intro _ exec_rcpy (fun w r u ⟨h, _⟩ => by rw [h]; rfl) (fun w r u ⟨_, ha, hr⟩ => passTo_one nofun ?_)
    rw [runOp_rcpyDo, if_neg (State.armRoom_iff.mp ha), hr]
    rfl
  · exact longRuns_intro _ exec_tlget (fun _ _ _ => rfl) (fun _ _ => State.setS2_todoNow _ _ _)
  · exact longEnds_intro (fun w s => s.andThen [.waitTl w.c.toNat (s.spair w.a.toNat).toNat, .snap]) (fun _ _ => rfl) (fun _ _ _ _ => rfl)
      (fun w r u ⟨h, hs⟩ => by rw [passTo_waitTl h, passTo_snap_end hs])
  · refine longEnds_intro _ exec_waitc (fun w r u h => ?_) (fun w r u ⟨_, hk, hp, h, hs⟩ => by rw [passTo_waitWord hk hp h, passTo_snap_end hs])
    rw [State.checkScr_store, h.1]
    exact State.checkedScr_ok (State.checkPlace_read h.1)
  · exact longEnds_intro _ exec_waitcG (fun w r u h => State.checked_ok h.1)
      (fun w r u ⟨_, hr, hk, h, hs⟩ => by rw [passTo_waitWordG hr hk h, passTo_snap_end hs])
  · exact longEnds_intro _ exec_barArr (fun w r u h => State.barObj_held h.1)
      (fun w r u ⟨_, hp, hk, ho⟩ => by rw [passTo_publish hp]; exact passTo_one nofun (runOp_arriveObj hk ho))
  · refine longEnds_intro _ exec_barWait (fun w r u ⟨h, hne, _⟩ => ?_)
      (fun w r u ⟨_, hne, _, ho, hs⟩ => by rw [passTo_waitObj ho hne, passTo_snap_end hs])
    rw [State.barObj_held h, State.scrKeyAt_ok h.key, if_pos hne, State.andThen]
  · exact longEnds_intro _ exec_barArrw (fun w r u h => State.barObj_held h.1)
      (fun w r u ⟨_, hp, hk, ho, hl, hs⟩ => by rw [passTo_publish hp, passTo_arriveObj_last hk ho hl, passTo_snap_end hs])
  · exact fun k b => longEnds_intro (fun w s => s.andThen [.publish, .waitAck, .arriveSync w.b.toNat w.c.toNat, .snap]) (fun _ _ => rfl)
      (fun _ _ _ _ => rfl) (fun w r u ⟨hp, hk, h, hb, hf, hs⟩ => by rw [passTo_publish hp, passTo_arriveSync hk h hb hf, passTo_snap_end hs])
  · exact fun k a d n => longEnds_intro (fun w s => s.andThen [.publish, .waitAck, .arriveLvl w.b.toNat, .snap]) (fun _ _ => rfl)
      (fun _ _ _ _ => rfl) (fun w r u ⟨hp, hk, ha, hl, h, hs⟩ => by rw [passTo_publish hp, passTo_arriveLvl hk ha hl rfl h, passTo_snap_end hs])
  · refine fun a t => longEnds_intro _ exec_spawn (fun w r u h => if_neg (not_not.mpr h.1)) (fun w r u ⟨_, hp, ha, hl⟩ => ?_)
    exact (passTo_publish hp _).trans (List.map_map (g := MOp.emit _) ▸ passTo_emits ha hl)
  · refine fun d => longEnds_intro _ exec_post (fun w r u ⟨hp, hd, h1, h2, h3, h4, _⟩ => by rw [hp]; exact State.postTo_ok hd h1 h2 h3 h4)
      (fun w r u ⟨_, _, _, _, _, _, hp, hc, ha, hs, hf⟩ => ?_)
    rw [passTo_publish hp]
    refine passTo_one nofun ((runOp_postDo hc ha hs).trans ?_)
    split
    · rfl
    · next hn => rw [hf.resolve_left hn, if_neg Bool.false_ne_true]
  · exact longEnds_intro (fun _ s => s.andThen [.leaveDo]) (fun _ _ => rfl) (fun _ _ _ _ => rfl)
      (fun w r u h => passTo_one nofun (by rw [runOp_leaveDo, h]; rfl))
  · exact longEnds_intro _ exec_msend (fun w r u ⟨h, _⟩ => by rw [h]; rfl)
      (fun w r u ⟨_, hp, hr⟩ => by rw [passTo_publish hp]; exact passTo_one nofun (runOp_sendDo.trans (if_pos hr)))
  · exact longEnds_intro _ exec_msend (fun w r u ⟨h, hr, _⟩ => by rw [h, hr]; rfl)
      (fun w r u ⟨_, _, hp⟩ => by rw [passTo_publish hp]; exact passTo_one nofun (by rw [runOp]; rfl))
  · refine fun v st l => longEnds_intro _ exec_mrecv (fun w r u ⟨h, _⟩ => ?_)
      (fun w r u ⟨_, hm, hs⟩ => by rw [passTo_recvDo hm, passTo_snap_end hs])
    cases hx : w.x.getLsbD 0 with
    | true => rw [if_pos rfl, if_neg (by rw [List.isEmpty_iff]; exact h hx)]; rfl
    | false => rfl
  · intro w s r d a sl z k hgo hr ha hd hq hsl hf hfa hfb hbs hk h32 hrow hcol ho
    obtain ⟨hmma, -⟩ := matrixPasses
    exact ⟨_, _, hmma w s r _ a d sl z _ k _ rfl hgo hr ha hd hq hsl hf hfa hfb hbs hk h32 hrow hcol rfl ho rfl _ rfl, rfl, rfl⟩
  · intro w s r b kk nn kst nst el hgo hr hb h0 hf hk hn h32 hkr hnc hkk hnn hel ho hq
    obtain ⟨sl, ready⟩ := State.wldGo_dense h0 hf hk hn h32 hkr hnc hkk hnn hel ho hq
    refine ⟨_, (exec_wld w s).trans (State.issue_done hgo (by rw [← hr, State.wld_records hb (.inl ⟨h0, rfl⟩)]; exact ready) ?_), rfl⟩
    rw [hr, (State.Left.queued (State.Left.drainQ (State.Left.atRead (.refl _)))).todoNow]; exact hgo.todo
  · intro w s r t c hgo hr hc hf hrow hcol ho ht hq
    obtain ⟨-, -, hld, -⟩ := matrixPasses
    exact ⟨_, hld w s r t _ c hgo hr hc hf hrow hcol ho ht rfl hq, rfl⟩
  · intro w s r e hgo hr he hrow hcol hm hs hg hq
    obtain ⟨-, -, -, hepi, -⟩ := matrixPasses
    exact ⟨_, hepi w s r _ e _ hgo hr he hrow hcol hm hs hg rfl hq rfl, rfl⟩

end Sys2Proof.Machine

/-! # Proofs: retirement, wakes, asynchronous events and ends (05, 08, 10, 18, 23) -/

namespace Sys2Proof.Machine

/-! ### Samplers leave squads and pipes alone -/

section Samplers
variable (s : State)

theorem State.homeWrite_sqSfu (k : Nat) (b : List Byte) : (s.homeWrite k b).sq = s.sq ∧ (s.homeWrite k b).sfu = s.sfu := by
  induction b generalizing s k with
  | nil => exact ⟨rfl, rfl⟩
  | cons x xs ih => exact ih _ _

theorem State.putSample_sqSfu (b : List Byte) : (s.putSample b).sq = s.sq ∧ (s.putSample b).sfu = s.sfu := by
  unfold State.putSample
  split
  · exact State.homeWrite_sqSfu s _ _
  · exact ⟨rfl, rfl⟩

theorem State.sampleEnd_sqSfu (n : Nat) (c : Cur) (b : Bool) : (s.sampleEnd n c b).sq = s.sq ∧ (s.sampleEnd n c b).sfu = s.sfu := by
  unfold State.sampleEnd
  split
  · exact ⟨rfl, rfl⟩
  · exact State.putSample_sqSfu _ _

theorem State.sampleEnds_sq (id : Nat) (l : List SfuEnt) : (l.foldl (fun s e => s.sampleEnd id e.rep.cur true) s).sq = s.sq :=
  foldl_kept State.sq (fun s e => (s.sampleEnd_sqSfu id e.rep.cur true).1) l s

theorem State.retireSfu_sfu (e : SfuEnt) : (s.retireSfu e).sfu = s.sfu.erase e := (State.sampleEnd_sqSfu _ _ _ _).2

end Samplers

/-! ### A halt keeps the run state -/

theorem Squad.put_stWake (q : Squad) (w : VWrite) : (q.put w).st = q.st ∧ (q.put w).wake = q.wake := by
  unfold Squad.put
  split
  · exact ⟨rfl, rfl⟩
  · exact ⟨rfl, rfl⟩

theorem Squad.puts_stWake (l : List VWrite) (q : Squad) : (l.foldl Squad.put q).st = q.st ∧ (l.foldl Squad.put q).wake = q.wake :=
  ⟨foldl_kept Squad.st (fun q w => (q.put_stWake w).1) l q, foldl_kept Squad.wake (fun q w => (q.put_stWake w).2) l q⟩

theorem Squad.toEntries_stWake (w : W) (q : Squad) : (q.toEntries w).st = q.st ∧ (q.toEntries w).wake = q.wake := by
  unfold Squad.toEntries
  extract_lets those entry
  constructor
  · exact foldl_kept Squad.st (fun q (e : Late) => (Squad.puts_stWake e.old q).1) _ _
  · exact foldl_kept Squad.wake (fun q (e : Late) => (Squad.puts_stWake e.old q).2) _ _

theorem State.toReplay_stWake (s : State) (id : Nat) : (s.toReplay id).sq.st = s.sq.st ∧ (s.toReplay id).sq.wake = s.sq.wake := by
  unfold State.toReplay
  extract_lets ents mine f t
  rw [State.sampleEnds_sq]
  show (if s.focus = .squad ∧ (s.sq.id == id) = true then f s.sq else s.sq).st = _ ∧
    (if s.focus = .squad ∧ (s.sq.id == id) = true then f s.sq else s.sq).wake = _
  split
  · exact Squad.toEntries_stWake _ _
  · exact ⟨rfl, rfl⟩

theorem State.haltSquad_run (a : State) : a.haltSquad.sq.st = .halted ∧ a.haltSquad.sq.prior = a.sq.st ∧
    a.haltSquad.sq.stopReq = false ∧ a.haltSquad.sq.wake = a.sq.wake := by
  obtain ⟨hst, hwake⟩ := a.toReplay_stWake a.sq.id
  exact ⟨rfl, hst, rfl, hwake⟩

/-! ### Asynchronous events -/

section Async
variable {s a : State} {id : Nat}

theorem exec_asyncEventTake (ha : a = s.focusOn id) (hf : a.focus = .squad) : exec (.asyncEventTake id) s =
    if a.saveTakes then .next a.saveSquad
    else if a.sq.preempt then .next a
    else if a.sq.stopReq && ((a.sq.mayIssue && a.sq.between) || (a.sq.st == .blocked && a.sq.takeable)) then .next a.haltSquad
    else if a.sq.stopReq && a.sq.leaving && !a.sq.handler && a.sq.takeable then .next a.leaveRange.haltSquad
    else if a.sq.engFault && !a.sq.handler && a.sq.inRange && a.sq.takeable then .next a.leaveRange.takeEngFault
    else if a.sq.engFault && a.sq.mayIssue && a.sq.got.isEmpty && !a.sq.handler then .next (a.modSq (fun q => q.pick.mergeIn)).takeEngFault
    else .next a := by
  show execAsyncEventTake id s = _
  unfold execAsyncEventTake
  rw [← ha]
  dsimp only
  rw [hf]

/-- The MCC or squad that a wake looks at. -/
theorem exec_squadWake_squad {w : Wake} (ha : a = s.focusOn id) (hf : a.focus = .squad) (hw : a.sq.wake = some w) (hst : a.sq.st = .blocked)
    (hp : a.sq.preempt = false) : exec (.squadWake id) s = if a.saveTakes then .next a.saveSquad else .next (a.wakeNow w) := by
  show execSquadWake id s = _
  unfold execSquadWake
  rw [← ha]
  dsimp only
  rw [hf]
  dsimp only
  rw [hw]
  dsimp only
  rw [hst, hp]
  exact if_neg (by rintro (h | h) <;> exact absurd h (by decide))

theorem exec_squadWake_mcc {w : Wake} (ha : a = s.focusOn id) (hf : a.focus = .mcc) (hw : a.mcc.wake = some w) : exec (.squadWake id) s =
    if a.savingMcc && !a.mcc.stamped then .next a.preemptNow else if a.mcc.st = .blocked then .next (a.wakeNow w) else .next a := by
  show execSquadWake id s = _
  unfold execSquadWake
  rw [← ha]
  dsimp only
  rw [hf]
  dsimp only
  rw [hw]

end Async

/-! ### What a wake does -/

section WakeNow
variable {a : State} {w : Wake}

theorem State.todoNow_squad (hf : a.focus = .squad) : a.todoNow = a.sq.todo := by rw [State.todoNow, State.isM, hf]; rfl

theorem State.wakeNow_parts (hf : a.focus = .squad) (ht : a.sq.todo ≠ []) (h8 : w.kind ≠ 8) (hC : w.kind = 0x0C → a.wantsPage (w.op0 / 128) = false)
    (h9 : ¬ (w.kind = 9 ∧ (!a.roleFits (a.roleRec w.op0)) = true ∧ a.roleStuck = true)) : a.wakeNow w = a.runTodo := by
  have todo : ¬ a.todoNow.isEmpty = true := by rw [State.todoNow_squad hf, List.isEmpty_iff]; exact ht
  have page : ¬ (w.kind = 0x0C ∧ a.wantsPage (w.op0 / 128) = true) := fun ⟨hk, hp⟩ => Bool.false_ne_true ((hC hk).symm.trans hp)
  rw [State.wakeNow, if_neg h8, if_neg todo, if_neg page, if_neg h9]

theorem State.wakeNow_line (hf : a.focus = .squad) (ht : a.sq.todo = []) (h7 : w.kind = 7) (ha : a.absent.contains (w.op0 / 128) = false) :
    a.wakeNow w = a.again := by
  rw [State.wakeNow, if_neg (by rw [h7]; decide), if_pos (by rw [State.todoNow_squad hf, ht]; rfl), if_pos h7, ha]
  rfl

theorem State.wakeNow_granted (hf : a.focus = .squad) (ht : a.sq.todo = []) (hC : w.kind = 0x0C) (hp : a.wantsPage (w.op0 / 128) = false) :
    a.wakeNow w = a.again := by
  rw [State.wakeNow, if_neg (by rw [hC]; decide), if_pos (by rw [State.todoNow_squad hf, ht]; rfl), if_neg (by rw [hC]; decide), hp]
  rfl

theorem State.wakeNow_page (hC : w.kind = 0x0C) (hp : a.wantsPage (w.op0 / 128) = true) : a.wakeNow w = a := by
  have h7 : w.kind ≠ 7 := by rw [hC]; decide
  have h8 : w.kind ≠ 8 := by rw [hC]; decide
  have hboth : w.kind = 0x0C ∧ a.wantsPage (w.op0 / 128) = true := ⟨hC, hp⟩
  unfold State.wakeNow
  rw [if_neg h8, if_neg h7, if_pos hp, if_pos hboth]
  exact ite_self a

theorem State.wakeNow_stuck (hf : a.focus = .squad) (ht : a.sq.todo ≠ []) (h9 : w.kind = 9) (hr : a.roleFits (a.roleRec w.op0) = false)
    (hs : a.roleStuck = true) : a.wakeNow w = a.takeTrap ⟨.roleStall, 0, 0, 0⟩ a.sq.cur := by
  have todo : ¬ a.todoNow.isEmpty = true := by rw [State.todoNow_squad hf, List.isEmpty_iff]; exact ht
  rw [State.wakeNow, if_neg (by rw [h9]; decide), if_neg todo, if_neg (fun h => absurd (h9.symm.trans h.1) (by decide))]
  exact if_pos ⟨h9, by rw [hr]; rfl, hs⟩

theorem State.wakeNow_ticket (hf : a.focus = .squad) (h8 : w.kind = 8) (hd : a.sq.denied = false) (ht : a.ticketOpen a.sq.id = false) :
    a.wakeNow w = a.again := by
  have hm : a.isM = false := by rw [State.isM, hf]; rfl
  have hagent : a.agentNow = a.sq.id := by rw [State.agentNow, hm]; rfl
  rw [State.wakeNow, if_pos h8, hm, hagent]
  simp only [hd, ht, Bool.false_eq_true, if_false]

theorem State.wakeNow_denied (hf : a.focus = .squad) (h8 : w.kind = 8) (hd : a.sq.denied = true) : a.wakeNow w =
    (a.modSq (fun q => { q with denied := false })).takeTrap ⟨.pageFault, 0, a.sq.missVa, a.sq.faultLane⟩ a.sq.cur := by
  have hm : a.isM = false := by rw [State.isM, hf]; rfl
  rw [State.wakeNow, if_pos h8, hm, if_neg Bool.false_ne_true, hd]
  rfl

end WakeNow

/-! ### Ends -/

section Ends
variable {s u t : State}

theorem exec_squadRetire {id : Nat} {q : Squad} {m : Team} (hu : u = s.unfocus) (hq : u.squads.find? (·.id == id) = some q) (hst : q.st = .exiting)
    (hack : q.ack = 0) (htodo : q.todo = []) (hen : u.energyRoom q.ctx = true) (hm : u.teams.find? (·.id == q.team) = some m)
    (ht : t = u.putEnergy q.ctx (energyBytes q.energy u.now m.num q.cache q.idx q.role q.ctx)) :
    exec (.squadRetire id) s = .next ((({ t with squads := t.squads.filter (·.id != id) } : State).modTeam q.team (fun m => { m with
      alive := m.alive.filter (· != id), held := m.held ++ [(q.sub, q.slot, q.vallot, q.sallot)] })).recheck q.team).trimCopies := by
  show execSquadRetire id s = _
  unfold execSquadRetire
  rw [← hu]
  dsimp only
  rw [hq]
  dsimp only
  rw [if_pos ⟨hst, hack, by rw [htodo]; rfl, hen⟩, hm, ht]

theorem exec_teamExit {team : Nat} {m : Team} (hu : u = s.unfocus) (hm : u.teams.find? (·.id == team) = some m) (ha : m.alive = [])
    (he : m.exited = false) (hs : u.teamSettled m = true) : exec (.teamExit team) s = .next (u.exitTeam m) := by
  show execTeamExit team s = _
  unfold execTeamExit
  rw [← hu]
  dsimp only
  rw [hm]
  exact if_pos ⟨by rw [ha]; rfl, by rw [he]; rfl, hs⟩

theorem State.freeTeam_teams (s : State) (m : Team) : ∀ x ∈ (s.freeTeam m).teams, x.id ≠ m.id := by
  intro x hx
  exact bne_iff_ne.mp (List.mem_filter.mp (show x ∈ s.teams.filter (·.id != m.id) from hx)).2

theorem State.freeTeam_objs (s : State) (m : Team) :
    ∀ o ∈ (s.freeTeam m).objs, ¬ (o.key / 2 ^ 19 = m.cache ∧ m.base ≤ o.key % 2 ^ 19 ∧ o.key % 2 ^ 19 < m.base + m.size) := by
  rintro o ho ⟨hc, hlo, hhi⟩
  have out := (List.mem_filter.mp (show o ∈ s.objs.filter (fun o =>
    !(o.key / 2 ^ 19 == m.cache && decide (m.base ≤ o.key % 2 ^ 19 ∧ o.key % 2 ^ 19 < m.base + m.size))) from ho)).2
  rw [beq_iff_eq.mpr hc, decide_eq_true (And.intro hlo hhi)] at out
  exact absurd out (by decide)

/-- The MCC program of a cluster ends. -/
theorem exec_mccProgramEnd {cl : Nat} {m : Mcc} (hu : u = s.unfocus)
    (hm : u.mccs.find? (fun m => m.cl == cl && m.exiting && !(u.ctxOf m.ctx).any (fun c => c.st == 2)) = some m) (hst : m.st = .exiting)
    (htodo : m.todo = []) (hack : m.ack = 0) (hq : m.queue = []) (hen : u.energyRoom m.ctx = true)
    (hc : u.cmds.any (fun c => c.team.isNone && c.cl == cl && c.launch == m.launch) = false)
    (ht : t = u.putEnergy m.ctx (energyBytes m.energy u.now (Config.freeWord u.free).toNat (Config.freeWord (u.free + 1)).toNat 0xFF
      (Config.freeWord (u.free + 2)).toNat m.ctx)) : exec (.mccProgramEnd cl) s =
      .next (({ t with free := t.free + 3, mccs := t.mccs.filter (·.id != m.id) } : State).releaseCluster m.launch cl).freeSets.freeSlots := by
  show execMccProgramEnd cl s = _
  unfold execMccProgramEnd
  rw [← hu]
  dsimp only
  rw [hm]
  dsimp only
  subst ht
  exact if_pos ⟨hst, by rw [htodo]; rfl, hack, by rw [hq]; rfl, hen, by rw [hc]; rfl⟩

end Ends

/-- Settles O44: each event where its condition holds. -/
theorem agentsRunAndEnd : Obligations.AgentsRunAndEnd := by
  refine ⟨?_, ?_, ?_, ?_, ?_, ?_, fun a _ => a.haltSquad_run, fun s u t id q m hu hq h1 h2 h3 h4 hm ht => exec_squadRetire hu hq h1 h2 h3 h4 hm ht,
    fun s u team m hu hm ha he hs => exec_teamExit hu hm ha he hs, fun s m => ⟨s.freeTeam_teams m, s.freeTeam_objs m⟩,
    fun s u t cl m hu hm h1 h2 h3 h4 h5 h6 ht => exec_mccProgramEnd hu hm h1 h2 h3 h4 h5 h6 ht⟩
  · intro s u cu sub e hu he
    refine ⟨?_, u.retireSfu_sfu e⟩
    show execSfuRetire cu sub s = _
    unfold execSfuRetire
    rw [← hu]
    dsimp only
    rw [he]
  · intro s u cl m hu hm
    show execMatrixPassRetire cl s = _
    unfold execMatrixPassRetire
    rw [← hu]
    dsimp only
    rw [hm]
  · intro s u cu sub hu h
    show execSamplerCountZero cu sub s = _
    unfold execSamplerCountZero
    rw [← hu]
    exact if_pos h
  · intro s a id ha hf
    have run := exec_asyncEventTake ha hf
    refine ⟨fun hs => run.trans (if_pos hs), fun hs hp hq h => ?_, fun b hb hs hp hq he hm hg hh hr => ?_, fun hs hp hq he hh hr ht => ?_⟩
    · refine run.trans ?_
      rw [hs, hp, hq]
      rcases h with ⟨h1, h2⟩ | ⟨h1, h2⟩
      · rw [h1, h2]; rfl
      · rw [h1, h2, Bool.true_and, show (RunSt.blocked == RunSt.blocked && true) = true from rfl, Bool.or_true]; rfl
    · refine run.trans ?_
      rw [hs, hp, hq, he, hm, hg, hh, hr, hb]
      rfl
    · refine run.trans ?_
      rw [hs, hp, hq, he, hh, hr, ht]
      rfl
  · intro s a id w ha hf hw hst hp
    have run := exec_squadWake_squad ha hf hw hst hp
    have wake (hs : a.saveTakes = false) : exec (.squadWake id) s = .next (a.wakeNow w) := run.trans (if_neg (by rw [hs]; exact Bool.false_ne_true))
    refine ⟨fun hs => run.trans (if_pos hs), fun hs ht h8 h9 hC => (wake hs).trans (congrArg _ (State.wakeNow_parts hf ht h8 hC (fun h => h9 h.1))),
      fun hs ht h7 hl => (wake hs).trans (congrArg _ (State.wakeNow_line hf ht h7 hl)),
      fun hs ht hC hg => (wake hs).trans (congrArg _ (State.wakeNow_granted hf ht hC hg)),
      fun hs hC hg => (wake hs).trans (congrArg _ (State.wakeNow_page hC hg)), fun hs ht h9 hr => (wake hs).trans (congrArg _ ?_),
      fun hs ht h9 hr hk => (wake hs).trans (congrArg _ (State.wakeNow_stuck hf ht h9 hr hk)),
      fun hs h8 hd ho => (wake hs).trans (congrArg _ (State.wakeNow_ticket hf h8 hd ho)),
      fun hs h8 hd => (wake hs).trans (congrArg _ (State.wakeNow_denied hf h8 hd))⟩
    exact State.wakeNow_parts hf ht (by rw [h9]; decide) (fun hC => absurd (h9.symm.trans hC) (by decide))
      (fun h => absurd h.2.1 (by rw [hr]; exact Bool.false_ne_true))
  · intro s a id w ha hf hw
    have run := exec_squadWake_mcc ha hf hw
    refine ⟨fun hs hn => ?_, fun h hst => ?_⟩
    · rw [Happens, run, hs, hn]; rfl
    · rw [Happens, run, if_neg (by rcases h with h | h <;> simp [h]), if_pos hst]

end Sys2Proof.Machine

/-! # Proofs: queue registers and the arbiter (17 R276 to R284, R292) -/

namespace Sys2Proof.Machine

/-! ### Error records leave all but their own books alone -/

/-- From s to t only memory, CSRs, the host's interrupts and the records that wait have changed, and free values were drawn. -/
def State.Logs (s t : State) : Prop :=
  t = { s with mem := t.mem, pubs := t.pubs, csrs := t.csrs, hirq := t.hirq, msix := t.msix, thermal := t.thermal, erWait := t.erWait, free := t.free }

section Logs
variable {s t u : State}

theorem State.Logs.refl (s : State) : s.Logs s := rfl

theorem State.Logs.set (s : State) {m p c h x th e f} :
    s.Logs { s with mem := m, pubs := p, csrs := c, hirq := h, msix := x, thermal := th, erWait := e, free := f } := rfl

theorem State.Logs.trans (h : s.Logs t) (g : t.Logs u) : s.Logs u :=
  Eq.trans g (congrArg (fun t : State =>
    { t with mem := u.mem, pubs := u.pubs, csrs := u.csrs, hirq := u.hirq, msix := u.msix, thermal := u.thermal, erWait := u.erWait, free := u.free }) h)

theorem State.Logs.queues (h : s.Logs t) : t.queues = s.queues := by
  unfold State.Logs at h
  rw [h]

theorem State.homeWrite_logs (s : State) (k : Nat) (b : List Byte) : s.Logs (s.homeWrite k b) := by
  induction b generalizing s k with
  | nil => exact .refl s
  | cons x xs ih =>
    rw [State.homeWrite]
    exact (State.Logs.set s).trans (ih _ _)

theorem State.ringPut_logs (s : State) (r : Ring) (n : Nat) (b : List Byte) : s.Logs (s.ringPut r n b) :=
  (State.homeWrite_logs s _ _).trans (State.Logs.set _)

theorem State.raiseHirq_logs (s : State) (k : Nat) : s.Logs (s.raiseHirq k) := by
  unfold State.raiseHirq
  split
  · rfl
  · rfl

theorem State.flushErr_logs (n : Nat) (s : State) : s.Logs (State.flushErr n s) := by
  induction n generalizing s with
  | zero => rfl
  | succ n ih =>
    rw [State.flushErr]
    split
    · rfl
    · split
      · exact State.Logs.trans (State.Logs.trans ((State.Logs.set s).trans (State.ringPut_logs _ _ _ _)) (State.raiseHirq_logs _ _)) (ih _)
      · exact State.Logs.trans (State.Logs.trans ((State.Logs.set s).trans (State.ringPut_logs _ _ _ _)) (State.raiseHirq_logs _ _)) (ih _)
      · rfl

theorem State.error_logs (s : State) (e : ErrRec) : s.Logs (s.error e) := by
  unfold State.error
  extract_lets t
  refine State.Logs.trans ?_ (State.flushErr_logs _ _)
  show s.Logs (if _ then _ else _)
  split
  · rfl
  · rfl

theorem State.report_logs (s : State) (st : Stamp) (ctx kind addr detail : Nat) : s.Logs (s.report st ctx kind addr detail) :=
  (State.Logs.set s).trans (State.error_logs _ _)

theorem State.Logs.queueOf (h : s.Logs t) (q : Nat) : t.queueOf q = s.queueOf q := by rw [State.queueOf, State.queueOf, h.queues]

end Logs

/-! ### QTAIL -/

section Qtail
variable {s u : State} {q : Nat} {v : D} {d : QDesc} {r : Queue}

theorem exec_qtailWrite (hu : u = s.unfocus) (hb : u.bridge = true) (hq : q < 4096) :
    exec (.qtailWrite q v) s = .next (u.qtailWrite q v.toNat none) := by
  show execQtailWrite q v s = _
  unfold execQtailWrite
  rw [← hu]
  exact if_neg (by rw [hb]; simp; omega)

/-- The conditions under which a tail is out of bounds. -/
def QDesc.outside (d : QDesc) (r : Queue) (n : Nat) : Bool :=
  d.fed || (d.enabled && decide (n < r.tail)) || decide (n < r.head) || decide (r.tail < n ∧ r.head + 2 ^ d.lsize < n)

theorem QDesc.outside_iff {n : Nat} : d.outside r n = true ↔
    d.fed = true ∨ (d.enabled = true ∧ n < r.tail) ∨ n < r.head ∨ r.tail < n ∧ r.head + 2 ^ d.lsize < n := by
  rw [QDesc.outside, Bool.or_eq_true, Bool.or_eq_true, Bool.or_eq_true, Bool.and_eq_true, decide_eq_true_eq, decide_eq_true_eq, decide_eq_true_eq,
    or_assoc, or_assoc]

theorem State.qtailWrite_none {n : Nat} (h : u.qdesc q = none) : u.qtailWrite q n none = u.setQueue { u.queueOf q with qovf := true } := by
  rw [State.qtailWrite, h]

theorem State.qtailWrite_outside {n : Nat} (h : u.qdesc q = some d) (hr : r = u.queueOf q) (ho : d.outside r n = true) :
    u.qtailWrite q n none = u.setQueue { r with qovf := true } := by
  rw [State.qtailWrite, h]
  dsimp only
  rw [← hr]
  exact if_pos ho

theorem State.qtailWrite_lower {n : Nat} (h : u.qdesc q = some d) (hr : r = u.queueOf q) (ho : ¬ d.outside r n = true) (hn : n ≤ r.tail) :
    u.qtailWrite q n none = (u.setQueue { r with
      tail := n, held := if n ≤ r.head then [] else r.held
      subs := r.subs.filter (fun p => decide (p.1 < n)) ++
        (match r.subs.find? (fun p => decide (n ≤ p.1)) with | some p => [(n, p.2)] | none => []) }).lookAll := by
  rw [State.qtailWrite, h]
  dsimp only
  rw [← hr]
  exact (if_neg ho).trans (if_pos hn)

theorem State.qtailWrite_raise {n : Nat} (h : u.qdesc q = some d) (hr : r = u.queueOf q) (ho : ¬ d.outside r n = true) (hn : r.tail < n) :
    u.qtailWrite q n none =
      ((u.takeStamp 0 255).2.setQueue { r with tail := n, subs := r.subs ++ [(n, (u.takeStamp 0 255).1)] }).lookAll := by
  rw [State.qtailWrite, h]
  dsimp only
  rw [← hr]
  exact (if_neg ho).trans (if_neg (not_le.mpr hn))

end Qtail

/-! ### Completion in order -/

theorem get?_put1_other {α : Type} (l : List (Nat × α)) {a b : Nat} (x : α) (h : b ≠ a) : get? (put1 l a x) b = get? l b := by
  induction l with
  | nil => exact if_neg h
  | cons e l ih =>
    obtain ⟨k, v⟩ := e
    rw [put1]
    split
    · next hk => rw [get?, get?, ← hk, if_neg h, if_neg h]
    · split
      · exact if_neg h
      · rw [get?, get?, ih]

theorem get?_filter_none {α : Type} {l : List (Nat × α)} {b : Nat} {p : Nat × α → Bool} (h : get? l b = none) : get? (l.filter p) b = none := by
  induction l with
  | nil => rfl
  | cons e l ih =>
    obtain ⟨k, v⟩ := e
    rw [get?] at h
    split at h
    · exact absurd h nofun
    · next hk =>
      rw [List.filter_cons]
      split
      · rw [get?, if_neg hk]; exact ih h
      · exact ih h

theorem Queue.rise_stop {r : Queue} {k : Nat} (h : get? r.fin (r.done + 1) = none) : Queue.rise k r = r := by
  cases k with
  | zero => rfl
  | succ k => rw [Queue.rise, h]

/-- The next entry to complete moves DONE by one where the one behind it is open. -/
theorem Queue.finish_next {r : Queue} {st : Stamp} (h2 : get? r.fin (r.done + 2) = none) :
    (r.finish (r.done + 1) st).done = r.done + 1 ∧ (r.finish (r.done + 1) st).doneSt = r.doneSt.max st := by
  have found : get? (ins r.fin (r.done + 1) st) (r.done + 1) = some st := get?_put1_same _ _ _
  have after : get? ((ins r.fin (r.done + 1) st).filter (fun p => p.1 != r.done + 1)) (r.done + 1 + 1) = none :=
    get?_filter_none ((get?_put1_other r.fin st (by omega)).trans h2)
  rw [Queue.finish, Queue.rise, found]
  dsimp only
  rw [Queue.rise_stop after]
  exact ⟨rfl, rfl⟩

/-! ### The arbiter -/

section Arbiter
variable {s u : State} {r : Queue} {d : QDesc} {e : QEntry}

/-- A queue whose entry is refused. -/
theorem State.takeEntry_refused {code : Nat} (h : u.checkEntry d e r.num (r.head + 1) = .error code) :
    ((u.takeEntry r d e).queueOf r.num).qfault = true ∧ ((u.takeEntry r d e).queueOf r.num).fcode = code ∧
    ((u.takeEntry r d e).queueOf r.num).head = r.head + 1 := by
  have queue : (u.takeEntry r d e).queueOf r.num = { r with
      head := r.head + 1, held := [], since := none, raised := 0, subs := r.subs.filter (fun p => decide (r.head + 1 < p.1))
      qfault := true, fcode := code, refDep := maxStamp (r.subOf (r.head + 1) :: r.held.map (·.2)) } := by
    rw [State.takeEntry, h]
    exact ((State.report_logs _ _ _ _ _ _).queueOf r.num).trans (State.setQueue_queueOf u rfl)
  rw [queue]
  exact ⟨rfl, rfl, rfl⟩

/-- A launch leaves the queue for the placer. -/
theorem State.takeEntry_launch {c : Card} {h : Hdr} (hc : u.checkEntry d e r.num (r.head + 1) = .ok (some (c, h))) :
    ((u.takeEntry r d e).queueOf r.num).head = r.head + 1 ∧ (u.takeEntry r d e).launches.length = u.launches.length + 1 := by
  rw [State.takeEntry, hc]
  constructor
  · exact congrArg Queue.head (State.setQueue_queueOf u (r := { r with
      head := r.head + 1, held := [], since := none, raised := 0, subs := r.subs.filter (fun p => decide (r.head + 1 < p.1)) }) rfl)
  · exact List.length_append

theorem exec_arbiterTakeEntry {top : Nat} {c : Nat × Queue × QDesc × QEntry} (hu : u = s.unfocus.settle.lookAll) (hr : s.unfocus.settle.running = true)
    (ht : top = u.candidates.foldl (fun m c => max m c.1) 0)
    (hc : argMin (fun c => (c.2.1.num + 4096 - (nth 4095 u.arbLast top + 1) % 4096) % 4096) (u.candidates.filter (fun c => c.1 == top)) = some c) :
    exec .arbiterTakeEntry s = .next (({ u with arbLast := u.arbLast.set top c.2.1.num } : State).takeEntry c.2.1 c.2.2.1 c.2.2.2) := by
  show execArbiterTakeEntry s = _
  unfold execArbiterTakeEntry
  dsimp only
  rw [hr, ← hu, ← ht, hc]
  rfl

end Arbiter

/-! ### Registers -/

section Qtbase
variable {s u : State} {v : W}

theorem exec_qtbaseWrite (hu : u = s.unfocus) (hr : u.running = true) (hi : Bool) : exec (.qtbaseWrite hi v) s =
    if hi then
      (if u.qtOn ∧ v.toNat % 256 ≠ (u.csr 0 0x8101).toNat % 256 then .next (u.setCsr 0 0x8100 (u.csr 0 0x8100 ||| 2))
       else .next (u.setCsr 0 0x8101 (BitVec.ofNat 32 (v.toNat % 256))).lookAll)
    else if u.qtOn ∧ v.toNat / 4096 ≠ (u.csr 0 0x8100).toNat / 4096 then .next (u.setCsr 0 0x8100 (u.csr 0 0x8100 ||| 2))
    else .next (u.setCsr 0 0x8100 (w32 (v.toNat / 4096 * 4096 + 2 * b2n ((u.csr 0 0x8100).getLsbD 1 && !v.getLsbD 1) + b2n (v.getLsbD 0)))).lookAll := by
  show execQtbaseWrite hi v s = _
  unfold execQtbaseWrite
  rw [← hu]
  dsimp only
  rw [hr]
  rfl

end Qtbase

/-- Settles O45: QTAIL by its bounds, QTBASE by its halves, the arbiter by what the check of the entry answers. -/
theorem queuesAndArbiter : Obligations.QueuesAndArbiter := by
  refine ⟨?_, ?_, ?_, ?_, ?_, ?_, fun r st _ h2 => Queue.finish_next h2, fun s u top c hu hr ht hc => exec_arbiterTakeEntry hu hr ht hc,
    fun u r d e n code h hn => hn ▸ State.takeEntry_refused h, fun u r d e c h hc => State.takeEntry_launch hc, ?_, fun d r => rfl⟩
  · intro s u q v d r hu hb hq hd hr hf hlt hh hs
    refine (exec_qtailWrite hu hb hq).trans (congrArg _ (State.qtailWrite_raise hd hr ?_ hlt))
    rw [QDesc.outside_iff, hf]
    simp only [Bool.false_eq_true, false_or]
    omega
  · intro s u q v d r hu hb hq hd hr hf he hle hh
    refine (exec_qtailWrite hu hb hq).trans (congrArg _ (State.qtailWrite_lower hd hr ?_ hle))
    rw [QDesc.outside_iff, hf]
    rintro (h | ⟨h, hlt⟩ | h | h)
    · exact Bool.false_ne_true h
    · exact absurd (he h) (by omega)
    · omega
    · omega
  · exact fun s u q v hu hb hq hd => (exec_qtailWrite hu hb hq).trans (congrArg _ (State.qtailWrite_none hd))
  · intro s u q v d r hu hb hq hd hr h
    refine (exec_qtailWrite hu hb hq).trans (congrArg _ (State.qtailWrite_outside hd hr (QDesc.outside_iff.mpr ?_)))
    rcases h with h | h | h | h
    · exact .inl h
    · exact .inr (.inr (.inl h))
    · exact .inr (.inr (.inr h))
    · exact .inr (.inl h)
  · intro s u q r hu hr hq hf
    show execQfaultClear q s = _
    unfold execQfaultClear
    rw [← hu]
    dsimp only
    rw [← hq]
    exact if_pos ⟨hf, hr⟩
  · intro s u v hu hr
    refine ⟨fun hon hne => ?_, fun hon hne => ?_, fun hoff => ?_⟩
    · rw [Happens, exec_qtbaseWrite hu hr, if_neg Bool.false_ne_true, if_pos ⟨hon, hne⟩]
    · rw [Happens, exec_qtbaseWrite hu hr, if_pos rfl, if_pos ⟨hon, hne⟩]
    · rw [Happens, exec_qtbaseWrite hu hr, if_pos rfl, if_neg (fun h => Bool.false_ne_true (hoff.symm.trans h.1))]
  · intro s u q hu hr hq
    show execEntryClassAge q s = _
    unfold execEntryClassAge
    rw [← hu]
    exact if_pos ⟨hr, hq⟩

end Sys2Proof.Machine

/-! # Proofs: placement of units, huddles and the completion of launches (10 R202 to R208, 17 R285 to R289) -/

namespace Sys2Proof.Machine

/-- A placement whose ways are clear is taken at once. -/
theorem State.whenClear_clear {u t : State} {f : State → Option State} (h : f u = some t) (hc : u.waysClear t = true) :
    u.whenClear f = (some t, u) := by
  unfold State.whenClear
  rw [h]
  exact if_pos hc

section Placement
variable {s u t : State}

theorem exec_placeTeam {id : Nat} {l : Launch} (hu : u = s.unfocus.settle) (hl : u.launchOf id = some l) (hr : u.running = true)
    (hripe : u.ripe l = true) (hd : l.dep.le (u.slackFor l.ctx) = true) (hf : u.restoreFirst = false)
    (hp : u.putNext l (u.turnDies l) (u.slackFor l.ctx) = some t) (hc : u.waysClear t = true) :
    exec (.placeTeam id) s = .next ((t.modLaunch l.id (fun m => { m with
      next := m.next + m.hdr.unit_
      k := if l.snapOn ∧ l.next = 0 then some (u.slackFor l.ctx) else l.k
      since := t.now
      waited := 0
      aged := false })).modQueue l.queue (fun r => { r with begun := max r.begun l.entry })).lookAll := by
  show execPlaceTeam id s = _
  unfold execPlaceTeam
  rw [← hu]
  dsimp only
  rw [hl]
  dsimp only
  rw [hr, hripe, hd, hf, State.whenClear_clear hp hc]
  rfl

theorem exec_placerOldestWaitExpire {l : Launch} (hu : u = s.unfocus) (hl : u.launches.find? u.ripe = some l)
    (h : 1000000 ≤ l.waited + (u.now - l.since)) :
    exec .placerOldestWaitExpire s = .next (u.modLaunch l.id (fun m => { m with aged := true })) := by
  show execPlacerOldestWaitExpire s = _
  unfold execPlacerOldestWaitExpire
  rw [← hu]
  dsimp only
  rw [hl]
  exact if_pos h

theorem exec_huddleTimerExpire {k : Huddle} (hu : u = s.unfocus) (hk : u.huddles = [k]) (hc : k.closed = false)
    (ht : k.opened + k.timer ≤ u.now) :
    exec (.huddleTimerExpire k.cl k.num) s = .next { u with huddles := [{ k with closed := true, closedAt := u.now }] } := by
  show execHuddleTimerExpire k.cl k.num s = _
  unfold execHuddleTimerExpire
  rw [← hu]
  dsimp only
  have due : (k.cl == k.cl && k.num == k.num && !k.closed && decide (k.opened + k.timer ≤ u.now)) = true := by simp [hc, ht]
  rw [hk, modAll, List.map_singleton, if_pos due]

/-- What a huddle finds when its launch is open: its team alone, on the CU that has room. -/
theorem exec_huddlePlace {cl h cache : Nat} {k : Huddle} {l hl : Launch} {fill : Mask} (hu : u = s.unfocus.settle)
    (hk : u.huddles.find? (fun k => k.cl == cl && k.num == h) = some k) (hr : u.hudReady k = some (l, cache)) (hf : u.restoreFirst = false)
    (ehl : hl = hudLaunch u.nextId l k) (efill : fill = maskOf (fun i => decide (i < k.recs.length)))
    (et : t = (({ u.fresh.2 with
        launches := u.fresh.2.launches ++ [hl]
        huddles := u.fresh.2.huddles.filter (fun j => !(j.cl == cl && j.num == h)) } : State).putTeam hl 0 1 cache
      ((u.slackFor k.ctx).max hl.dep))) (hc : u.waysClear t = true) :
    exec (.huddlePlace cl h) s = .next (t.modSquads (fun q => q.launch == u.nextId) (fun q =>
      { (List.range 14).foldl (fun q r => q.setV 0xFFFFFFFF r (fun i => k.word r i)) q with
        sp := { q.sp with pc := k.entry, mask := fill }
        filled := fill
        huddle := true })) := by
  show execHuddlePlace cl h s = _
  unfold execHuddlePlace
  rw [← hu]
  dsimp only
  rw [hk]
  dsimp only
  rw [hr]
  dsimp only
  rw [hf, State.whenClear_clear (t := t) (by rw [et, ehl]) hc, efill]
  rfl

/-- Settles O46: the events of the placer and of a launch's end, each at the state that it finds. -/
theorem placementAndCompletion : Obligations.PlacementAndCompletion := by
  unfold Obligations.PlacementAndCompletion
  refine ⟨?_, ?_, ?_, ?_, ?_⟩
  · exact fun s u t id l hu hl hr hripe hd hf hp hc => exec_placeTeam hu hl hr hripe hd hf hp hc
  · exact fun s u l hu hl h => exec_placerOldestWaitExpire hu hl h
  · rintro s u _ _ k hu hk rfl rfl hc ht
    exact exec_huddleTimerExpire hu hk hc ht
  · exact fun s u cl h cache k l hl fill hu hk hr hf ehl efill t et hc => exec_huddlePlace hu hk hr hf ehl efill et hc
  · intro s u t id l hu hl ho ht
    have run : ∀ st, st = (if l.huddle then l.doneSt else l.doneSt.max l.dep) → exec (.launchComplete id) s =
        if l.huddle then
          .next { t with
            launches := modAll (fun k => l.parents.contains k.id) (fun k => { k with doneSt := k.doneSt.max st }) t.launches }
        else .next (if l.intr then (t.finishEntry l.queue l.entry st).raiseHirq 0 else t.finishEntry l.queue l.entry st) := by
      rintro _ rfl
      show execLaunchComplete id s = _
      unfold execLaunchComplete
      rw [← hu]
      dsimp only
      rw [hl]
      dsimp only
      rw [ho, ht]
      rfl
    refine ⟨?_, ?_, ?_⟩
    · rintro _ rfl hh
      rw [Happens, run l.doneSt (by rw [hh]; rfl), hh]
      rfl
    · intro hh hi
      rw [Happens, run (l.doneSt.max l.dep) (by rw [hh]; rfl), hh, hi]
      rfl
    · intro hh hi
      rw [Happens, run (l.doneSt.max l.dep) (by rw [hh]; rfl), hh, hi]
      rfl

end Placement

end Sys2Proof.Machine

/-! # Proofs: engines, their commands and the ring registers (09 R182, R188, R189, 19 R317, 22 R348, 23 R364) -/

namespace Sys2Proof.Machine

/-! ### One turn of an engine -/

section Turn
variable {s u : State} {c : Cmd} {ms : List Move}

theorem exec_engineCommandRun {cmd : Nat} (hu : u = s.unfocus) (hc : u.cmds.find? (·.id == cmd) = some c) :
    exec (.engineCommandRun cmd) s = .next (u.cmdTurn c) := by
  show execEngineCommandRun cmd s = _
  unfold execEngineCommandRun
  rw [← hu]
  dsimp only
  rw [hc]

/-- A command whose lines are granted, free and at hand goes on at once. -/
theorem State.cmdWhen_ready {go : State → State} (hg : ∀ p ∈ u.cmdNeeds c ms, u.granted p.1 p.2 = true)
    (hb : ∀ p ∈ u.cmdNeeds c ms, p.1 ≠ .read → u.barred c.id p.1 p.2 = false) (hf : u.cmdForced c ms = [])
    (hr : u.farLack (600 + c.cl / 32) (c.cl / 32) (u.cmdReads c ms) = none) : u.cmdWhen c ms go = go (u.leaveLines c.id) := by
  have note : u.cmdNote c (u.cmdForced c ms) none = u := by rw [hf]; rfl
  have grant : (u.cmdNeeds c ms).find? (fun p => !u.granted p.1 p.2) = none :=
    List.find?_eq_none.mpr fun p hp => by rw [hg p hp]; exact Bool.false_ne_true
  have free : (u.cmdNeeds c ms).find? (fun p => p.1 != .read && u.barred c.id p.1 p.2) = none :=
    List.find?_eq_none.mpr fun p hp => by
      by_cases h : p.1 = .read
      · rw [h]; exact Bool.false_ne_true
      · rw [hb p hp h, Bool.and_false]; exact Bool.false_ne_true
  unfold State.cmdWhen
  rw [note]
  dsimp only
  rw [grant]
  dsimp only
  rw [free]
  dsimp only
  rw [hr]

theorem State.cmdTurn_done {e : Stamp} (hf : c.fin = some e) (hw : c.wait = 0) : u.cmdTurn c = u.cmdDone c e := by
  unfold State.cmdTurn
  rw [hf]
  exact if_pos hw

/-- A command that has no stamp yet and waits for no walk and no ticket takes its turn by its kind. -/
theorem State.cmdTurn_sig (hf : c.fin = none) (hw : c.walk = none) (ht : c.ticket = none) (hk : c.kind = .sig) (h1 : u.cmdFirst c = true) :
    u.cmdTurn c = (u.modCmd c.id (fun d => { d with fin := some (u.timeline c.ctx c.cl c.sel).stamp })).cmdDone
      { c with fin := some (u.timeline c.ctx c.cl c.sel).stamp } (u.timeline c.ctx c.cl c.sel).stamp := by
  unfold State.cmdTurn
  rw [hf]
  dsimp only
  rw [hw, ht, hk]
  exact if_pos h1

theorem State.cmdTurn_rsig (hf : c.fin = none) (hw : c.walk = none) (ht : c.ticket = none) (hk : c.kind = .rsig) (h1 : u.cmdFirst c = true) :
    u.cmdTurn c = u.cmdWhen c [] (fun s => s.cmdAdd c) := by
  unfold State.cmdTurn
  rw [hf]
  dsimp only
  rw [hw, ht, hk]
  exact if_pos h1

/-- The turn of a command that moves data. -/
def State.cmdTurnMove (u : State) (c : Cmd) : State :=
  match u.cmdCheckRun c (u.cmdMoves c) with
  | .miss va k => u.cmdMiss c va k
  | .bad d => u.cmdFail c d
  | .ok => u.cmdWhen c (u.cmdMoves c) (fun s => s.cmdMove c (u.cmdMoves c))

theorem State.cmdTurn_move (hf : c.fin = none) (hw : c.walk = none) (ht : c.ticket = none) (hs : c.kind ≠ .sig) (hr : c.kind ≠ .rsig)
    (h1 : u.cmdWaits c = false) : u.cmdTurn c = u.cmdTurnMove c := by
  unfold State.cmdTurn
  rw [hf]
  dsimp only
  rw [hw, ht]
  have waits : ¬ u.cmdWaits c = true := by rw [h1]; exact Bool.false_ne_true
  cases hk : c.kind with
  | sig => exact absurd hk hs
  | rsig => exact absurd hk hr
  | cpy => exact if_neg waits
  | gath => exact if_neg waits
  | rcpy => exact if_neg waits

end Turn

/-! ### Registers and rings -/

section Ring
variable {s u : State} {n b z h t k ctx : Nat} {v : W}

theorem exec_registerWrite (hu : u = s.unfocus) (ho : u.csrOpen n = true) (hb : (csrBridge n && !u.bridge) = false) :
    exec (.registerWrite ctx n v) s = .next (u.csrSet ctx n v) := by
  show execRegisterWrite ctx n v s = _
  unfold execRegisterWrite
  rw [← hu]
  exact if_pos (by rw [ho, hb]; rfl)

theorem State.ringBase_eq (hr : ringOf n = some (b, z, h, t)) (hk : k = if csrScoped n then 1 + ctx else 0) : u.ringBase ctx n v =
    if n = h ∨ !u.csrOpen n ∨ u.csr k h ≠ u.csr k t ∨ !ringValue b n v then u else (u.setCsr k n v).flushRing ctx b := by
  unfold State.ringBase
  rw [hr, hk]

theorem State.ringHead_eq (hr : ringOf n = some (b, z, h, t)) (hk : k = if csrScoped n then 1 + ctx else 0) : u.ringHead ctx n v =
    if n ≠ h ∨ !u.csrOpen n ∨ (0 < (v - u.csr k t).toNat ∧ (v - u.csr k t).toNat < 2 ^ 31) then u
    else (u.setCsr k n v).flushRing ctx b := by
  unfold State.ringHead
  rw [hr, hk]

end Ring

/-- Settles O47: the turns of an engine by the kind of its command, and the writes of the ring registers. -/
theorem enginesAndRegisters : Obligations.EnginesAndRegisters := by
  unfold Obligations.EnginesAndRegisters
  refine ⟨?_, ?_, ?_, ?_⟩
  · intro s u cmd c hu hc
    have run := exec_engineCommandRun hu hc
    refine ⟨?_, ?_, ?_, ?_⟩
    · exact fun e hf hw => run.trans (congrArg Host.Outcome.next (State.cmdTurn_done hf hw))
    · rintro _ hf hw ht hk h1 rfl
      exact run.trans (congrArg Host.Outcome.next (State.cmdTurn_sig hf hw ht hk h1))
    · intro hf hw ht hk h1 hb
      have needs : ∀ p ∈ u.cmdNeeds c [], p = (.event, lineOf c.key) ∧ homePkg (lineOf c.key) = u.pkgIdx := by
        intro p hp
        rw [State.cmdNeeds, if_pos hk] at hp
        split at hp
        · next hh => exact ⟨List.mem_singleton.mp hp, hh⟩
        · exact absurd hp List.not_mem_nil
      have forced : u.cmdForced c [] = [] := by
        unfold State.cmdForced
        exact ite_self _
      have reads : u.cmdReads c [] = [] := by
        unfold State.cmdReads
        exact ite_self _
      have go := State.cmdWhen_ready (go := fun s => s.cmdAdd c)
        (fun p hp => by
          obtain ⟨rfl, hh⟩ := needs p hp
          exact Bool.or_eq_true_iff.mpr (.inl (beq_iff_eq.mpr hh)))
        (fun p hp _ => by
          obtain ⟨rfl, hh⟩ := needs p hp
          exact hb hh)
        forced (by rw [reads]; rfl)
      exact run.trans (congrArg Host.Outcome.next ((State.cmdTurn_rsig hf hw ht hk h1).trans go))
    · intro hf hw ht hs hr h1
      have turn := run.trans (congrArg Host.Outcome.next (State.cmdTurn_move hf hw ht hs hr h1))
      refine ⟨?_, ?_, ?_⟩
      · intro hok hg hb hn hl
        have go := State.cmdWhen_ready (go := fun s => s.cmdMove c (u.cmdMoves c)) hg hb hn hl
        rw [State.cmdTurnMove, hok] at turn
        exact turn.trans (congrArg Host.Outcome.next go)
      · intro va k hm
        rw [State.cmdTurnMove, hm] at turn
        exact turn
      · intro d hb
        rw [State.cmdTurnMove, hb] at turn
        exact turn
  · intro s c e d hd
    exact bne_iff_ne.mp (List.mem_filter.mp hd).2
  · exact fun s u ctx num v hu ho hb => exec_registerWrite hu ho hb
  · intro s u ctx n b z h t k v hu hr ho hk
    subst hu
    refine ⟨?_, ?_, ?_, ?_⟩
    · intro hn he hv
      refine congrArg Host.Outcome.next ((State.ringBase_eq hr hk).trans (if_neg ?_))
      rw [ho, hv]
      exact fun h => h.elim hn fun h => h.elim nofun fun h => h.elim (absurd he) nofun
    · exact fun hn he => congrArg Host.Outcome.next ((State.ringBase_eq hr hk).trans (if_pos (.inr (.inr (.inl he)))))
    · intro hn hp
      refine congrArg Host.Outcome.next ((State.ringHead_eq hr hk).trans (if_neg ?_))
      rw [ho]
      exact fun h => h.elim (absurd hn) fun h => h.elim nofun hp
    · exact fun hn h0 h1 => congrArg Host.Outcome.next ((State.ringHead_eq hr hk).trans (if_pos (.inr (.inr ⟨h0, h1⟩))))

end Sys2Proof.Machine

/-! # Proofs: requests at the home of a line and page grants (11 R222, 12 R253, R254, R259, R260) -/

namespace Sys2Proof.Machine

/-! ### Requests of an L1 -/

section Request
variable {s u v : State} {line cache op ty : Nat} {st : L1St} {n : Need} {r : HomeReq} {e : L1}

theorem State.request_way (hg : u.granted n line = true) (hl : u.l1Of cache line = none) (hw : u.takeWay cache line = some v) :
    u.request cache line st op ty n r = (v.setL1 cache line st op ty).arrive line r := by
  unfold State.request
  rw [hg, hl, hw]
  rfl

theorem State.request_held (hg : u.granted n line = true) (hl : u.l1Of cache line = some e) :
    u.request cache line st op ty n r = (u.setL1 cache line st op ty).arrive line r := by
  unfold State.request
  rw [hg, hl]
  rfl

theorem State.request_ask (hg : u.granted n line = false) : u.request cache line st op ty n r = u.ask n line := by
  unfold State.request
  rw [hg]
  rfl

theorem exec_homeSharedRequest (hu : u = s.unfocus) (hl : u.l1Of cache line = none) :
    exec (.homeSharedRequest line cache) s = .next (u.request cache line .is 0 0 .shared (.shared cache)) := by
  show execHomeSharedRequest line cache s = _
  unfold execHomeSharedRequest
  rw [← hu]
  dsimp only
  rw [hl]

theorem exec_homeExclusiveRequest (hu : u = s.unfocus) (hl : u.l1Of cache line = none) :
    exec (.homeExclusiveRequest line cache) s = .next (u.request cache line .im 0 0 .excl (.excl cache)) := by
  show execHomeExclusiveRequest line cache s = _
  unfold execHomeExclusiveRequest
  rw [← hu]
  dsimp only
  rw [hl]

theorem exec_homeExclusiveRequest_shared (hu : u = s.unfocus) (hl : u.l1Of cache line = some e) (he : e.st = .s) :
    exec (.homeExclusiveRequest line cache) s = .next (u.request cache line .sm 0 0 .excl (.excl cache)) := by
  show execHomeExclusiveRequest line cache s = _
  unfold execHomeExclusiveRequest
  rw [← hu]
  dsimp only
  rw [hl]
  exact if_pos he

end Request

/-! ### Requests for an update-only copy -/

section Update
variable {s u v : State} {line cache op ty : Nat} {f : Stamp}

theorem State.cuStamp_l1Of : (u.cuStamp cache).2.l1Of cache line = u.l1Of cache line := rfl

/-- Has the line an epoch of one operator and type? -/
def State.sameEpoch (u : State) (line op ty : Nat) : Bool := (u.epoch line).any (fun h => h.op == op && h.ty == ty)

/-- What the request does where the CU holds nothing of the line, with its first stamp fresh or the epoch there. -/
theorem exec_homeUpdateOnlyRequest (hu : u = s.unfocus) (hp : f.src / 1024 = u.pkgIdx) (ha : u.holdsA cache line op ty = false)
    (hl : u.l1Of cache line = none) (hf : u.sameEpoch line op ty = false → (u.cuStamp cache).1 = f) :
    exec (.homeUpdateOnlyRequest line cache op ty f) s =
      if homePkg line ≠ u.pkgIdx ∧ u.sameEpoch line op ty = false ∧ u.pageGranted (.upd op ty) line = true then
        .next (if u.asksA line then u else (u.cuStamp cache).2.demand (homePkg line) 0 (.upd line op ty f))
      else .next ((if u.sameEpoch line op ty then u else (u.cuStamp cache).2).request cache line .ia op ty (.upd op ty) (.upd cache op ty f)) := by
  show execHomeUpdateOnlyRequest line cache op ty f s = _
  unfold execHomeUpdateOnlyRequest
  rw [← hu]
  dsimp only
  rw [if_neg (not_not.mpr hp), ha, hl]
  refine (if_neg fun h => h.elim nofun nofun).trans ?_
  show (if (!u.sameEpoch line op ty) = true ∧ (u.cuStamp cache).1 ≠ f then _
    else if homePkg line ≠ u.pkgIdx ∧ (!u.sameEpoch line op ty) = true ∧ u.pageGranted (.upd op ty) line = true then _ else _) = _
  simp only [Bool.not_eq_true']
  rw [if_neg fun h => h.2 (hf h.1)]
  rfl

/-- The request of another package: it arrives as its message under a grant of the epoch. -/
theorem exec_homeUpdateOnlyRequest_far {m : FabIn} (hu : u = s.unfocus) (hp : f.src / 1024 ≠ u.pkgIdx) (hh : homePkg line = u.pkgIdx)
    (hm : u.inbox.find? (fun m => m.src == f.src / 1024 && m.body == .upd line op ty f) = some m)
    (hg : u.grants.any (fun g => g.page == pageOf line && g.pkg == f.src / 1024 && !g.recalled && g.kind == 2 && g.op == op && g.ty == ty) = true) :
    exec (.homeUpdateOnlyRequest line cache op ty f) s =
      .next (({ u with inbox := u.inbox.erase m } : State).arrive line (.upd (farCache (f.src / 1024) m.req) op ty f)) := by
  show execHomeUpdateOnlyRequest line cache op ty f s = _
  unfold execHomeUpdateOnlyRequest
  rw [← hu]
  dsimp only
  rw [if_pos hp, hm]
  exact if_pos ⟨hh, hg⟩

end Update

/-! ### Reads and events -/

section Read
variable {s u : State} {line cache : Nat} {t : Stamp}

theorem exec_homePlainRead (hu : u = s.unfocus) (hc : cache < 512) :
    exec (.homePlainRead line cache t) s =
      if !u.reachesData cache (cache / 128) line false t then
        .next (if u.pageGranted .read line then u.askData (cache / 128) 0x8000 line false t else u.ask .read line)
      else if u.readEnds line t then .next (u.arrive line (.read cache t))
      else .next (u.fillCopy cache line t) := by
  show execHomePlainRead line cache t s = _
  unfold execHomePlainRead
  rw [← hu]
  exact if_neg (not_le.mpr hc)

theorem exec_homePublicationEvent {msg : Nat} {m : Msg} (hu : u = s.unfocus)
    (hm : u.msgs.find? (fun m => m.id == msg && !m.dep && !m.landed && homePkg m.line == u.pkgIdx) = some m) (ho : u.overtakes m = false) :
    exec (.homePublicationEvent msg) s = .next (if m.manual then (u.mergeHome m.line m.bytes).ackMsg msg else u.arrive m.line (.event msg)) := by
  show execHomePublicationEvent msg s = _
  unfold execHomePublicationEvent
  rw [← hu]
  dsimp only
  rw [hm]
  dsimp only
  rw [ho]
  cases m.manual
  · rfl
  · rfl

end Read

/-! ### The home serves a request -/

section Serve
variable {s : State} {h : Home} {line c : Nat}

theorem State.serve_shared_hs (eh : h = s.homeOf line) (hh : h.st = .hs) : s.serve line (.shared c) = s.grantTo h (.shared c) := by
  unfold State.serve
  rw [← eh]
  dsimp only
  rw [hh]

theorem State.serve_excl_hs (eh : h = s.homeOf line) (hh : h.st = .hs) : s.serve line (.excl c) =
    if s.othersHold line c then
      s.setHome { h with st := .hsx, serving := some (.excl c), acks := (s.diesOf line).map (fun d => (s.pkgIdx, d)) }
    else s.grantTo h (.excl c) := by
  unfold State.serve
  rw [← eh]
  dsimp only
  rw [hh]

theorem State.serve_ho (eh : h = s.homeOf line) (hh : h.st = .ho) :
    s.serve line (.shared c) = s.setHome { h with st := .hor, serving := some (.shared c) } ∧
      s.serve line (.excl c) = s.setHome { h with st := .hor, serving := some (.excl c) } := by
  unfold State.serve
  rw [← eh]
  dsimp only
  rw [hh]
  exact ⟨rfl, rfl⟩

theorem State.serve_ha (eh : h = s.homeOf line) (hh : h.st = .ha) :
    s.serve line (.shared c) = s.startCollapse h (.shared c) ∧ s.serve line (.excl c) = s.startCollapse h (.excl c) := by
  unfold State.serve
  rw [← eh]
  dsimp only
  rw [hh]
  exact ⟨rfl, rfl⟩

theorem State.grantTo_shared_far (hc : 20000 ≤ c) :
    s.grantTo h (.shared c) = (s.setHome { h with st := .hs, owner := 0, serving := some (.shared c) }).sendData h.line c none := if_pos hc

/-- Of the caches of the package a first reader becomes the owner, another shares. -/
theorem State.grantTo_shared_near (hc : c < 20000) : s.grantTo h (.shared c) =
    if s.othersHold h.line c || !s.alone h.line then s.setHome { h with st := .hs, serving := some (.shared c) }
    else s.setHome { h with st := .ho, owner := c, serving := some (.shared c) } := if_neg (not_le.mpr hc)

end Serve

/-! ### Page grants -/

section Grants
variable {s u t : State} {pkg page kind op ty : Nat} {m : FabIn} {new : Grant}

theorem exec_pageGrantRequest (hu : u = s.unfocus) (hk : kind ≤ 2) (hp : pkg ≠ u.pkgIdx) (hh : pageHome page = u.pkgIdx)
    (hm : u.inbox.find? (fun m => m.src == pkg && m.body == .grant page kind op ty) = some m)
    (hn : new = ⟨page, pkg, kind, op, ty, u.now, false, m.req⟩) (hw : u.grantWaits = [])
    (ht : t = { u with inbox := u.inbox.erase m, grantWaits := [new] }) :
    exec (.pageGrantRequest pkg page kind op ty) s = .next (t.giveGrants [new]) := by
  show execPageGrantRequest pkg page kind op ty s = _
  unfold execPageGrantRequest
  rw [← hu]
  dsimp only
  rw [if_neg (not_lt.mpr hk), if_neg hp, hm]
  dsimp only
  rw [if_neg (not_not.mpr hh), hw, ht, hn]
  rfl

theorem State.giveGrants_one_clash (hw : t.grantWaits = [new]) (hc : t.grantClash new ≠ []) :
    t.giveGrants [new] = t.recallGrants (t.grantClash new).contains := by
  rw [State.giveGrants, hw]
  have earlier : ([new].takeWhile (· != new)).any (fun g => g.page == new.page) = false := by simp
  dsimp only
  rw [earlier, if_neg Bool.false_ne_true]
  split
  · next h => exact absurd h hc
  · rw [State.giveGrants]

theorem State.giveGrants_one {v : State} (hw : t.grantWaits = [new]) (hc : t.grantClash new = [])
    (hb : t.notes.any (fun n => pageOf n.line == new.page) = false)
    (he : new.kind = 1 → t.pageMoves new.page = false ∧ t.pageStalls new.page = false)
    (hv : v = if new.kind = 1 then t.handOver new.page else t) :
    t.giveGrants [new] = ({ v with
      grants := v.grants.filter (fun g => !g.gives new) ++ [new]
      grantWaits := v.grantWaits.erase new } : State).toPort new.pkg new.req none (.granted new.page new.kind new.op new.ty) := by
  rw [State.giveGrants, hw]
  have earlier : ([new].takeWhile (· != new)).any (fun g => g.page == new.page) = false := by simp
  have free : ¬(t.notes.any (fun n => pageOf n.line == new.page) = true ∨
      new.kind = 1 ∧ (t.pageMoves new.page || t.pageStalls new.page) = true) := by
    rw [hb]
    rintro (h | ⟨h, g⟩)
    · exact absurd h Bool.false_ne_true
    · rw [(he h).1, (he h).2] at g
      exact absurd g Bool.false_ne_true
  dsimp only
  rw [earlier, if_neg Bool.false_ne_true, hc]
  dsimp only
  rw [if_neg free, ← hv, State.giveGrants]

theorem exec_pageGrantRequest_own (hu : u = s.unfocus) (hk : kind ≤ 2) (hp : u.peers.any (·.idx == pageHome page) = true) :
    exec (.pageGrantRequest u.pkgIdx page kind op ty) s = .next (u.demandOnce (pageHome page) 0 (.grant page kind op ty)) := by
  show execPageGrantRequest u.pkgIdx page kind op ty s = _
  unfold execPageGrantRequest
  rw [← hu]
  dsimp only
  rw [if_neg (not_lt.mpr hk), if_pos rfl]
  exact if_pos hp

theorem exec_pageGrantRecall (hu : u = s.unfocus) (hp : pkg ≠ u.pkgIdx) :
    exec (.pageGrantRecall pkg page) s = .next (u.recallGrants (fun g => g.page == page && g.pkg == pkg)) := by
  show execPageGrantRecall pkg page s = _
  unfold execPageGrantRecall
  rw [← hu]
  exact if_pos hp

theorem exec_pageGrantRecall_own (hu : u = s.unfocus) (hm : u.inbox.find? (fun m => m.src == pageHome page && m.body == .recall page) = some m)
    (ht : t = u.leavePage page) :
    exec (.pageGrantRecall u.pkgIdx page) s = if t.leftPage page = true then
      .next ((({ t with inbox := t.inbox.erase m } : State).dropPage page).toPort m.src m.req none (.recalled page)) else .next t := by
  show execPageGrantRecall u.pkgIdx page s = _
  unfold execPageGrantRecall
  rw [← hu]
  dsimp only
  rw [if_neg (not_not.mpr rfl), hm, ht]

theorem exec_pageGrantRecallAck (hu : u = s.unfocus) (hm : u.inbox.find? (fun m => m.src == pkg && m.body == .recalled page) = some m)
    (ht : t = { u with
      inbox := u.inbox.erase m
      reqs := u.reqs.filter (fun r => !(r.dst == pkg && r.body == .recall page))
      grants := u.grants.filter (fun g => !(g.page == page && g.pkg == pkg)) }) :
    exec (.pageGrantRecallAck pkg page) s =
      .next (((t.home.filter (fun h => pageOf h.line == page)).map (·.line)).foldl State.serveAll (t.giveGrants t.grantWaits)) := by
  show execPageGrantRecallAck pkg page s = _
  unfold execPageGrantRecallAck
  rw [← hu]
  dsimp only
  rw [hm, ht]

end Grants

/-- Settles O48: requests arrive at the home, the home answers by the state of the line, and page grants go out or are recalled. -/
theorem homeRequests : Obligations.HomeRequests := by
  unfold Obligations.HomeRequests
  refine ⟨?_, ?_, ?_, ?_, ?_, ?_, ?_, ?_, ?_, ?_, ?_, ?_, ?_⟩
  · intro s u v line cache hu hl
    refine ⟨fun hg hw => ?_, fun hg hw => ?_, fun hg => ?_, fun hg => ?_⟩
    · rw [Happens, exec_homeSharedRequest hu hl, State.request_way hg hl hw]
    · rw [Happens, exec_homeExclusiveRequest hu hl, State.request_way hg hl hw]
    · rw [Happens, exec_homeSharedRequest hu hl, State.request_ask hg]
    · rw [Happens, exec_homeExclusiveRequest hu hl, State.request_ask hg]
  · intro s u line cache e hu hl he hg
    rw [Happens, exec_homeExclusiveRequest_shared hu hl he, State.request_held hg hl]
  · intro s u v line cache op ty f hu hp ha hl
    refine ⟨fun hs hf hh hg hw => ?_, fun hs hg hw => ?_, fun hs hf hh hg hq => ?_⟩
    · rw [Happens, exec_homeUpdateOnlyRequest hu hp ha hl fun _ => hf, if_neg (fun h => h.1 hh), State.sameEpoch, hs, if_neg Bool.false_ne_true,
        State.request_way hg (State.cuStamp_l1Of.trans hl) hw]
    · have same : u.sameEpoch line op ty = true := hs
      rw [Happens, exec_homeUpdateOnlyRequest hu hp ha hl (fun h => absurd (same.symm.trans h) nofun), same,
        if_neg (fun h => absurd h.2.1 nofun), if_pos rfl, State.request_way hg hl hw]
    · rw [Happens, exec_homeUpdateOnlyRequest hu hp ha hl fun _ => hf, if_pos ⟨hh, hs, hg⟩, hq]
      rfl
  · intro s u line cache op ty f m g hu hp hh hm hg hpage hpkg hrec hkind hop hty
    refine exec_homeUpdateOnlyRequest_far hu hp hh hm (List.any_eq_true.mpr ⟨g, hg, ?_⟩)
    simp [hpage, hpkg, hrec, hkind, hop, hty]
  · intro s u line cache t hu hc
    refine ⟨fun hr => ⟨fun he => ?_, fun he => ?_⟩, fun hr => ⟨fun hg => ?_, fun hg => ?_⟩⟩
    · rw [Happens, exec_homePlainRead hu hc, hr, he]
      rfl
    · rw [Happens, exec_homePlainRead hu hc, hr, he]
      rfl
    · rw [Happens, exec_homePlainRead hu hc, hr, hg]
      rfl
    · rw [Happens, exec_homePlainRead hu hc, hr, hg]
      rfl
  · exact fun s line agent => rfl
  · exact fun s u msg m hu hm ho => exec_homePublicationEvent hu hm ho
  · intro s h line c eh
    refine ⟨fun hh hc ha ho ho' => ⟨?_, ?_⟩, fun hh hc ha => ?_, fun hh hc => ?_, fun hh hc ho ho' => ⟨?_, ?_⟩, fun hh => State.serve_ho eh hh,
      fun hh => State.serve_ha eh hh⟩
    · rw [State.serve_shared_hs eh hh, State.grantTo_shared_near hc, ha, ho]
      rfl
    · rw [State.serve_excl_hs eh hh, ho']
      rfl
    · rw [State.serve_shared_hs eh hh, State.grantTo_shared_near hc, ha, Bool.not_false, Bool.or_true]
      rfl
    · rw [State.serve_shared_hs eh hh, State.grantTo_shared_far hc]
    · rw [State.serve_shared_hs eh hh, State.grantTo_shared_near hc, ho]
      rfl
    · rw [State.serve_excl_hs eh hh, ho']
      rfl
  · intro s u t pkg page kind op ty m new hu hk hp hh hm hn hw ht
    have run := exec_pageGrantRequest hu hk hp hh hm hn hw ht
    have waits : t.grantWaits = [new] := by rw [ht]
    refine ⟨fun hc hb he v hv => ?_, fun hc => ?_⟩
    · subst hn
      rw [Happens, run, State.giveGrants_one (v := v) waits hc hb he hv]
    · rw [Happens, run, State.giveGrants_one_clash waits hc]
  · exact fun s u page kind op ty hu hk hp => exec_pageGrantRequest_own hu hk hp
  · exact fun s u pkg page hu hp => exec_pageGrantRecall hu hp
  · intro s u t page m hu hm ht
    refine ⟨fun hl => ?_, fun hl => ?_⟩
    · rw [Happens, exec_pageGrantRecall_own hu hm ht, hl]
      rfl
    · rw [Happens, exec_pageGrantRecall_own hu hm ht, if_pos hl]
  · exact fun s u t pkg page m hu hm ht => exec_pageGrantRecallAck hu hm ht

end Sys2Proof.Machine

/-! # Proofs: answers of caches, filters and ports, and their effects at the home (11 R233, R235, 12 R251 to R258) -/

namespace Sys2Proof.Machine

/-! ### Invalidations and their answers -/

section Invalidation
variable {s u : State} {cache line die : Nat} {e : L1}

theorem exec_l1Invalidate (hu : u = s.unfocus) (ha : (u.homeOf line).asks u.pkgIdx (cache / 128) = true) :
    exec (.l1Invalidate cache line) s = .next (u.invalidate cache line) := by
  show execL1Invalidate cache line s = _
  unfold execL1Invalidate
  rw [← hu]
  exact if_pos ha

theorem State.invalidate_dropL1 (hl : u.l1Of cache line = some e) (he : e.st = .s ∨ e.st = .e) (hr : cache ≠ (u.homeOf line).requester) :
    u.invalidate cache line = u.dropL1 cache line := by
  unfold State.invalidate
  rw [hl]
  exact if_pos ⟨he, hr⟩

theorem exec_snoopFilterMessage (hu : u = s.unfocus) (ha : (u.homeOf line).asks u.pkgIdx die = true) :
    exec (.snoopFilterMessage die line) s = .next (((((u.l1.filter (fun e => e.line == line && e.cache / 128 == die)).map (·.cache)).foldl
      (fun s c => s.invalidate c line) u).trimFilter die line).answered false line u.pkgIdx die) := by
  show execSnoopFilterMessage die line s = _
  unfold execSnoopFilterMessage
  rw [← hu]
  exact if_pos ha

theorem exec_homeInvalidationAck (hu : u = s.unfocus) (hd : die < 4) (hb : u.answerBehind false line die = false) :
    exec (.homeInvalidationAck line die) s = .next ((u.answerIn false line die).takeAck line (u.pkgIdx, die + 4)) := by
  show execHomeInvalidationAck line die s = _
  unfold execHomeInvalidationAck
  rw [← hu]
  dsimp only
  rw [if_neg (not_le.mpr hd), hb]
  rfl

/-- The last answer to the event of a publication: the line is shared by nobody, and the publisher is acknowledged. -/
theorem State.takeAck_event {h : Home} {a : Nat × Nat} {id : Nat} (eh : h = u.homeOf line) (hs : h.st = .hv) (ha : h.acks = [a])
    (hv : h.serving = some (.event id)) :
    u.takeAck line a = ((u.setHome { h with acks := [], st := .hs, serving := none }).ackMsg id).serveAll line := by
  have last : [a].filter (· != a) = [] := by simp
  have awaited : ((h.st == .hv || h.st == .hsx) && h.acks.contains a) = true := by simp [hs, ha]
  unfold State.takeAck
  rw [← eh]
  dsimp only
  rw [if_pos awaited, ha, last, if_neg (by decide), if_pos hs, hv]

end Invalidation

/-! ### An owner is recalled -/

section Recall
variable {s u : State} {cache line : Nat} {e : L1}

/-- Does the home recall a line from a cache whose bytes are not on their way yet? -/
def State.recalls (u : State) (cache line : Nat) : Prop :=
  (u.homeOf line).st = .hor ∧ (u.homeOf line).owner = cache ∧ u.msgs.any (fun m => m.dep && m.line == line) = false

/-- What the owner of a line that it has written does with it, as its home serves a request. -/
def State.giveUp (u : State) (cache line : Nat) (e : L1) (r : Option HomeReq) : State :=
  match r with
  | some (.shared _) => { u.sendBytes cache line e.ctx e.written with
      l1 := modAll (fun e => e.cache == cache && e.line == line) (fun e => { e with st := .s, written := [], writers := [] })
        (u.sendBytes cache line e.ctx e.written).l1 }
  | _ => (u.sendBytes cache line e.ctx e.written).dropL1 cache line

theorem State.answerRecall_owned (hr : u.recalls cache line) (hl : u.l1Of cache line = some e) : u.answerRecall cache line =
    if e.st = .m then u.giveUp cache line e (u.homeOf line).serving
    else if e.st = .mi then u
    else (u.sendBytes cache line e.ctx []).dropL1 cache line := by
  obtain ⟨hst, how, hm⟩ := hr
  unfold State.answerRecall
  dsimp only
  rw [if_neg (by rw [hm]; exact fun h => h.elim (absurd hst) fun h => h.elim (absurd how) nofun), hl]
  rfl

end Recall

/-! ### Bytes of an owner reach the home -/

section OwnerBytes
variable {s u t : State} {line : Nat} {m : Msg}

theorem exec_homeOwnerBytes_stall (hu : u = s.unfocus) (hm : u.msgs.find? (fun m => m.dep && m.line == line) = some m) (hb : m.bytes ≠ [])
    (hp : u.putBehind m = false) (hs : u.stalls line = true) : exec (.homeOwnerBytes line) s = .next (u.stallMsg m.id) := by
  show execHomeOwnerBytes line s = _
  unfold execHomeOwnerBytes
  rw [← hu]
  dsimp only
  rw [hm]
  dsimp only
  rw [hp, if_neg Bool.false_ne_true, if_pos ⟨by simpa using hb, hs⟩]

theorem exec_homeOwnerBytes (hu : u = s.unfocus) (hm : u.msgs.find? (fun m => m.dep && m.line == line) = some m) (hb : m.bytes ≠ [])
    (hp : u.putBehind m = false) (hs : u.stalls line = false)
    (ht : t = (({ u with msgs := u.msgs.filter (·.id != m.id) } : State).landed line m.st m.bytes m.ctx).carryPoison line (.msg m.id) .home m.st)
    (hh : (t.homeOf line).st = .hor) :
    exec (.homeOwnerBytes line) s = .next ((t.setHome { t.homeOf line with
      st := .hs, owner := 0, serving := none
      waits := (t.homeOf line).serving.toList ++ (t.homeOf line).waits }).serveAll line) := by
  have full : m.bytes.isEmpty = false := List.isEmpty_eq_false_iff.mpr hb
  show execHomeOwnerBytes line s = _
  unfold execHomeOwnerBytes
  rw [← hu]
  dsimp only
  rw [hm]
  dsimp only
  rw [hp, if_neg Bool.false_ne_true, if_neg (by rw [hs]; exact fun h => absurd h.2 Bool.false_ne_true), full, if_neg Bool.false_ne_true, ← ht]
  exact if_pos hh

theorem exec_l1PutAck {cache : Nat} {e : L1} (hu : u = s.unfocus) (hl : u.l1Of cache line = some e) (he : e.st = .mi)
    (hm : u.msgs.any (fun m => m.dep && m.line == line) = false) :
    exec (.l1PutAck cache line) s = .next ((u.dropL1 cache line).serveAll line) := by
  show execL1PutAck cache line s = _
  unfold execL1PutAck
  rw [← hu]
  dsimp only
  rw [hl]
  exact if_pos ⟨he, by rw [hm]; rfl⟩

end OwnerBytes

/-! ### Collapses -/

section Collapse
variable {s u t : State} {line die : Nat} {h k : Home} {r : List D}

theorem exec_mergePortCollapse_home (hu : u = s.unfocus) (eh : h = u.homeOf line) (hs : h.st = .hac)
    (ha : h.acks.contains (u.pkgIdx, die) = true) (hh : homePkg line = u.pkgIdx)
    (hp : (u.acopies.filter (fun c => c.line == line && c.cache / 128 == die)).all (·.port) = true) (hr : u.partOf h die = some r) :
    exec (.mergePortCollapse die line) s =
      .next ((({ u with acopies := u.acopies.filter (fun c => !(c.line == line && c.cache / 128 == die)) } : State).setHome
        { h with parts := h.parts ++ [(u.pkgIdx, die, rowWords r)] }).answered true line u.pkgIdx die) := by
  show execMergePortCollapse die line s = _
  unfold execMergePortCollapse
  rw [← hu]
  dsimp only
  rw [← eh, if_pos ⟨hs, ha, hp⟩, if_pos hh, hr]

theorem exec_mergePortCollapse_far (hu : u = s.unfocus) (eh : h = u.homeOf line) (hs : h.st = .hac) (ha : h.acks = [(u.pkgIdx, die)])
    (hh : homePkg line ≠ u.pkgIdx) (hp : (u.acopies.filter (fun c => c.line == line && c.cache / 128 == die)).all (·.port) = true)
    (hr : u.partOf h die = some r)
    (ht : t = ({ u with acopies := u.acopies.filter (fun c => !(c.line == line && c.cache / 128 == die)) } : State).sendPart
      { h with acks := [] } die (rowWords r)) :
    exec (.mergePortCollapse die line) s = .next ((t.setHome h.over).serveAll line) := by
  have mine : h.acks.contains (u.pkgIdx, die) = true := by rw [ha]; simp
  have last : h.acks.filter (· != (u.pkgIdx, die)) = [] := by rw [ha]; simp
  show execMergePortCollapse die line s = _
  unfold execMergePortCollapse
  rw [← hu]
  dsimp only
  rw [← eh, if_pos ⟨hs, mine, hp⟩, if_neg hh, hr, last, ht]
  rfl

theorem State.partIn_pkgIdx (s : State) (line pkg die : Nat) : (s.partIn line pkg die).pkgIdx = s.pkgIdx := by
  unfold State.partIn
  split
  · dsimp only
    split
    · split
      · rfl
      · rfl
    · rfl
  · rfl

/-- The last partial result ends the collapse, or waits for room in the version store. -/
theorem exec_homeDiePartial {pkg : Nat}
    (hu : u = if pkg = s.unfocus.pkgIdx then s.unfocus.answerIn true line die else s.unfocus.partIn line pkg die)
    (hb : pkg = s.unfocus.pkgIdx → s.unfocus.answerBehind true line die = false) (eh : h = u.homeOf line) (hs : h.st = .hac)
    (ha : h.acks = [(pkg, die + 4)]) (ek : k = { h with acks := [] }) (et : t = u.setHome k) :
    exec (.homeDiePartial line pkg die) s = .next (t.lastPartial k true) := by
  have mine : h.acks.contains (pkg, die + 4) = true := by rw [ha]; simp
  have last : h.acks.filter (· != (pkg, die + 4)) = [] := by rw [ha]; simp
  show execHomeDiePartial line pkg die s = _
  unfold execHomeDiePartial
  by_cases hp : pkg = s.unfocus.pkgIdx
  · rw [if_pos hp] at hu
    dsimp only
    rw [if_pos hp, hb hp, Bool.and_false, Bool.not_false, Bool.and_true, if_pos (beq_iff_eq.mpr hp), ← hu, ← eh, if_pos ⟨hs, mine, rfl⟩, last, et, ek]
    rfl
  · rw [if_neg hp] at hu
    dsimp only
    have away : (pkg == u.pkgIdx) = false := beq_false_of_ne (by rw [hu, State.partIn_pkgIdx]; exact hp)
    rw [if_neg hp, ← hu, away, Bool.false_and, Bool.false_and, if_neg Bool.false_ne_true, ← eh, if_pos ⟨hs, mine, rfl⟩, last, et, ek]
    rfl

end Collapse

/-! ### A granted line reaches its cache -/

section Grant
variable {s u : State} {cache line : Nat} {h : Home}

/-- The state of a granted line in the L1: the entry takes the state that the home has served. -/
def State.grantedL1 (u : State) (cache line : Nat) (h : Home) : State :=
  match h.serving with
  | some (.shared _) => u.setL1 cache line (if h.st = HomeSt.ho then L1St.e else L1St.s) 0 0
  | _ => u.setL1 cache line .m 0 0

theorem exec_l1Grant (hu : u = s.unfocus) (eh : h = u.homeOf line) (hr : h.requester = cache) (hc : cache < 512)
    (hf : u.filterOpen (cache / 128) line = true) (hs : h.st = .ho ∨ h.st = .hs)
    (hv : h.serving = some (.shared cache) ∨ h.serving = some (.excl cache)) :
    exec (.l1Grant cache line) s = .next ((((u.filterAdd cache line).grantedL1 cache line h).setHome { h with serving := none }).serveAll line) := by
  show execL1Grant cache line s = _
  unfold execL1Grant State.grantedL1
  rw [← hu]
  dsimp only
  rw [← eh, if_pos ⟨hc, hr, hs.elim (fun h => .inr (.inl h)) .inl, hf⟩]
  obtain hv | hv := hv
  · rw [hv]
  · rw [hv]

end Grant

/-- Settles O49: each answer of a cache, a filter or a port, and what the home does with it. -/
theorem cacheAnswers : Obligations.CacheAnswers := by
  unfold Obligations.CacheAnswers
  refine ⟨?_, ?_, ?_, ?_, ?_, ?_, ?_, ?_, ?_, ?_, ?_, ?_, ?_, ?_, ?_⟩
  · intro s u cache line e hu ha hl he hr
    rw [Happens, exec_l1Invalidate hu ha, State.invalidate_dropL1 hl he hr]
  · exact fun s u die line hu ha => exec_snoopFilterMessage hu ha
  · exact fun s u line die hu hd hb => exec_homeInvalidationAck hu hd hb
  · exact fun s line h a id eh hs ha hv => State.takeAck_event eh hs ha hv
  · rintro _ u cache line e rfl hst how hm hl he
    refine congrArg Host.Outcome.next ((State.answerRecall_owned ⟨hst, how, hm⟩ hl).trans ?_)
    rw [he]
    rfl
  · rintro _ u cache line c e rfl hst how hm hl he hv
    refine congrArg Host.Outcome.next ((State.answerRecall_owned ⟨hst, how, hm⟩ hl).trans ?_)
    rw [he, hv]
    rfl
  · rintro _ u t cache line c e rfl hst how hm hl he hv rfl
    refine congrArg Host.Outcome.next ((State.answerRecall_owned ⟨hst, how, hm⟩ hl).trans ?_)
    rw [he, hv]
    rfl
  · exact fun s u t line m hu hm hb hp hs ht hh => exec_homeOwnerBytes hu hm hb hp hs ht hh
  · exact fun s u line m hu hm hb hp hs => exec_homeOwnerBytes_stall hu hm hb hp hs
  · exact fun s u cache line e hu hl he hm => exec_l1PutAck hu hl he hm
  · rintro s _ cache line rfl hs
    exact if_pos hs
  · exact fun s u die line h r hu eh hs ha hh hp hr => exec_mergePortCollapse_home hu eh hs ha hh hp hr
  · exact fun s u t die line h r hu eh hs ha hh hp hr ht => exec_mergePortCollapse_far hu eh hs ha hh hp hr ht
  · intro s u t line pkg die h k hu hb eh hs ha ek et
    have run := exec_homeDiePartial hu hb eh hs ha ek et
    refine ⟨fun hl => ?_, fun hl => ?_⟩
    · rw [Happens, run, State.lastPartial, hl]
      rfl
    · rw [Happens, run, State.lastPartial, hl]
      rfl
  · intro s u cache line h hu eh hr hc hf
    refine ⟨fun hv hs => ?_, fun hv hs => ?_⟩
    · rw [Happens, exec_l1Grant hu eh hr hc hf (.inl hs) (.inr hv), State.grantedL1, hv]
    · rw [Happens, exec_l1Grant hu eh hr hc hf hs (.inl hv), State.grantedL1, hv]

end Sys2Proof.Machine

/-! # Proofs: walks, tickets, invalidations, the collector and revocations (19 R312 to R321) -/

namespace Sys2Proof.Machine

/-! ### Walks -/

section Walks
variable {s u : State} {walk : Nat} {w : Walk}

/-- What the end of a walk does with what it finds. -/
def State.walkEnd (u : State) (w : Walk) : State :=
  match u.walkVia w.die w.ctx w.va with
  | .leaf l => ((u.cacheTables w).cacheLeaf w l).walkFree w.id
  | .bad c k => (u.cacheTables w).walkFault w c k

theorem exec_translationWalkEnd (hu : u = s.unfocus) (hw : u.walks.find? (·.id == walk) = some w) (hr : u.walkRuns w = true) :
    exec (.translationWalkEnd walk) s = .next (u.walkEnd w) := by
  show execTranslationWalkEnd walk s = _
  unfold execTranslationWalkEnd State.walkEnd
  rw [← hu]
  dsimp only
  rw [hw]
  dsimp only
  rw [hr, if_neg nofun]
  cases u.walkVia w.die w.ctx w.va
  · rfl
  · rfl

end Walks

/-! ### Invalidations -/

section Invalidate
variable {s u : State}

theorem State.invalidateTlb_busy (h : u.tlbBusy = true) {p : Tlb → Bool} {r : WalkEnt → Bool} : u.invalidateTlb p r = u.tlbStat 1 := if_pos h

theorem State.tlbBusy_tlbStat_zero (s : State) : (s.tlbStat 0).tlbBusy = true := by
  unfold State.tlbBusy State.tlbStat
  rw [State.setCsr_same, BitVec.getLsbD_or, show (w32 (2 ^ 0)).getLsbD 0 = true from rfl, Bool.or_true]

/-- What an invalidation leaves in a list of translations, or of entries of the walk caches, is not among those that it names. -/
theorem false_of_mem_filter_not {α : Type} {p : α → Bool} {l : List α} {x : α} (h : x ∈ l.filter (fun x => !p x)) : p x = false :=
  (Bool.not_eq_true' _).mp (List.mem_filter.mp h).2

theorem State.invalidateTlb_spec (h : u.tlbBusy = false) (p : Tlb → Bool) (r : WalkEnt → Bool) : (u.invalidateTlb p r).tlbBusy = true ∧
    (∀ t ∈ (u.invalidateTlb p r).tlb, p t = false) ∧ ∀ e ∈ (u.invalidateTlb p r).walkCache, r e = false := by
  unfold State.invalidateTlb
  rw [h, if_neg Bool.false_ne_true]
  exact ⟨State.tlbBusy_tlbStat_zero _, fun t ht => false_of_mem_filter_not ht, fun e he => false_of_mem_filter_not he⟩

theorem exec_tlbinvDrain_busy (hu : u = s.unfocus) (hb : u.tlbBusy = true) (ctx va : Nat) :
    exec (.tlbinvDrain ctx va) s = .next (u.tlbStat 1) := by
  show execTlbinvDrain ctx va s = _
  unfold execTlbinvDrain
  rw [← hu]
  exact if_pos hb

theorem exec_tlbinvDrain (hu : u = s.unfocus) (hb : u.tlbBusy = false) {ctx va : Nat} {ls : List Leaf}
    (hl : ls = (u.tlb.filter (fun t => t.covers ctx va)).map (·.leaf) ++ (match u.walkOf ctx va with | .leaf l => [l] | .bad _ _ => [])) :
    exec (.tlbinvDrain ctx va) s = .next { (u.drainLines (fun n => ls.any (fun l => l.hasLine n))).invalidateTlb (fun t => t.covers ctx va)
      (fun e => e.onPath ctx va) with draining := ls } := by
  show execTlbinvDrain ctx va s = _
  unfold execTlbinvDrain
  rw [← hu, hl]
  exact if_neg (by rw [hb]; exact Bool.false_ne_true)

theorem exec_tlbinvComplete {t : State} (hu : u = s.unfocus) (hb : u.tlbBusy = true)
    (ht : t = if u.draining.isEmpty then u else u.drainLines (fun n => u.draining.any (fun l => l.hasLine n))) (hd : t.translatedDone = true)
    (he : u.draining = [] ∨ t.emptied (fun n => u.draining.any (fun l => l.hasLine n)) = true) :
    exec .tlbinvComplete s = .next { t.setCsr 0 0x808B (t.csr 0 0x808B &&& ~~~1) with draining := [] } := by
  have emptied : t.draining.isEmpty = true ∨ t.emptied (fun n => u.draining.any (fun l => l.hasLine n)) = true := by
    refine he.imp_left fun h => ?_
    rw [ht, if_pos (by rw [h]; rfl), h]
    rfl
  show execTlbinvComplete s = _
  unfold execTlbinvComplete
  rw [← hu]
  dsimp only
  rw [hb, if_neg (nofun : ¬ (!true) = true), ← ht]
  exact if_pos ⟨hd, emptied⟩

end Invalidate

/-! ### Tickets -/

section Tickets
variable {s u : State} {n : Nat}

theorem exec_tkcmd_none (hu : u = s.unfocus) (h : u.tickets.any (·.num == n) = false) :
    exec (.tkcmdMapped n) s = .next (u.tlbStat 2) ∧ exec (.tkcmdDenied n) s = .next (u.tlbStat 2) := by
  subst hu
  exact ⟨if_neg (by rw [h]; exact Bool.false_ne_true), if_neg (by rw [h]; exact Bool.false_ne_true)⟩

end Tickets

/-! ### The collector and revocations -/

section Revoke
variable {s u : State}

theorem State.pubs_noteFull (s : State) : s.noteFull.pubs = s.pubs := by
  unfold State.noteFull
  split
  · rfl
  · split
    · rfl
    · rfl

theorem State.pubs_reclaim_subset (s : State) (line : Nat) : ∀ p ∈ (s.reclaim line).pubs, p ∈ s.pubs := by
  intro p hp
  unfold State.reclaim at hp
  rw [State.pubs_noteFull] at hp
  exact List.mem_of_mem_filter hp

/-- Is a launch's kernel snapshot one that a revocation takes? -/
def Launch.revocable (l : Launch) (st : Stamp) (p : Nat → Bool) : Bool :=
  l.snapOn && p l.ctx && (match l.k with | some k => k.le st | none => false)

theorem State.launches_revoke (s : State) (st : Stamp) (p : Nat → Bool) :
    (s.revoke st p).launches = modAll (fun l => l.revocable st p) (fun l => { l with revoked := true }) s.launches := rfl

theorem State.revoked_of_mem_revoke {st : Stamp} {p : Nat → Bool} {l : Launch} (hl : l ∈ (s.revoke st p).launches)
    (h : l.revocable st p = true) : l.revoked = true := by
  rw [State.launches_revoke, modAll] at hl
  obtain ⟨m, -, hm⟩ := List.mem_map.mp hl
  by_cases hr : m.revocable st p = true
  · rw [if_pos hr] at hm
    rw [← hm]
  · rw [if_neg hr] at hm
    exact absurd (hm ▸ h) hr

theorem exec_versionStoreFullTimeout {t : Nat} {st : Stamp} (hu : u = s.unfocus) (hf : u.vsFullSince = some t) (ho : u.oldestRevocable = some st)
    (ht : t + 10000 ≤ u.now) (hs : u.storeFull = true) :
    exec .versionStoreFullTimeout s = .next { (u.sendRevocation st).revoke st (fun _ => true) with vsFullSince := some u.now } := by
  show execVersionStoreFullTimeout s = _
  unfold execVersionStoreFullTimeout
  rw [← hu]
  dsimp only
  rw [hf, ho]
  exact if_pos ⟨ht, hs⟩

theorem exec_snapshotAgeLimit (hu : u = s.unfocus) (h : 2 ^ 40 < u.now) :
    exec .snapshotAgeLimit s = .next (u.revoke ⟨u.now - 2 ^ 40 - 1, 65535⟩ (fun tag => (u.csr (1 + tag) 0x8082).getLsbD 0)) := by
  show execSnapshotAgeLimit s = _
  unfold execSnapshotAgeLimit
  rw [← hu]
  exact if_neg (not_le.mpr h)

theorem exec_snapshotRevocation {st : Stamp} {m : FabIn} (hu : u = s.unfocus) (hm : u.inbox.find? (fun m => m.body == .revoke st) = some m) :
    exec (.snapshotRevocation st) s =
      .next ((({ u with inbox := u.inbox.erase m } : State).toPort m.src m.req none .ack).revoke st (fun _ => true)) := by
  show execSnapshotRevocation st s = _
  unfold execSnapshotRevocation
  rw [← hu]
  dsimp only
  rw [hm]

end Revoke

/-- Settles O50: the ends of walks, the invalidations, the answers to tickets, the collector and the revocations. -/
theorem translationAndVersions : Obligations.TranslationAndVersions := by
  unfold Obligations.TranslationAndVersions
  refine ⟨?_, ?_, ?_, ?_, ?_, ?_, ?_, ?_, ?_, ?_, ?_, ?_, ?_, ?_⟩
  · intro s u walk w hu hw hr
    refine ⟨fun l hl => ?_, fun c k hk => ?_⟩
    · rw [Happens, exec_translationWalkEnd hu hw hr, State.walkEnd, hl]
    · rw [Happens, exec_translationWalkEnd hu hw hr, State.walkEnd, hk]
  · rintro s _ rfl hb
    exact ⟨fun ctx va => rfl, fun ctx => rfl, rfl, fun ctx va ls hl => exec_tlbinvDrain rfl hb hl⟩
  · rintro s _ rfl hb
    exact ⟨fun ctx va => ⟨congrArg Host.Outcome.next (State.invalidateTlb_busy hb), exec_tlbinvDrain_busy rfl hb ctx va⟩,
      congrArg Host.Outcome.next (State.invalidateTlb_busy hb)⟩
  · exact fun u p r h => State.invalidateTlb_spec h p r
  · exact fun s u t hu hb ht hd he => exec_tlbinvComplete hu hb ht hd he
  · rintro s _ n _ rfl hn rfl
    exact if_pos hn
  · rintro s _ _ n _ rfl hn rfl rfl
    exact if_pos hn
  · exact fun s u n hu hn => exec_tkcmd_none hu hn
  · exact fun s line => rfl
  · exact fun s line => s.pubs_reclaim_subset line
  · exact fun s u t st hu hf ho ht hs => exec_versionStoreFullTimeout hu hf ho ht hs
  · exact fun s u hu h => exec_snapshotAgeLimit hu h
  · exact fun s u st m hu hm => exec_snapshotRevocation hu hm
  · intro s st p l hl hs hp hk
    obtain ⟨k, hk, hle⟩ := hk
    refine State.revoked_of_mem_revoke hl ?_
    rw [Launch.revocable, hs, hp, hk]
    exact hle

end Sys2Proof.Machine

/-! # Proofs: contexts and stops (18 R301 to R306, 23 R362 to R364) -/

namespace Sys2Proof.Machine

/-! ### Commands on a context -/

section Commands
variable {s u t : State} {ctx : Nat} {c : Ctx}

/-- What CTXCMD save does with a context that is known. -/
theorem exec_ctxcmdSave (hu : u = s.unfocus.needCtx ctx) (hc : u.ctxOf ctx = some c)
    (ht : t = u.modCtx ctx (fun c => { c with
      st := 2, result := 0, graceEnd := u.now + (u.csr (1 + ctx) 0x8047).toNat * 1000, saved := Saved.none_ })) :
    exec (.ctxcmdSave ctx) s =
      if c.st ≠ 1 then .next (u.setResult ctx 2)
      else if (u.csr (1 + ctx) 0x8045).toNat < u.ctxNeed ctx then .next (u.setResult ctx 1)
      else .next ((((t.preemptMccs ctx).stowHuddles ctx).saveSquads ctx).finishSave ctx) := by
  show execCtxcmdSave ctx s = _
  unfold execCtxcmdSave
  rw [← hu, ht]
  dsimp only
  rw [hc]

/-- The segments that the save area of a context holds. -/
def State.savedArea (u : State) (ctx : Nat) (c : Ctx) : List (Nat × Piece) :=
  placeSegs 0 (c.saved.area u.launches (u.stopSlots ctx) ctx u.now)

/-- The poison of the package once the area's bytes are back in the scratchpads of its teams. -/
def State.restoredPoison (u : State) (ctx : Nat) (c : Ctx) : List Poison :=
  u.poison.filter (fun p => !(decide (2 ^ 61 ≤ p.gran) && (c.saved.teams.map (·.id)).contains ((p.gran - 2 ^ 61) / 2 ^ 14))) ++
    (u.savedArea ctx c).flatMap (u.loadPoison (u.saveBase ctx))

/-- What CTXCMD restore does with a context that is known. -/
theorem exec_ctxcmdRestore {v : Saved} (hu : u = s.unfocus.needCtx ctx) (hc : u.ctxOf ctx = some c)
    (hv : v = (u.savedArea ctx c).foldl (fun v g => u.loadSeg (u.saveBase ctx) g v) c.saved)
    (ht : t = ({ u with poison := u.restoredPoison ctx c } : State).modCtx ctx
      (fun c => { c with st := 4, result := 0, saved := v, toPlace := v.clusters })) :
    exec (.ctxcmdRestore ctx) s =
      if c.st ≠ 3 then .next (u.setResult ctx 2)
      else if !u.areaOk (u.saveBase ctx) (u.savedArea ctx c) then .next (u.setResult ctx 3)
      else .next (if t.slotFor ctx then t.takeSlot ctx else t) := by
  show execCtxcmdRestore ctx s = _
  unfold execCtxcmdRestore
  rw [← hu, ht, hv]
  dsimp only
  rw [hc]
  rfl

end Commands

/-! ### A save goes on, a restore finds its place -/

section SaveRestore
variable {s u t : State} {ctx : Nat}

theorem exec_graceWindowClose {c : Ctx} (hu : u = s.unfocus) (hc : u.ctxOf ctx = some c) (hs : c.st = 2) (hg : c.graceEnd ≤ u.now) :
    exec (.graceWindowClose ctx) s = .next ((u.saveSquads ctx).finishSave ctx) := by
  show execGraceWindowClose ctx s = _
  unfold execGraceWindowClose
  rw [← hu]
  dsimp only
  rw [hc]
  exact if_pos ⟨hs, hg⟩

theorem exec_teamSaveRecord {team : Nat} {m : Team} (hu : u = s.unfocus) (hm : u.teams.find? (·.id == team) = some m)
    (hs : u.teamSavable m = true) : exec (.teamSaveRecord team) s = .next ((u.stowTeam m).finishSave m.ctx) := by
  show execTeamSaveRecord team s = _
  unfold execTeamSaveRecord
  rw [← hu]
  dsimp only
  rw [hm]
  exact if_pos hs

theorem exec_contextRestorePlace {olds : List Nat} (hu : u = s.unfocus) (hr : u.restorable ctx = some (olds, t)) (hc : u.waysClear t = true) :
    exec (.contextRestorePlace ctx) s = .next (((t.squads.filter (fun q => !u.squads.any (·.id == q.id))).map (·.id)).foldl State.retest
      (((t.takeSlot ctx).failSaved).unlist ctx olds)) := by
  have found : (u.restorable ctx).bind (fun p => if p.1 == olds then some p.2 else none) = some t := by
    rw [hr]
    exact if_pos (beq_self_eq_true olds)
  show execContextRestorePlace ctx s = _
  unfold execContextRestorePlace
  rw [← hu]
  dsimp only
  rw [hr]
  dsimp only
  rw [State.whenClear_clear (f := fun u => (u.restorable ctx).bind fun p => if p.1 == olds then some p.2 else none) found hc]

end SaveRestore

/-! ### Stops -/

section Stop
variable {s u t : State} {ctx : Nat} {c : Ctx}

/-- A stop command acts on a resident context; on another it only says so. -/
theorem State.stopOn_eq {f : State → State} (hu : u = s.unfocus.needCtx ctx) (hc : u.ctxOf ctx = some c)
    (ht : t = u.modCtx ctx (fun k => { k with badstate := !(c.st == 1) })) : s.stopOn ctx f = if c.st = 1 then f t else t := by
  unfold State.stopOn
  rw [← hu, ht]
  dsimp only
  rw [hc]
  by_cases h : c.st = 1
  · rw [if_pos h]
    exact if_pos (beq_iff_eq.mpr h)
  · rw [if_neg h]
    exact if_neg fun g => h (beq_iff_eq.mp g)

theorem exec_stopComplete {team : Nat} {m : Team} (hu : u = s.unfocus) (hm : u.teams.find? (·.id == team) = some m) (hs : m.stopping = true)
    (hq : u.squads.all (fun q => q.team != m.id || q.st == .halted || q.st == .exiting) = true)
    (ht : t = { u.modTeam m.id (fun v => { v with stopping := false, halted := true }) with
      stopWait := u.stopWait ++ [⟨m.ctx, m.id, u.stopBytes m⟩]
      free := u.free + 32 }) :
    exec (.stopComplete team) s = .next (t.flushStop m.ctx t.stopWait.length) := by
  show execStopComplete team s = _
  unfold execStopComplete
  rw [← hu, ht]
  dsimp only
  rw [hm]
  exact if_pos ⟨hs, hq⟩

theorem State.stopReq_of_mem_stopTeam {m : Team} (hs : m.stopping = false) (hh : m.halted = false) (he : m.exited = false) {q : Squad}
    (hq : q ∈ (u.stopTeam m).squads) (ht : q.team = m.id) (hst : q.st ≠ .exiting) : q.stopReq = true := by
  rw [State.stopTeam, hs, hh, he, if_neg (by decide)] at hq
  obtain ⟨k, -, rfl⟩ := List.mem_map.mp hq
  by_cases hk : (k.team == m.id && k.st != .exiting) = true
  · rw [if_pos hk]
  · rw [if_neg hk] at ht hst
    exact absurd (by rw [ht]; simpa using hst) hk

end Stop

/-- Settles O51: the commands on contexts, what carries a save on and a restore to its place, and what a kill leaves. -/
theorem contexts : Obligations.Contexts := by
  unfold Obligations.Contexts
  refine ⟨?_, ?_, ?_, ?_, ?_, ?_⟩
  · intro s u ctx c hu hc
    have save := exec_ctxcmdSave hu hc rfl
    have restore := exec_ctxcmdRestore hu hc rfl rfl
    refine ⟨fun h => ?_, fun h hn => ?_, fun h hn t ht => ?_, fun h => ?_, fun h ha => ?_, fun h ha v t hv ht => ?_⟩
    · exact save.trans (if_pos h)
    · exact save.trans ((if_neg (not_not.mpr h)).trans (if_pos hn))
    · rw [← ht] at save
      exact save.trans ((if_neg (not_not.mpr h)).trans (if_neg (not_lt.mpr hn)))
    · exact restore.trans (if_pos h)
    · exact restore.trans ((if_neg (not_not.mpr h)).trans (if_pos (by rw [State.savedArea, ha]; rfl)))
    · have run := exec_ctxcmdRestore hu hc hv ht
      exact run.trans ((if_neg (not_not.mpr h)).trans (if_neg (by rw [State.savedArea, ha]; exact Bool.false_ne_true)))
  · exact fun s u ctx c hu hc hs hg => exec_graceWindowClose hu hc hs hg
  · exact fun s u team m hu hm hs => exec_teamSaveRecord hu hm hs
  · exact fun s u t ctx olds hu hr hc => exec_contextRestorePlace hu hr hc
  · rintro s _ _ ctx rfl rfl
    rfl
  · exact fun s ctx => ⟨fun q hq => bne_iff_ne.mp (List.mem_filter.mp hq).2, fun m hm => bne_iff_ne.mp (List.mem_filter.mp hm).2,
      fun l hl => bne_iff_ne.mp (List.mem_filter.mp hl).2, fun c hc => bne_iff_ne.mp (List.mem_filter.mp hc).2,
      fun h hh => bne_iff_ne.mp (List.mem_filter.mp hh).2⟩

/-- Settles O52: the stop commands on a resident and on another context, the end of a stop, and whom it asks. -/
theorem stops : Obligations.Stops := by
  unfold Obligations.Stops
  refine ⟨?_, ?_, ?_⟩
  · intro s u t ctx team c hu hc ht
    have act : ∀ f : State → State, s.stopOn ctx f = if c.st = 1 then f t else t := fun f => State.stopOn_eq hu hc ht
    exact ⟨fun h => ⟨congrArg Host.Outcome.next ((act _).trans (if_pos h)), congrArg Host.Outcome.next ((act _).trans (if_pos h)),
        congrArg Host.Outcome.next ((act _).trans (if_pos h))⟩,
      fun h => ⟨congrArg Host.Outcome.next ((act _).trans (if_neg h)), congrArg Host.Outcome.next ((act _).trans (if_neg h)),
        congrArg Host.Outcome.next ((act _).trans (if_neg h))⟩⟩
  · exact fun s u t team m hu hm hs hq ht => exec_stopComplete hu hm hs hq ht
  · exact fun u m hs hh he q hq ht hst => State.stopReq_of_mem_stopTeam hs hh he hq ht hst

end Sys2Proof.Machine

/-! # Proofs: fabric messages, retransmission, beacons and level reports (20 R324 to R330, R334) -/

namespace Sys2Proof.Machine

/-! ### Which messages are accepted -/

section Accept
variable {u : State} {m : Seal}

theorem State.accept_late (hg : u.gens.contains m.gen = false) (hd : m.gen < u.domGen) : u.accept m = (false, u.bump 0x824C 1) :=
  if_pos ⟨by rw [hg]; rfl, hd⟩

/-- Not of a late generation, and not sealed as a member's message of a held one: counted as unsealed. -/
theorem State.accept_unsealed (hd : u.gens.contains m.gen = true ∨ u.domGen ≤ m.gen)
    (h : m.tagOk = false ∨ u.gens.contains m.gen = false ∨ u.peers.any (·.idx == m.src) = false) : u.accept m = (false, u.bump 0x824B 1) := by
  refine (if_neg fun g => ?_).trans (if_pos (h.imp (fun h => ?_) fun h => h.imp (fun h => ?_) fun h => ?_))
  · obtain hd | hd := hd
    · rw [hd] at g
      exact absurd g.1 nofun
    · exact absurd g.2 (not_lt.mpr hd)
  all_goals
    rw [h]
    rfl

/-- The window of a message's source, channel and generation takes its number. -/
def State.noteSeq (u : State) (m : Seal) : State :=
  let w := (u.window m.src m.vc m.gen).take m.seq
  { u with windows := upsert (fun v => v.src == m.src && v.vc == m.vc && v.gen == m.gen) w u.windows }

/-- What the verdict on a message's number does. -/
def State.judged (u : State) (m : Seal) : Verdict → Bool × State
  | .old => (false, u.bump 0x8248 1)
  | .replayed => (false, u.bump 0x8249 1)
  | .accept gap => (true, (u.noteSeq m).bump 0x824A gap)

/-- A sealed message is judged by the window of its source, channel and generation. -/
theorem State.accept_sealed (hg : u.gens.contains m.gen = true) (ht : m.tagOk = true) (hp : u.peers.any (·.idx == m.src) = true) :
    u.accept m = u.judged m ((u.window m.src m.vc m.gen).judge m.seq) := by
  refine (if_neg fun g => ?_).trans ((if_neg ?_).trans ?_)
  · rw [hg] at g
    exact absurd g.1 nofun
  · rw [hg, ht, hp]
    decide
  · dsimp only
    cases (u.window m.src m.vc m.gen).judge m.seq
    · rfl
    · rfl
    · rfl

theorem Window.judge_replayed {w : Window} {n : Nat} (hs : n ∈ w.seen) (hn : n ≤ w.hi) (hw : w.hi < n + 1024) : w.judge n = .replayed := by
  unfold Window.judge
  rw [if_neg (not_lt.mpr hn), if_neg (not_le.mpr hw)]
  exact if_pos (List.contains_iff_mem.mpr hs)

theorem Window.judge_old {w : Window} {n : Nat} (h : n + 1024 ≤ w.hi) : w.judge n = .old := by
  unfold Window.judge
  rw [if_neg (by omega), if_pos h]

end Accept

/-! ### What an accepted message does -/

section Deliver
variable {s u t : State} {src vc gen seq req : Nat} {ok : Bool} {b : FabBody}

theorem exec_fabricMessageReceive_not (hu : u = s.unfocus) (ha : u.accept ⟨src, vc, gen, seq, ok⟩ = (false, t)) :
    exec (.fabricMessageReceive src vc gen seq req ok b) s = .next t := by
  show execFabricMessageReceive src vc gen seq req ok b s = _
  unfold execFabricMessageReceive
  rw [← hu]
  dsimp only
  rw [ha]

theorem exec_fabricMessageReceive (hu : u = s.unfocus) (ha : u.accept ⟨src, vc, gen, seq, ok⟩ = (true, t)) :
    exec (.fabricMessageReceive src vc gen seq req ok b) s =
      if !b.asks then .next (t.deliver src req b)
      else if t.performed.contains (src + 64 * gen, req) then .next (t.answerAgain src req)
      else .next (({ t with performed := t.performed ++ [(src + 64 * gen, req)] } : State).deliver src req b) := by
  show execFabricMessageReceive src vc gen seq req ok b s = _
  unfold execFabricMessageReceive
  rw [← hu]
  dsimp only
  rw [ha]

section Home
variable {line : Nat} (h : homePkg line = u.pkgIdx)
include h

theorem State.deliver_bytes : u.deliver src req (.bytes line) = u.toPort src req none
    (.data line Stamp.zero none Stamp.zero ((List.range 128).map (fun i => u.byteAt none (line * 128 + i)))) :=
  if_pos (beq_iff_eq.mpr h)

theorem State.deliver_read : u.deliver src req (.read line none) = u.arrive line (.shared (farCache src req)) :=
  if_pos (beq_iff_eq.mpr h)

theorem State.deliver_readAt {t : Stamp} : u.deliver src req (.read line (some t)) =
    if u.readEnds line t then u.arrive line (.read (farCache src req) t) else u.sendData line (farCache src req) (some t) :=
  if_neg (by show ¬ (!(homePkg line == u.pkgIdx)) = true; rw [beq_iff_eq.mpr h]; exact Bool.false_ne_true)

theorem State.deliver_merge {b : List (Nat × Byte)} : u.deliver src req (.merge line b) = (u.mergeHome line b).toPort src req none .ack :=
  if_pos (beq_iff_eq.mpr h)

end Home

end Deliver

/-! ### What a port sends, and sends again -/

section Send
variable {s u : State}

theorem State.outbox_toPort (dst req : Nat) (via : Option Nat) (b : FabBody) : (u.toPort dst req via b).outbox = u.outbox ++
    [⟨dst, b.vc, u.domGen, ((u.sendSeq.find? (fun e => e.1 == dst && e.2.1 == b.vc)).map (·.2.2)).getD 0 + 1, req, b, via⟩] := by
  unfold State.toPort
  cases u.sendSeq.find? (fun e => e.1 == dst && e.2.1 == b.vc) with
  | none => rfl
  | some e => rfl

theorem nth_mem {α : Type} (d : α) {l : List α} {i : Nat} (h : i < l.length) : nth d l i ∈ l := by
  induction l generalizing i with
  | nil => exact absurd h (Nat.not_lt_zero i)
  | cons x l ih =>
    cases i with
    | zero => exact List.mem_cons_self
    | succ i => exact List.mem_cons_of_mem x (ih (Nat.lt_of_succ_lt_succ h))

/-- A request goes out again by one of the ports that it has not taken last, if there is one. -/
def State.resendBy (u : State) (r : FabReq) : List Nat → State
  | [] => u
  | p :: l => ({ u with free := u.free + 1 } : State).resend r (some (nth p (p :: l) ((Config.freeWord u.free).toNat % (l.length + 1))))

/-- What the time of an unanswered request does once it is over. -/
theorem exec_fabricRetransmitTimeout {req : Nat} {r : FabReq} (hu : u = s.unfocus) (hr : u.reqs.find? (·.id == req) = some r)
    (hh : r.held = false) (hs : r.sent + 20000 ≤ u.now) :
    exec (.fabricRetransmitTimeout req) s =
      if r.attempts < 4 then .next (u.resend r none)
      else .next (u.resendBy r ((u.portsTo r.dst).filter (fun p => some p != r.via))) := by
  show execFabricRetransmitTimeout req s = _
  unfold execFabricRetransmitTimeout
  rw [← hu]
  dsimp only
  rw [hr]
  dsimp only
  rw [if_neg (by rw [hh]; exact fun h => h.elim nofun (not_lt.mpr hs))]
  cases (u.portsTo r.dst).filter (fun p => some p != r.via)
  · rfl
  · rfl

end Send

/-! ### Ports -/

section Ports
variable {s u : State} {port : Nat}

theorem exec_flitCrcReplay (hu : u = s.unfocus) (hp : port < 18) : exec (.flitCrcReplay port) s = .next (u.bump (0x8220 + port) 1) := by
  show execFlitCrcReplay port s = _
  unfold execFlitCrcReplay
  rw [← hu]
  exact if_neg (not_le.mpr hp)

theorem exec_portLinkDown (hu : u = s.unfocus) (hp : port < 18) : exec (.portLinkDown port) s =
    .next { u.setCsr 0 (0x8200 + port) (fpstat 0 0 (u.isPcie port) false false &&& ~~~4) with links := u.links.filter (·.1 != port) } := by
  show execPortLinkDown port s = _
  unfold execPortLinkDown
  rw [← hu]
  exact if_neg (not_le.mpr hp)

theorem exec_portLinkTrained {peer lanes : Nat} (hu : u = s.unfocus) (hp : port < 18) (hl : lanes < 32) (hr : u.running = true) :
    exec (.portLinkTrained port peer lanes) s =
      .next ({ u with links := upsert (·.1 == port) (port, peer, u.goodLanes port lanes) u.links } : State).showPorts := by
  show execPortLinkTrained port peer lanes s = _
  unfold execPortLinkTrained
  rw [← hu]
  exact if_neg (by rw [hr]; exact fun h => h.elim (not_le.mpr hp) fun h => h.elim (not_le.mpr hl) nofun)

theorem State.portStat_fabric {peer lanes : Nat} (h : u.isPcie port = false) : u.portStat port peer lanes =
    if popc lanes 5 < 2 ∨ !u.peers.any (·.idx == peer) then 0 else fpstat peer lanes false (bit lanes 4) true :=
  if_neg (by rw [h]; exact Bool.false_ne_true)

end Ports

/-! ### Beacons and level barriers -/

section Beacons
variable {s u t : State}

theorem exec_settleBeaconSend (hu : u = s.unfocus.settle) (hr : u.running = true) (hn : u.lastBeacon + u.beaconTicks ≤ u.now) :
    exec .settleBeaconSend s = .next { u.toAll u.beaconNow with lastBeacon := u.now } := by
  show execSettleBeaconSend s = _
  unfold execSettleBeaconSend
  rw [← hu]
  exact if_pos ⟨hr, hn⟩

theorem exec_lbarMemberReport {launch level inst : Nat} {l : Launch} {b : LvlBar} {m : Nat} (hu : u = s.unfocus)
    (hl : u.launchOf launch = some l) (hb : b = u.lvlOf launch level inst) (hm : m = u.levelLead l b) (hh : u.levelHere l b ≠ 0) :
    exec (.lbarMemberReport launch level inst) s = .next (if m = u.pkgIdx then u.testLevels l
      else u.demandOnce m 0 (.bar launch level inst b.bar.phase (u.levelHere l b) b.bar.gather)) := by
  show execLbarMemberReport launch level inst s = _
  unfold execLbarMemberReport
  rw [← hu]
  dsimp only
  rw [hl]
  dsimp only
  rw [← hb, if_neg hh, ← hm]
  split
  · rfl
  · rfl

theorem exec_lbarMemberComplete {launch level inst : Nat} {g : Stamp} {m : FabIn} (hu : u = s.unfocus)
    (hm : u.inbox.find? (fun m => m.body == .barDone launch level inst (u.lvlOf launch level inst).bar.phase g) = some m) :
    exec (.lbarMemberComplete launch level inst g) s =
      .next ((({ u with inbox := u.inbox.erase m } : State).toPort m.src m.req none .ack).farComplete launch level inst g) := by
  show execLbarMemberComplete launch level inst g s = _
  unfold execLbarMemberComplete
  rw [← hu]
  dsimp only
  rw [hm]

end Beacons

/-- Settles O53: which messages are accepted, what they do, what is sent again, and the beacons and reports of the members. -/
theorem fabricMessages : Obligations.FabricMessages := by
  unfold Obligations.FabricMessages
  refine ⟨?_, ?_, ?_, ?_, ?_, ?_, ?_, ?_, ?_, ?_, ?_, ?_, ?_, ?_, ?_⟩
  · intro u m
    refine ⟨State.accept_late, fun hg hd => State.accept_unsealed (.inr hd) (.inr (.inl hg)), fun hg ht => State.accept_unsealed (.inl hg) (.inl ht),
      fun hg hp => State.accept_unsealed (.inl hg) (.inr (.inr hp)), fun hg ht hp => ⟨fun hj => ?_, fun hj => ?_, fun gap w hj hw => ?_⟩⟩
    · rw [State.accept_sealed hg ht hp, hj]
      rfl
    · rw [State.accept_sealed hg ht hp, hj]
      rfl
    · rw [State.accept_sealed hg ht hp, hj, hw]
      rfl
  · intro s u t src vc gen seq req ok b hu
    refine ⟨exec_fabricMessageReceive_not hu, fun ha => ⟨fun hb => ?_, fun hb hp => ?_, fun hb hp => ?_⟩⟩
    · rw [Happens, exec_fabricMessageReceive hu ha, hb]
      rfl
    · rw [Happens, exec_fabricMessageReceive hu ha, hb, hp]
      rfl
    · rw [Happens, exec_fabricMessageReceive hu ha, hb, hp]
      rfl
  · rintro u dst req _ via b rfl
    exact ⟨State.outbox_toPort dst req via b, rfl⟩
  · intro u src req line h
    refine ⟨State.deliver_bytes h, State.deliver_read h, fun t ht => ?_, fun t ht => ?_, fun b => State.deliver_merge h⟩
    · rw [State.deliver_readAt h, ht]
      rfl
    · rw [State.deliver_readAt h, ht]
      rfl
  · exact fun u src req line st h => ⟨if_pos h, if_pos h⟩
  · exact fun w n hs hn hw => Window.judge_replayed hs hn hw
  · exact fun w n h => Window.judge_old h
  · intro s u req r hu hr hh hs
    have run := exec_fabricRetransmitTimeout hu hr hh hs
    refine ⟨fun h => run.trans (if_pos h), fun h hp => ?_, fun h hp => ?_⟩
    · rw [if_neg (not_lt.mpr h)] at run
      cases he : (u.portsTo r.dst).filter (fun p => some p != r.via) with
      | nil => exact absurd he hp
      | cons p l =>
        rw [he] at run
        have mem := nth_mem p (l := p :: l) (Nat.mod_lt (Config.freeWord u.free).toNat l.length.succ_pos)
        rw [← he] at mem
        obtain ⟨hmem, hvia⟩ := List.mem_filter.mp mem
        rw [he] at hmem hvia
        exact ⟨_, hmem, bne_iff_ne.mp hvia, run⟩
    · rw [if_neg (not_lt.mpr h), hp] at run
      exact run
  · exact fun s u port hu hp => ⟨exec_flitCrcReplay hu hp, exec_portLinkDown hu hp⟩
  · intro s u port peer lanes hu hp hl hr
    refine ⟨exec_portLinkTrained hu hp hl hr, fun hi h2 hk => ?_, fun hi hk => ?_⟩
    · rw [State.portStat_fabric hi, hk]
      exact if_neg fun h => h.elim (not_lt.mpr h2) nofun
    · rw [State.portStat_fabric hi, hk]
      exact if_pos (.inr rfl)
  · exact fun s u hu hr hn => exec_settleBeaconSend hu hr hn
  · rintro s u t b _ rfl rfl
    refine ⟨fun ha => ?_, fun ha => ?_⟩
    · show Host.Outcome.next (State.accepted _ _ _ _) = _
      rw [State.accepted, ha]
      rfl
    · show Host.Outcome.next (State.accepted _ _ _ _) = _
      rw [State.accepted, ha]
      rfl
  · exact fun s => rfl
  · exact fun s u launch level inst l b m hu hl hb hm hh => exec_lbarMemberReport hu hl hb hm hh
  · exact fun s u launch level inst g m hu hm => exec_lbarMemberComplete hu hm

end Sys2Proof.Machine

/-! # Proofs: admission, eviction and the change of membership (20 R330, R331, R340 to R343) -/

namespace Sys2Proof.Machine

/-! ### Eviction -/

section Evict
variable {s u : State}

theorem exec_beaconSilenceEvict {i : Nat} (hu : u = s.unfocus) (hc : u.coordinates = true) (hs : u.silentOk i = true)
    (hp : u.peers.any (fun p => p.idx == i && decide (p.seen + 16 * u.beaconTicks ≤ u.now)) = true) :
    exec (.beaconSilenceEvict i) s = .next (u.evictMember i) := by
  show execBeaconSilenceEvict i s = _
  unfold execBeaconSilenceEvict
  rw [← hu]
  exact if_pos ⟨hc, hs, hp⟩

theorem exec_bridgeSilenceTakeover (hu : u = s.unfocus) (hb : u.bridge = false) (hs : u.silentOk 0 = true)
    (hp : u.peers.any (fun p => p.idx == 0 && decide (p.seen + 16 * u.beaconTicks ≤ u.now)) = true)
    (hm : (u.members.filter (· != 0)).head? = some u.pkgIdx) : exec .bridgeSilenceTakeover s = .next (u.evictMember 0) := by
  show execBridgeSilenceTakeover s = _
  unfold execBridgeSilenceTakeover
  rw [← hu]
  exact if_pos ⟨by rw [hb]; rfl, hs, hp, hm⟩

end Evict

/-! ### A change begins -/

section Begin
variable {s u v t : State} {gen : Nat} {set : NewSet}

/-- What BEGIN does at a member that accepts it. -/
def State.beginChange (gen : Nat) (set : NewSet) (v : State) : State :=
  let w := (set.lost.filter (fun i => v.peers.any (·.idx == i))).foldl State.dropMember v
  let c : Change := ⟨gen, sortNat set.members, [], false, set.lost, (w.change.map (·.since)).getD w.now, false⟩
  (({ w with change := some c, reqs := w.reqs.filter (fun r => !r.body.ofChange) } : State).takeKeys gen set.keys).handBack c

theorem exec_membershipBegin (hu : u = s.unfocus) (hc : u.change.all (fun c => c.gen == gen) = true)
    (hg : u.joining = true ∨ gen = u.domGen + 1) :
    exec (.membershipBegin gen set) s = .next (u.accepted set.sealing u.joining (State.beginChange gen set)) := by
  show execMembershipBegin gen set s = _
  unfold execMembershipBegin
  rw [← hu]
  exact if_pos ⟨hc, hg⟩

theorem State.accepted_session {m : Seal} {go : State → State} : u.accepted m true go = go u := rfl

theorem State.accepted_true {m : Seal} {go : State → State} (h : u.accept m = (true, v)) : u.accepted m false go = go v := by
  unfold State.accepted
  rw [h]
  rfl

theorem State.accepted_false {m : Seal} {go : State → State} (h : u.accept m = (false, v)) : u.accepted m false go = v := by
  unfold State.accepted
  rw [h]
  rfl

end Begin

/-! ### A member is ready, and the switch -/

section Ready
variable {s u t : State} {m : Seal} {c : Change}

/-- This member says that it is ready once nothing of it is outstanding. -/
def State.sayReady (t : State) (c : Change) : State :=
  { (if t.coordinates then t else t.demand t.coordinator 0 (.ready c.gen)) with
    change := some { c with localReady := true }, gens := sortNat (c.gen :: t.gens) }

theorem exec_membershipReady_own (hu : u = s.unfocus) (hc : u.change = some c) (hi : m.src = u.pkgIdx) (hl : c.localReady = false)
    (ht : t = u.handBack c) :
    exec (.membershipReady m) s = if t.drained = true ∧ t.handedBack c = true then .next (t.sayReady c) else .next t := by
  show execMembershipReady m s = _
  unfold execMembershipReady
  rw [← hu]
  dsimp only
  rw [hc]
  dsimp only
  rw [if_pos hi, hl, ← ht]
  rfl

theorem exec_membershipReady_far (hu : u = s.unfocus) (hc : u.change = some c) (hi : m.src ≠ u.pkgIdx) (ho : u.coordinates = true)
    (hm : c.members.contains m.src = true) (hr : c.ready.contains m.src = false) (hp : u.peers.any (·.idx == m.src) = true) :
    exec (.membershipReady m) s = .next (u.accepted m false (fun t => { t with
      change := some { c with ready := c.ready ++ [m.src] }
      reqs := t.reqs.filter (fun r => !(r.dst == m.src && r.body.ofChange)) })) := by
  show execMembershipReady m s = _
  unfold execMembershipReady
  rw [← hu]
  dsimp only
  rw [hc]
  dsimp only
  rw [if_neg hi, hp]
  exact if_pos ⟨ho, hm, by rw [hr]; rfl⟩

theorem exec_membershipSwitch (hu : u = s.unfocus) (hc : u.change = some c) (hl : c.localReady = true) :
    exec .membershipSwitch s =
      if u.coordinates = true then
        if c.members.all (fun i => i == u.pkgIdx || c.ready.contains i) = true then
          .next ((u.peers.foldl (fun s p => s.demand p.idx 0 .switch) u).switchTo c)
        else .next u
      else if u.joining = true ∨ c.called = true then .next (u.switchTo c)
      else .next u := by
  show execMembershipSwitch s = _
  unfold execMembershipSwitch
  rw [← hu]
  dsimp only
  rw [hc]
  dsimp only
  rw [hl]
  rfl

theorem State.deliver_switch {req : Nat} (hc : u.change = some c) : u.deliver u.coordinator req .switch =
    ({ u with change := some { c with called := true } } : State).toPort u.coordinator req none .ack := by
  show (u.calledBy u.coordinator).toPort u.coordinator req none .ack = _
  rw [State.calledBy, if_pos rfl, hc]
  rfl

theorem State.holds_request {dst : Nat} {b : FabBody} (hc : u.change ≠ none) (hv : b.vc = 0) (ho : b.ofChange = false)
    (hh : handsOver b = false) : u.holds dst b = true := by
  obtain ⟨c, hc⟩ := Option.ne_none_iff_exists'.mp hc
  unfold State.holds
  rw [hv, ho, hc, hh]
  rfl

end Ready

/-! ### DOMCMD -/

section Domcmd
variable {s u : State}

/-- No DOMCMD acts unless the package is the bridge member and runs. -/
theorem domcmd_acts (hb : u.bridge = true) (hr : u.running = true) : ¬((!u.bridge) = true ∨ (!u.running) = true) := by
  rw [hb, hr]
  decide

theorem exec_domcmdAdmit {member port i : Nat} (hu : u = s.unfocus) (hb : u.bridge = true) (hr : u.running = true) (hc : u.changing = false)
    (hm : u.members.length < 64) (hi : (List.range 64).find? (fun i => !u.members.contains i) = some i) :
    exec (.domcmdAdmit member port) s = .next { u.domResult 0 with spdm := ⟨true, port, 0, 0, i, [], member⟩ } := by
  show execDomcmdAdmit member port s = _
  unfold execDomcmdAdmit
  rw [← hu]
  dsimp only
  rw [if_neg (domcmd_acts hb hr), hc, if_neg Bool.false_ne_true, if_neg (not_le.mpr hm), hi]
  rfl

theorem exec_domcmdAdmit_busy {member port : Nat} (hu : u = s.unfocus) (hb : u.bridge = true) (hr : u.running = true) (hc : u.changing = true) :
    exec (.domcmdAdmit member port) s = .next (u.domResult 4) := by
  show execDomcmdAdmit member port s = _
  unfold execDomcmdAdmit
  rw [← hu]
  exact (if_neg (domcmd_acts hb hr)).trans (if_pos hc)

theorem exec_domcmdRemove_busy {i : Nat} (hu : u = s.unfocus) (hb : u.bridge = true) (hr : u.running = true) (hc : u.changing = true) :
    exec (.domcmdRemove i) s = .next (u.domResult 4) := by
  show execDomcmdRemove i s = _
  unfold execDomcmdRemove
  rw [← hu]
  exact (if_neg (domcmd_acts hb hr)).trans (if_pos hc)

theorem exec_domcmdEvict_busy {i : Nat} (hu : u = s.unfocus) (hb : u.bridge = true) (hr : u.running = true) (hc : u.changing = true) :
    exec (.domcmdEvict i) s = .next (u.domResult 4) := by
  show execDomcmdEvict i s = _
  unfold execDomcmdEvict
  rw [← hu]
  exact (if_neg (domcmd_acts hb hr)).trans (if_pos hc)

theorem exec_domcmdRemove {i : Nat} {t : State} {c : Change} (hu : u = s.unfocus) (hb : u.bridge = true) (hr : u.running = true)
    (hc : u.changing = false) (hp : u.peers.any (·.idx == i) = true) (ht : t = (u.domResult 0).startChange (u.members.filter (· != i)) [])
    (h : t.change = some c) : exec (.domcmdRemove i) s = .next (t.handBack c) := by
  show execDomcmdRemove i s = _
  unfold execDomcmdRemove
  rw [← hu]
  dsimp only
  rw [if_neg (domcmd_acts hb hr), hc, if_neg Bool.false_ne_true, if_pos hp, ← ht, h]

theorem exec_domcmdEvict {i : Nat} (hu : u = s.unfocus) (hb : u.bridge = true) (hr : u.running = true) (hc : u.changing = false)
    (hp : u.peers.any (·.idx == i) = true) : exec (.domcmdEvict i) s = .next ((u.domResult 0).evictMember i) := by
  show execDomcmdEvict i s = _
  unfold execDomcmdEvict
  rw [← hu]
  dsimp only
  rw [if_neg (domcmd_acts hb hr), hc, if_neg Bool.false_ne_true]
  exact if_pos hp

end Domcmd

/-! ### Admission by SPDM -/

section Spdm
variable {s u : State} {n code r : Nat}

theorem State.spdmStep_bridge (hb : u.bridge = true) (ha : u.spdm.active = true) (hs : u.spdm.step = n) :
    u.spdmStep n code = { u with spdm := { u.spdm with step := n + 1 } } := by
  unfold State.spdmStep
  rw [if_pos hb]
  exact if_pos ⟨ha, hs⟩

theorem State.spdmTest_passed : u.spdmTest n code r true = .next (u.spdmStep n code) := if_neg fun h => absurd h.2.2 nofun

theorem State.spdmTest_failed (ha : u.spdm.active = true) (hs : u.spdm.step = n) : u.spdmTest n code r false = .next (u.spdmFail r) :=
  if_pos ⟨ha, hs, rfl⟩

theorem State.unfocus_bridge (s : State) : s.unfocus.bridge = s.bridge := by
  unfold State.unfocus
  cases s.focus with
  | idle => rfl
  | squad => rfl
  | mcc => rfl

/-- The requests that only go on to the next step, with their step and code. -/
theorem exec_spdm_passed {i : Instr} (hu : u = s.unfocus) (hb : u.bridge = true)
    (hi : (i, n) ∈ [(Instr.getVersion, 0), (.getCapabilities, 1), (.getDigests, 3), (.getCertificate true, 4), (.keyExchange true true, 6),
      (.keyExchange false true, 6), (.finish true, 7)]) : ∃ code, exec i s = .next (u.spdmStep n code) := by
  subst hu
  simp only [List.mem_cons, List.not_mem_nil, or_false, Prod.mk.injEq] at hi
  obtain ⟨rfl, rfl⟩ | ⟨rfl, rfl⟩ | ⟨rfl, rfl⟩ | ⟨rfl, rfl⟩ | ⟨rfl, rfl⟩ | ⟨rfl, rfl⟩ | ⟨rfl, rfl⟩ := hi
  · exact ⟨_, rfl⟩
  · exact ⟨_, rfl⟩
  · exact ⟨_, rfl⟩
  · exact ⟨_, State.spdmTest_passed⟩
  · refine ⟨0x64, ?_⟩
    show s.unfocus.spdmTest 6 0x64 1 ((s.bridge || true) && true) = _
    rw [← State.unfocus_bridge s, hb]
    exact State.spdmTest_passed
  · refine ⟨0x64, ?_⟩
    show s.unfocus.spdmTest 6 0x64 1 ((s.bridge || false) && true) = _
    rw [← State.unfocus_bridge s, hb]
    exact State.spdmTest_passed
  · exact ⟨_, State.spdmTest_passed⟩

/-- The responses whose test fails. -/
theorem exec_spdm_failed {i : Instr} (hu : u = s.unfocus) (ha : u.spdm.active = true) (hs : u.spdm.step = n)
    (hi : (i, n) ∈ [(Instr.getCertificate false, 4), (.keyExchange true false, 6), (.keyExchange false false, 6), (.finish false, 7)]) :
    exec i s = .next (u.spdmFail 1) := by
  subst hu
  simp only [List.mem_cons, List.not_mem_nil, or_false, Prod.mk.injEq] at hi
  obtain ⟨rfl, rfl⟩ | ⟨rfl, rfl⟩ | ⟨rfl, rfl⟩ | ⟨rfl, rfl⟩ := hi
  · exact State.spdmTest_failed ha hs
  · show s.unfocus.spdmTest 6 0x64 1 ((_ || _) && false) = _
    rw [Bool.and_false]
    exact State.spdmTest_failed ha hs
  · show s.unfocus.spdmTest 6 0x64 1 ((_ || _) && false) = _
    rw [Bool.and_false]
    exact State.spdmTest_failed ha hs
  · exact State.spdmTest_failed ha hs

/-- The measurements at the bridge member: first the allow-list, then the signature. -/
theorem exec_getMeasurements {ds : List (BitVec 384)} {ok : Bool} (hu : u = s.unfocus) (hb : u.bridge = true) (ha : u.spdm.active = true)
    (hs : u.spdm.step = 5) :
    exec (.getMeasurements ds ok) s =
      if ok = true ∧ (!ds.all u.allowList.contains) = true then .next (u.spdmFail 2) else u.spdmTest 5 0x60 1 ok := by
  show execGetMeasurements ds ok s = _
  unfold execGetMeasurements
  rw [← hu]
  dsimp only
  rw [hb, if_neg (show ¬((!true) = true ∧ u.spdm.active = true ∧ u.spdm.step = 5) from fun h => absurd h.1 nofun)]
  by_cases h : ok = true ∧ (!ds.all u.allowList.contains) = true
  · rw [if_pos h]
    exact if_pos ⟨rfl, ha, hs, h⟩
  · rw [if_neg h]
    exact if_neg fun g => h g.2.2.2

theorem exec_negotiateAlgorithms {l : List Nat} (hu : u = s.unfocus) (hl : sortNat l = [0, 1, 2, 3, 4]) :
    exec (.negotiateAlgorithms l) s = .next (u.spdmStep 2 0x63) := by
  subst hu
  exact if_pos hl

theorem exec_vendorDefinedRequest_bridge {idx off : Nat} (hu : u = s.unfocus) (hb : u.bridge = true) (ha : u.spdm.active = true)
    (hs : u.spdm.step = 8) :
    exec (.vendorDefinedRequest idx off) s = .next ((u.spdmStep 8 0x7E).toPort u.spdm.idx 0 none
      (.vendor u.spdm.idx off (keysFor (u.domGen + 1) u.spdm.idx (sortNat (u.spdm.idx :: u.members))))) := by
  show execVendorDefinedRequest idx off s = _
  unfold execVendorDefinedRequest
  rw [← hu]
  dsimp only
  rw [if_neg (by rw [hb]; exact fun h => absurd h.1 nofun), if_pos ⟨hb, ha, hs⟩]

theorem exec_vendorDefinedRequest_joining {idx off : Nat} (hu : u = s.unfocus) (hb : u.bridge = false) (ha : u.spdm.active = true)
    (hs : u.spdm.step = 8) :
    exec (.vendorDefinedRequest idx off) s =
      .next { u.spdmStep 8 0x7E with spdm := { (u.spdmStep 8 0x7E).spdm with idx := idx }, now := u.now + off } := by
  show execVendorDefinedRequest idx off s = _
  unfold execVendorDefinedRequest
  rw [← hu]
  exact if_pos ⟨by rw [hb]; rfl, ha, hs⟩

theorem exec_endSession {t : State} (hu : u = s.unfocus) (hb : u.bridge = true) (ha : u.spdm.active = true) (hs : u.spdm.step = 9)
    (ht : t = (u.spdmStep 9 0x6C).startChange (u.spdm.idx :: u.members) []) :
    exec .endSession s = .next { t with spdm := { t.spdm with active := false } } := by
  show execEndSession s = _
  unfold execEndSession
  rw [← hu]
  dsimp only
  rw [if_pos ⟨ha, hs⟩, if_pos hb, ht]

theorem exec_getVersion_joining (hu : u = s.unfocus) (hb : u.bridge = false) (hp : u.peers = []) :
    exec .getVersion s = .next { u with spdm := ⟨true, 0, 1, 0, 0, [4], 0⟩ } := by
  subst hu
  show Host.Outcome.next (State.spdmStep _ 0 0x04) = _
  rw [State.spdmStep, hb, hp]
  rfl

theorem State.raiseHirq_spdm (s : State) (k : Nat) : (s.raiseHirq k).spdm = s.spdm := by
  have h := State.raiseHirq_logs s k
  unfold State.Logs at h
  rw [h]

theorem State.csr_raiseHirq (s : State) (k c n : Nat) : (s.raiseHirq k).csr c n = s.csr c n := by
  unfold State.raiseHirq
  split
  · rfl
  · rfl

theorem State.spdmFail_bridge (hb : u.bridge = true) :
    u.spdmFail r = (({ u with spdm := { u.spdm with active := false, verdict := r } } : State).domResult r).raiseHirq 3 := if_pos hb

theorem State.spdmFail_active (hb : u.bridge = true) : (u.spdmFail r).spdm.active = false := by
  rw [State.spdmFail_bridge hb, State.raiseHirq_spdm]
  rfl

theorem State.spdmFail_domstat (hb : u.bridge = true) : (u.spdmFail r).csr 0 0x8240 = w32 (16 * r) := by
  rw [State.spdmFail_bridge hb, State.csr_raiseHirq, State.domResult, State.setCsr_same]

end Spdm

/-- Settles O54: evictions, the change of membership from its beginning to the switch, DOMCMD, and the steps of an admission. -/
theorem membership : Obligations.Membership := by
  unfold Obligations.Membership
  refine ⟨?_, ?_, ?_, ?_, ?_, ?_, ?_, ?_, ?_, ?_, ?_, ?_, ?_, ?_, ?_, ?_, ?_, ?_, ?_, ?_, ?_⟩
  · exact fun s u i hu hc hs hp => exec_beaconSilenceEvict hu hc hs hp
  · exact fun s u hu hb hs hp hm => exec_bridgeSilenceTakeover hu hb hs hp hm
  · rintro s u _ v _ gen set _ hu hc rfl rfl rfl
    refine ⟨fun hj hv => ?_, fun hj hg ha => ?_⟩
    · rw [Happens, exec_membershipBegin hu hc (.inl hj), hj, hv]
      rfl
    · rw [Happens, exec_membershipBegin hu hc (.inr hg), hj, State.accepted_true ha]
      rfl
  · intro s u t gen set hu hc hj hg ha
    rw [Happens, exec_membershipBegin hu hc (.inr hg), hj, State.accepted_false ha]
  · rintro s u t m _ c hu hc rfl
    refine ⟨fun hi hl ht hd hh => ?_, fun hi hl ht hn => ?_, fun hi ho hm hr hp => ⟨fun ha => ?_, fun ha => ?_⟩⟩
    · exact (exec_membershipReady_own hu hc hi hl ht).trans (if_pos ⟨hd, hh⟩)
    · refine (exec_membershipReady_own hu hc hi hl ht).trans (if_neg fun h => ?_)
      obtain hn | hn := hn
      · exact absurd (hn.symm.trans h.1) nofun
      · exact absurd (hn.symm.trans h.2) nofun
    · rw [Happens, exec_membershipReady_far hu hc hi ho hm hr hp, State.accepted_false ha]
    · rw [Happens, exec_membershipReady_far hu hc hi ho hm hr hp, State.accepted_true ha]
  · intro s u c hu hc hl
    have run := exec_membershipSwitch hu hc hl
    refine ⟨fun ho ha => ?_, fun ho h => ?_, fun ho hj hd => ?_⟩
    · exact run.trans ((if_pos ho).trans (if_pos ha))
    · exact run.trans ((if_neg (by rw [ho]; exact Bool.false_ne_true)).trans (if_pos h))
    · exact run.trans ((if_neg (by rw [ho]; exact Bool.false_ne_true)).trans (if_neg (by rw [hj, hd]; decide)))
  · exact fun u req c hc => State.deliver_switch hc
  · exact fun u dst b hc hv ho hh => State.holds_request hc hv ho hh
  · exact fun s u member port i hu hb hr hc hm hi => exec_domcmdAdmit hu hb hr hc hm hi
  · exact fun s u i p hu hb hr hc => ⟨exec_domcmdAdmit_busy hu hb hr hc, exec_domcmdRemove_busy hu hb hr hc, exec_domcmdEvict_busy hu hb hr hc⟩
  · exact fun s u i hu hb hr hc hp => ⟨fun t c ht h => exec_domcmdRemove hu hb hr hc hp ht h, exec_domcmdEvict hu hb hr hc hp⟩
  · intro s u i n hu hb ha hs hi
    obtain ⟨code, run⟩ := exec_spdm_passed hu hb hi
    rw [Happens, run, State.spdmStep_bridge hb ha hs]
  · intro s u l hu hb ha hs hl
    rw [Happens, exec_negotiateAlgorithms hu hl, State.spdmStep_bridge hb ha hs]
  · intro s u idx off hu hb ha hs
    rw [Happens, exec_vendorDefinedRequest_bridge hu hb ha hs, State.spdmStep_bridge hb ha hs]
  · exact fun s u hu hb hp => exec_getVersion_joining hu hb hp
  · intro s u ds hu hb ha hs
    refine ⟨fun hd => ?_, fun hd => ?_, ?_⟩
    · rw [Happens, exec_getMeasurements hu hb ha hs, hd, if_neg (by decide), State.spdmTest_passed, State.spdmStep_bridge hb ha hs]
    · rw [Happens, exec_getMeasurements hu hb ha hs, hd, if_pos (by decide)]
    · rw [Happens, exec_getMeasurements hu hb ha hs, if_neg fun h => absurd h.1 nofun, State.spdmTest_failed ha hs]
  · exact fun s u i n hu hb ha hs hi => exec_spdm_failed hu ha hs hi
  · exact fun s u idx off hu hb ha hs => exec_vendorDefinedRequest_joining hu hb ha hs
  · exact fun s u t hu hb ha hs ht => exec_endSession hu hb ha hs ht
  · rintro s _ code rfl
    rfl
  · exact fun u hb => ⟨State.spdmFail_active hb, State.spdmFail_domstat hb, State.spdmFail_domstat hb⟩

end Sys2Proof.Machine

/-! # Proofs: host windows and apertures (20 R335 to R339) -/

namespace Sys2Proof.Machine

/-! ### Windows -/

section Window
variable {s u : State} {member off : Nat} {wr : Option W}

/-- The bridge member serves the words of its own window and forwards those of another's. -/
theorem exec_hostWindowAccess (hu : u = s.unfocus) (hr : u.heldReset = false) (ho : off < 0x80000) (h4 : off % 4 = 0) (hm : member < 64)
    (hb : u.bridge = true) :
    exec (.hostWindowAccess member off wr) s = .next (
      if member = u.pkgIdx then wr.elim (u.toHost (bytesLE 4 (u.windowRead off).toNat)) (fun v => u.windowWrite off v)
      else if u.peers.any (·.idx == member) = true then u.forward member off wr
      else u.noMember (if wr.isSome then none else some 4)) := by
  show execHostWindowAccess member off wr s = _
  unfold execHostWindowAccess
  rw [← hu]
  dsimp only
  rw [if_neg (by rw [hr]; exact fun h => h.elim nofun fun h => h.elim (not_le.mpr ho) fun h => h.elim (absurd h4) (not_le.mpr hm)), hb,
    if_neg nofun]
  split
  · cases wr with
    | none => rfl
    | some v => rfl
  · split
    · rfl
    · rfl

/-- Is a message a forwarded access to a word of a window? -/
def FabIn.isWindow (off : Nat) (wr : Option W) (m : FabIn) : Bool :=
  match m.body with
  | .window o w _ => o == off && w == wr
  | _ => false

/-- Another member serves the access as its message comes. -/
theorem exec_hostWindowAccess_far {m : FabIn} {st : Stamp} (hu : u = s.unfocus) (hr : u.heldReset = false) (ho : off < 0x80000)
    (h4 : off % 4 = 0) (hp : u.pkgIdx < 64) (hb : u.bridge = false) (hbody : m.body = .window off wr st)
    (hm : u.inbox.find? (FabIn.isWindow off wr) = some m) :
    exec (.hostWindowAccess u.pkgIdx off wr) s = .next (u.windowDue m off wr st) := by
  have found : ∀ p : FabIn → Bool, p = FabIn.isWindow off wr → u.inbox.find? p = some m := fun p hp => by rw [hp, hm]
  show execHostWindowAccess u.pkgIdx off wr s = _
  unfold execHostWindowAccess
  rw [← hu]
  dsimp only
  rw [if_neg (by rw [hr]; exact fun h => h.elim nofun fun h => h.elim (not_le.mpr ho) fun h => h.elim (absurd h4) (not_le.mpr hp)), hb, found]
  · refine (if_pos rfl).trans ?_
    dsimp only
    rw [hbody]
  · funext k
    unfold FabIn.isWindow
    rw [beq_self_eq_true]
    cases k.body <;> rfl

theorem State.forward_plain {v : Option W} (h : v = none ∨ isQtail off = false) : u.forward member off v =
    u.demand member 0 (.window off v Stamp.zero) := by
  refine if_neg fun g => ?_
  obtain ⟨hv, hq⟩ := Bool.and_eq_true_iff.mp g
  obtain rfl | h := h
  · exact absurd hv nofun
  · exact absurd (h.symm.trans hq) nofun

theorem State.forward_qtail {v : W} (h : isQtail off = true) : u.forward member off (some v) =
    (u.takeStamp 0 255).2.demand member 0 (.window off (some v) (u.takeStamp 0 255).1) := if_pos h

end Window

/-! ### Apertures -/

section Aperture
variable {s u : State} {ap off : Nat}

/-- What a write does once its aperture leads somewhere: merges at manual lines, else one publication event. -/
def State.apertureWrite (u : State) (w off : Nat) (b : List Byte) : State :=
  let ls := byLine (apKey w off) b
  if bit w 30 then
    ls.foldl (fun s l => if homePkg l.1 = s.pkgIdx then s.mergeHome l.1 l.2 else s.send l.1 Stamp.zero l.2 true 0x8000 none none none) u
  else
    let p := u.hostPre (ls.map (·.1))
    ls.foldl (fun s l => s.send l.1 (p.2.takeStamp 0 255).1 l.2 false 0x8000 none none none p.1) (p.2.takeStamp 0 255).2

theorem exec_hostApertureWrite {b : List Byte} (hu : u = s.unfocus) (hr : u.heldReset = false) (hb : u.bridge = true) (ha : ap < 64)
    (ho : off + b.length ≤ 2 ^ 32) (hl : b.length ≤ 512) :
    exec (.hostApertureWrite ap off b) s =
      .next ((u.aperture ap).elim { u with hostErr := true } (fun w => u.apertureWrite w off b)) := by
  show execHostApertureWrite ap off b s = _
  unfold execHostApertureWrite State.apertureWrite
  rw [← hu]
  dsimp only
  rw [if_neg (by rw [hr, hb]; exact fun h => h.elim nofun fun h => h.elim nofun fun h => h.elim (not_le.mpr ha) fun h => h.elim (not_lt.mpr ho) (not_lt.mpr hl))]
  cases u.aperture ap with
  | none => rfl
  | some w =>
    dsimp only [Option.elim]
    split
    · rfl
    · rfl

/-- What a read does once its aperture leads somewhere: this member's bytes are due, another member is asked. -/
def State.apertureRead (u : State) (w off len : Nat) : State :=
  let pa := bits w 7 0 * 2 ^ 32 + off
  let m : FabIn := ⟨u.pkgIdx, u.nextId, .aperture (bit w 30) pa len⟩
  if bits w 13 8 ≠ u.pkgIdx then u.demand (bits w 13 8) 0 (.aperture (bit w 30) pa len)
  else ({ u with inbox := u.inbox ++ [m], nextId := u.nextId + 1 } : State).apertureDue m (bit w 30) pa len

theorem exec_hostApertureRead {len : Nat} (hu : u = s.unfocus) (hr : u.heldReset = false) (hb : u.bridge = true) (ha : ap < 64)
    (hl : len ≤ 4096) (ho : off + len ≤ 2 ^ 32) :
    exec (.hostApertureRead ap off len) s = .next ((u.aperture ap).elim
      { u with hostErr := true, hostReads := u.hostReads ++ [List.replicate len 0xFF] } (fun w => u.apertureRead w off len)) := by
  show execHostApertureRead ap off len s = _
  unfold execHostApertureRead State.apertureRead
  rw [← hu]
  dsimp only
  rw [if_neg (by rw [hr]; exact fun h => h.elim nofun fun h => h.elim (by omega) fun h => h.elim (not_lt.mpr hl) fun h => not_lt.mpr ho h.2),
    if_neg (by rw [hb]; exact fun h => h.elim nofun (by omega))]
  cases u.aperture ap with
  | none => rfl
  | some w =>
    dsimp only [Option.elim]
    split
    · rfl
    · rfl

/-- The lines with an epoch open that a read waits for. -/
def State.apertureEpochs (t : State) (manual : Bool) (pa len : Nat) : List Nat :=
  if manual then [] else (sortNat ((List.range len).map (fun i => lineOf (memKey t.pkgIdx pa + i)))).filter (fun l => (t.epoch l).isSome)

theorem State.bytesAt_inbox (t : State) (l : List FabIn) (k n : Nat) : ({ t with inbox := l } : State).bytesAt none k n = t.bytesAt none k n := rfl

theorem State.apertureDue_eq (t : State) (m : FabIn) (manual : Bool) (pa len : Nat) : t.apertureDue m manual pa len =
    if (!(t.apertureEpochs manual pa len).isEmpty) = true then
      (t.apertureEpochs manual pa len).foldl (fun s l => s.arrive l (.collapse 255)) t
    else if m.src = t.pkgIdx then ({ t with inbox := t.inbox.erase m } : State).toHost (t.bytesAt none (memKey t.pkgIdx pa) len)
    else ({ t with inbox := t.inbox.erase m } : State).toPort m.src m.req none (.apertureData (t.bytesAt none (memKey t.pkgIdx pa) len)) := by
  unfold State.apertureDue
  dsimp only
  rw [State.bytesAt_inbox]
  rfl

end Aperture

/-- Settles O55: the words of windows here and elsewhere, and the writes and reads of apertures. -/
theorem hostAccesses : Obligations.HostAccesses := by
  unfold Obligations.HostAccesses
  refine ⟨?_, ?_, ?_, ?_, ?_, ?_, ?_⟩
  · intro s u off hu hr ho h4 hp hb
    refine ⟨?_, fun v => ?_⟩
    · rw [Happens, exec_hostWindowAccess hu hr ho h4 hp hb, if_pos rfl]
      rfl
    · rw [Happens, exec_hostWindowAccess hu hr ho h4 hp hb, if_pos rfl]
      rfl
  · intro s u m off hu hr ho h4 hm hne hb
    refine ⟨fun hp => ⟨fun w hw => ?_, fun v hq => ?_⟩, fun hp => ⟨?_, fun v => ?_⟩⟩
    · rw [Happens, exec_hostWindowAccess hu hr ho h4 hm hb, if_neg hne, if_pos hp, State.forward_plain hw]
    · rw [Happens, exec_hostWindowAccess hu hr ho h4 hm hb, if_neg hne, if_pos hp, State.forward_qtail hq]
    · rw [Happens, exec_hostWindowAccess hu hr ho h4 hm hb, if_neg hne, hp]
      rfl
    · rw [Happens, exec_hostWindowAccess hu hr ho h4 hm hb, if_neg hne, hp]
      rfl
  · intro s u off m wr st hu hr ho h4 hp hb hbody hm
    have found : u.inbox.find? (FabIn.isWindow off wr) = some m := by
      refine Eq.trans (congrArg (fun p => u.inbox.find? p) (funext fun k => ?_)) hm
      unfold FabIn.isWindow
      rw [beq_self_eq_true]
      cases k.body <;> rfl
    have run := exec_hostWindowAccess_far hu hr ho h4 hp hb hbody found
    refine ⟨fun v hv => ?_, fun hv => ?_⟩
    · subst hv
      exact run
    · subst hv
      exact run
  · intro s u ap off w b hu hr hb ha ho hl
    have run := exec_hostApertureWrite hu hr hb ha ho hl
    refine ⟨fun h => ?_, fun p h h30 hp => ?_, fun h h30 => ?_⟩
    · rw [Happens, run, h]
      rfl
    · rw [Happens, run, h, hp]
      exact congrArg Host.Outcome.next (if_neg (by rw [h30]; exact Bool.false_ne_true))
    · rw [Happens, run, h]
      exact congrArg Host.Outcome.next (if_pos h30)
  · intro s u t ap off len w hu hr hb ha hl ho
    have run := exec_hostApertureRead hu hr hb ha hl ho
    refine ⟨fun h => ?_, fun h hp => ?_, fun m h hp hm ht => ?_⟩
    · rw [Happens, run, h]
      rfl
    · rw [Happens, run, h]
      exact congrArg Host.Outcome.next (if_pos hp)
    · rw [Happens, run, h, ht, hm]
      exact congrArg Host.Outcome.next (if_neg (not_not.mpr hp))
  · rintro t m manual pa len _ rfl
    have due := t.apertureDue_eq m manual pa len
    refine ⟨fun h => due.trans (if_pos ?_), fun h hm => ?_, fun h hm => ?_⟩
    · cases he : t.apertureEpochs manual pa len with
      | nil => exact absurd he h
      | cons l ls => rfl
    · rw [State.apertureEpochs, h] at due
      exact due.trans (if_pos hm)
    · rw [State.apertureEpochs, h] at due
      exact due.trans (if_neg hm)
  · exact fun s => rfl

end Sys2Proof.Machine

/-! # Proofs: error counts, scrubbing and repairs (12 R262, 22 R352 to R357) -/

namespace Sys2Proof.Machine

/-! ### Counts and scrubbing -/

section Counts
variable {s u : State}

theorem exec_errorWindowExpire {n : Nat} {r : UnitRec} (hu : u = s.unfocus) (hr : u.units[n]? = some r)
    (h : r.since + (u.csr 0 0x8307).toNat * 3600000000000 ≤ u.now) :
    exec (.errorWindowExpire n) s = .next (u.setUnit { r with corrected := 0, transient := 0, since := u.now }) := by
  show execErrorWindowExpire n s = _
  unfold execErrorWindowExpire
  rw [← hu]
  dsimp only
  rw [hr]
  exact if_pos h

theorem exec_scrubbing {a g : Nat} {again : Bool} (hu : u = s.unfocus) (hg : g = memKey u.pkgIdx (a % 2 ^ 40) / 32) :
    exec (.scrubbing a again) s = .next (if u.pubs.any (·.line == g / 4) = true then u.granError g .home (u.newest (g / 4)) again
      else u.granError g .home Stamp.zero again) := by
  show execScrubbing a again s = _
  unfold execScrubbing
  rw [← hu, hg]

end Counts

/-! ### Clusters -/

section Cluster
variable {s u t : State} {die cl n place : Nat} {r : UnitRec} {rs : List UnitRec}

/-- The units of a place that are marked worn or failed. -/
def State.markedUnits (u : State) (place : Nat) : List UnitRec :=
  u.units.filter (fun x => decide (x.cls ≤ 3) && x.place == place && (x.worn || x.failed))

/-- The spare cluster of a die that no repair has taken. -/
def State.spareCluster (u : State) (die : Nat) : Option Nat :=
  [32, 33].find? (fun p => !u.repair.any (fun r => r.cls == 2 && r.die == die && r.spare == p))

/-- The caches of a cluster. -/
def cachesOf (n : Nat) : List Nat := (List.range 4).map (4 * n + ·)

/-- A cluster retires onto a spare, with its begun and done records, once its caches are empty. -/
def State.retireOnto (u : State) (die cl n place p cls : Nat) : State :=
  let t := u.unitRecord 8 0x8000 cls place 0 none
  let v := ({ t with clusterMap := ins t.clusterMap n p, repair := t.repair ++ [⟨2, die, cl, p⟩] } : State).unitRecord 9 0x8000 cls place 0 none
  if !(cachesOf n).all u.cacheEmpty then (cachesOf n).foldl State.emptyCache u
  else ([1, 2, 3].foldl (fun s c => s.renewUnit c place) v).recountSpares

/-- With no spare left a record says so, and a cluster that has failed is withdrawn. -/
def State.retireNone (u : State) (die cl n place cls : Nat) (failed : Bool) : State :=
  let t := u.unitRecord 10 0x8000 cls place 0 none
  if failed then { t with withdrawn := t.withdrawn ++ [n], repair := t.repair ++ [⟨2, die, cl, 2 ^ 23⟩] }
  else [1, 2, 3].foldl (fun s c => s.renewUnit c place) t

theorem exec_clusterRetire (hu : u = s.unfocus) (hn : n = 32 * die + cl) (hp : place = u.clusterUnit n) (hd : die < 4) (hc : cl < 32)
    (hw : u.withdrawn.contains n = false) (hi : u.inUse n = false) (hm : u.markedUnits place = r :: rs) :
    exec (.clusterRetire die cl) s = .next ((u.spareCluster die).elim (u.retireNone die cl n place r.cls ((r :: rs).any (·.failed)))
      (fun p => u.retireOnto die cl n place p r.cls)) := by
  unfold State.markedUnits at hm
  show execClusterRetire die cl s = _
  unfold execClusterRetire State.spareCluster State.retireOnto State.retireNone
  rw [← hu]
  dsimp only
  rw [← hn, ← hp, hm, hw, hi, if_neg fun h => h.elim (not_le.mpr hd) fun h => h.elim (not_le.mpr hc) fun h => h.elim nofun fun h => h.elim nofun nofun]
  dsimp only
  cases [32, 33].find? (fun p => !u.repair.any (fun r => r.cls == 2 && r.die == die && r.spare == p)) with
  | none =>
    dsimp only [Option.elim]
    split
    · rfl
    · rfl
  | some p =>
    dsimp only [Option.elim]
    show (if (!(cachesOf n).all u.cacheEmpty) = true then _ else _) = _
    split
    · rfl
    · rfl

end Cluster

/-! ### Slices -/

section Slice
variable {s u : State} {die bucket p place n : Nat}

theorem exec_sliceRetire_begin (hu : u = s.unfocus) (hd : die < 4) (hb : bucket < 64)
    (hp : place = 128 * die + nth 0 (nth [] u.sliceMap die) bucket) (hm : u.migrating.find? (fun m => m.1 == die && m.2.1 == bucket) = none)
    (hx : u.unitBad 4 place = true)
    (hs : [64, 65, 66, 67].find? (fun p => !(u.repair.any (fun r => r.cls == 4 && r.die == die && r.spare == p) ||
      u.migrating.any (fun m => m.1 == die && m.2.2.1 == p))) = some p) :
    exec (.sliceRetire die bucket) s =
      .next (({ u with migrating := u.migrating ++ [(die, bucket, p, 0)] } : State).unitRecord 8 0x8000 4 place 0 none) := by
  show execSliceRetire die bucket s = _
  unfold execSliceRetire
  rw [← hu]
  dsimp only
  rw [← hp, hm, if_neg fun h => h.elim (not_le.mpr hd) (not_le.mpr hb)]
  dsimp only
  rw [hx, hs]
  rfl

/-- A bucket that migrates passes over the sets that are busy. -/
theorem exec_sliceRetire_busy {k : Nat} (hu : u = s.unfocus) (hd : die < 4) (hb : bucket < 64)
    (hm : u.migrating.find? (fun m => m.1 == die && m.2.1 == bucket) = some (die, bucket, p, n))
    (hk : argMin id ((u.busySets die bucket).filter (fun k => decide (n ≤ k))) = some k) :
    exec (.sliceRetire die bucket) s =
      .next { u with migrating := modAll (fun m => m.1 == die && m.2.1 == bucket) (fun _ => (die, bucket, p, k)) u.migrating } := by
  show execSliceRetire die bucket s = _
  unfold execSliceRetire
  rw [← hu]
  dsimp only
  rw [hm, if_neg fun h => h.elim (not_le.mpr hd) (not_le.mpr hb)]
  dsimp only
  rw [hk]

theorem exec_sliceRetire_end (hu : u = s.unfocus) (hd : die < 4) (hb : bucket < 64)
    (hp : place = 128 * die + nth 0 (nth [] u.sliceMap die) bucket)
    (hm : u.migrating.find? (fun m => m.1 == die && m.2.1 == bucket) = some (die, bucket, p, n)) (hk : ∀ k ∈ u.busySets die bucket, k < n) :
    exec (.sliceRetire die bucket) s = .next (((({ u with
        sliceMap := u.sliceMap.set die ((nth [] u.sliceMap die).set bucket p)
        migrating := u.migrating.filter (fun k => !(k.1 == die && k.2.1 == bucket))
        repair := u.repair ++ [⟨4, die, bucket, p⟩] } : State).unitRecord 9 0x8000 4 place 0 none).renewUnit 4 place).recountSpares) := by
  have idle : (u.busySets die bucket).filter (fun k => decide (n ≤ k)) = [] :=
    List.filter_eq_nil_iff.mpr fun k h => by simpa using hk k h
  show execSliceRetire die bucket s = _
  unfold execSliceRetire
  rw [← hu]
  dsimp only
  rw [hm, ← hp, if_neg fun h => h.elim (not_le.mpr hd) (not_le.mpr hb)]
  dsimp only
  rw [idle]
  rfl

end Slice

/-! ### HBM rows and channels, lanes -/

section Memory
variable {s u : State} {die stack place : Nat}

theorem exec_hbmRowRepair {row used : Nat} (hu : u = s.unfocus) (hd : die < 4) (hs : stack < 4) (hr : row < 2 ^ 23)
    (hp : place = (4 * die + stack) * 2 ^ 23 + row) (hb : u.unitBad 5 place = true)
    (hn : used = u.rowsReplaced die stack (Config.rowChannel row)) :
    exec (.hbmRowRepair die stack row) s =
      .next (if 2048 ≤ used then u.noSpare 5 place else (u.repaired 5 place ⟨5, die, stack * 2 ^ 23 + row, used⟩).recountSpares) := by
  show execHbmRowRepair die stack row s = _
  unfold execHbmRowRepair
  rw [← hu]
  dsimp only
  rw [← hp, ← hn, hb, if_neg fun h => h.elim (not_le.mpr hd) fun h => h.elim (not_le.mpr hs) fun h => h.elim (not_le.mpr hr) nofun]
  split
  · rfl
  · rfl

/-- The rows of a channel that count towards its repair: those replaced and those that have failed. -/
def State.rowsLost (u : State) (die stack ch : Nat) : Nat :=
  u.rowsReplaced die stack ch + (u.units.filter (fun x => x.cls == 5 && x.failed && x.place / 2 ^ 23 == 4 * die + stack &&
    Config.rowChannel (x.place % 2 ^ 23) == ch)).length

theorem exec_hbmChannelRepair {ch : Nat} {t : State} (hu : u = s.unfocus) (hd : die < 4) (hs : stack < 4) (hc : ch < 2 ^ 23)
    (hp : place = (4 * die + stack) * 2 ^ 23 + ch) (hb : u.unitBad 6 place = true ∨ 3 ≤ u.rowsLost die stack ch)
    (hr : u.repair.any (fun r => r.cls == 6 && r.die == die && r.place / 2 ^ 23 == stack) = false)
    (ht : t = (u.repaired 6 place ⟨6, die, stack * 2 ^ 23 + ch, 0⟩).recountSpares) :
    exec (.hbmChannelRepair die stack ch) s = .next { t with
      units := t.units.filter (fun u => !(u.cls == 5 && (u.place / 2 ^ 23 == 4 * die + stack && Config.rowChannel (u.place % 2 ^ 23) == ch))) } := by
  have unrepaired : u.repair.any (fun r => r.cls == 6 && r.die == die && r.place == stack * 2 ^ 23 + ch) = false := by
    refine List.any_eq_false.mpr fun r hr' h => List.any_eq_false.mp hr r hr' ?_
    obtain ⟨hcd, hplace⟩ := Bool.and_eq_true_iff.mp h
    refine Bool.and_eq_true_iff.mpr ⟨hcd, ?_⟩
    rw [beq_iff_eq.mp hplace, beq_iff_eq]
    omega
  show execHbmChannelRepair die stack ch s = _
  unfold execHbmChannelRepair
  rw [← hu]
  dsimp only
  rw [← hp, unrepaired, hr, if_neg fun h => ?_, ht]
  · rfl
  · obtain h | h | h | ⟨hu, hn⟩ | h := h
    · exact absurd hd (not_lt.mpr h)
    · exact absurd hs (not_lt.mpr h)
    · exact absurd hc (not_lt.mpr h)
    · obtain hb | hb := hb
      · rw [hb] at hu
        exact absurd hu nofun
      · exact absurd hn (not_lt.mpr hb)
    · exact absurd h nofun

theorem exec_linkLaneSpare_port {port lane : Nat} (hu : u = s.unfocus) (hp : port < 18) (hl : lane < 5) :
    exec (.linkLaneSpare false port lane) s = .next (u.loseLane port lane) := by
  subst hu
  exact if_pos ⟨hp, hl⟩

theorem exec_linkLaneSpare_pair {port lane : Nat} (hu : u = s.unfocus) (hp : port < 6) (hl : lane < 66) :
    exec (.linkLaneSpare true port lane) s = .next (u.losePair port lane) := by
  subst hu
  exact if_pos ⟨hp, hl⟩

end Memory

/-- Settles O56: counts, scrubbing, and the repairs of clusters, slices, rows, channels and lanes, with a spare and without. -/
theorem repairs : Obligations.Repairs := by
  unfold Obligations.Repairs
  refine ⟨?_, ?_, ?_, ?_, ?_, ?_, ?_, ?_, ?_, ?_⟩
  · exact fun s u n r hu hr h => exec_errorWindowExpire hu hr h
  · intro s u a g again hu hg
    refine ⟨fun h => ?_, fun h => ?_⟩
    · rw [Happens, exec_scrubbing hu hg, if_pos h]
    · rw [Happens, exec_scrubbing hu hg, h]
      rfl
  · intro s u t v die cl n p place r rs hu hn hp hd hc hw hi hm hs
    have run := exec_clusterRetire hu hn hp hd hc hw hi hm
    refine ⟨fun he => ?_, fun he ht hv => ?_⟩
    · rw [Happens, run, State.spareCluster, hs]
      exact congrArg Host.Outcome.next (if_pos (by rw [cachesOf, he]; rfl))
    · rw [Happens, run, State.spareCluster, hs, hv, ht]
      exact congrArg Host.Outcome.next (if_neg (by rw [cachesOf, he]; exact Bool.false_ne_true))
  · intro s u t die cl n place r rs hu hn hp hd hc hw hi hm hs ht
    rw [Happens, exec_clusterRetire hu hn hp hd hc hw hi hm, State.spareCluster, hs, ht]
    rfl
  · exact fun s u die bucket p place hu hd hb hp hm hx hs => exec_sliceRetire_begin hu hd hb hp hm hx hs
  · exact fun s u die bucket p n k hu hd hb hm hk => exec_sliceRetire_busy hu hd hb hm hk
  · exact fun s u die bucket p place n hu hd hb hp hm hk => exec_sliceRetire_end hu hd hb hp hm hk
  · exact fun s u die stack row place used hu hd hs hr hp hb hn => exec_hbmRowRepair hu hd hs hr hp hb hn
  · exact fun s u t die stack ch place hu hd hs hc hp hb hr ht => exec_hbmChannelRepair hu hd hs hc hp hb hr ht
  · exact fun s u port lane hu => ⟨fun hp hl => exec_linkLaneSpare_port hu hp hl, fun hp hl => exec_linkLaneSpare_pair hu hp hl⟩

end Sys2Proof.Machine

/-! # Proofs: cold and warm resets, the firmware load and the thermal trip (24 R367 to R372) -/

namespace Sys2Proof.Machine

/-! ### MGCSTAT and FWRESULT -/

section Mgc
variable {s : State}

theorem State.csr_mgc_state (st r : Nat) : (s.mgc st r).csr 0 0x8500 = w32 st := by
  rw [State.mgc, State.setCsr_other _ _ _ _ _ _ (by decide), State.setCsr_same]

theorem State.csr_mgc_result (st r : Nat) : (s.mgc st r).csr 0 0x8505 = w32 r := by
  rw [State.mgc, State.setCsr_same]

theorem State.csr_mgc_other {n : Nat} (st r : Nat) (h0 : n ≠ 0x8500) (h5 : n ≠ 0x8505) : (s.mgc st r).csr 0 n = s.csr 0 n := by
  rw [State.mgc, State.setCsr_other _ _ _ _ _ _ (by simpa using h5), State.setCsr_other _ _ _ _ _ _ (by simpa using h0)]

end Mgc

/-! ### The cold reset -/

section Cold
variable {s : State}

theorem State.Logs.heldReset {t : State} (h : s.Logs t) : t.heldReset = s.heldReset := by
  unfold State.Logs at h
  rw [h]

theorem State.unitRecord_heldReset (s : State) (kind ctx cls place addr : Nat) (count : Option Nat) :
    (s.unitRecord kind ctx cls place addr count).heldReset = s.heldReset := by
  unfold State.unitRecord
  exact (State.Logs.trans (State.Logs.set s) (State.error_logs _ _)).heldReset

theorem State.heldReset_cold (s : State) : s.cold.heldReset = s.heldReset := by
  unfold State.cold
  refine List.foldlRecOn s.wornBonds _ (motive := fun t : State => t.heldReset = s.heldReset) rfl fun t ht r _ => ?_
  split
  · rw [State.unitRecord_heldReset, State.unitRecord_heldReset, ht]
  · rw [State.unitRecord_heldReset, ht]

/-- What a cold reset of a package without repairs and worn bonds starts from. -/
def State.coldPlain (s : State) : State :=
  { State.reset with
    bridge := s.bridge, csrs := [((0, 0x8506), s.csr 0 0x8506)], repair := [], thermal := s.thermal, heldReset := false, free := s.free
    agenda := s.agenda }

theorem State.cold_plain (hw : s.wornBonds = []) (hr : s.repair = []) (hh : s.heldReset = false) : s.cold = s.coldPlain := by
  unfold State.cold State.coldPlain
  rw [hw, hr, hh]
  rfl

theorem State.coldReset_plain (hw : s.wornBonds = []) (hr : s.repair = []) (hh : s.heldReset = false) (trained fused : Bool) :
    s.coldReset trained fused = s.coldPlain.boot trained fused := by
  unfold State.coldReset
  rw [State.cold_plain hw hr hh]
  rfl

theorem State.csr_coldPlain_svnmin : s.coldPlain.csr 0 0x8506 = s.csr 0 0x8506 := rfl

theorem State.mgc_kept (s : State) (st r : Nat) : (s.mgc st r).mem = s.mem ∧ (s.mgc st r).squads = s.squads ∧ (s.mgc st r).now = s.now := by
  unfold State.mgc
  simp only [State.setCsr_mem, State.setCsr_squads, State.setCsr_now, and_self]

/-- Without repairs only the count of spares is taken. -/
theorem State.applyRepairs_coldPlain : s.coldPlain.applyRepairs = s.coldPlain.recountSpares := rfl

theorem State.csr_recountSpares (s : State) (c n : Nat) : s.recountSpares.csr c n = s.csr c n := rfl

/-- SVNMIN is a fuse: the cold reset keeps it. -/
theorem State.csr_coldPlain_repaired : s.coldPlain.applyRepairs.csr 0 0x8506 = s.csr 0 0x8506 := by
  rw [State.applyRepairs_coldPlain, State.csr_recountSpares, State.csr_coldPlain_svnmin]

theorem State.coldPlain_empty : s.coldPlain.applyRepairs.mem = [] ∧ s.coldPlain.applyRepairs.squads = [] ∧ s.coldPlain.applyRepairs.now = 0 := by
  rw [State.applyRepairs_coldPlain]
  exact ⟨rfl, rfl, rfl⟩

theorem State.boot_trained (s : State) : s.boot true true = s.applyRepairs.mgc 1 0 := rfl

theorem State.boot_untrained (s : State) : s.boot false true = s.applyRepairs.mgc 7 7 := rfl

theorem State.boot_unfused (s : State) (trained : Bool) : s.boot trained false = s.mgc 7 8 := rfl

end Cold

/-! ### The warm reset -/

section Warm
variable {u : State}

/-- A CSR of the package after some of them have been set. -/
theorem State.csr_foldl_setCsr (f : Nat → W) (l : List Nat) (u : State) (n : Nat) :
    (l.foldl (fun (s : State) k => s.setCsr 0 k (f k)) u).csr 0 n = if n ∈ l then f n else u.csr 0 n := by
  induction l generalizing u with
  | nil => rfl
  | cons k l ih =>
    rw [List.foldl_cons, ih]
    by_cases hl : n ∈ l
    · rw [if_pos hl, if_pos (List.mem_cons_of_mem k hl)]
    · rw [if_neg hl]
      by_cases hk : n = k
      · rw [hk, if_pos List.mem_cons_self, State.setCsr_same]
      · rw [if_neg (fun h => (List.mem_cons.mp h).elim hk hl), State.setCsr_other _ _ _ _ _ _ (by simpa using hk)]

/-- The CSRs of the MGC that a warm reset sets. -/
def mgcNums : List Nat := [0x8500, 0x8502, 0x8503, 0x8504, 0x8505, 0x8507]

/-- The MGC's CSRs at their reset values, and no copy of an image. -/
def State.mgcReset (u : State) : State :=
  { mgcNums.foldl (fun (s : State) n => s.setCsr 0 n (csrReset n)) u with fwCopy := none }

theorem State.warmReset_eq (h : u.heldReset = false) :
    u.warmReset = if (u.csr 0 0x8500 == 3) = true then u.mgcReset.mgc 3 0 else u.mgcReset := by
  unfold State.warmReset State.mgcReset mgcNums
  rw [h, if_neg Bool.false_ne_true]

theorem State.csr_mgcReset {n : Nat} (h : n ∈ mgcNums) : u.mgcReset.csr 0 n = csrReset n :=
  (State.csr_foldl_setCsr csrReset mgcNums u n).trans (if_pos h)

theorem State.foldl_setCsr_kept (f : Nat → W) (l : List Nat) (u : State) :
    (l.foldl (fun (s : State) k => s.setCsr 0 k (f k)) u).squads = u.squads ∧ (l.foldl (fun (s : State) k => s.setCsr 0 k (f k)) u).mem = u.mem := by
  induction l generalizing u with
  | nil => exact ⟨rfl, rfl⟩
  | cons k l ih => exact ih (u.setCsr 0 k (f k))

theorem State.csr_warmReset {n : Nat} (h : u.heldReset = false) (hn : n ∈ [0x8502, 0x8503, 0x8504, 0x8505, 0x8507]) :
    u.warmReset.csr 0 n = csrReset n := by
  rw [State.warmReset_eq h]
  split
  · by_cases h5 : n = 0x8505
    · rw [h5, State.csr_mgc_result]
      rfl
    · rw [State.csr_mgc_other 3 0 (by rintro rfl; exact absurd hn (by decide)) h5, State.csr_mgcReset (List.mem_cons_of_mem _ hn)]
  · exact State.csr_mgcReset (List.mem_cons_of_mem _ hn)

theorem State.csr_warmReset_state (h : u.heldReset = false) : u.warmReset.csr 0 0x8500 = if u.csr 0 0x8500 = 3 then 3 else 0 := by
  rw [State.warmReset_eq h]
  split
  · next hc => rw [State.csr_mgc_state, if_pos (beq_iff_eq.mp hc)]; rfl
  · next hc => rw [State.csr_mgcReset List.mem_cons_self, if_neg fun g => hc (beq_iff_eq.mpr g)]; rfl

theorem State.mgcReset_kept : u.mgcReset.squads = u.squads ∧ u.mgcReset.mem = u.mem := by
  have kept := State.foldl_setCsr_kept csrReset mgcNums u
  unfold State.mgcReset
  generalize mgcNums.foldl (fun (s : State) n => s.setCsr 0 n (csrReset n)) u = v at kept
  exact kept

theorem State.warmReset_kept (h : u.heldReset = false) : u.warmReset.squads = u.squads ∧ u.warmReset.mem = u.mem := by
  rw [State.warmReset_eq h]
  split
  · rw [State.mgc, State.setCsr_squads, State.setCsr_squads, State.setCsr_mem, State.setCsr_mem]
    exact State.mgcReset_kept
  · exact State.mgcReset_kept

end Warm

/-! ### Firmware -/

section Firmware
variable {u : State}

theorem State.fwLoad_wait (h : u.heldReset = false) (hs : u.csr 0 0x8500 = 1) :
    u.fwLoad = { u.setCsr 0 0x8500 2 with fwCopy := some (u.csr2 0 0x8502, (u.csr 0 0x8504).toNat, []) } := by
  unfold State.fwLoad
  rw [h, hs]
  rfl

theorem State.fwLoad_busy (h : u.heldReset = false) (hs : u.csr 0 0x8500 = 2 ∨ u.csr 0 0x8500 = 3) : u.fwLoad = u.setCsr 0 0x8505 6 := by
  unfold State.fwLoad
  obtain hs | hs := hs
  · rw [h, hs]
    rfl
  · rw [h, hs]
    rfl

variable {base len n : Nat} {got m : List Byte}

theorem State.fwStep_eq (hc : u.fwCopy = some (base, len, got)) (hm : m = got ++ u.phys (base + got.length) (min n (len - got.length))) :
    u.fwStep n = if m.length < len then { u with fwCopy := some (base, len, m) } else u.fwEnd m := by
  unfold State.fwStep
  rw [hc, hm]

/-- The configuration that stands for that of an image without a block of it. -/
def State.freeConf (u : State) : Nat × Nat :=
  ((Config.freeWord (u.free + 0)).toNat % 9, 1 + (Config.freeWord (u.free + 1)).toNat % 16)

theorem State.fwEnd_error {r : Nat} (h : fwVerify m (u.csr 0 0x8506).toNat u.freeConf = .error r) :
    u.fwEnd m = { ({ u with free := u.free + 2 } : State).mgc 1 r with fwCopy := none } := by
  unfold State.freeConf at h
  unfold State.fwEnd
  dsimp only
  rw [h]

theorem State.fwEnd_ok {k w g : Nat} (h : fwVerify m (u.csr 0 0x8506).toNat u.freeConf = .ok (k, w, g)) :
    u.fwEnd m = ({ u with free := u.free + 2 } : State).startRuntime m k w g := by
  unfold State.freeConf at h
  unfold State.fwEnd
  dsimp only
  rw [h]

theorem State.csr_startRuntime (s : State) (m : List Byte) (k w g : Nat) : (s.startRuntime m k w g).csr 0 0x8500 = 3 :=
  State.csr_mgc_state 3 0

/-- The key of a boot derives from the image that runs, and its certificate from the key. -/
theorem State.startRuntime_alias (s : State) (m : List Byte) (k w g : Nat) : (s.startRuntime m k w g).image = m ∧
    (s.startRuntime m k w g).aliasKey = ed448Public (Config.aliasSeed identitySeed (shake512 (manifest m))) ∧
    (s.startRuntime m k w g).aliasCert = ed448Sign identitySeed (Config.aliasBody (s.startRuntime m k w g).aliasKey) := by
  unfold State.startRuntime State.deriveAlias State.mgc
  simp only [State.setCsr_image, State.setCsr_aliasKey, State.setCsr_aliasCert, and_self]

end Firmware

/-! ### Temperature -/

section Thermal
variable {s u : State}

theorem exec_thermalTrip {die temp : Nat} {e : ErrRec} (hu : u = s.unfocus) (ht : 110 ≤ temp) (hd : die < 4) (hr : u.heldReset = false)
    (he : e = ⟨u.seenStamp die ((Config.freeWord u.free).toNat % 256), 0x8000, 2, 10, unitWhere 10 die, 0, temp⟩) :
    exec (.thermalTrip die temp) s =
      .next ({ u with free := u.free + 1, thermal := u.thermal ++ [e], heldReset := true } : State).cold := by
  show execThermalTrip die temp s = _
  unfold execThermalTrip
  rw [← hu, he]
  exact if_neg (by rw [hr]; exact fun h => h.elim (not_lt.mpr ht) fun h => h.elim (not_le.mpr hd) nofun)

theorem exec_thermalRelease {t : List Nat} (hu : u = s.unfocus) (hr : u.heldReset = true) (hl : t.length = 4) (ht : ∀ x ∈ t, x < 85) :
    exec (.thermalRelease t) s =
      .next (({ u with heldReset := false } : State).coldResetFree.setCsr 0 0x8507 (w32 (natLE (t.map (BitVec.ofNat 8))))) := by
  show execThermalRelease t s = _
  unfold execThermalRelease
  rw [← hu]
  exact if_pos ⟨hr, hl, List.all_eq_true.mpr fun x hx => decide_eq_true (ht x hx)⟩

end Thermal

/-- Settles O57: the cold and the warm reset, the load of an image and what its verification leads to, the trip and its release. -/
theorem resets : Obligations.Resets := by
  unfold Obligations.Resets
  refine ⟨?_, ?_, ?_, ?_, ?_, ?_, ?_, ?_⟩
  · exact fun s tr fu => ⟨rfl, rfl, fun hb => if_pos hb⟩
  · intro s hw hr hh
    have plain := State.coldReset_plain hw hr hh
    rw [plain, plain, plain, State.boot_trained, State.boot_untrained, State.boot_unfused]
    obtain ⟨mem, squads, now⟩ := State.mgc_kept s.coldPlain.applyRepairs 1 0
    obtain ⟨nomem, nosquads, start⟩ := State.coldPlain_empty (s := s)
    refine ⟨mem.trans nomem, squads.trans nosquads, now.trans start, State.csr_mgc_state 1 0, State.csr_mgc_result 1 0, ?_,
      State.csr_mgc_state 7 7, State.csr_mgc_result 7 7, State.csr_mgc_state 7 8, State.csr_mgc_result 7 8⟩
    rw [State.csr_mgc_other 1 0 (by decide) (by decide)]
    exact State.csr_coldPlain_repaired
  · exact fun s => ⟨rfl, rfl⟩
  · exact fun u h => ⟨fun n hn => State.csr_warmReset h hn, State.csr_warmReset_state h, State.warmReset_kept h⟩
  · intro u h
    refine ⟨fun hs => ?_, fun hs => State.fwLoad_busy h hs⟩
    rw [State.fwLoad_wait h hs]
    exact ⟨State.setCsr_same _ _ _ _, rfl⟩
  · rintro u base len n got m _ hc rfl hm
    have step := State.fwStep_eq hc hm
    refine ⟨fun hl => step.trans (if_pos hl), fun hl r hv => ?_, fun hl k w g hv => ?_⟩
    · rw [step, if_neg (not_lt.mpr hl), State.fwEnd_error hv]
    · have run := (step.trans (if_neg (not_lt.mpr hl))).trans (State.fwEnd_ok hv)
      refine ⟨run, ?_, ?_⟩
      · rw [run]
        exact State.csr_startRuntime _ _ _ _ _
      · rw [run]
        exact State.startRuntime_alias _ _ _ _ _
  · intro s u die temp e hu ht hd hr he
    exact ⟨exec_thermalTrip hu ht hd hr he, State.heldReset_cold _⟩
  · exact fun s u t hu hr hl ht => exec_thermalRelease hu hr hl ht

end Sys2Proof.Machine

/-! # Proofs: what plain stores and loads leave alone (07 R136 to R139, 11 R222, 12 R241, R250) -/

namespace Sys2Proof.Machine

/-! ### Pending bytes -/

/-- The pending byte of a key in or out of a transaction. -/
def Squad.pendOf (q : Squad) (key : Nat) (tx : Bool) : Option Byte :=
  (q.pending.find? (fun p => p.line == lineOf key && p.tx == tx)).bind (fun p => get? p.bytes (key % 128))

section Pend
variable {q : Squad} {tx : Bool} {l : Leaf} {key k : Nat} {b : Byte}

theorem Squad.pendByte_eq : q.pendByte k = if q.tx && !q.handler then (q.pendOf k true).or (q.pendOf k false) else q.pendOf k false := rfl

theorem Squad.pend_eq : q.pend tx l key b = { q with pending := (q.pend tx l key b).pending } := by
  unfold Squad.pend
  dsimp only
  split
  · rfl
  · rfl

theorem mod_ne_of_line_eq (h : k ≠ key) (hl : lineOf k = lineOf key) : k % 128 ≠ key % 128 := by
  unfold lineOf at hl
  omega

/-- A byte that is put in a pending line leaves the bytes of other keys. -/
theorem Squad.pendOf_pend_other (h : k ≠ key) (tx' : Bool) : (q.pend tx l key b).pendOf k tx' = q.pendOf k tx' := by
  unfold Squad.pendOf Squad.pend
  dsimp only
  split
  · have same : (fun p : PLine => p.line == lineOf k && p.tx == tx') ∘ (fun p : PLine =>
        if p.line == lineOf key && p.tx == tx then { p with bytes := ins p.bytes (key % 128) b } else p) =
        (fun p : PLine => p.line == lineOf k && p.tx == tx') := by
      funext p
      dsimp only [Function.comp]
      split
      · rfl
      · rfl
    rw [modAll, List.find?_map, same, Option.bind_map]
    cases hf : q.pending.find? (fun p => p.line == lineOf k && p.tx == tx') with
    | none => rfl
    | some p =>
      have hm : (p.line == lineOf k && p.tx == tx') = true :=
        List.find?_some (p := fun p : PLine => p.line == lineOf k && p.tx == tx') hf
      have hp := (Bool.and_eq_true_iff.mp hm).1
      dsimp only [Option.bind, Function.comp]
      split
      · next hm =>
        have hl : lineOf k = lineOf key := (beq_iff_eq.mp hp).symm.trans (beq_iff_eq.mp (Bool.and_eq_true_iff.mp hm).1)
        exact get?_put1_other _ _ (mod_ne_of_line_eq h hl)
      · rfl
  · rw [List.find?_append]
    cases hf : q.pending.find? (fun p => p.line == lineOf k && p.tx == tx') with
    | some p => rfl
    | none =>
      rw [Option.none_or, List.find?_singleton]
      split
      · next hm =>
        have hl : lineOf k = lineOf key := (beq_iff_eq.mp (Bool.and_eq_true_iff.mp hm).1).symm
        exact if_neg (mod_ne_of_line_eq h hl)
      · rfl

theorem Squad.pendByte_pend_other (h : k ≠ key) : (q.pend tx l key b).pendByte k = q.pendByte k := by
  rw [Squad.pendByte_eq, Squad.pendByte_eq, Squad.pendOf_pend_other h, Squad.pendOf_pend_other h, Squad.pend_eq]

end Pend

/-! ### What a store does to its squad -/

/-- From v to t only pending lines of the squad in focus have changed, and of their bytes only those at the keys of `S`. -/
structure State.Pends (v t : State) (S : Nat → Prop) : Prop where
  world : t = v.modSq (fun q => { q with pending := t.sq.pending })
  bytes : ∀ k, ¬ S k → t.sq.pendByte k = v.sq.pendByte k

section Pends
variable {v t : State} {S : Nat → Prop}

theorem State.Pends.refl (v : State) (S : Nat → Prop) : v.Pends v S := ⟨rfl, fun _ _ => rfl⟩

theorem State.Pends.leafAt (h : v.Pends t S) (va : Nat) : t.leafAt t.sq.ctx va = v.leafAt v.sq.ctx va := by
  have hw := h.world
  generalize t.sq.pending = p at hw
  rw [hw]
  rfl

theorem State.Pends.pend (h : v.Pends t S) {tx : Bool} {l : Leaf} {key : Nat} {b : Byte} (hk : S key) :
    v.Pends (t.modSq (fun q => q.pend tx l key b)) S := by
  refine ⟨?_, fun k hs => ?_⟩
  · have hw := h.world
    show ({ t with sq := t.sq.pend tx l key b } : State) = { v with sq := { v.sq with pending := (t.sq.pend tx l key b).pending } }
    rw [Squad.pend_eq]
    generalize (t.sq.pend tx l key b).pending = p'
    generalize t.sq.pending = p at hw
    rw [hw]
    rfl
  · exact (Squad.pendByte_pend_other (fun e => hs (by rw [e]; exact hk))).trans (h.bytes k hs)

theorem State.Pends.pendBytes {bs : List Byte} {va : Nat} (h : v.Pends t S)
    (hk : ∀ i < bs.length, ∀ l, v.leafAt v.sq.ctx (va + i) = some l → S (l.key (va + i))) : v.Pends (t.pendBytes va bs) S := by
  induction bs generalizing t va with
  | nil => exact h
  | cons b bs ih =>
    rw [State.pendBytes]
    refine ih ?_ (fun i hi => ?_)
    · split
      · next l hl =>
        rw [h.leafAt] at hl
        exact h.pend (hk 0 (Nat.succ_pos _) l hl)
      · exact h
    · rw [Nat.add_assoc, Nat.add_comm 1 i]
      exact hk (i + 1) (Nat.succ_lt_succ hi)

theorem State.Pends.pendAll {d w : Nat} {accs : List Acc} (h : v.Pends t S)
    (hk : ∀ a ∈ accs, ∀ b ∈ a.bytes, ∀ l, v.leafAt v.sq.ctx b = some l → S (l.key b)) : v.Pends (t.pendAll d w accs) S := by
  unfold State.pendAll
  induction accs generalizing t with
  | nil => exact h
  | cons a accs ih =>
    rw [List.foldl_cons]
    refine ih (h.pendBytes fun i hi => ?_) (fun a' ha' => hk a' (List.mem_cons_of_mem a ha'))
    rw [bytesLE_length] at hi
    exact hk a List.mem_cons_self _ (Acc.mem_bytes.mpr ⟨i, hi, rfl⟩)

end Pends

/-! ### The keys of a store -/

section Keys
variable {r : State} {k : AKind} {al : Nat} {accs : List Acc}

/-- An access whose checks pass has no byte at 2^57 or above. -/
theorem lt_of_globalRange_none (h : globalRange al accs = none) {a : Acc} (ha : a ∈ accs) {b : Nat} (hb : b ∈ a.bytes) : b < 2 ^ 57 := by
  unfold globalRange at h
  split at h
  · exact absurd h nofun
  · have hn := List.findSome?_eq_none_iff.mp h a ha
    split at hn
    · exact absurd hn nofun
    · have hf := List.find?_eq_none.mp (Option.map_eq_none_iff.mp hn) b hb
      rw [decide_eq_true_eq] at hf
      omega

theorem State.range_of_check_ok (h : r.check k al accs = .ok) : globalRange al accs = none := by
  unfold State.check at h
  split at h
  · exact absurd h nofun
  · next hg => exact hg

/-- The key of a byte that has a cached translation. -/
theorem State.keyNow_of_leafAt {v : State} (hM : v.isM = false) {b : Nat} {l : Leaf} (hb : b < 2 ^ 57) (hl : v.leafAt v.sq.ctx b = some l) :
    v.keyNow b = l.key b := by
  have leaf : v.leafFor v.ctxNow b = some l := by
    unfold State.leafFor State.ctxNow
    rw [hM, if_neg (not_le.mpr hb), if_neg Bool.false_ne_true, hl, Option.some_or]
  unfold State.keyNow State.keyOf
  rw [leaf]

end Keys

/-! ### Ways for new lines -/

/-- Where every set has room for all new lines none leaves. -/
theorem State.makeWays_room {r : State} {cache : Nat} {seen new : List Nat}
    (h : ∀ l ∈ new, r.occupied cache (setOf l) + (seen.length + new.length) ≤ r.ways cache) : State.makeWays cache seen new r = r := by
  induction new generalizing seen with
  | nil => rfl
  | cons l new ih =>
    have few := List.length_filter_le (fun k => setOf k == setOf l) seen
    have room := h l List.mem_cons_self
    rw [List.length_cons] at room
    have way : r.makeWay cache l (seen.filter (fun k => setOf k == setOf l)).length = some r := if_pos (by omega)
    rw [State.makeWays, way]
    refine ih fun l' hl' => ?_
    have room' := h l' (List.mem_cons_of_mem l hl')
    rw [List.length_cons] at room' ⊢
    omega

/-! ### Writes of consecutive vector registers -/

/-- Registers d + i for the i of a list take values lane by lane. -/
def Squad.putVs (q : Squad) (m : Mask) (d : Nat) (v : Nat → Nat → W) (l : List Nat) : Squad := l.foldl (fun q i => q.setV m (d + i) (v i)) q

section PutVs
variable {m : Mask} {d : Nat} {v : Nat → Nat → W} {l : List Nat}

theorem Squad.putVs_eq (q : Squad) : q.putVs m d v l = { q with vregs := (q.putVs m d v l).vregs, badRegs := (q.putVs m d v l).badRegs } := by
  unfold Squad.putVs
  induction l generalizing q with
  | nil => rfl
  | cons i l ih =>
    rw [List.foldl_cons, ih]
    rfl

theorem Squad.putVs_v (q : Squad) {n j : Nat} (hj : j < 32) (h : (∀ i ∈ l, n ≠ d + i) ∨ m.getLsbD j = false) :
    (q.putVs m d v l).v n j = q.v n j := by
  unfold Squad.putVs
  induction l generalizing q with
  | nil => rfl
  | cons i l ih =>
    rw [List.foldl_cons, ih _ (h.imp_left fun h i hi => h i (List.mem_cons_of_mem _ hi))]
    obtain h | h := h
    · exact Squad.setV_v_ne _ _ _ _ (h i List.mem_cons_self) j
    · exact Squad.setV_v_lane _ _ _ _ hj h n

theorem State.putWide_eq (s : State) (d w : Nat) (f : Nat → Nat) :
    s.putWide d w f = s.modSq (fun q => q.putVs s.lanes d (fun i l => wideW w (f l) i) (List.range (wRegs w))) := by
  unfold State.putWide Squad.putVs
  generalize s.lanes = m
  induction List.range (wRegs w) generalizing s with
  | nil => rfl
  | cons i l ih => exact ih _

/-- A squad with the vector registers and flags of another. -/
def Squad.withLanes (q x : Squad) : Squad := { q with vregs := x.vregs, badRegs := x.badRegs, flags := x.flags }

/-- Squads whose books agree have the same vector registers and flags. -/
theorem Squad.lanes_of_book {p q : Squad} (h : ∀ b, p.book b = q.book b) : p.vregs = q.vregs ∧ p.badRegs = q.badRegs ∧ p.flags = q.flags :=
  ⟨(congrArg Squad.vregs (h q) :), (congrArg Squad.badRegs (h q) :), (congrArg Squad.flags (h q) :)⟩

theorem Squad.putVs_book (q : Squad) : (q.putVs m d v l).book q = q.withLanes (q.putVs m d v l) := by
  have hq := Squad.putVs_eq (m := m) (d := d) (v := v) (l := l) q
  generalize q.putVs m d v l = p at hq ⊢
  rw [hq]
  rfl

/-- Consecutive registers in lanes of the lane set have changed; what `g` does besides is of what every issue keeps account of. -/
theorem State.onlyV_putVs {r : State} {n : Nat} {g : Squad → Squad} (hg : ∀ q b : Squad, (g q).book b = q.book b)
    (hm : ∀ j < 32, r.lanes.getLsbD j = false → m.getLsbD j = false) :
    r.OnlyV (r.modSq (fun q => g (q.putVs m d v (List.range n)))) (fun i => d ≤ i ∧ i < d + n) := by
  obtain ⟨hv, hb, hf⟩ := Squad.lanes_of_book (hg (r.sq.putVs m d v (List.range n)))
  refine ⟨State.same_modSq r _, ?_, rfl, fun i j hj h => ?_, ?_⟩
  · show (g (r.sq.putVs m d v (List.range n))).book r.sq = r.sq.withLanes (g (r.sq.putVs m d v (List.range n)))
    rw [hg, Squad.putVs_book, Squad.withLanes, Squad.withLanes, hv, hb, hf]
  · refine (congrArg (fun x => nth 0 (nth [] x i) j) hv).trans ?_
    refine Squad.putVs_v _ hj (h.imp (fun h k hk e => h ?_) (hm j hj))
    rw [List.mem_range] at hk
    omega
  · refine (congrArg (r.sq.flags &&& ·) hf).trans ?_
    show r.sq.flags &&& (r.sq.putVs m d v (List.range n)).flags = r.sq.flags
    rw [Squad.putVs_eq]
    exact BitVec.and_self

end PutVs

/-! ### The end of an instruction of one part -/

/-- The account of an issue up to its parts. -/
def Squad.opened (turn len : Nat) (l : List MOp) (q : Squad) : Squad :=
  { q with todo := l, turn := turn, sp := { q.sp.stepBlock with pc := q.sp.pc + BitVec.ofNat 64 len } }

/-- And after them. -/
def Squad.closed (q : Squad) : Squad :=
  { q with
    st := if q.st = .exiting then .exiting else .ready
    wake := none, todo := [], energy := satAdd q.energy q.due, due := 0, inLine := none, got := [], heldRfe := false }

section Parts
variable {r : State} {turn len : Nat} {l : List MOp}

theorem Squad.opened_book (q b : Squad) : (q.opened turn len l).closed.book b = q.book b := by
  unfold Squad.book Squad.closed Squad.opened
  dsimp only
  rw [Split.stepBlock_eq]

theorem State.moved_setTodo (h : r.isM = false) (s : State) : s.moved len (r.setTodo l) = r.modSq (Squad.opened s.sq.sp.num len l) := by
  have todo : r.setTodo l = r.modSq (fun q => { q with todo := l }) := by rw [State.setTodo, h, if_neg Bool.false_ne_true]
  rw [State.moved, todo, State.advance_squad (u := (r.modSq (fun q => { q with todo := l })).setTurn s.sq.sp.num) h]
  rfl

theorem State.complete_closed {u : State} (h : u.isM = false) : u.complete = (u.modSq Squad.closed).sampled := State.complete_squad h

/-- An instruction of one part, which passes, ends with its account. -/
theorem State.issue_part_ends {s t : State} {f : Form} {body : State → Res} {m : MOp} (h : s.Goes f) (hr : r = s.atIssue f) (rM : r.isM = false)
    (hb : body r = .done (r.setTodo [m])) (hm : m ≠ .reissue) (hp : runOp m (r.modSq (Squad.opened s.sq.sp.num f.len [m])) = .ok t)
    (tM : t.isM = false) : s.issue f body = .next (t.modSq Squad.closed).sampled := by
  rw [State.issue_ends h hr (State.moved_setTodo rM s).symm hb (passTo_one hm hp), State.complete_closed tM]

theorem Squad.putVs_opened {m : Mask} {d : Nat} {v : Nat → Nat → W} {k : List Nat} (q : Squad) :
    (q.opened turn len l).putVs m d v k = (q.putVs m d v k).opened turn len l := by
  unfold Squad.putVs
  induction k generalizing q with
  | nil => rfl
  | cons i k ih => exact ih (q.setV m (d + i) (v i))

end Parts

/-! ### Scratch writes -/

/-- The scratch bytes that sts of `w` writes. -/
def State.stsPut (r : State) (w : Long) (l : List Acc) (t : State) : State :=
  l.foldl (fun t a => t.scrWrite (r.aim a).2 (bytesLE a.n (r.storeVal w.d.toNat (acW w.c) a.lane))) t

section ScratchFrame
variable {r : State} {w : Long} {l : List Acc}

theorem State.stsPut_modSq (f : Squad → Squad) (t : State) : r.stsPut w l (t.modSq f) = (r.stsPut w l t).modSq f := by
  unfold State.stsPut
  induction l generalizing t with
  | nil => rfl
  | cons a l ih => exact ih (t.scrWrite (r.aim a).2 (bytesLE a.n (r.storeVal w.d.toNat (acW w.c) a.lane)))

/-- Scratch bytes and their poison alone change. -/
theorem State.stsPut_eq (t : State) : r.stsPut w l t = { t with scratch := (r.stsPut w l t).scratch, poison := (r.stsPut w l t).poison } := by
  unfold State.stsPut
  induction l generalizing t with
  | nil => rfl
  | cons a l ih => exact ih (t.scrWrite (r.aim a).2 (bytesLE a.n (r.storeVal w.d.toNat (acW w.c) a.lane)))

theorem State.stsPut_scrByte {t : State} (ht : canon 0 t.scratch = true) {k : Nat} (h : ∀ a ∈ l, k < (r.aim a).2 ∨ (r.aim a).2 + a.n ≤ k) :
    (r.stsPut w l t).scrByte k = t.scrByte k := by
  unfold State.stsPut
  induction l generalizing t with
  | nil => rfl
  | cons a l ih =>
    refine (ih (State.scrWrite_canon ht _ _) (fun a' ha' => h a' (List.mem_cons_of_mem a ha'))).trans (State.scrWrite_other ht _ _ _ ?_)
    rw [bytesLE_length]
    exact h a List.mem_cons_self

end ScratchFrame

/-! ### The frames -/

section Frames
variable {w : Long} {s r : State}

theorem State.open_nil (r : State) (n : Need) : r.open_ n [] = true := rfl

/-- The lines held update-only collapse before a store; with none only ways are made. -/
theorem State.storeNow_plain {d c : Nat} {accs : List Acc} {lines new : List Nat} (h : r.ownA lines = []) :
    r.storeNow d c accs lines new = (State.makeWays r.sq.cache [] new r).pendAll d c accs := by
  rw [State.storeNow, h]
  rfl

theorem st_frame {v : State} (hgo : s.Goes (s.formLong false 0x121 w)) (hr : r = s.atIssue (s.formLong false 0x121 w)) (ht : r.inTx = false)
    (hc : r.check .st (wBytes (acW w.c)) (r.plainAccs w) = .ok) (ha : r.ownA (r.accLines (r.plainAccs w)) = [])
    (hp : r.canPend r.sq.cache (r.newOf w) = true ∨ r.setsClear (r.newOf w) = true) (hv : v = State.makeWays r.sq.cache [] (r.newOf w) r) :
    ∃ u : State, exec (.st w) s = .next u.sampled ∧ v.Same u ∧ u.sq.book v.sq = { v.sq with pending := u.sq.pending } ∧
      (∀ k, (∀ a ∈ r.plainAccs w, ∀ b ∈ a.bytes, k ≠ v.keyNow b) → u.sq.pendByte k = v.sq.pendByte k) := by
  have rM : r.isM = false := hr ▸ State.atIssue_isM (hgo.squad rfl)
  have left : r.Left v := hv ▸ State.Left.makeWays (.refl r)
  have vM : v.isM = false := left.isM.trans rM
  have done : r.storeRes w = .done (v.pendAll w.d.toNat (acW w.c) (r.plainAccs w)) := by
    rw [State.storeRes_ready (by rw [ht]; rfl) hc (by rw [ha]; exact r.open_nil _), State.storeBody_plain ht hp, State.storeNow_plain ha, ← hv]
  have pends : v.Pends (v.pendAll w.d.toNat (acW w.c) (r.plainAccs w)) (fun k => ∃ a ∈ r.plainAccs w, ∃ b ∈ a.bytes, k = v.keyNow b) :=
    (State.Pends.refl v _).pendAll fun a haa b hb l hl =>
      ⟨a, haa, b, hb, (State.keyNow_of_leafAt vM (lt_of_globalRange_none (State.range_of_check_ok hc) haa hb) hl).symm⟩
  obtain ⟨world, bytes⟩ := pends
  generalize v.pendAll w.d.toNat (acW w.c) (r.plainAccs w) = t at done world bytes
  have rest : t.todoNow = [] := by
    have vt : v.todoNow = [] := left.todoNow.trans (hr ▸ hgo.todo)
    rw [world, State.modSq_todoNow rfl, vt]
  have run : exec (.st w) s = .next (s.ended 8 t) := by
    rw [exec_st]
    exact State.issue_done hgo (hr ▸ done) rest
  generalize t.sq.pending = p at world
  refine ⟨v.modSq (fun q => ({ q with pending := p } : Squad).shut s.sq.sp.num 8), ?_, State.same_modSq v _, ?_, fun k hk => ?_⟩
  · rw [run, world, State.ended_modSq vM]
  · exact Squad.shut_book _ _ _ _
  · have outside : ¬ ∃ a ∈ r.plainAccs w, ∃ b ∈ a.bytes, k = v.keyNow b := fun ⟨a, haa, b, hb, e⟩ => hk a haa b hb e
    have same := bytes k outside
    rw [world] at same
    exact same

theorem sts_frame (hgo : s.Goes (s.formLong false 0x123 w)) (hr : r = s.atIssue (s.formLong false 0x123 w))
    (hc : r.checkPlace (wBytes (acW w.c)) true (r.ldsAccs w) = none)
    (hl : r.Landed ((r.ldsAccs w).flatMap (fun a => (List.range a.n).map (fun i => (0, (r.aim a).1 + i, (r.aim a).2 + i)))))
    (hcan : canon 0 r.scratch = true) :
    ∃ u : State, exec (.sts w) s = .next u.sampled ∧ (∀ v k, u.byteAt v k = r.byteAt v k) ∧ u.sq.book r.sq = r.sq ∧
      ({ u with sq := r.sq, samplers := r.samplers, scratch := r.scratch, poison := r.poison } : State) = r ∧
      (∀ k, (∀ a ∈ r.ldsAccs w, k < (r.aim a).2 ∨ (r.aim a).2 + a.n ≤ k) → u.scrByte k = r.scrByte k) := by
  have rM : r.isM = false := hr ▸ State.atIssue_isM (hgo.squad rfl)
  have hb : r.stsRes w = .done (r.setTodo [.stsDo (r.stsSpans w)]) := State.checkedScr_ok hc
  rw [← stsSpans_spans] at hl
  have put := State.stsPut_eq (r := r) (w := w) (l := r.ldsAccs w) r
  have outside := fun k => State.stsPut_scrByte (r := r) (w := w) (l := r.ldsAccs w) hcan (k := k)
  have hp : runOp (.stsDo (r.stsSpans w)) (r.modSq (Squad.opened s.sq.sp.num 8 [.stsDo (r.stsSpans w)])) =
      .ok ((r.stsPut w (r.ldsAccs w) r).modSq (Squad.opened s.sq.sp.num 8 [.stsDo (r.stsSpans w)])) := by
    rw [← State.stsPut_modSq, runOp, State.stsPut, ← State.stsNow_spans]
    exact State.atScratch_write (s := r.modSq _) hl _ _
  generalize r.stsPut w (r.ldsAccs w) r = x at put outside hp
  generalize x.scratch = sc at put
  generalize x.poison = po at put
  subst put
  have run : exec (.sts w) s = _ := State.issue_part_ends (body := fun s => s.stsRes w) (m := .stsDo (r.stsSpans w)) hgo hr rM hb nofun hp rM
  exact ⟨_, run, fun v k => rfl, Squad.opened_book r.sq r.sq, rfl, outside⟩

theorem ld_frame (hgo : s.Goes (s.formLong false 0x120 w)) (hr : r = s.atIssue (s.formLong false 0x120 w))
    (hd : (r.inTx && r.sq.doomed.isSome) = false) (hc : r.check .ld (wBytes (acW w.c)) (r.plainAccs w) = .ok)
    (hl : r.lacking .read (r.accLines (r.plainAccs w)) = none) (hf : r.forcedLines (r.plainAccs w) = [])
    (hfar : r.farLack r.sq.cache (r.clNow / 32) (r.readsOf ((r.plainAccs w).flatMap Acc.bytes)) = none) :
    ∃ p v u : State, exec (.ld w) s = .next u.sampled ∧ r.OnlyV p (fun n => w.d.toNat ≤ n ∧ n < w.d.toNat + wRegs (acW w.c)) ∧
      v = p.fillAccs (r.plainAccs w) ∧ v.Same u ∧ u.sq.book v.sq = v.sq := by
  have rM : r.isM = false := hr ▸ State.atIssue_isM (hgo.squad rfl)
  generalize hp : r.putWide w.d.toNat (acW w.c) (fun l => r.loadNat (laneEa (r.plainAccs w) l) (wBytes (acW w.c))) = p
  have left : r.Left (p.fillAccs (r.plainAccs w)) := hp ▸ State.Left.fillAccs (State.Left.putWide (.refl r))
  have body := State.plainLoad_ready (zero := fun s => s.putWide w.d.toNat (acW w.c) (fun _ => 0))
    (go := fun t => t.putWide w.d.toNat (acW w.c) (fun l => t.loadNat (laneEa (r.plainAccs w) l) (wBytes (acW w.c)))) hd hc hl hf hfar
  have run : exec (.ld w) s = .next (s.ended 8 (p.fillAccs (r.plainAccs w))) := by
    rw [exec_ld]
    subst hr hp
    exact State.issue_done hgo body (left.todoNow.trans hgo.todo)
  have vM : (p.fillAccs (r.plainAccs w)).isM = false := left.isM.trans rM
  refine ⟨p, _, (p.fillAccs (r.plainAccs w)).modSq (fun q => q.shut s.sq.sp.num 8), ?_, ?_, rfl, State.same_modSq _ _, Squad.shut_book _ _ _ _⟩
  · rw [run]
    exact congrArg _ (State.ended_modSq vM s 8 id)
  · rw [← hp, State.putWide_eq]
    exact State.onlyV_putVs (g := id) (fun _ _ => rfl) (fun _ _ h => h)

/-- The lanes of the accesses of lds are in the lane set. -/
theorem ldsSpans_lanes (r : State) (w : Long) {j : Nat} (hj : j < 32) (h : r.lanes.getLsbD j = false) :
    (maskOf (fun l => (r.ldsSpans w).any (·.1 == l))).getLsbD j = false := by
  rw [maskOf_getLsbD _ hj, List.any_eq_false]
  intro p hp e
  obtain ⟨a, ha, rfl⟩ := List.mem_map.mp hp
  obtain ⟨l, hl, rfl⟩ := List.mem_map.mp ha
  have on := ((mem_lanesOf _ _).mp hl).2
  rw [show l = j from beq_iff_eq.mp e, h] at on
  exact Bool.false_ne_true on

/-- What lds does to the squad. -/
theorem State.ldsNow_putVs (s : State) (d c : Nat) (acc : List (Nat × Nat × Nat)) : ∃ v : Nat → Nat → W,
    s.ldsNow d c acc = s.modSq (fun q => q.putVs (maskOf (fun l => acc.any (·.1 == l))) d v (List.range (wRegs c))) := ⟨_, rfl⟩

theorem lds_frame {l : List (Nat × Nat × Nat)} (hgo : s.Goes (s.formLong false 0x122 w)) (hr : r = s.atIssue (s.formLong false 0x122 w))
    (hd : (r.inTx && r.sq.doomed.isSome) = false) (hc : r.checkPlace (wBytes (acW w.c)) false (r.ldsAccs w) = none)
    (hsp : l = spanKeys (wBytes (acW w.c)) ((r.ldsAccs w).map (fun a => (a.lane, r.aim a)))) (hl : r.Landed l) (hs : r.Sound l) :
    ∃ u : State, exec (.lds w) s = .next u.sampled ∧ r.OnlyV u (fun n => w.d.toNat ≤ n ∧ n < w.d.toNat + wRegs (acW w.c)) := by
  subst hsp
  have rM : r.isM = false := hr ▸ State.atIssue_isM (hgo.squad rfl)
  generalize hopen : Squad.opened s.sq.sp.num 8 [.ldsDo w.d.toNat (acW w.c) (r.ldsSpans w)] = opened
  obtain ⟨v, hv⟩ := State.ldsNow_putVs (r.modSq opened) w.d.toNat (acW w.c) (r.ldsSpans w)
  have hp : runOp (.ldsDo w.d.toNat (acW w.c) (r.ldsSpans w)) (r.modSq opened) = .ok ((r.modSq opened).ldsNow w.d.toNat (acW w.c) (r.ldsSpans w)) :=
    runOp_lds_landed (u := r.modSq opened) hl hs
  rw [hv] at hp
  have run : exec (.lds w) s = _ := State.issue_part_ends (body := fun s => s.ldsRes w) (m := .ldsDo w.d.toNat (acW w.c) (r.ldsSpans w)) hgo hr rM
    (State.ldsRes_ready hd hc) nofun (by rw [show (s.formLong false 0x122 w).len = 8 from rfl, hopen]; exact hp) (by exact rM)
  refine ⟨_, run, ?_⟩
  have only := State.onlyV_putVs (r := r) (m := maskOf (fun l => (r.ldsSpans w).any (·.1 == l))) (d := w.d.toNat) (v := v)
    (n := wRegs (acW w.c)) (g := fun q => (opened q).closed) (by subst hopen; exact Squad.opened_book) (fun _ => ldsSpans_lanes r w)
  have same : opened (r.sq.putVs (maskOf (fun l => (r.ldsSpans w).any (·.1 == l))) w.d.toNat v (List.range (wRegs (acW w.c)))) =
      (opened r.sq).putVs (maskOf (fun l => (r.ldsSpans w).any (·.1 == l))) w.d.toNat v (List.range (wRegs (acW w.c))) := by
    subst hopen
    exact (Squad.putVs_opened r.sq).symm
  exact (congrArg (fun q : Squad => r.OnlyV (r.modSq (fun _ => q.closed)) (fun n => w.d.toNat ≤ n ∧ n < w.d.toNat + wRegs (acW w.c))) same).mp only

end Frames

/-- Settles O60: a store changes pending lines at its keys, sts scratch bytes at its keys, a load its destination and the lines that come. -/
theorem storeFrames : Obligations.StoreFrames :=
  ⟨fun _ _ _ _ => st_frame, fun _ _ _ h => State.makeWays_room (by simpa using h), fun _ _ _ => sts_frame, fun _ _ _ => ld_frame,
    fun _ _ _ _ => lds_frame⟩

end Sys2Proof.Machine

/-! # Proofs: codes of the formats and what they mean (01 R14 to R20, R29, R30)

A finite code is a sign and a body, an exponent field above trailing bits; `bodyMag` is the magnitude of a body, `magBody` the body of a
magnitude, as both kinds of format have them. -/

namespace Sys2Proof.Machine

/-! ### Numbers of bits -/

theorem blen_le_iff {n k : Nat} : blen n ≤ k ↔ n < 2 ^ k := by
  unfold blen
  split
  · next h => simp [h]
  · next h => rw [Nat.succ_le_iff, Nat.log2_lt h]

theorem blen_eq_succ {n k : Nat} (lo : 2 ^ k ≤ n) (hi : n < 2 ^ (k + 1)) : blen n = k + 1 :=
  le_antisymm (blen_le_iff.mpr hi) (Nat.succ_le_iff.mpr (lt_of_not_ge fun h => absurd (blen_le_iff.mp h) (not_lt.mpr lo)))

/-! ### Magnitudes of bodies -/

/-- The magnitude of a body with `tb` trailing bits: the multiple, and the exponent of its quantum. -/
def bodyMag (tb bias body : Nat) : Nat × Int :=
  if body / 2 ^ tb = 0 then (body % 2 ^ tb, 1 - (bias : Int) - tb) else (2 ^ tb + body % 2 ^ tb, ((body / 2 ^ tb : Nat) : Int) - bias - tb)

/-- The body of a magnitude. -/
def magBody (tb bias m : Nat) (q : Int) : Nat :=
  let lead := q + (blen m : Int) - 1
  let quant := (if lead < 1 - (bias : Int) then 1 - (bias : Int) else lead) - tb
  let mm := if quant ≤ q then m * 2 ^ (q - quant).toNat else m / 2 ^ (quant - q).toNat
  if lead < 1 - (bias : Int) then mm else (lead + bias).toNat * 2 ^ tb + (mm - 2 ^ tb)

section Body
variable {tb bias body : Nat}

theorem bodyMag_sub (h : body / 2 ^ tb = 0) : bodyMag tb bias body = (body, 1 - (bias : Int) - tb) := by
  rw [bodyMag, if_pos h, Nat.mod_eq_of_lt ((Nat.div_eq_zero_iff_lt (by positivity)).mp h)]

theorem bodyMag_normal (h : body / 2 ^ tb ≠ 0) :
    bodyMag tb bias body = (2 ^ tb + body % 2 ^ tb, ((body / 2 ^ tb : Nat) : Int) - bias - tb) := if_neg h

/-- A subnormal has at most the trailing bits. -/
theorem blen_sub (h : body / 2 ^ tb = 0) : blen body ≤ tb := blen_le_iff.mpr ((Nat.div_eq_zero_iff_lt (by positivity)).mp h)

/-- A normal has the hidden bit above them. -/
theorem blen_normal : blen (2 ^ tb + body % 2 ^ tb) = tb + 1 := by
  have hm := Nat.mod_lt body (Nat.two_pow_pos tb)
  exact blen_eq_succ (Nat.le_add_right _ _) (by rw [pow_succ]; omega)

theorem bodyMag_eq_zero : (bodyMag tb bias body).1 = 0 ↔ body = 0 := by
  by_cases h : body / 2 ^ tb = 0
  · rw [bodyMag_sub h]
  · rw [bodyMag_normal h]
    constructor
    · intro e
      exact absurd (Nat.add_eq_zero_iff.mp e).1 (Nat.two_pow_pos tb).ne'
    · intro e
      exact absurd (by rw [e, Nat.zero_div]) h

/-- The exponent of the leading bit is at most the exponent field's. -/
theorem bodyMag_lead : (bodyMag tb bias body).2 + (blen (bodyMag tb bias body).1 : Int) - 1 ≤ ((body / 2 ^ tb : Nat) : Int) - bias := by
  by_cases h : body / 2 ^ tb = 0
  · have := blen_sub h
    rw [bodyMag_sub h, h]
    dsimp only
    omega
  · rw [bodyMag_normal h]
    dsimp only
    rw [blen_normal]
    generalize body / 2 ^ tb = e
    omega

/-- The quantum's exponent is that of the leading bit, none below the least. -/
theorem bodyMag_quantum : (bodyMag tb bias body).2 = (if (bodyMag tb bias body).2 + (blen (bodyMag tb bias body).1 : Int) - 1 < 1 - (bias : Int)
    then 1 - (bias : Int) else (bodyMag tb bias body).2 + (blen (bodyMag tb bias body).1 : Int) - 1) - tb := by
  by_cases h : body / 2 ^ tb = 0
  · have := blen_sub h
    rw [bodyMag_sub h, if_pos (by dsimp only; omega)]
  · rw [bodyMag_normal h]
    dsimp only
    rw [blen_normal]
    generalize body / 2 ^ tb = e at h
    rw [if_neg (by omega)]
    omega

/-- A magnitude that the format has is not rounded. -/
theorem roundMag_bodyMag (hb : body ≠ 0) (mode : Rnd) (neg tie : Bool) :
    roundMag mode neg (bodyMag tb bias body).1 (bodyMag tb bias body).2 (tb + 1) (1 - (bias : Int)) true tie =
      ((bodyMag tb bias body).1, (bodyMag tb bias body).2, false) := by
  have hm : (bodyMag tb bias body).1 ≠ 0 := bodyMag_eq_zero.not.mpr hb
  have quantum := bodyMag_quantum (tb := tb) (bias := bias) (body := body)
  generalize bodyMag tb bias body = p at hm quantum
  obtain ⟨m, q⟩ := p
  dsimp only at hm quantum ⊢
  have rounds : (if (true && decide (q + (blen m : Int) - 1 - (((tb + 1 : Nat) : Int) - 1) < 1 - (bias : Int) - (((tb + 1 : Nat) : Int) - 1))) = true
      then 1 - (bias : Int) - (((tb + 1 : Nat) : Int) - 1) else q + (blen m : Int) - 1 - (((tb + 1 : Nat) : Int) - 1)) = q := by
    rw [Bool.true_and]
    split at quantum
    · rw [if_pos (decide_eq_true (by omega))]
      omega
    · rw [if_neg (by rw [decide_eq_true_eq]; omega)]
      omega
  unfold roundMag
  dsimp only
  rw [rounds, if_neg hm, if_pos le_rfl, sub_self, Int.toNat_zero, pow_zero, mul_one]

/-- Its body is the one that it came from. -/
theorem magBody_bodyMag : magBody tb bias (bodyMag tb bias body).1 (bodyMag tb bias body).2 = body := by
  unfold magBody
  dsimp only
  rw [← bodyMag_quantum, if_pos le_rfl, sub_self, Int.toNat_zero, pow_zero, mul_one]
  by_cases h : body / 2 ^ tb = 0
  · have := blen_sub h
    rw [bodyMag_sub h, if_pos (by dsimp only; omega)]
  · have whole := Nat.div_add_mod' body (2 ^ tb)
    rw [bodyMag_normal h]
    dsimp only
    rw [blen_normal, Nat.add_sub_cancel_left]
    generalize body / 2 ^ tb = e at h whole
    have lead : ((e : Int) - bias - tb + ((tb + 1 : Nat) : Int) - 1 + bias).toNat = e := by omega
    rw [if_neg (by omega), lead, whole]

/-- A zero is not rounded. -/
theorem roundMag_zero (mode : Rnd) (neg lim tie : Bool) (e emin : Int) (p : Nat) :
    (roundMag mode neg 0 e p emin lim tie).1 = 0 ∧ (roundMag mode neg 0 e p emin lim tie).2.2 = false := ⟨rfl, rfl⟩

end Body

/-! ### The IEEE formats -/

section Ieee
variable {f : IFmt} {v : Nat}

/-- The body of a pattern. -/
def IFmt.body (f : IFmt) (v : Nat) : Nat := v % 2 ^ (f.eb + f.tb)

theorem IFmt.sign_add_body (hv : v < 2 ^ f.width) : f.signPat (bit v (f.eb + f.tb)) + f.body v = v := by
  have top : v / 2 ^ (f.eb + f.tb) < 2 := Nat.div_lt_of_lt_mul (by rw [← pow_succ]; exact hv)
  have split := Nat.div_add_mod v (2 ^ (f.eb + f.tb))
  unfold IFmt.signPat IFmt.body bit
  rw [Nat.testBit_eq_decide_div_mod_eq, Nat.mod_eq_of_lt top]
  generalize v / 2 ^ (f.eb + f.tb) = t at top split
  interval_cases t
  · simpa using split
  · simpa using split

theorem IFmt.field_eq (h : 1 ≤ f.eb) : bits v (f.eb + f.tb - 1) f.tb = f.body v / 2 ^ f.tb := by
  have width : f.eb + f.tb - 1 - f.tb + 1 = f.eb := by omega
  rw [bits, IFmt.body, Nat.shiftRight_eq_div_pow, width, add_comm f.eb, pow_add, Nat.mod_mul_right_div_self]

theorem IFmt.trail_eq : v % 2 ^ f.tb = f.body v % 2 ^ f.tb := by
  rw [IFmt.body, Nat.mod_mod_of_dvd _ (pow_dvd_pow 2 (Nat.le_add_left _ _))]

/-- What a pattern means, by its body. -/
theorem IFmt.decode_eq (h : 1 ≤ f.eb) : f.decode v =
    if f.body v / 2 ^ f.tb = 2 ^ f.eb - 1 then
      if f.body v % 2 ^ f.tb = 0 then .inf (bit v (f.eb + f.tb)) else .nan (!bit v (f.tb - 1))
    else .fin (bit v (f.eb + f.tb)) (bodyMag f.tb f.bias (f.body v)).1 (bodyMag f.tb f.bias (f.body v)).2 := by
  unfold IFmt.decode bodyMag
  dsimp only
  rw [IFmt.field_eq h, IFmt.trail_eq]
  split
  · rfl
  · split
    · rfl
    · rfl

theorem IFmt.encodeFin_zero {neg : Bool} {q : Int} : f.encodeFin neg 0 q = f.signPat neg := if_pos rfl

theorem IFmt.encodeFin_eq {neg : Bool} {m : Nat} {q : Int} (h : m ≠ 0) : f.encodeFin neg m q = f.signPat neg + magBody f.tb f.bias m q := if_neg h

theorem IFmt.two_mul_bias (h : 1 ≤ f.eb) : 2 * f.bias + 2 = 2 ^ f.eb := by
  have := Nat.two_pow_pos (f.eb - 1)
  rw [IFmt.bias, ← Nat.sub_add_cancel h, pow_succ, Nat.add_sub_cancel]
  omega

/-- A finite value that the format has is its own rounding. -/
theorem IFmt.round_bodyMag {neg : Bool} {body : Nat} (h : 1 ≤ f.eb) (hb : body / 2 ^ f.tb < 2 ^ f.eb - 1) (mode : Rnd) (sat : Bool) :
    f.round mode sat (.fin neg (bodyMag f.tb f.bias body).1 (bodyMag f.tb f.bias body).2) = (f.signPat neg + body, 0) := by
  have lead := bodyMag_lead (tb := f.tb) (bias := f.bias) (body := body)
  have top := IFmt.two_mul_bias h
  unfold IFmt.round
  dsimp only
  by_cases h0 : body = 0
  · have hz := (bodyMag_eq_zero (tb := f.tb) (bias := f.bias)).mpr h0
    rw [hz]
    obtain ⟨hr, hi⟩ := roundMag_zero mode neg true false (bodyMag f.tb f.bias body).2 f.emin (f.tb + 1)
    rw [hr, hi, IFmt.encodeFin_zero, h0]
    rfl
  · have hm := (bodyMag_eq_zero (tb := f.tb) (bias := f.bias)).not.mpr h0
    have exact_ := roundMag_bodyMag (tb := f.tb) (bias := f.bias) h0 mode neg false
    rw [show f.emin = 1 - (f.bias : Int) from rfl, exact_]
    dsimp only
    rw [decide_eq_false (p := (f.bias : Int) < _) (by omega), Bool.and_false, if_neg Bool.false_ne_true, if_neg Bool.false_ne_true,
      IFmt.encodeFin_eq hm, magBody_bodyMag]

/-- A pattern that is no NaN is the rounding of what it means (01 R29). -/
theorem IFmt.round_decode (h : 1 ≤ f.eb) (hv : v < 2 ^ f.width) (hn : (f.decode v).isNaN = false) (mode : Rnd) :
    f.round mode false (f.decode v) = (v, 0) := by
  have sign := IFmt.sign_add_body hv
  have field : f.body v / 2 ^ f.tb < 2 ^ f.eb := Nat.div_lt_of_lt_mul (by rw [← pow_add, add_comm]; exact Nat.mod_lt _ (by positivity))
  rw [IFmt.decode_eq h] at hn ⊢
  split at hn
  · next he =>
    split at hn
    · next ht =>
      have body : f.infPat = f.body v := by
        rw [IFmt.infPat, ← he]
        have := Nat.div_add_mod' (f.body v) (2 ^ f.tb)
        rwa [ht, add_zero] at this
      rw [if_pos he, if_pos ht]
      show (f.signPat (bit v (f.eb + f.tb)) + f.infPat, 0) = (v, 0)
      rw [body, sign]
    · exact absurd hn nofun
  · next he =>
    rw [if_neg he, IFmt.round_bodyMag h (by omega), sign]

end Ieee

/-! ### Magnitudes in order -/

section Order
variable {tb bias body body' : Nat}

/-- Trailing bits below the hidden bit, at least the quantum of a body above. -/
theorem bodyMag_le (h : body ≤ body') : (bodyMag tb bias body).2 ≤ (bodyMag tb bias body').2 ∧
    (bodyMag tb bias body).1 ≤ (bodyMag tb bias body').1 * 2 ^ ((bodyMag tb bias body').2 - (bodyMag tb bias body).2).toNat := by
  have fields := Nat.div_le_div_right (c := 2 ^ tb) h
  have low := Nat.mod_lt body (Nat.two_pow_pos tb)
  by_cases h' : body' / 2 ^ tb = 0
  · rw [bodyMag_sub (Nat.le_zero.mp (h' ▸ fields)), bodyMag_sub h', sub_self, Int.toNat_zero, pow_zero, mul_one]
    exact ⟨le_rfl, h⟩
  · by_cases h0 : body / 2 ^ tb = 0
    · rw [bodyMag_sub h0, bodyMag_normal h']
      have small : body < 2 ^ tb := (Nat.div_eq_zero_iff_lt (by positivity)).mp h0
      generalize body' / 2 ^ tb = e at h'
      refine ⟨by dsimp only; omega, ?_⟩
      exact (small.le.trans (Nat.le_add_right _ _)).trans (Nat.le_mul_of_pos_right _ (by positivity))
    · rw [bodyMag_normal h0, bodyMag_normal h']
      dsimp only
      rcases fields.eq_or_lt with he | hlt
      · have split := Nat.div_add_mod' body (2 ^ tb)
        have split' := Nat.div_add_mod' body' (2 ^ tb)
        rw [he] at split ⊢
        rw [sub_self, Int.toNat_zero, pow_zero, mul_one]
        exact ⟨le_rfl, by omega⟩
      · generalize body' / 2 ^ tb = e' at hlt
        generalize body / 2 ^ tb = e at hlt
        obtain ⟨k, rfl⟩ := Nat.exists_eq_add_of_lt hlt
        have shift : (((e + k + 1 : Nat) : Int) - bias - tb - ((e : Int) - bias - tb)).toNat = k + 1 := by omega
        refine ⟨by omega, ?_⟩
        calc 2 ^ tb + body % 2 ^ tb ≤ 2 ^ tb * 2 := by omega
          _ ≤ 2 ^ tb * 2 ^ (k + 1) := Nat.mul_le_mul_left _ (by rw [pow_succ]; exact Nat.le_mul_of_pos_left _ (by positivity))
          _ ≤ (2 ^ tb + body' % 2 ^ tb) * 2 ^ (k + 1) := Nat.mul_le_mul_right _ (Nat.le_add_right _ _)
          _ = _ := by rw [shift]

/-- A body is not above a greater one. -/
theorem magLt_bodyMag (h : body ≤ body') :
    magLt (bodyMag tb bias body').1 (bodyMag tb bias body').2 (bodyMag tb bias body).1 (bodyMag tb bias body).2 = false := by
  obtain ⟨hq, hm⟩ := bodyMag_le (tb := tb) (bias := bias) h
  unfold magLt
  dsimp only
  rw [min_eq_right hq, sub_self, Int.toNat_zero, pow_zero, mul_one]
  exact decide_eq_false (not_lt.mpr hm)

theorem magLt_zero (m : Nat) (e q : Int) : magLt m e 0 q = false := decide_eq_false (by rw [Nat.zero_mul]; exact Nat.not_lt_zero _)

end Order

/-! ### The narrow formats -/

section Narrow
variable {t : NFmt} {v : Nat}

/-- The body of a code, and its sign. -/
def NFmt.body (t : NFmt) (v : Nat) : Nat := if t.sgn then v % 2 ^ (t.width - 1) else v % 2 ^ t.width
def NFmt.sign (t : NFmt) (v : Nat) : Bool := t.sgn && bit v (t.width - 1)

/-- What the narrow formats have in common. -/
structure NFmt.Fits (t : NFmt) : Prop where
  prec  : 1 ≤ t.p
  wide  : 1 ≤ t.width
  eight : t.b8 = true → t.width = 8
  unsigned : t.sgn = false → t.b8 = true
  top   : ∀ inf, t.sign (t.maxCode inf) = false ∧ t.body (t.maxCode inf) = t.maxCode inf

theorem NFmt.ofCode_fits {c : Nat} (h : 2 ≤ c) (h' : c < 0x13) : (NFmt.ofCode c).Fits := by
  interval_cases c
  all_goals exact ⟨by decide, by decide, by decide, by decide, by decide⟩

theorem NFmt.plain_eq : t.plain v = .fin (t.sign v) (bodyMag (t.p - 1) t.bias (t.body v)).1 (bodyMag (t.p - 1) t.bias (t.body v)).2 := by
  unfold NFmt.plain NFmt.sign bodyMag
  change (if t.body v / _ = 0 then _ else _) = _
  split
  · rfl
  · rfl

theorem NFmt.code_eq {neg : Bool} {m : Nat} {q : Int} (h : m ≠ 0) :
    t.code neg m q = (if (neg && t.sgn) = true then 2 ^ (t.width - 1) else 0) + magBody (t.p - 1) t.bias m q := if_neg h

theorem NFmt.code_zero {neg : Bool} {q : Int} : t.code neg 0 q = if t.b8 = true then 0 else if (neg && t.sgn) = true then 2 ^ (t.width - 1) else 0 :=
  by unfold NFmt.code; exact if_pos rfl

/-- A code is its sign above its body. -/
theorem NFmt.Fits.sign_add_body (ht : t.Fits) (hv : v < 2 ^ t.width) :
    (if (t.sign v && t.sgn) = true then 2 ^ (t.width - 1) else 0) + t.body v = v := by
  unfold NFmt.sign NFmt.body
  cases t.sgn with
  | false => simpa using Nat.mod_eq_of_lt hv
  | true =>
    have top : v / 2 ^ (t.width - 1) < 2 := Nat.div_lt_of_lt_mul (by rw [← pow_succ, Nat.sub_add_cancel ht.wide]; exact hv)
    have split := Nat.div_add_mod v (2 ^ (t.width - 1))
    rw [Bool.true_and, Bool.and_true, if_pos rfl, bit, Nat.testBit_eq_decide_div_mod_eq, Nat.mod_eq_of_lt top]
    generalize v / 2 ^ (t.width - 1) = k at top split
    interval_cases k
    · simpa using split
    · simpa using split

/-- The sign of a code is one of its format's. -/
theorem NFmt.sign_and_sgn : (!t.sgn && t.sign v) = false := by
  unfold NFmt.sign
  cases t.sgn with
  | false => rfl
  | true => rfl

/-- The conversion of a code's own value gives the code (01 R30). -/
theorem NFmt.Fits.toFormat_plain (ht : t.Fits) (hv : v < 2 ^ t.width) {inf : Bool} (hmax : t.body v ≤ t.maxCode inf)
    (hz : t.body v = 0 → t.b8 = false) (c : Nat) (mode : Rnd) : t.toFormat c inf false mode (t.plain v) = (v, 0) := by
  have whole := ht.sign_add_body hv
  obtain ⟨topSign, topBody⟩ := ht.top inf
  have below := magLt_bodyMag (tb := t.p - 1) (bias := t.bias) hmax
  have most : t.plain (t.maxCode inf) = .fin false (bodyMag (t.p - 1) t.bias (t.maxCode inf)).1 (bodyMag (t.p - 1) t.bias (t.maxCode inf)).2 := by
    rw [NFmt.plain_eq, topSign, topBody]
  rw [NFmt.plain_eq (v := v)]
  unfold NFmt.toFormat
  dsimp only
  rw [NFmt.sign_and_sgn, Bool.false_and, if_neg Bool.false_ne_true, most]
  dsimp only
  by_cases h0 : t.body v = 0
  · have hm := (bodyMag_eq_zero (tb := t.p - 1) (bias := t.bias)).mpr h0
    rw [h0] at whole
    rw [hm, (roundMag_zero ..).1, (roundMag_zero ..).2, magLt_zero, if_neg Bool.false_ne_true, if_neg Bool.false_ne_true, NFmt.code_zero, hz h0,
      if_neg Bool.false_ne_true]
    exact congrArg (·, 0) whole
  · have hm := (bodyMag_eq_zero (tb := t.p - 1) (bias := t.bias)).not.mpr h0
    have exact_ := roundMag_bodyMag (tb := t.p - 1) (bias := t.bias) h0 mode (t.sign v)
    rw [Nat.sub_add_cancel ht.prec] at exact_
    rw [show t.emin = 1 - (t.bias : Int) from rfl, exact_]
    dsimp only
    rw [below, if_neg Bool.false_ne_true, if_neg Bool.false_ne_true, NFmt.code_eq hm, magBody_bodyMag, whole]

/-- And that of zero code zero. -/
theorem NFmt.Fits.toFormat_zero (ht : t.Fits) (h8 : t.b8 = true) (c : Nat) (inf : Bool) (mode : Rnd) :
    t.toFormat c inf false mode (.fin false 0 0) = (0, 0) := by
  obtain ⟨topSign, topBody⟩ := ht.top inf
  unfold NFmt.toFormat
  dsimp only
  rw [Bool.and_false, Bool.false_and, if_neg Bool.false_ne_true, NFmt.plain_eq (v := t.maxCode inf)]
  dsimp only
  rw [(roundMag_zero ..).1, (roundMag_zero ..).2, magLt_zero, if_neg Bool.false_ne_true, if_neg Bool.false_ne_true, NFmt.code_zero, h8, if_pos rfl]

/-- A code of binary8 with a sign. -/
theorem NFmt.Fits.toFormat_signed (ht : t.Fits) (h8 : t.b8 = true) (hs : t.sgn = true) (hv : v < 256) {inf : Bool}
    (hn : (t.decode inf v).isNaN = false) (c : Nat) (mode : Rnd) : t.toFormat c inf false mode (t.decode inf v) = (v, 0) := by
  have wide := ht.eight h8
  have body : t.body v = v % 128 := by rw [NFmt.body, hs, if_pos rfl, wide]; rfl
  have most : t.maxCode inf = if inf then 0x7E else 0x7F := by rw [NFmt.maxCode, h8, hs, if_pos rfl, if_pos rfl]
  unfold NFmt.decode at hn ⊢
  rw [h8, hs, Nat.mod_eq_of_lt hv, Bool.not_true, if_neg Bool.false_ne_true] at hn ⊢
  split
  · next h0 => rw [ht.toFormat_zero h8, h0]
  · next h0 =>
    rw [if_neg h0, if_pos rfl] at hn
    rw [if_pos rfl]
    split
    · next h80 => rw [if_pos h80] at hn; exact absurd hn nofun
    · next h80 =>
      split
      · next hp =>
        obtain ⟨hi, hp⟩ := Bool.and_eq_true_iff.mp hp
        rw [beq_iff_eq.mp hp, hi]
        simp [NFmt.toFormat, h8, hs]
      · next hp =>
        split
        · next hq =>
          obtain ⟨hi, hq⟩ := Bool.and_eq_true_iff.mp hq
          rw [beq_iff_eq.mp hq, hi]
          simp [NFmt.toFormat, h8, hs]
        · next hq =>
          rw [Bool.and_eq_true, beq_iff_eq] at hp hq
          refine ht.toFormat_plain (wide ▸ hv) ?_ (fun hz => ?_) c mode
          · rw [body, most]
            split
            · next hi =>
              have notPos : v ≠ 0x7F := fun h => hp ⟨hi, h⟩
              have notNeg : v ≠ 0xFF := fun h => hq ⟨hi, h⟩
              omega
            · omega
          · omega

/-- A code of binary8 without one. -/
theorem NFmt.Fits.toFormat_unsigned (ht : t.Fits) (hs : t.sgn = false) (hv : v < 256) {inf : Bool}
    (hn : (t.decode inf v).isNaN = false) (c : Nat) (mode : Rnd) : t.toFormat c inf false mode (t.decode inf v) = (v, 0) := by
  have h8 := ht.unsigned hs
  have wide := ht.eight h8
  have body : t.body v = v := by rw [NFmt.body, hs, if_neg Bool.false_ne_true, wide]; exact Nat.mod_eq_of_lt hv
  have most : t.maxCode inf = if inf then 0xFD else 0xFE := by rw [NFmt.maxCode, h8, hs, if_pos rfl, if_neg Bool.false_ne_true]
  unfold NFmt.decode at hn ⊢
  rw [h8, hs, Nat.mod_eq_of_lt hv, Bool.not_true, if_neg Bool.false_ne_true] at hn ⊢
  split
  · next h0 => rw [ht.toFormat_zero h8, h0]
  · next h0 =>
    rw [if_neg h0, if_neg Bool.false_ne_true] at hn
    rw [if_neg Bool.false_ne_true]
    split
    · next hff => rw [if_pos hff] at hn; exact absurd hn nofun
    · next hff =>
      split
      · next hp =>
        obtain ⟨hi, hp⟩ := Bool.and_eq_true_iff.mp hp
        rw [beq_iff_eq.mp hp, hi]
        simp [NFmt.toFormat, h8, hs]
      · next hp =>
        rw [Bool.and_eq_true, beq_iff_eq] at hp
        refine ht.toFormat_plain (wide ▸ hv) ?_ (fun hz => absurd (body ▸ hz) h0) c mode
        rw [body, most]
        split
        · next hi =>
          have notInf : v ≠ 0xFE := fun h => hp ⟨hi, h⟩
          omega
        · omega

/-- Every code of a narrow format that is no NaN comes back from what it means. -/
theorem NFmt.Fits.toFormat_decode (ht : t.Fits) (hv : v < 2 ^ t.width) {inf : Bool} (hn : (t.decode inf v).isNaN = false) (c : Nat) (mode : Rnd) :
    t.toFormat c inf false mode (t.decode inf v) = (v, 0) := by
  cases h8 : t.b8 with
  | true =>
    have wide : v < 256 := by rw [ht.eight h8] at hv; exact hv
    cases hs : t.sgn with
    | true => exact ht.toFormat_signed h8 hs wide hn c mode
    | false => exact ht.toFormat_unsigned hs wide hn c mode
  | false =>
    have hs : t.sgn = true := Bool.of_not_eq_false fun hs => absurd (ht.unsigned hs) (by rw [h8]; exact Bool.false_ne_true)
    have plain : t.decode inf v = t.plain v := by rw [NFmt.decode, h8]; rfl
    rw [plain]
    refine ht.toFormat_plain hv ?_ (fun _ => h8) c mode
    rw [NFmt.maxCode, h8, if_neg Bool.false_ne_true, NFmt.body, hs, if_pos rfl]
    exact Nat.le_sub_one_of_lt (Nat.mod_lt _ (by positivity))

end Narrow

/-! ### Elements by format code -/

theorem fcWidth_ofCode {c : Nat} (h : 2 ≤ c) (h' : c < 0x13) : fcWidth c = (NFmt.ofCode c).width := by
  interval_cases c
  all_goals rfl

/-- Every code of a float format that is no NaN comes back from what it means, exactly. -/
theorem fcEncode_fcDecode {c : Nat} (hc : c < 0x13) (inf : Bool) (m : Rnd) {v : Nat} (hv : v < 2 ^ fcWidth c)
    (hn : (fcDecode c inf v).1.isNaN = false) : fcEncode c inf false m (fcDecode c inf v).1 = (v, 0) := by
  unfold fcDecode at hn ⊢
  unfold fcEncode
  split
  · next h0 =>
    subst h0
    rw [if_pos rfl] at hn
    have hw : v < 65536 := hv
    rw [Nat.mod_eq_of_lt hw] at hn ⊢
    exact IFmt.round_decode (by decide) hw hn m
  · next h0 =>
    rw [if_neg h0] at hn
    split
    · next h1 =>
      subst h1
      rw [if_pos rfl] at hn
      have hw : v < 65536 := hv
      rw [Nat.mod_eq_of_lt hw] at hn ⊢
      exact IFmt.round_decode (by decide) hw hn m
    · next h1 =>
      rw [if_neg h1, if_neg (by omega), if_neg (by omega)] at hn
      rw [if_neg (by omega), if_neg (by omega), if_neg (by omega), if_neg (by omega)]
      rw [fcWidth_ofCode (by omega) hc] at hv
      exact (NFmt.ofCode_fits (by omega) hc).toFormat_decode hv hn c m

end Sys2Proof.Machine

/-! # Proofs: conversions, packing and the issue of special functions (05 R110 to R115, R120, 01 R29 to R31) -/

namespace Sys2Proof.Machine

/-! ### Integers -/

theorem clampFlag_eq (x : Int) : clampFlag x (-7) 7 = if 7 < |x| then fNV else 0 := by
  unfold clampFlag
  refine if_congr ?_ rfl rfl
  rw [lt_abs]
  omega

/-- A word's own number wraps to it. -/
theorem wrapI_toNat {n : Nat} (v : BitVec n) : wrapI (v.toNat : Int) n = v.toNat := by
  rw [wrapI_eq_ofInt, BitVec.ofInt_natCast, BitVec.ofNat_toNat, BitVec.setWidth_eq]

/-- An element of INT4, but the stray code, is its number. -/
theorem element_four (a : W) (k : Nat) : element a.toNat 4 k = (a.extractLsb' (4 * k) 4).toNat := by
  rw [element, bits, BitVec.extractLsb'_toNat]
  congr 2
  omega

theorem wrapI_sext_four (e : BitVec 4) : wrapI (sext e.toNat 4) 32 = (e.signExtend 32).toNat := by
  rw [sext_toNat (by decide), wrapI_eq_ofInt, BitVec.signExtend]

section Whole
variable {mode : Rnd} {lo hi : Int}

/-- An integer is not rounded. -/
theorem roundInt_ofInt (k : Int) : roundInt mode (decide (k < 0)) k.natAbs 0 = (k, false) := by
  unfold roundInt
  rw [if_pos le_rfl, Int.toNat_zero, pow_zero, mul_one]
  split
  · next h => rw [decide_eq_true_eq] at h; exact congrArg (·, false) (by omega)
  · next h => rw [decide_eq_true_eq] at h; exact congrArg (·, false) (by omega)

theorem toIntR_ofInt (h : lo ≤ hi) (k : Int) : toIntR mode lo hi (FV.ofInt k) = (max lo (min k hi), if k < lo ∨ hi < k then fNV else 0) := by
  unfold toIntR FV.ofInt
  dsimp only
  rw [roundInt_ofInt]
  dsimp only
  split
  · next hl => rw [if_pos (.inl hl)]; exact congrArg (·, fNV) (by omega)
  · split
    · next hh => rw [if_pos (.inr hh)]; exact congrArg (·, fNV) (by omega)
    · next hl hh => exact Prod.ext (by dsimp only; omega) (if_neg (by omega)).symm

end Whole

/-! ### What cvt writes -/

section Cvt
variable {r : State} {w : Long} {l : Nat}

theorem withFlags_zero (p : Nat × Nat) : withFlags 0 p = p := congrArg (p.1, ·) (Nat.zero_or _)

theorem State.cvtOut_int_float (ht : xType w.x = tF32) (hs : xSub w.x % 32 = tS32) :
    r.cvtOut w l = fp32.round (r.mode (xRnd w.x)) (satOf w.m) (FV.ofInt (r.sq.v w.a.toNat l).toInt) := by
  have whole : r.cvtWhole w l = some ((r.sq.v w.a.toNat l).toInt, 0) := by
    unfold State.cvtWhole
    rw [hs, ← tyVal_tS32]
    rfl
  unfold State.cvtOut
  rw [whole, ht]
  exact withFlags_zero _

theorem State.cvtOut_float_int (ht : xType w.x = tS32) (hs : xSub w.x % 32 = tF32) :
    r.cvtOut w l = ((BitVec.ofInt 32 (toIntR (r.mode (xRnd w.x)) (-(2 ^ 31)) (2 ^ 31 - 1) (modA w.m (f32 (r.sq.v w.a.toNat l)))).1).toNat,
      (toIntR (r.mode (xRnd w.x)) (-(2 ^ 31)) (2 ^ 31 - 1) (modA w.m (f32 (r.sq.v w.a.toNat l)))).2) := by
  have whole : r.cvtWhole w l = none := by
    unfold State.cvtWhole
    rw [hs]
    rfl
  have value : r.cvtFloat w l = (modA w.m (f32 (r.sq.v w.a.toNat l)), 0) := by
    unfold State.cvtFloat
    rw [hs]
    rfl
  unfold State.cvtOut
  rw [whole, value, ht, ← wrapI_eq_ofInt]
  exact withFlags_zero _

theorem State.cvtOut_unsigned_signed (ht : xType w.x = tS32) (hs : xSub w.x % 32 = tN32) (hsat : satOf w.m = false) :
    r.cvtOut w l = ((r.sq.v w.a.toNat l).toNat, 0) := by
  have whole : r.cvtWhole w l = some (((r.sq.v w.a.toNat l).toNat : Int), 0) := by
    unfold State.cvtWhole
    rw [hs, ← tyVal_tN32]
    rfl
  unfold State.cvtOut
  rw [whole, ht, hsat]
  show (wrapI (tyVal tS32 (wrapI ((r.sq.v w.a.toNat l).toNat : Int) 32)) 32, 0) = _
  rw [wrapI_toNat, tyVal_tS32, wrapI_eq_ofInt, BitVec.ofInt_toInt]

theorem State.cvtOut_fm (ht : xType w.x = tFM) (hs : xSub w.x % 32 = tF32) : r.cvtOut w l = r.toFm (modA w.m (f32 (r.sq.v w.a.toNat l))) := by
  have whole : r.cvtWhole w l = none := by
    unfold State.cvtWhole
    rw [hs]
    rfl
  have value : r.cvtFloat w l = (modA w.m (f32 (r.sq.v w.a.toNat l)), 0) := by
    unfold State.cvtFloat
    rw [hs]
    rfl
  unfold State.cvtOut
  rw [whole, value, ht]
  exact withFlags_zero _

end Cvt

theorem State.issue_hold {s : State} {f : Form} (h : s.Goes f) {body : State → Res} (hb : body (s.atIssue f) = .hold) :
    s.issue f body = .next (s.ready f) := by
  rw [State.issue_goes h, hb]
  rfl

theorem exec_cvt (w : Long) (s : State) : exec (.cvt w) s = s.issueLong false 0x080 w (fun r => .done (r.laneOp (xType w.x) w.d.toNat (r.cvtOut w))) := rfl

theorem exec_npack (w : Long) (s : State) : exec (.npack w) s = s.issueLong false 0x081 w (fun r => .done (r.laneOp tB32 w.d.toNat (fun l =>
    (putPair (fcWidth (fmtA r.fmtNow)) (2 * xSub w.x) (r.sq.v w.d.toNat l).toNat (r.toFm (modA w.m (f32 (r.sq.v w.a.toNat l)))).1
        (r.toFm (modB w.m (f32 (r.bw w l)))).1,
      (r.toFm (modA w.m (f32 (r.sq.v w.a.toNat l)))).2 ||| (r.toFm (modB w.m (f32 (r.bw w l)))).2)))) := rfl

/-- What nunpack reads. -/
def State.packed (r : State) (w : Long) (l : Nat) : FV × Nat :=
  fcDecode (fmtA r.fmtNow) (fmtInf r.fmtNow) (element (r.sq.v w.a.toNat l).toNat (fcWidth (fmtA r.fmtNow)) (xSub w.x))

theorem exec_nunpack (w : Long) (s : State) : exec (.nunpack w) s = s.issueLong false 0x082 w (fun r => .done (r.laneOp tB32 w.d.toNat (fun l =>
    withFlags (r.packed w l).2 (fp32.round .rne false (r.packed w l).1)))) := rfl

theorem exec_ipack4 (w : Long) (s : State) : exec (.ipack4 w) s = s.issueLong false 0x083 w (fun r => .done (r.laneOp tB32 w.d.toNat (fun l =>
    (putPair 4 (2 * xSub w.x) (r.sq.v w.d.toNat l).toNat (wrapI (clampI (r.sq.v w.a.toNat l).toInt (-7) 7) 4)
        (wrapI (clampI (r.bw w l).toInt (-7) 7) 4),
      clampFlag (r.sq.v w.a.toNat l).toInt (-7) 7 ||| clampFlag (r.bw w l).toInt (-7) 7)))) := rfl

theorem exec_iunpack4 (w : Long) (s : State) : exec (.iunpack4 w) s = s.issueLong false 0x084 w (fun r => .done (r.laneOp tB32 w.d.toNat (fun l =>
    if element (r.sq.v w.a.toNat l).toNat 4 (xSub w.x) = 8 then (0, fNVX)
    else (wrapI (sext (element (r.sq.v w.a.toNat l).toNat 4 (xSub w.x)) 4) 32, 0)))) := rfl

theorem exec_sclcalc (w : Long) (s : State) : exec (.sclcalc w) s = s.issueLong false 0x085 w (fun r => .done (r.laneOp tB32 w.d.toNat (fun l =>
    scaleOf r.fmtNow (f32 (r.sq.v w.a.toNat l))))) := rfl

/-! ### The pipe of the special functions -/

section Pipe
variable {s r : State} {w : Long} {op9 d : Nat} {lut : Option (Nat × Bool)} {f : Nat → W × Nat}

/-- What enters the pipe with the results of an instruction, computed at issue. -/
def State.sfuEntry (r : State) (d : Nat) (lut : Option (Nat × Bool)) (f : Nat → W × Nat) : State :=
  ({ r with sfu := r.sfu ++ [⟨r.sq.cache, r.sq.sub, r.sq.id, ⟨r.sq.cur, r.sq.handler, r.lanes,
      [⟨d, r.lanes, (List.range 32).map (fun l => if r.lanes.getLsbD l then (f l).1 else 0)⟩],
      BitVec.ofNat 32 (flagsOver r.lanes (fun l => (f l).2)), r.sq.due⟩, lut⟩] } : State).modSq (fun q => { q with due := 0 })

theorem State.sfuOp_room (h : r.pipeLen < 8) : r.sfuOp d lut f = .piped (r.sfuEntry d lut f) := if_neg (not_le.mpr h)
theorem State.sfuOp_full (h : 8 ≤ r.pipeLen) : r.sfuOp d lut f = .hold := if_pos h

theorem special_runs {i : Long → Instr} {fn : Nat} (hx : ∀ w s, exec (i w) s = s.issueLong false op9 w (fun s => s.specialOp fn w))
    (hgo : s.Goes (s.formLong false op9 w)) (hr : r = s.atIssue (s.formLong false op9 w)) :
    (r.pipeLen < 8 → exec (i w) s = .next (s.moved 8 (r.sfuEntry w.d.toNat none (fun l => sfuFn fn (modW w.m (r.sq.v w.a.toNat l)))))) ∧
    (8 ≤ r.pipeLen → exec (i w) s = .next (s.ready (s.formLong false op9 w))) := by
  subst hr
  rw [hx]
  exact ⟨fun h => State.issue_piped hgo (State.sfuOp_room h), fun h => State.issue_hold hgo (State.sfuOp_full h)⟩

/-- The body of luteval. -/
def State.lutevalRes (r : State) (w : Long) : Res :=
  match r.heldPair with
  | some p => r.sfuOp w.d.toNat (some (r.sq.team, p.sel)) (fun l => lutEval (if p.sel then p.bank1 else p.bank0) (modW w.m (r.sq.v w.a.toNat l)))
  | none => r.sfuOp w.d.toNat none (fun _ => (w32 fp32.nanPat, fNV))

theorem exec_luteval (w : Long) (s : State) : exec (.luteval w) s = s.issueLong false 0x0CA w (fun s => s.lutevalRes w) := rfl

theorem luteval_runs {p : LutPair} (hgo : s.Goes (s.formLong false 0x0CA w)) (hr : r = s.atIssue (s.formLong false 0x0CA w))
    (hp : r.heldPair = some p) (h : r.pipeLen < 8) : exec (.luteval w) s = .next (s.moved 8 (r.sfuEntry w.d.toNat (some (r.sq.team, p.sel))
      (fun l => lutEval (if p.sel then p.bank1 else p.bank0) (modW w.m (r.sq.v w.a.toNat l))))) := by
  subst hr
  rw [exec_luteval]
  exact State.issue_piped hgo (by rw [State.lutevalRes, hp]; exact State.sfuOp_room h)

end Pipe

/-! ### Values -/

theorem sfuFn_values : sfuFn 0 0 = (0x7F800000, fDZ) ∧ sfuFn 0 0x80000000 = (0xFF800000, fDZ) ∧ sfuFn 0 0x7F800000 = (0, 0) ∧
    sfuFn 1 0 = (0x7F800000, fDZ) ∧ sfuFn 2 0x80000000 = (0x80000000, 0) ∧ sfuFn 2 0xBF800000 = (0x7FC00000, fNV) ∧ sfuFn 3 0 = (0x3F800000, 0) ∧
    sfuFn 4 0 = (0xFF800000, fDZ) ∧ sfuFn 4 0x3F800000 = (0, 0) ∧ sfuFn 5 0x7F800000 = (0x7FC00000, fNV) ∧ sfuFn 6 0 = (0x3F800000, 0) ∧
    sfuFn 2 0x40800000 = (0x40000000, 0) := by decide

theorem fcEncode_table : ∀ p ∈ [(0x3E99999A, 0x39, 0x39, 0x39, 0x39, fNX, fNX), (0x47435000, 0x7E, 0x7E, 0x7E, 0x7E, fNX, fNX),
      (0x476A6000, 0x7F, 0x7E, 0x7F, 0x7F, fOF ||| fNX, fNX), (0xB58637BD, 0, 0, 0, 0, fUF ||| fNX, fUF ||| fNX), (0x80000000, 0, 0, 0, 0, 0, 0),
      (0x7F800000, 0x7F, 0x7E, 0x80, 0x7F, 0, fNV), (0x7FC00000, 0x80, 0x80, 0x80, 0x80, 0, 0)],
    fcEncode 4 true false .rne (fp32.decode p.1) = (p.2.1, p.2.2.2.2.2.1) ∧ fcEncode 4 true true .rne (fp32.decode p.1) = (p.2.2.1, p.2.2.2.2.2.1) ∧
    fcEncode 4 false false .rne (fp32.decode p.1) = (p.2.2.2.1, p.2.2.2.2.2.2) ∧
    (fcEncode 4 false true .rne (fp32.decode p.1)).1 = p.2.2.2.2.1 := by decide

/-- Settles O26: results lane by lane, codes by the round trip of their formats, and the pipe by its room. -/
theorem conversionsAndSfu : Obligations.ConversionsAndSfu := by
  refine ⟨laneOp_longRuns exec_cvt (fun _ _ _ _ => rfl), laneOp_longRuns exec_npack (fun _ _ _ _ => rfl),
    laneOp_longRuns exec_nunpack (fun _ _ _ _ => rfl), laneOp_longRuns exec_ipack4 (fun w r l _ => ?_),
    laneOp_longRuns exec_iunpack4 (fun w r l _ => ?_), laneOp_longRuns exec_sclcalc (fun _ _ _ _ => rfl), fun _ _ => rfl,
    fun _ hc inf m _ hv hn => fcEncode_fcDecode hc inf m hv hn, fcEncode_table, fun _ _ _ _ => ⟨rfl, rfl⟩, fun _ _ _ k h => toIntR_ofInt h k,
    fun _ _ _ => State.cvtOut_int_float, fun _ _ _ _ ht hs hi => hi ▸ State.cvtOut_float_int ht hs, fun _ _ _ => State.cvtOut_unsigned_signed,
    fun _ _ _ => State.cvtOut_fm, fun _ _ => ⟨rfl, rfl, rfl⟩, fun i hi w s r hgo hr => ?_, fun _ _ _ _ => luteval_runs, sfuFn_values⟩
  · rw [clampFlag_eq, clampFlag_eq, clampI_eq _ (by decide), clampI_eq _ (by decide), wrapI_eq_ofInt, wrapI_eq_ofInt]
  · rw [element_four, wrapI_sext_four]
    exact if_congr (by rw [← BitVec.toNat_inj]; rfl) rfl rfl
  · simp only [List.mem_cons, List.not_mem_nil, or_false] at hi
    rcases hi with rfl | rfl | rfl | rfl | rfl | rfl | rfl
    · exact special_runs (fun _ _ => rfl) hgo hr
    · exact special_runs (fun _ _ => rfl) hgo hr
    · exact special_runs (fun _ _ => rfl) hgo hr
    · exact special_runs (fun _ _ => rfl) hgo hr
    · exact special_runs (fun _ _ => rfl) hgo hr
    · exact special_runs (fun _ _ => rfl) hgo hr
    · exact special_runs (fun _ _ => rfl) hgo hr

end Sys2Proof.Machine
